-- ==== Sys2Proof/Word.lean ====
section
/-! DEFINITION. The words the registers and packets of the block are made of. -/

namespace Sys2Proof

/-- A 32-bit word: every register and every packet word (R3). -/
abbrev Word := BitVec 32

/-- A byte of memory, of a frame or of a bus transfer. -/
abbrev Byte := BitVec 8

/-- The word whose value is a number modulo 2^32. -/
abbrev Word.ofNat (n : Nat) : Word := BitVec.ofNat 32 n

end Sys2Proof
end

