-- ==== Sys2Proof/Syntax.lean ====
section
/-! DEFINITION. The commands the block takes from outside, one for each row of the command table, and the facts of the
outside world that some of them carry. -/

namespace Sys2Proof

/-- How a read of a memory with an error-correcting code fared at one address. -/
inductive ErrKind where
  /-- A symbol was corrected on the fly (R150, R173). -/
  | symbol
  /-- A row-level correction was needed (R173). -/
  | row
  /-- The burst or word is uncorrectable (R151, R175). -/
  | uncorr
  /-- A line of the Commons cache part in front of the burst was corrected (R150). -/
  | lineSymbol
  /-- A line of the cache part was uncorrectable, invalidated and read again from PSM (R151). -/
  | lineUncorr
deriving DecidableEq, Repr, Inhabited

/-- An error that a read of memory meets: its device physical address and its kind. -/
structure MemErr where
  /-- Device physical address of the burst or word. -/
  addr : Nat
  /-- How it was corrected, or that it was not. -/
  kind : ErrKind
deriving DecidableEq, Repr, Inhabited

/-- What the hardware meets while a list command runs. -/
structure Env where
  /-- Errors of the reads it makes. -/
  errs : List MemErr := []
  /-- Reads of PSM that came later than the allowance (R171). -/
  late : Nat := 0
  /-- Output rows whose residue check fails (R121). -/
  residue : List Nat := []
  /-- RELAXED choices made on timing (R125). -/
  relaxed : Nat := 0
  /-- ECLK cycles with the spar array active (R99). -/
  spar : Nat := 0
  /-- Bytes the peer returns for reads of a scale stream in the remote window, in order (R398); a read beyond them comes back
  uncorrectable (R146). -/
  remote : List Byte := []
deriving DecidableEq, Repr, Inhabited

/-- The end of link training and mutual authentication, as the peer and the lanes make it (R394). -/
structure PeerAuth where
  /-- Working lanes in lock within 50 ms: 16, 8, or fewer where training failed. -/
  lanes : Nat := 0
  /-- The side the peer names. -/
  side : Bool := false
  /-- The nonce this part sent. -/
  nonce : List Byte := []
  /-- The peer's signature over it. -/
  sig : List Byte := []
  /-- The peer refused this part's own signature. -/
  refused : Bool := false
deriving DecidableEq, Repr, Inhabited

/-- The peer's request for a twin mode, and the facts of the peer that R397 compares. -/
structure PeerFacts where
  /-- Mode asked for. -/
  mode : Nat := 0
  /-- The peer asks to be ACTIVE. -/
  active : Bool := false
  /-- Signature blocks in force on the peer's Plinth, by object. -/
  sigs : List (Nat × List Word) := []
  /-- The peer's action plan is ACTIVE. -/
  planActive : Bool := false
  /-- Its period, ns. -/
  period : Nat := 0
  /-- Its phase, ns. -/
  phase : Nat := 0
  /-- CRC-32C of its image. -/
  crc : Word := 0
  /-- Mode of the peer's Plinth. -/
  plnMode : Nat := 0
  /-- SPLIT pairs as the peer names them: its local context and its peer context. -/
  pairs : List (Nat × Nat) := []
  /-- A context named on the peer is RELAXED, a TT context or has an allocation at or above 0x4000_0000_0000. -/
  unfit : Bool := false
deriving DecidableEq, Repr, Inhabited

/-- What boot finds and does that the model's state does not hold: the images' checks, PSM training and the access
tables the BOOT master writes (R430, R431). -/
structure BootFacts where
  /-- The active compute slot passes the checks of t3. -/
  activeOk : Bool := true
  /-- The other compute slot passes them. -/
  otherOk : Bool := true
  /-- The channel on which PSM training failed, if it did. -/
  trainFail : Option (Fin 96) := none
  /-- fwver of the image that runs, where the slot was programmed before delivery. -/
  fwver : Word := 0
  /-- Access-table entries: number, base, space, limit, read mask, write mask. -/
  table : List (Nat × Nat × Nat × Nat × Nat × Nat) := []
deriving DecidableEq, Repr, Inhabited

/-- A Sync of a domain with what the protocol firmware knows of it (R291, R293, R294). Times are in units of
2^-16 ns. -/
structure SyncFacts where
  /-- Port it arrived on. -/
  port : Fin 4 := 0
  /-- Origin time, in the domain's time. -/
  origin : Nat := 0
  /-- Sum of the correction fields. -/
  correction : Int := 0
  /-- Mean link delay of the path. -/
  delay : Nat := 0
  /-- Receive stamp in Halyard time, before HAL_Pp_RXLAT. -/
  stamp : Nat := 0
deriving DecidableEq, Repr, Inhabited

/-- An Announce with the outcome of the best-master algorithm, which runs in firmware (R290, R297). -/
structure AnnounceFacts where
  /-- 0: no change of master; 1: a master was chosen; 2: the device is the grandmaster. -/
  choice : Nat := 0
  /-- Grandmaster clockIdentity. -/
  gm : Nat := 0
  /-- Its clockClass. -/
  gmClass : Nat := 0
  /-- stepsRemoved. -/
  steps : Nat := 0
  /-- currentUtcOffset. -/
  utc : Nat := 0
  /-- currentUtcOffsetValid. -/
  utcValid : Bool := false
deriving DecidableEq, Repr, Inhabited

/-- A frame from the tool on the service port (R439). -/
structure SvpFrame where
  /-- Flags. -/
  flags : Nat := 0
  /-- Sequence number. -/
  seq : Nat := 0
  /-- Payload. -/
  payload : List Byte := []
  /-- Its CRC and its codes are good. -/
  ok : Bool := true
deriving DecidableEq, Repr, Inhabited

/-- A register write as it comes: the word, the width of the access in bytes, and the bits of the register that hardware
sets in the same cycle (R4, R8). -/
structure RegData where
  /-- Word written. -/
  value : Word := 0
  /-- Width of the access, bytes. -/
  len : Nat := 4
  /-- Bits that hardware sets in the same cycle. -/
  same : Word := 0
deriving DecidableEq, Repr, Inhabited

/-- A register read as it comes: its width, and what hardware counts or sets in the same cycle (R4, R8). -/
structure RegTake where
  /-- Width of the access, bytes. -/
  len : Nat := 4
  /-- Events of the same cycle. -/
  same : Nat := 0
deriving DecidableEq, Repr, Inhabited

/-- Where a read starts and how wide it is (R4). -/
structure RegSpan where
  /-- Offset. -/
  off : Nat := 0
  /-- Width of the access, bytes. -/
  len : Nat := 4
deriving DecidableEq, Repr, Inhabited

/-- The header of a CSI short packet (R249, R250). -/
structure CsiHead where
  /-- Virtual channel. -/
  vc : Fin 16 := 0
  /-- What its code says: 0 good, 1 corrected, 2 uncorrectable. -/
  ecc : Nat := 0
deriving DecidableEq, Repr, Inhabited

/-- How a frame arrived (R288, R294). -/
structure FrameTail where
  /-- Its FCS is good. -/
  fcsOk : Bool := true
  /-- Half nanoseconds from the HCLK edge to its start. -/
  phase : Fin 8 := 0
deriving DecidableEq, Repr, Inhabited

/-- Where and when a frame leaves (R288, R294). -/
structure FrameHead where
  /-- Port. -/
  port : Fin 4 := 0
  /-- Half nanoseconds from the HCLK edge to its start. -/
  phase : Fin 8 := 0
deriving DecidableEq, Repr, Inhabited

/-- What a replay on a memory link comes to (R176). -/
structure LinkReplay where
  /-- The replay passed. -/
  ok : Bool := true
  /-- Reads outstanding on the channel: engine, queue and index of the command. -/
  reads : List (Nat × Nat × Nat) := []
deriving DecidableEq, Repr, Inhabited

/-- A swap out and what its reads meet (R175, R245). -/
structure SwapMet where
  /-- Sequence. -/
  seq : Nat := 0
  /-- Errors of the reads. -/
  errs : List MemErr := []
deriving DecidableEq, Repr, Inhabited

/-- A completion over the Shroud link (R395, R398). -/
structure LinkData where
  /-- The data; none where the peer's is uncorrectable. -/
  data : List Byte := []
  /-- Frames that this part replayed for the read. -/
  replays : Nat := 0
deriving DecidableEq, Repr, Inhabited

/-- What the save of a context meets (R121, R175, R379). -/
structure SaveMet where
  /-- Errors of the reads. -/
  errs : List MemErr := []
  /-- Rows of hold sets whose residues fail. -/
  residue : List Nat := []
deriving DecidableEq, Repr, Inhabited


/-- One command of the block: one constructor for each row of the command table, its docstring naming the rule. -/
inductive Instr where
  /-- SLOT_WRITE (R37). -/
  | slotWrite (ap : Fin 16) (off : Nat) (ws : List Word) (full : Bool)
  /-- PACKET_INTAKE (R38). -/
  | packetIntake (ap : Fin 16) (slot : Fin 3)
  /-- REFUSAL_REPLY (R38). -/
  | refusalReply (ap : Fin 16) (slot : Fin 3)
  /-- REPLY_RECORD_WRITE (R50). -/
  | replyRecordWrite (ring : Fin 64)
  /-- MODERATION_TIMER_EXPIRY (R34). -/
  | moderationTimerExpiry (ring : Fin 64)
  /-- MSIX_VECTOR_UNMASK (R34). -/
  | msixVectorUnmask (v : Fin 64)
  /-- D3HOT_ENTRY (R30). -/
  | d3hotEntry
  /-- D0_RETURN (R30). -/
  | d0Return
  /-- FLR (R30). -/
  | flr
  /-- LINK_DOWN (R30). -/
  | linkDown
  /-- PERST (R466). -/
  | perst
  /-- POISONED_TLP_RECEIVE (R29). -/
  | poisonedTlpReceive (ap : Option (Fin 16))
  /-- BAR2_READ (R32). -/
  | bar2Read (off : Nat) (len : Nat) (errs : List MemErr)
  /-- BAR2_WRITE (R32). -/
  | bar2Write (off : Nat) (data : List Byte)
  /-- BAR2_RESIZE (R32). -/
  | bar2Resize (size : Nat)
  /-- HIF_AP_HEAD_WRITE (R50). -/
  | hifApHeadWrite (ap : Fin 16) (k : Fin 4) (v : Word)
  /-- REGISTER_WRITE (R7). -/
  | registerWrite (m : Fin 64) (off : Nat) (v : RegData)
  /-- RC_FIELD_READ (R8). -/
  | rcFieldRead (m : Fin 64) (off : Nat) (same : RegTake)
  /-- NOP (R48). -/
  | nop (k : Nat)
  /-- DEV_INFO (R55). -/
  | devInfo (k : Nat)
  /-- DEV_RING_SET (R57). -/
  | devRingSet (k : Nat)
  /-- DEV_RING_CLEAR (R58). -/
  | devRingClear (k : Nat)
  /-- DEV_REEF_SET (R471). -/
  | devReefSet (k : Nat)
  /-- DEV_STATS (R56). -/
  | devStats (k : Nat)
  /-- DEV_FAULT_READ (R366). -/
  | devFaultRead (k : Nat)
  /-- DEV_SHUTDOWN (R445). -/
  | devShutdown (k : Nat)
  /-- DEV_RESET_COMPUTE (R468). -/
  | devResetCompute (k : Nat)
  /-- CORE_RESET_DELAY (R468). -/
  | coreResetDelay
  /-- DEV_CLIENT_CFG (R370). -/
  | devClientCfg (k : Nat)
  /-- PART_CREATE (R60). -/
  | partCreate (k : Nat)
  /-- PART_RESIZE (R61). -/
  | partResize (k : Nat)
  /-- PART_DELETE (R62). -/
  | partDelete (k : Nat)
  /-- CTX_CREATE (R371). -/
  | ctxCreate (k : Nat)
  /-- CTX_DESTROY (R63). -/
  | ctxDestroy (k : Nat)
  /-- CONTEXT_SCRUB_COMPLETE (R63). -/
  | contextScrubComplete (ctx : Fin 64)
  /-- CTX_SUSPEND (R388). -/
  | ctxSuspend (k : Nat)
  /-- CTX_RESUME (R388). -/
  | ctxResume (k : Nat)
  /-- CTX_MODE_SET (R126). -/
  | ctxModeSet (k : Nat)
  /-- CTX_QUERY (R389). -/
  | ctxQuery (k : Nat)
  /-- MEM_ALLOC (R180). -/
  | memAlloc (k : Nat)
  /-- MEM_FREE (R181). -/
  | memFree (k : Nat)
  /-- MEM_SCRUB_COMPLETE (R181). -/
  | memScrubComplete (ctx : Fin 64) (va : Nat)
  /-- MEM_MAP_HOST (R182). -/
  | memMapHost (k : Nat)
  /-- MEM_UNMAP (R181). -/
  | memUnmap (k : Nat)
  /-- MEM_COPY (R183). -/
  | memCopy (k : Nat)
  /-- MEM_FILL (R183). -/
  | memFill (k : Nat)
  /-- TRANSFER_COMPLETE (R183). -/
  | transferComplete (id : Nat) (errs : List MemErr) (remote : List Byte)
  /-- CLEAT_ALLOC (R154). -/
  | cleatAlloc (k : Nat)
  /-- CLEAT_ALLOC_RETRY (R154). -/
  | cleatAllocRetry (e : Fin 8)
  /-- CLEAT_RELEASE (R156). -/
  | cleatRelease (k : Nat)
  /-- CLEAT_SCRUB_COMPLETE (R158). -/
  | cleatScrubComplete (e : Fin 8)
  /-- RESIDUE_HOLD_EXPIRY (R159). -/
  | residueHoldExpiry (e : Fin 8)
  /-- XLT_FAULT_REPLY (R188). -/
  | xltFaultReply (k : Nat)
  /-- XLT_FAULT_TIMEOUT (R190). -/
  | xltFaultTimeout (ctx : Fin 64) (id : Nat)
  /-- COMMONS_SPLIT (R163). -/
  | commonsSplit (k : Nat)
  /-- COMMONS_SPLIT_COMPLETE (R163). -/
  | commonsSplitComplete
  /-- PREFETCH_CFG (R165). -/
  | prefetchCfg (k : Nat)
  /-- JOB_SUBMIT (R73). -/
  | jobSubmit (k : Nat)
  /-- JOB_CANCEL (R94). -/
  | jobCancel (k : Nat)
  /-- JOB_QUERY (R97). -/
  | jobQuery (k : Nat)
  /-- JOB_STATS (R99). -/
  | jobStats (k : Nat)
  /-- FENCE_SIGNAL (R97). -/
  | fenceSignal (k : Nat)
  /-- FENCE_WAIT (R97). -/
  | fenceWait (k : Nat)
  /-- SEQ_OPEN (R219). -/
  | seqOpen (k : Nat)
  /-- SEQ_CLOSE (R222). -/
  | seqClose (k : Nat)
  /-- KV_PAGE_SCRUB_COMPLETE (R222). -/
  | kvPageScrubComplete (idx : Nat)
  /-- SEQ_STEP (R231). -/
  | seqStep (k : Nat)
  /-- STEP_END (R240). -/
  | stepEnd (step : Nat)
  /-- SEQ_PREEMPT (R245). -/
  | seqPreempt (k : Nat)
  /-- SWAP_OUT_COMPLETE (R245). -/
  | swapOutComplete (seq : SwapMet)
  /-- SEQ_RESTORE (R246). -/
  | seqRestore (k : Nat)
  /-- SWAP_IN_COMPLETE (R246). -/
  | swapInComplete (seq : Nat)
  /-- SEQ_FORK (R221). -/
  | seqFork (k : Nat)
  /-- KV_BUCKETS_SET (R232). -/
  | kvBucketsSet (k : Nat)
  /-- KV_DIR_QUERY (R227). -/
  | kvDirQuery (k : Nat)
  /-- STREAM_OPEN (R253). -/
  | streamOpen (k : Nat)
  /-- STREAM_CLOSE (R278). -/
  | streamClose (k : Nat)
  /-- STREAM_START (R257). -/
  | streamStart (k : Nat)
  /-- STREAM_STOP (R279). -/
  | streamStop (k : Nat)
  /-- STREAM_STOP_COMPLETE (R279). -/
  | streamStopComplete (stream : Fin 32)
  /-- STREAM_RESUME (R278). -/
  | streamResume (k : Nat)
  /-- STREAM_SKIP (R278). -/
  | streamSkip (k : Nat)
  /-- MESH_LOAD (R265). -/
  | meshLoad (k : Nat)
  /-- JPEG_DECODE (R269). -/
  | jpegDecode (k : Nat)
  /-- JPEG_DECODE_COMPLETE (R270). -/
  | jpegDecodeComplete (stream : Fin 32)
  /-- HAL_CFG (R300). -/
  | halCfg (k : Nat)
  /-- HAL_QUERY (R301). -/
  | halQuery (k : Nat)
  /-- PLAN_LOAD (R305). -/
  | planLoad (k : Nat)
  /-- PLAN_ACTIVATE (R310). -/
  | planActivate (k : Nat)
  /-- PLAN_START_INSTANT (R310). -/
  | planStartInstant (slot : Fin 8)
  /-- PLAN_DEACTIVATE (R313). -/
  | planDeactivate (k : Nat)
  /-- PLAN_UNLOAD (R314). -/
  | planUnload (k : Nat)
  /-- PLAN_QUERY (R314). -/
  | planQuery (k : Nat)
  /-- QBV_CFG (R299). -/
  | qbvCfg (k : Nat)
  /-- QBV_LIST_CHANGE (R299). -/
  | qbvListChange (port : Fin 4)
  /-- QBV_GATE_EVENT (R299). -/
  | qbvGateEvent (port : Fin 4)
  /-- PLN_STATUS (R368). -/
  | plnStatus (k : Nat)
  /-- PLN_FAULT_READ (R366). -/
  | plnFaultRead (k : Nat)
  /-- TRIM_TRACE_READ (R339). -/
  | trimTraceRead (k : Nat)
  /-- PLN_CONFIG (R347). -/
  | plnConfig (k : Nat)
  /-- PLN_MODE_SET (R346). -/
  | plnModeSet (k : Nat)
  /-- TRIM_TRACE_CFG (R338). -/
  | trimTraceCfg (k : Nat)
  /-- TWIN_LINK_UP (R394). -/
  | twinLinkUp (k : Nat)
  /-- TWIN_TRAINING_COMPLETE (R394). -/
  | twinTrainingComplete (peer : PeerAuth)
  /-- TWIN_MODE_SET (R396). -/
  | twinModeSet (k : Nat)
  /-- TWIN_PEER_MODE_REQUEST (R396). -/
  | twinPeerModeRequest (peer : PeerFacts)
  /-- TWIN_MODE_TIMEOUT (R396). -/
  | twinModeTimeout
  /-- TWIN_QUERY (R409). -/
  | twinQuery (k : Nat)
  /-- TWIN_HANDOVER (R408). -/
  | twinHandover (k : Nat) (peerEligible : Bool)
  /-- SEC_ATTEST (R429). -/
  | secAttest (k : Nat)
  /-- UPD_OPEN (R437). -/
  | updOpen (k : Nat)
  /-- UPD_BLOCK (R437). -/
  | updBlock (k : Nat)
  /-- UPD_BLOCK_PROGRAMMED (R437). -/
  | updBlockProgrammed (ok : Bool)
  /-- UPD_VERIFY (R437). -/
  | updVerify (k : Nat)
  /-- UPD_ACTIVATE (R438). -/
  | updActivate (k : Nat)
  /-- UPD_ACTIVATE_INSTANT (R438). -/
  | updActivateInstant
  /-- UPD_ABORT (R437). -/
  | updAbort (k : Nat)
  /-- UPD_QUERY (R437). -/
  | updQuery (k : Nat)
  /-- LC_TRANSITION (R426). -/
  | lcTransition (k : Nat)
  /-- DBG_SESSION (R427). -/
  | dbgSession (k : Nat)
  /-- TEST_RUN (R450). -/
  | testRun (k : Nat)
  /-- TEST_BLOCK_COMPLETE (R446). -/
  | testBlockComplete (b : Fin 22) (ok : Bool) (dur : Nat) (loc : Nat) (sig : Word)
  /-- TEST_RESULT (R451). -/
  | testResult (k : Nat)
  /-- LOOPBACK_SET (R459). -/
  | loopbackSet (k : Nat)
  /-- TEST_ROTATE_CFG (R456). -/
  | testRotateCfg (k : Nat)
  /-- CMD_NOP (R77). -/
  | cmdNop (e : Fin 8) (q : Fin 5) (i : Nat)
  /-- CMD_FENCE_SIGNAL (R91). -/
  | cmdFenceSignal (e : Fin 8) (q : Fin 5) (i : Nat)
  /-- CMD_FENCE_WAIT (R78). -/
  | cmdFenceWait (e : Fin 8) (q : Fin 5) (i : Nat)
  /-- LAUNCH_WAIT (R78). -/
  | launchWait (e : Fin 8) (q : Fin 5) (i : Nat)
  /-- LAUNCH_WAIT_EXPIRY (R78). -/
  | launchWaitExpiry (e : Fin 8) (q : Fin 5) (i : Nat)
  /-- LOAD (R79). -/
  | load (e : Fin 8) (q : Fin 5) (i : Nat) (env : Env)
  /-- STORE (R79). -/
  | store (e : Fin 8) (q : Fin 5) (i : Nat) (env : Env)
  /-- FILL (R81). -/
  | fill (e : Fin 8) (q : Fin 5) (i : Nat) (env : Env)
  /-- MATMUL (R82). -/
  | matmul (e : Fin 8) (q : Fin 5) (i : Nat) (env : Env)
  /-- CONV (R85). -/
  | conv (e : Fin 8) (q : Fin 5) (i : Nat) (env : Env)
  /-- ATTENTION (R238). -/
  | attention (e : Fin 8) (q : Fin 5) (i : Nat) (env : Env)
  /-- KV_APPEND (R234). -/
  | kvAppend (e : Fin 8) (q : Fin 5) (i : Nat) (env : Env)
  /-- VECTOR (R87). -/
  | vector (e : Fin 8) (q : Fin 5) (i : Nat) (env : Env)
  /-- TRANSFORM (R88). -/
  | transform (e : Fin 8) (q : Fin 5) (i : Nat) (env : Env)
  /-- CHISEL (R89). -/
  | chisel (e : Fin 8) (q : Fin 5) (i : Nat) (env : Env)
  /-- COMMAND_COMPLETE (R92). -/
  | commandComplete (e : Fin 8) (q : Fin 5) (i : Nat)
  /-- PATROL_READ (R177). -/
  | patrolRead (addr : Nat) (errs : List MemErr)
  /-- PSM_LINK_CRC_FAIL (R176). -/
  | psmLinkCrcFail (chan : Fin 96) (ok : LinkReplay)
  /-- PERIOD_INSTANT (R311). -/
  | periodInstant (slot : Fin 8)
  /-- LAUNCH_LIST (R71). -/
  | launchList (slot : Fin 8) (point : Nat)
  /-- TQ_PENDING_START (R71). -/
  | tqPendingStart (e : Fin 8)
  /-- LAUNCH_MOVER (R317). -/
  | launchMover (slot : Fin 8) (point : Nat)
  /-- MOVER_DEP_START (R317). -/
  | moverDepStart (slot : Fin 8) (point : Nat)
  /-- MAILBOX_WRITE (R318). -/
  | mailboxWrite (data : List Byte) (crcOk : Bool)
  /-- LAUNCH_SAMPLE (R260). -/
  | launchSample (slot : Fin 8) (point : Nat)
  /-- LAUNCH_TELLTALE (R320). -/
  | launchTelltale (slot : Fin 8) (point : Nat)
  /-- TELLTALE_WINDOW_END (R320). -/
  | telltaleWindowEnd (slot : Fin 8) (point : Nat)
  /-- LAUNCH_SELFTEST (R453). -/
  | launchSelftest (slot : Fin 8) (point : Nat)
  /-- SLICE_START (R321). -/
  | sliceStart (e : Fin 8)
  /-- SLICE_END (R454). -/
  | sliceEnd (e : Fin 8) (ok : Bool)
  /-- SLICE_GUARD_ABORT (R321). -/
  | sliceGuardAbort (e : Fin 8)
  /-- TEST_STARVED (R322). -/
  | testStarved (e : Fin 8)
  /-- DP_SLICE_DUE (R456). -/
  | dpSliceDue (e : Fin 8)
  /-- LAUNCH_MONITOR (R318). -/
  | launchMonitor (slot : Fin 8) (point : Nat)
  /-- MONITOR_EXPIRY (R318). -/
  | monitorExpiry (m : Fin 64)
  /-- TELLTALE_DIGEST (R319). -/
  | telltaleDigest (m : Fin 64)
  /-- SCH_PLACEMENT_TIMER (R377). -/
  | schPlacementTimer
  /-- SAVE_DRAIN_COMPLETE (R379). -/
  | saveDrainComplete (e : Fin 8) (slot : Fin 4)
  /-- CONTEXT_SAVE_COMPLETE (R380). -/
  | contextSaveComplete (e : Fin 8) (slot : Fin 4) (errs : SaveMet)
  /-- CONTEXT_RESTORE_COMPLETE (R380). -/
  | contextRestoreComplete (e : Fin 8) (slot : Fin 4) (errs : List MemErr)
  /-- REMOTE_DRAIN_TIMEOUT (R386). -/
  | remoteDrainTimeout (e : Fin 8) (slot : Fin 4)
  /-- REMOTE_READ_COMPLETION (R386). -/
  | remoteReadCompletion (e : Fin 8) (tag : Fin 64) (data : LinkData)
  /-- REMOTE_ACCESS_REQUEST (R398). -/
  | remoteAccessRequest (ctx : Fin 64) (va : Nat) (len : Nat) (data : Option (List Byte))
  /-- MIRRORED_FENCE_SIGNAL (R399). -/
  | mirroredFenceSignal (ctx : Fin 64) (fence : Fin 16) (set : Bool) (v : Word)
  /-- SHROUD_LINK_DOWN (R395). -/
  | shroudLinkDown
  /-- SHR_PREFIX_RECEIVE (R401). -/
  | shrPrefixReceive (ws : List Word)
  /-- CSI_FRAME_START (R250). -/
  | csiFrameStart (port : Fin 8) (vc : CsiHead)
  /-- CSI_LONG_PACKET (R250). -/
  | csiLongPacket (port : Fin 8) (vc : Fin 16) (dtype : Nat) (data : List Byte) (ecc : Nat) (crcOk : Bool)
  /-- CSI_FRAME_END (R250). -/
  | csiFrameEnd (port : Fin 8) (vc : CsiHead)
  /-- CSI_GENERIC_SHORT_PACKET (R249). -/
  | csiGenericShortPacket (port : Fin 8) (vc : CsiHead) (dtype : Nat)
  /-- CSI_PORT_SILENCE (R250). -/
  | csiPortSilence (stream : Fin 32)
  /-- FSYNC_PULSE (R251). -/
  | fsyncPulse (stream : Fin 32)
  /-- RATLINE_FRAME_RECEIVE (R259). -/
  | ratlineFrameReceive (port : Fin 4) (data : List Byte) (fcsOk : FrameTail)
  /-- ETH_FRAME_RECEIVE (R294). -/
  | ethFrameReceive (port : Fin 4) (data : List Byte) (fcsOk : FrameTail)
  /-- FE_SAMPLE_TAKE (R248). -/
  | feSampleTake (stream : Fin 32) (errs : List MemErr)
  /-- SET_DEADLINE_EXPIRY (R262). -/
  | setDeadlineExpiry (group : Bool) (i : Nat)
  /-- BATCH_COMMIT (R273). -/
  | batchCommit (group : Bool) (i : Nat)
  /-- BRIDGE_DEPTH_GRID (R342). -/
  | bridgeDepthGrid (stamp : Nat) (grid : List (BitVec 16)) (crcOk : Bool)
  /-- PTP_SYNC_RECEIVE (R291). -/
  | ptpSyncReceive (d : Fin 2) (sync : SyncFacts)
  /-- PTP_ANNOUNCE_RECEIVE (R290). -/
  | ptpAnnounceReceive (d : Fin 2) (ann : AnnounceFacts)
  /-- SYNC_RECEIPT_TIMEOUT (R290). -/
  | syncReceiptTimeout (d : Fin 2)
  /-- ANNOUNCE_TIMEOUT (R290). -/
  | announceTimeout (d : Fin 2)
  /-- ETH_FRAME_QUEUE (R15). -/
  | ethFrameQueue (m : Fin 64) (port : Fin 4) (data : List Byte) (oneStep : Bool)
  /-- ETH_FRAME_TRANSMIT (R298). -/
  | ethFrameTransmit (port : FrameHead)
  /-- HAL_MANUAL_STEP (R286). -/
  | halManualStep (m : Fin 64) (v : Word)
  /-- HAL_MODE_WRITE (R282). -/
  | halModeWrite (m : Fin 64) (v : Word)
  /-- HAL_INCR_WRITE (R282). -/
  | halIncrWrite (m : Fin 64) (fine : Bool) (v : Word)
  /-- HAL_SNAP_READ (R302). -/
  | halSnapRead (m : Fin 64)
  /-- COPY_CHECK (R287). -/
  | copyCheck (agree : Bool)
  /-- BRIDGE_TIME_UPDATE (R343). -/
  | bridgeTimeUpdate (time : Nat) (step : Bool) (crcOk : Bool)
  /-- FREE_RUN_ENTRY (R344). -/
  | freeRunEntry
  /-- FREE_RUN_LIMIT (R344). -/
  | freeRunLimit
  /-- TRIM_SAMPLE_INSTANT (R327). -/
  | trimSampleInstant
  /-- TRIM_SAMPLE_START (R327). -/
  | trimSampleStart
  /-- TRIM_WAIT_EXPIRY (R327). -/
  | trimWaitExpiry
  /-- TRIM_SAMPLE_END (R326). -/
  | trimSampleEnd
  /-- TRIM_DEADLINE_EXPIRY (R329). -/
  | trimDeadlineExpiry
  /-- MAQUETTE_STEP_INSTANT (R353). -/
  | maquetteStepInstant
  /-- MAQUETTE_STEP_END (R355). -/
  | maquetteStepEnd
  /-- MAQUETTE_DEADLINE (R353). -/
  | maquetteDeadline
  /-- MAQUETTE_KAT (R356). -/
  | maquetteKat
  /-- SS1_STOP (R362). -/
  | ss1Stop
  /-- LOCKSTEP_MISMATCH (R365). -/
  | lockstepMismatch
  /-- PLN_SRAM_ERROR (R365). -/
  | plnSramError (unc : Bool)
  /-- PLN_SUPPLY_FAULT (R477). -/
  | plnSupplyFault
  /-- PLN_CLOCK_FAULT (R484). -/
  | plnClockFault
  /-- SAFE_OUTPUT_MISMATCH (R363). -/
  | safeOutputMismatch (pin : Fin 4)
  /-- TEST_PULSE (R363). -/
  | testPulse (pin : Fin 4) (seen : Bool)
  /-- PLN_RESTART_EDGE (R346). -/
  | plnRestartEdge
  /-- RESTART_WINDOW_EXPIRY (R346). -/
  | restartWindowExpiry
  /-- PLN_RESET (R466). -/
  | plnReset
  /-- PLINTH_BOOT (R432). -/
  | plinthBoot (manifest : List Byte) (image : List Byte) (key : List Byte)
  /-- PLINTH_BOOT_TIMEOUT (R432). -/
  | plinthBootTimeout
  /-- HEARTBEAT_TOKEN_RECEIVE (R402). -/
  | heartbeatTokenReceive (ws : List Word)
  /-- STATE_BLOCK_RECEIVE (R403). -/
  | stateBlockReceive (ws : List Word)
  /-- TWIN_ALIVE_EDGE (R486). -/
  | twinAliveEdge
  /-- HEARTBEAT_CHECK (R406). -/
  | heartbeatCheck
  /-- EVC_CLAIM_READ (R413). -/
  | evcClaimRead (m : Fin 64) (k : Fin 4)
  /-- EVC_EOI_WRITE (R415). -/
  | evcEoiWrite (m : Fin 64) (k : Fin 4) (v : Word)
  /-- EVC_SET_WRITE (R422). -/
  | evcSetWrite (m : Fin 64) (g : Fin 16) (v : Word)
  /-- EVC_PEND_WRITE (R412). -/
  | evcPendWrite (m : Fin 64) (g : Fin 16) (v : Word) (same : Word)
  /-- EVC_BRG_LATCH_WRITE (R420). -/
  | evcBrgLatchWrite (m : Fin 64) (v : Word)
  /-- EVC_DISABLE_WRITE (R417). -/
  | evcDisableWrite (m : Fin 64) (v : Word)
  /-- HOLDOFF_EXPIRY (R418). -/
  | holdoffExpiry (g : Fin 16)
  /-- SCH_COUNTER_READ (R391). -/
  | schCounterRead (m : Fin 64) (off : RegSpan)
  /-- POWER_ON_RESET (R466). -/
  | powerOnReset
  /-- CORE_RESET_RELEASE (R430). -/
  | coreResetRelease (boot : BootFacts)
  /-- BOOT_TRY_TIMEOUT (R431). -/
  | bootTryTimeout
  /-- CORE_RAIL_FAULT (R466). -/
  | coreRailFault
  /-- CORE_RAIL_GOOD (R466). -/
  | coreRailGood
  /-- WATCHDOG_EXPIRY (R466). -/
  | watchdogExpiry
  /-- CPW_WDOG_WRITE (R475). -/
  | cpwWdogWrite (m : Fin 64) (v : Word)
  /-- WAKE (R466). -/
  | wake
  /-- REEF4_ENTRY (R471). -/
  | reef4Entry
  /-- POWER_MANAGER_UPDATE (R469). -/
  | powerManagerUpdate (power : Nat)
  /-- THERMAL_LEVEL_TIMER (R474). -/
  | thermalLevelTimer (temp : Int)
  /-- THERMAL_SHUTDOWN (R474). -/
  | thermalShutdown (temp : Int)
  /-- ALIGN_EPOCH (R462). -/
  | alignEpoch (ok : Bool) (dom : Nat)
  /-- PLL_LOCK_LOSS (R463). -/
  | pllLockLoss (pll : Fin 9)
  /-- STORE_WRITE_COMPLETE (R442). -/
  | storeWriteComplete (ok : Bool)
  /-- SEC_LOCK_WRITE (R425). -/
  | secLockWrite (m : Fin 64) (v : Word)
  /-- SVP_HELLO (R439). -/
  | svpHello (f : SvpFrame)
  /-- SVP_MANIFEST (R439). -/
  | svpManifest (f : SvpFrame)
  /-- SVP_OPEN (R440). -/
  | svpOpen (f : SvpFrame)
  /-- SVP_DATA (R439). -/
  | svpData (f : SvpFrame)
  /-- SVP_VERIFY (R439). -/
  | svpVerify (f : SvpFrame)
  /-- SVP_ACTIVATE (R439). -/
  | svpActivate (f : SvpFrame)
  /-- SVP_ABORT (R439). -/
  | svpAbort (f : SvpFrame)
  /-- SVP_LC (R439). -/
  | svpLc (f : SvpFrame)
  /-- SVP_PROVISION (R439). -/
  | svpProvision (f : SvpFrame)
  /-- SVP_SESSION_TIMEOUT (R439). -/
  | svpSessionTimeout
  /-- SS0_GRACE_EXPIRY (R362). -/
  | ss0GraceExpiry
  /-- THERMAL_WARN_CROSSING (R474). -/
  | thermalWarnCrossing (temp : Int)
  /-- ETH_LINK_CHANGE (R411). -/
  | ethLinkChange (port : Fin 4) (up : Bool)
  /-- PCIE_LINK_UP (R65). -/
  | pcieLinkUp (rate : Nat) (width : Nat)
  /-- CSI_PHY_LOCK (R280). -/
  | csiPhyLock (port : Fin 8) (up : Bool)
  /-- UPD_VERIFY_COMPLETE (R437). -/
  | updVerifyComplete
  /-- UPD_STAGING_COMPLETE (R438). -/
  | updStagingComplete
  /-- TRIM_TRACE_READ_COMPLETE (R339). -/
  | trimTraceReadComplete
  /-- CONFIG_OBJECT_VERIFIED (R347). -/
  | configObjectVerified
  /-- MESH_LOAD_COMPLETE (R265). -/
  | meshLoadComplete (stream : Fin 32)
  /-- DEBUG_MASTER_ACCESS (R424). -/
  | debugMasterAccess (addr : Nat) (data : Option Word)
deriving DecidableEq, Repr

end Sys2Proof
end

