-- ==== Sys2Proof/Decode.lean ====
section
/-! DEFINITION. The command that a word of bits spells. The command table gives no row any bits: commands reach the
block as bus accesses, packets and events, whose fields the meanings read. So no word spells a command. -/

namespace Sys2Proof

/-- The command spelled by a word of the table's bits: none, the table has no bits. -/
def decodeTableWord (_nbits _w : Nat) : Option Instr := none

end Sys2Proof
end

