-- ==== Sys2Proof/Config.lean ====
section
/-! DEFINITION. What one part of the device fixes, and the values the spec leaves open. Each is a constant without a
body: a statement about it holds whatever it is. -/

namespace Sys2Proof

/-- The value number `i` of those the spec leaves open: words a stopped command was writing (R93), fields the spec
does not state. A step draws them with a counter held in the state. -/
opaque Config.freeWord : Nat → Word

/-- Firmware public keys in fuses: slot 0 is the Celoaza root, slots 1 to 3 the others (R427). -/
opaque Config.fwKeys : List (Nat × List Byte)

/-- SEC owner public keys in fuses, slots 0 to 3 (R427). -/
opaque Config.ownerKeys : List (Nat × List Byte)

/-- Safety public keys in Plinth fuses, slots 0 to 3 (R427). -/
opaque Config.safetyKeys : List (Nat × List Byte)

/-- The 256-bit unique device secret (R428). -/
opaque Config.deviceSecret : List Byte

/-- The bytes of the firmware image a part is delivered with, by slot: the spec gives no image (R433). -/
opaque Config.factoryImage : Nat → List Byte

/-- Bytes of the boot flash, 256 Mbit to 2 Gbit (R433). -/
opaque Config.flashSize : Nat

/-- State format of the firmware a part is delivered with, by slot (R434). -/
opaque Config.factoryState : Nat → Word

/-- One part's fast transform of a tile: the spec fixes the error bound and not the order of the butterflies, so the
result's bits are open (R209). Arguments: inverse, transform sizes (nx + 8192 ny), the FP32
words in (real, imaginary pairs). -/
opaque Config.fft : Bool → Nat → List Word → List Word

/-- SILU (0) and GELU (1) at minus infinity: R118 gives the exact function, which has no value there and whose limit has
no sign. -/
opaque Config.actAtNegInf : Nat → Word

/-- What an element adds to a sum of RMSNORM (0), LAYERNORM (1) or SOFTMAX_ROW (2): the formulas are not stated (R87), the
order of the sums is (R119). Arguments: which, round mode, number of columns, the element, then the row's maximum
(SOFTMAX_ROW) and the sums that came before. -/
opaque Config.normTerm : Nat → Nat → Nat → Word → List Word → Word

/-- An element of the result of RMSNORM (0), LAYERNORM (1) or SOFTMAX_ROW (2) (R87). Arguments: which, round mode, number of
columns, then the element, the immediate, its gain and its bias, then the row's maximum (SOFTMAX_ROW) and its sums. -/
opaque Config.normOut : Nat → Nat → Nat → List Word → List Word → Word

/-- Word number `i` of a result that the spec does not state and that no run may change (R123). Arguments: which case, what it
depends on, `i`. -/
opaque Config.openWord : Nat → List Nat → Nat → Word

/-- The bits of one part's colour conversion: the spec names BT.601 and BT.709 and states no order of the sums (R263, log 96).
Arguments: matrix code, Y, Cb, Cr as FP32; the answer is R, G, B. -/
opaque Config.yuv : Nat → Word → Word → Word → List Word

/-- Normalisation of a RATLINE channel for which the spec states no mean and deviation: every channel in basic form, the
fourth in expert form (R255, R256, R266). -/
opaque Config.ratNorm : Nat → Word → Word

/-- The part is a JW-8140-I, whose Tjmax is 105 °C; a JW-8140-C has 95 °C (R474). The ordering code is open here. -/
opaque Config.industrial : Bool

/-- HIF_ID.rev: the silicon revision (R65), which the spec leaves to the part. -/
opaque Config.rev : Nat

/-- The PCI-SIG Vendor ID of configuration space: the spec names its owner and not its value (R28). -/
opaque Config.vendor : Nat

/-- Where firmware keeps the translation tables (R184): bits [47:12] of the address of the table of a context at a level, 2 to 4,
for an index prefix. -/
opaque Config.tableFrame : Nat → Nat → Nat → Nat

/-- The ball straps of the camera ports: bit p is set where port p is C-PHY (R249, R280). -/
opaque Config.cphy : BitVec 8

end Sys2Proof
end

