-- ==== Sys2Proof/Machine/State.lean ====
section
/-! DEFINITION. The state of the block: every register, table, queue, counter, mode and pin that the spec gives it,
as plain data, with the value each has at reset. Tables with many rows are lists of (number, row) pairs; a row that is
not listed is the row of the default given here. -/

namespace Sys2Proof.Machine

/-- Why the block could stop. -/
inductive Fault where
  /-- Raised by no meaning of this model: the spec gives every command an effect in every state. Safe. -/
  | noEffect
deriving DecidableEq, Repr

/-- Why a command could have no meaning. -/
inductive Refusal where
  /-- The command has no meaning yet; raised by an arm of the dispatch alone. Safe. -/
  | notModelled (mnemonic : String)
deriving DecidableEq, Repr

/-- The header of a command packet as received (words 0 to 2) and its aperture. Rule R41. -/
structure Hdr where
  /-- Aperture the packet came through (R35). -/
  ap : Nat := 0
  /-- Word 0 [11:0] (R41). -/
  opcode : Nat := 0
  /-- Word 0 [12] (R41). -/
  expert : Bool := false
  /-- Word 0 [13]: no final reply when the final status is ST_OK (R41). -/
  quiet : Bool := false
  /-- Word 0 [14] (R41). -/
  ordered : Bool := false
  /-- Word 0 [15], reserved: a packet that sets it is refused (R41). -/
  top : Bool := false
  /-- Word 1, echoed in every reply (R41). -/
  sequence : Word := 0
  /-- Word 2 [7:0]; 0xFF for no context (R41). -/
  ctx : Nat := 0
  /-- Word 2 [15:8] (R41). -/
  ring : Nat := 0
  /-- Word 2 [17:16]: 0 SAFETY, 1 INTERACTIVE, 2 BACKGROUND (R41). -/
  cls : Nat := 0
  /-- Number in the order of taking (R39). The model's own, log 22. -/
  no : Nat := 0
deriving DecidableEq, Repr, Inhabited

/-- A packet taken into intake: header and parameter words (words 4 to L - 2). Rule R41. -/
structure Packet where
  /-- The header (R41). -/
  hdr : Hdr := {}
  /-- Parameter word 4 + i is element i (R41). -/
  params : List Word := []
  /-- A basic CLEAT_ALLOC that waits for scrubs (R154) (R154). -/
  waiting : Bool := false
  /-- The engine it waits for (R154). -/
  eng : Nat := 0
  /-- The scrubs of that engine it waits for (R154). -/
  scrubs : List Nat := []
deriving DecidableEq, Repr, Inhabited

/-- A reply built and not yet written to its ring's memory. Rule R52. -/
structure Reply where
  /-- Packet answered (R52). -/
  hdr : Hdr := {}
  /-- Status code (R53). -/
  status : Nat := 0
  /-- Final (R52). -/
  fin : Bool := true
  /-- Cancelled (R52). -/
  cancelled : Bool := false
  /-- Fault code (R52). -/
  fault : Nat := 0
  /-- Word 3 (R52). -/
  detail0 : Word := 0
  /-- Word 4 (R52). -/
  detail1 : Word := 0
  /-- Word 5 (R52). -/
  resultLo : Word := 0
  /-- Word 6 (R52). -/
  resultHi : Word := 0
  /-- Word 7: Halyard wrapping view when built (R52). -/
  time : Word := 0
  /-- The record came from a refusal at intake (it holds a free record of the hold) (R38). -/
  refusal : Bool := false
deriving DecidableEq, Repr, Inhabited

/-- A reply ring. Rule R49. -/
structure Ring where
  /-- Registered by DEV_RING_SET (R49). -/
  registered : Bool := false
  /-- Host bus address (R49). -/
  addr : Nat := 0
  /-- The ring holds 2^k records (R49). -/
  k : Nat := 0
  /-- MSI-X vector (R49). -/
  vector : Nat := 0
  /-- Moderation count (R49). -/
  modCount : Nat := 0
  /-- Moderation time, us (R49). -/
  modTime : Nat := 0
  /-- HIF_AP_HEADk (R66). -/
  head : Nat := 0
  /-- HIF_AP_TAILk.tail (R66). -/
  tail : Nat := 0
  /-- HIF_AP_TAILk.phase (R66). -/
  phase : Bool := true
  /-- Records built and not yet written, in order (the hold) (R51). -/
  wait : List Reply := []
  /-- Reservations of packets taken whose final reply is not yet built (R51). -/
  reserved : Nat := 0
  /-- Records written since the last MSI-X message (R34). -/
  unsignalled : Nat := 0
  /-- Halyard ns at which the first unsignalled record was written (R34). The model's own, log 11. -/
  sigAt : Nat := 0
deriving DecidableEq, Repr, Inhabited

/-- A refusal that waits in its slot for a record of the default ring's hold. Rule R38. -/
structure RefusalInfo where
  /-- Status of the refusal (R53). -/
  status : Nat := 0
  /-- Offending word and bit, or state code (R52). -/
  detail0 : Word := 0
  /-- Header as received (R53). -/
  hdr : Hdr := {}
deriving DecidableEq, Repr, Inhabited

/-- One slot of a command aperture. Rule R37. -/
structure Slot where
  /-- Words 0 to 4095; an unlisted word is 0 (R35). -/
  words : List (Nat × Word) := []
  /-- HIF_AP_STATUS.slot_busy (R38). -/
  busy : Bool := false
  /-- The snapshot taken when the seal landed (R37). -/
  snap : Option (List Word) := none
  /-- A refusal that waits (R38). -/
  refuse : Option RefusalInfo := none
  /-- Arrival order of the seal (R39). The model's own, log 21. -/
  order : Nat := 0
deriving DecidableEq, Repr, Inhabited

/-- One command aperture and its counters. Rule R35. -/
structure Aperture where
  /-- Slot 0 (R35). -/
  slot0 : Slot := {}
  /-- Slot 1 (R35). -/
  slot1 : Slot := {}
  /-- Slot 2 (R35). -/
  slot2 : Slot := {}
  /-- HIF_AP_CNT_TAKEN (R66). -/
  cntTaken : Word := 0
  /-- HIF_AP_CNT_DISCARD (R66). -/
  cntDiscard : Word := 0
  /-- HIF_AP_CNT_SEAL (R66). -/
  cntSeal : Word := 0
  /-- HIF_AP_CNT_STATE (R66). -/
  cntState : Word := 0
  /-- HIF_AP_CNT_REFUSE (R66). -/
  cntRefuse : Word := 0
  /-- Packets taken since the reset of the compute die (R56). -/
  statTaken : Word := 0
  /-- ST_STATE refusals since then (R56). -/
  statState : Word := 0
  /-- ST_SEAL refusals since then (R56). -/
  statSeal : Word := 0
  /-- All other refusals since then (R56). -/
  statRefuse : Word := 0
  /-- Final replies with ST_OK (R56). -/
  statOk : Word := 0
  /-- Final replies with ST_PARTIAL (R56). -/
  statPartial : Word := 0
  /-- Final replies with ST_FAULT (R56). -/
  statFault : Word := 0
  /-- Reply records written (R56). -/
  statRecords : Word := 0
  /-- Replies that waited in a hold because the ring was full (R56). -/
  statWaited : Word := 0
  /-- Translation fault notices (R56). -/
  statXlt : Word := 0
  /-- Preemptions suffered (R56). -/
  statPreempt : Word := 0
deriving DecidableEq, Repr, Inhabited

/-- One entry of the MSI-X table. Rule R31. -/
structure MsixEntry where
  /-- Message address, 64 bits (R31). PRESUMED, log 10. -/
  addr : Nat := 0
  /-- Message data (R31). PRESUMED, log 10. -/
  data : Word := 0
  /-- Vector control mask bit (set at reset by the Base Specification) (R34). PRESUMED, log 10. -/
  masked : Bool := true
deriving DecidableEq, Repr, Inhabited

/-- The host interface block. Rule R65. -/
structure Hif where
  /-- HIF_STATUS.ready (R65). -/
  ready : Bool := false
  /-- HIF_STATUS.link_up (R65). -/
  linkUp : Bool := false
  /-- HIF_STATUS.rate (R65). -/
  rate : Nat := 0
  /-- HIF_STATUS.width (R65). -/
  width : Nat := 0
  /-- HIF_STATUS.d3hot (R65). -/
  d3hot : Bool := false
  /-- HIF_CTRL.ap_enable (R65). -/
  apEnable : BitVec 16 := 1
  /-- HIF_CTRL.intake_pause (R65). -/
  pause : Bool := false
  /-- HIF_BAR2_BASE.base, 256 MiB units (R65). -/
  bar2Base : Nat := 0
  /-- BAR2 size in 256 MiB units (Resizable BAR) (R28). DESIGN CHOICE, log 9. -/
  bar2Size : Nat := 1
  /-- HIF_BAR2_OWNER.master (R65). -/
  bar2Master : Nat := 0
  /-- HIF_BAR2_OWNER.enable (R65). -/
  bar2Enable : Bool := false
  /-- MSI-X table (R31). -/
  msix : List (Nat × MsixEntry) := []
  /-- Vectors whose message is held pending (R34). -/
  pba : List Nat := []
  /-- Max Payload Size in bytes programmed in Device Control (R36). PRESUMED, log 10. -/
  maxPayload : Nat := 128
  /-- AER: Poisoned TLP Received (R29). -/
  aerPoisoned : Bool := false
  /-- AER: Unsupported Request (R31). -/
  aerUnsupported : Bool := false
  /-- AER: Malformed TLP (R36). -/
  aerMalformed : Bool := false
  /-- Next arrival order (R39). The model's own, log 21. -/
  sealOrder : Nat := 0
  /-- Next aperture of the round robin (R39). DESIGN CHOICE, log 9. -/
  rrNext : Nat := 0
  /-- Reply rings 0 to 63 (R49). -/
  rings : List (Nat × Ring) := []
  /-- Apertures 0 to 15 (R35). -/
  apertures : List (Nat × Aperture) := []
deriving DecidableEq, Repr, Inhabited

/-- A packet accepted with ST_PENDING, or running, whose final reply is still due. Rule R48. -/
structure OpenReq where
  /-- Its header (R48). -/
  hdr : Hdr := {}
  /-- What it waits for: the object it names (0 where the opcode names none) (R48). The model's own, log 22. -/
  key : Nat := 0
  /-- A value kept for its final reply (R48). The model's own, log 22. -/
  val : Nat := 0
  /-- A second such value (R48). The model's own, log 22. -/
  val2 : Nat := 0
  /-- Its parameters (R48). -/
  params : List Word := []
deriving DecidableEq, Repr, Inhabited

/-- A fault record. Rule R366. -/
structure FaultRec where
  /-- Fault code (R365). -/
  code : Nat := 0
  /-- Class code (R364). -/
  cls : Nat := 0
  /-- Context or 0xFF (R366). -/
  ctx : Nat := 255
  /-- Engine, mover, stream, monitor or channel (R366). -/
  unit : Nat := 0
  /-- Seconds of the record (R284). -/
  sec : Nat := 0
  /-- Nanoseconds of the record (R284). -/
  ns : Nat := 0
  /-- Fraction of the record (R284). -/
  frac : Nat := 0
  /-- Arg0 (R366). -/
  arg0 : Word := 0
  /-- Arg1 (R366). -/
  arg1 : Word := 0
  /-- Arg2 (R366). -/
  arg2 : Word := 0
deriving DecidableEq, Repr, Inhabited

/-- The last 256 fault records of a die, newest first. Rule R366. -/
structure FaultLog where
  /-- The records (R366). -/
  recs : List FaultRec := []
  /-- Records overwritten since the last read (R366). -/
  lost : Nat := 0
deriving DecidableEq, Repr, Inhabited

/-- A client's settings and accounting. Rule R370. -/
structure Client where
  /-- Allowed classes (client 0: all three, see State.reset) (R370). -/
  classes : BitVec 3 := 0
  /-- Contexts it may hold (client 0: 64) (R370). -/
  maxCtx : Nat := 0
  /-- Time slice, ms (R370). -/
  slice : Nat := 20
  /-- SCH_Cc_WAIT (R392). -/
  waitNs : Nat := 0
  /-- SCH_Cc_RUN (R392). -/
  runNs : Nat := 0
  /-- SCH_Cc_PREEMPTS (R392). -/
  preempts : Word := 0
  /-- SCH_Cc_PREEMPTED (R392). -/
  preemptedNs : Nat := 0
  /-- SCH_Cc_STARVE (R392). -/
  starve : Word := 0
deriving DecidableEq, Repr, Inhabited

/-- A partition. Rule R60. -/
structure Partition where
  /-- Not ABSENT (R63). -/
  present : Bool := false
  /-- TT, else DP (R60). -/
  tt : Bool := false
  /-- Engine mask (R60). -/
  mask : BitVec 8 := 0
  /-- TT read allowance, ns (R60). -/
  allowance : Nat := 0
  /-- Explicit Commons quota, MiB; 0 = none (R60). -/
  quota : Nat := 0
  /-- DP share of DEV_REEF_SET, percent (R471). DESIGN CHOICE, log 9. -/
  share : Nat := 0
deriving DecidableEq, Repr, Inhabited

/-- A range of PSM granules in use. Rule R180. -/
structure PsmUse where
  /-- First granule (R169). -/
  lo : Nat := 0
  /-- Granule after the last of the span (R169). -/
  hi : Nat := 0
  /-- Stacks whose granules of the span are taken (R180). -/
  mask : Nat := 63
  /-- Context + 1 that owns it; 0 for firmware and KV pages (R180). The model's own, log 22. -/
  owner : Nat := 0
  /-- Freed and not yet scrubbed (R181). -/
  scrub : Bool := false
deriving DecidableEq, Repr, Inhabited

/-- A run of pages of one mapping. Rule R184. -/
structure Run where
  /-- Device-virtual start (R184). -/
  va : Nat := 0
  /-- Device physical start (R184). -/
  pa : Nat := 0
  /-- Bytes (R184). -/
  len : Nat := 0
  /-- Page code: 0 4 KiB, 1 64 KiB, 2 2 MiB (R184). -/
  page : Nat := 0
  /-- Stack set of its granules (R180). -/
  stackSet : Nat := 63
  /-- Writable (R184). -/
  write : Bool := true
  /-- Pinned (R184). -/
  pin : Bool := false
  /-- Bypass the cache part (R184). -/
  nocache : Bool := false
  /-- Static bit of an entry that INSTALL put in (R184). -/
  stat : Bool := false
deriving DecidableEq, Repr, Inhabited

/-- An allocation or host mapping of a context. Rule R181. -/
structure Mapping where
  /-- Start address (R181). -/
  va : Nat := 0
  /-- Bytes (R181). -/
  len : Nat := 0
  /-- Host mapping, else allocation (R182). -/
  host : Bool := false
  /-- Explicit Commons allocation (R164). -/
  commons : Bool := false
  /-- Writable (R180). -/
  write : Bool := true
  /-- Its page runs (R184). -/
  runs : List Run := []
  /-- A MEM_FREE or MEM_UNMAP of it is under way (R181). -/
  freeing : Bool := false
  /-- Its translations are invalid and its scrub runs (R181). -/
  gone : Bool := false
  /-- A save area or an input ring firmware placed (R374). -/
  save : Bool := false
deriving DecidableEq, Repr, Inhabited

/-- A route slot binding. Rule R98. -/
structure RouteBind where
  /-- Bound by an expert ROUTE entry (R98). -/
  bound : Bool := false
  /-- Stream mover (R98). -/
  mover : Nat := 0
  /-- Prefetch profile (R98). -/
  profile : Nat := 0
deriving DecidableEq, Repr, Inhabited

/-- A scale-stream slot binding. Rule R98. -/
structure ScaleBind where
  /-- Stream identity (R98). -/
  stream : Nat := 0
  /-- Stream address (R98). -/
  va : Nat := 0
  /-- Block number expected first (R98). -/
  first : Nat := 0
deriving DecidableEq, Repr, Inhabited

/-- A prefetch profile. Rule R165. -/
structure Prefetch where
  /-- 0 off, 1 sequential, 2 stride table (profile 0 is sequential; R165) (R165). DESIGN CHOICE, log 9. -/
  mode : Nat := 1
  /-- 4 KiB units (R165). DESIGN CHOICE, log 9. -/
  distance : Nat := 16
  /-- Stride table (R165). -/
  strides : List Word := []
deriving DecidableEq, Repr, Inhabited

/-- The prefetcher of a route. Rule R166. -/
structure Ahead where
  /-- Start of its latest demand read (R166). -/
  last : Nat := 0
  /-- End of that read (R166). -/
  next : Nat := 0
  /-- It has seen a demand read (R166). -/
  seen : Bool := false
  /-- Consecutive demand reads that matched the pattern, up to 2: it runs from 2 on (R166). -/
  fits : Nat := 0
  /-- Place in the stride table (R166). The model's own, log 83. -/
  place : Nat := 0
deriving DecidableEq, Repr, Inhabited

/-- A finished job kept for JOB_QUERY and JOB_STATS. Rule R97. -/
structure JobDone where
  /-- Its tag (R97). -/
  tag : Word := 0
  /-- Stopped (state 4) rather than completed (3) (R97). -/
  stopped : Bool := false
  /-- Its JOB_STATS record, 16 words (R99). -/
  stats : List Word := []
deriving DecidableEq, Repr, Inhabited

/-- An outstanding translation fault. Rule R187. -/
structure XltFault where
  /-- Fault identifier (R187). -/
  id : Nat := 0
  /-- Faulting virtual address (R187). -/
  va : Nat := 0
  /-- The access was a write (R187). -/
  write : Bool := false
  /-- Protection fault (R187). -/
  prot : Bool := false
  /-- Of a save or restore (R187). -/
  save : Bool := false
  /-- Mover, else engine (R187). -/
  mover : Bool := false
  /-- Unit number (R187). -/
  unit : Nat := 0
  /-- Packet that started the work (R187). -/
  hdr : Hdr := {}
  /-- Queue of the engine, slot of a save or restore, or transfer number (R187). The model's own, log 22. -/
  job : Nat := 0
  /-- Index of the command (R187). The model's own, log 22. -/
  idx : Nat := 0
  /-- Halyard time it arose, total ns (R190). -/
  since : Nat := 0
deriving DecidableEq, Repr, Inhabited

/-- A cleat table entry. Rule R152. -/
structure Cleat where
  /-- 0 FREE, 1 LIVE, 2 SPILLED, 3 SCRUB (R152). -/
  state : Nat := 0
  /-- Held for debug read (R159). -/
  hold : Bool := false
  /-- Owning context (R152). -/
  owner : Nat := 0
  /-- Bank set (R153). -/
  banks : BitVec 16 := 0
  /-- Base row (R148). -/
  baseRow : Nat := 0
  /-- Words (R153). -/
  size : Nat := 0
  /-- Owner cleared by CLEAT_RELEASE, jobs that name it still run (R156). -/
  released : Bool := false
  /-- Order of allocation (R154). The model's own, log 22. -/
  born : Nat := 0
deriving DecidableEq, Repr, Inhabited

/-- A cleat image in a save area. Rule R382. -/
structure SaveImage where
  /-- Cleat handle (R381). -/
  handle : Nat := 0
  /-- Byte offset in the section (R381). -/
  off : Nat := 0
  /-- CRC-32C recorded at save (R382). -/
  crc : Word := 0
deriving DecidableEq, Repr, Inhabited

/-- One superaccumulator of a hold set: the parts of a raw record. Rule R115. -/
structure HoldRec where
  /-- Register value, in units of its least significant bit (R111). -/
  reg : Int := 0
  /-- Escape-lane value (R111). -/
  esc : Int := 0
  /-- Products summed (R112). -/
  terms : Nat := 0
  /-- NaN flag (R113). -/
  nan : Bool := false
  /-- +infinity flag (R113). -/
  pinf : Bool := false
  /-- -infinity flag (R113). -/
  ninf : Bool := false
deriving DecidableEq, Repr, Inhabited

/-- A queue's hold set. Rule R67. -/
structure HoldSet where
  /-- Sums are held (R83). -/
  held : Bool := false
  /-- Rows (R83). -/
  m : Nat := 0
  /-- Columns (R83). -/
  n : Nat := 0
  /-- The chain's C operand (R83). -/
  cTow : Word := 0
  /-- Format of A (R115). -/
  fmtA : Nat := 0
  /-- Format of B (R115). -/
  fmtB : Nat := 0
  /-- Records, row-major (R381). -/
  recs : List HoldRec := []
  /-- Row scales of A, BF16 (R143). -/
  scalesA : List Nat := []
  /-- Row scales of B, BF16 (R143). -/
  scalesB : List Nat := []
deriving DecidableEq, Repr, Inhabited

/-- The position of an SPU slot. Rule R138. -/
structure SpuPos where
  /-- Address of the next block (R138). -/
  addr : Nat := 0
  /-- Expected block number (R138). -/
  bsn : Nat := 0
deriving DecidableEq, Repr, Inhabited

/-- What a queue of an engine keeps for its context, beside its jobs. Rule R67. -/
structure QState where
  /-- Hold set (R67). -/
  hold : HoldSet := {}
  /-- SPU positions of slots 0 to 7 (R138). -/
  spu : List (Nat × SpuPos) := []
  /-- Armed KV append (the command's words) (R86). -/
  armed : Option (List Word) := none
  /-- The arming has served a keys MATMUL (R234). -/
  servedK : Bool := false
  /-- The arming has served a values MATMUL (R234). -/
  servedV : Bool := false
deriving DecidableEq, Repr, Inhabited

/-- A context's state saved from, or for, one engine. Rule R380. -/
structure Saved where
  /-- The group is SPILLED (R380). -/
  present : Bool := false
  /-- Engine whose section holds it (R381). -/
  engine : Nat := 0
  /-- Cleat images (R382). -/
  images : List SaveImage := []
  /-- Hold set, SPU positions and armed append (R380). -/
  q : QState := {}
  /-- Reads in landing slots: tag, cleat and byte offset aimed at, bytes (R386). -/
  landed : List (Nat × Nat × Nat × Nat) := []
  /-- REMOTE_PENDING (R386). -/
  remote : Bool := false
  /-- Halyard time the save began (R390). -/
  since : Nat := 0
  /-- The save counts as a preemption (R390). -/
  counted : Bool := false
deriving DecidableEq, Repr, Inhabited

/-- A job's counters. Rule R99. -/
structure JobStats where
  /-- Commands completed (R99). -/
  done : Word := 0
  /-- Skipped convolution taps (R99). -/
  taps : Word := 0
  /-- ECLK cycles from first issue to last completion (R99). -/
  cycles : Nat := 0
  /-- ECLK cycles with the spar array active (R99). -/
  spar : Nat := 0
  /-- Late PSM reads (R99). -/
  late : Word := 0
  /-- LAUNCH_WAIT instants already passed (R99). -/
  lwLate : Word := 0
  /-- Fence additions held (R99). -/
  fenceSat : Word := 0
  /-- RELAXED choices (R99). -/
  relaxed : Word := 0
deriving DecidableEq, Repr, Inhabited

/-- A job in a queue: a checked command list. Rule R69. -/
structure Job where
  /-- The packet that queued it (R73). -/
  hdr : Hdr := {}
  /-- Context (R69). -/
  ctx : Nat := 0
  /-- Tag (R97). -/
  tag : Word := 0
  /-- Its commands, sixteen words each (R73). -/
  cmds : List (List Word) := []
  /-- Indices issued and not completed (R90). -/
  flight : List Nat := []
  /-- Indices completed (R90). -/
  done : List Nat := []
  /-- Its first command has issued (R69). -/
  started : Bool := false
  /-- Halyard total ns of launch or of the first issue (R77). -/
  launchNs : Nat := 0
  /-- Its counters (R99). -/
  stats : JobStats := {}
  /-- Commands in flight that a translation fault or a preemption stopped, and the bytes each has moved (R189). The model's own, log 22. -/
  prog : List (Nat × Nat) := []
  /-- Time preempted, ns (R390). -/
  preNs : Nat := 0
  /-- Preempted since, Halyard ns (R390). -/
  preFrom : Option Nat := none
  /-- Its list has started (a pending TQ start has not) (R71). -/
  begun : Bool := true
  /-- Cancelled, waiting for commands in flight (R94). -/
  cancel : Bool := false
  /-- The step it belongs to (R231). -/
  step : Option Nat := none
  /-- Which list of the step (R243). -/
  listNo : Nat := 0
  /-- Sail plan slot, launch point and period count (R311). -/
  plan : Option (Nat × Nat × Nat) := none
  /-- Halyard time of intake (R390). -/
  taken : Nat := 0
  /-- Halyard time of first issue (R390). -/
  firstNs : Nat := 0
  /-- HCLK cycle of first issue, from which its ECLK cycles run (R99). -/
  firstClk : Nat := 0
  /-- Route slots of the job (R98). -/
  route : List (Nat × RouteBind) := []
deriving DecidableEq, Repr, Inhabited

/-- A context. Rule R63. -/
structure Ctx where
  /-- Exists (R63). -/
  present : Bool := false
  /-- In SCRUBBING (R63). -/
  scrubbing : Bool := false
  /-- In SUSPENDED (R63). -/
  suspended : Bool := false
  /-- Owning client (R46). -/
  client : Nat := 0
  /-- Priority class (R371). -/
  cls : Nat := 1
  /-- Partition (R371). -/
  part : Nat := 0
  /-- Engine affinity mask (R371). -/
  mask : BitVec 8 := 0
  /-- Mask at creation (section assignment) (R381). -/
  mask0 : BitVec 8 := 0
  /-- Pinned (R371). -/
  pinned : Bool := false
  /-- RELAXED, else STRICT (R122). -/
  relaxed : Bool := false
  /-- Cumulative RELAXED count (R126). -/
  relaxedCnt : Word := 0
  /-- The packet that created it (R187). -/
  hdr : Hdr := {}
  /-- Fence counters F0 to F15 (R91). -/
  fences : List (Nat × Word) := []
  /-- Allocations and host mappings (R181). -/
  maps : List Mapping := []
  /-- Route slots (R98). -/
  routes : List (Nat × RouteBind) := []
  /-- Scale-stream slots (R98). -/
  scales : List (Nat × ScaleBind) := []
  /-- Prefetch profiles (R165). -/
  profiles : List (Nat × Prefetch) := []
  /-- The prefetchers of its routes (R166). -/
  aheads : List (Nat × Ahead) := []
  /-- The last 64 finished jobs, newest first (R97). -/
  done : List JobDone := []
  /-- Outstanding translation faults (R187). -/
  faults : List XltFault := []
  /-- Length-bucket boundaries (R232). -/
  buckets : List Nat := [512, 1024, 2048, 4096, 8192, 16384, 32768]
  /-- Save area address (R374). -/
  saveVa : Nat := 0
  /-- Save area bytes (R374). -/
  saveLen : Nat := 0
  /-- Saved groups (R380). -/
  saved : List Saved := []
  /-- Saves suffered (R389). -/
  saves : Word := 0
  /-- The jobs of its context queue on each engine, in the order taken (R69). -/
  jobs : List (Nat × List Job) := []
  /-- Pages put in by XLT_FAULT_REPLY INSTALL (R188). -/
  installs : List Run := []
  /-- Halyard time since which it is runnable and not resident (R377). -/
  waitSince : Option Nat := none
deriving DecidableEq, Repr, Inhabited

/-- A remote read outstanding. Rule R386. -/
structure Remote where
  /-- Tag 0 to 63 (R386). -/
  tag : Nat := 0
  /-- Context (R386). -/
  ctx : Nat := 0
  /-- Cleat aimed at (R386). -/
  h : Nat := 0
  /-- Byte offset in the cleat aimed at (R386). -/
  off : Nat := 0
  /-- Bytes (R386). -/
  len : Nat := 0
  /-- Index of the command that reads (R398). The model's own, log 22. -/
  idx : Nat := 0
  /-- To be redirected to landing slot (R386). -/
  redirect : Bool := false
  /-- Landed in its landing slot (R386). -/
  landed : Bool := false
deriving DecidableEq, Repr, Inhabited

/-- A resident slot of an engine. Rule R373. -/
structure Eslot where
  /-- Context in the slot (R392). -/
  ctx : Option Nat := none
  /-- Resident since, Halyard ns (R377). -/
  since : Nat := 0
  /-- Blocked since (R375). -/
  blockedSince : Option Nat := none
  /-- A save of it has stopped its issue (R379). -/
  draining : Bool := false
  /-- Being copied to the save area (R380). -/
  saving : Bool := false
  /-- Held for this context, which is being restored (R380). -/
  restoring : Option Nat := none
  /-- Engine whose section is being restored (R381). -/
  group : Nat := 0
  /-- Stream mover of the save or restore (R383). -/
  mover : Option Nat := none
  /-- The save is for CTX_SUSPEND (R388). -/
  susp : Bool := false
  /-- 4 KiB pieces of the save that are written (R189). -/
  moved : Nat := 0
deriving DecidableEq, Repr, Inhabited

/-- A tensor engine. Rule R67. -/
structure Engine where
  /-- Cleat table, handles 0 to 127 (R152). -/
  cleats : List (Nat × Cleat) := []
  /-- What is in SCRUB, in the order it entered: handles, and from 128 on the numbers of vacated regions (R158). -/
  scrubQ : List Nat := []
  /-- Regions of spilled cleats that a residue hold keeps from the scrubber, by number from 128 on (R159). -/
  vacated : List (Nat × Cleat) := []
  /-- Residue hold (R159). -/
  resHold : Bool := false
  /-- Halyard ns at which it was set (R159). -/
  resSince : Nat := 0
  /-- TQ: the running list, then pending starts (R69). -/
  tq : List Job := []
  /-- Resident slot 0 (R369). -/
  slot0 : Eslot := {}
  /-- Resident slot 1 (R369). -/
  slot1 : Eslot := {}
  /-- Resident slot 2 (R369). -/
  slot2 : Eslot := {}
  /-- Resident slot 3 (R369). -/
  slot3 : Eslot := {}
  /-- What the five queues keep (CQ0 to CQ3, TQ) (R67). -/
  qs : List (Nat × QState) := []
  /-- Context queue each unit served last, by unit and class (R72). The model's own, log 37. -/
  served : List (Nat × Nat) := []
  /-- EN_STATUS.test (R100). -/
  test : Bool := false
  /-- 0 none, 1 offered, 2 running (R321). The model's own, log 22. -/
  slice : Nat := 0
  /-- Guard instant of the slice that is offered or runs, Halyard total ns; 0 = none (R321). -/
  sliceGuard : Nat := 0
  /-- Plan slot of the offered slice (R321). -/
  slicePlan : Nat := 0
  /-- Halyard ns of the last completed slice (R453). -/
  lastSlice : Nat := 0
  /-- Halyard ns from which the present 100 ms interval without a completed slice runs (R322). The model's own, log 22. -/
  starveFrom : Nat := 0
  /-- The slice is a rotated DP slice (R456). -/
  sliceDp : Bool := false
  /-- EN_CNT_CMD_CQk and _TQ (R100). -/
  cntCmd : List (Nat × Word) := []
  /-- EN_CNT_TT_LATE (R100). -/
  cntTtLate : Word := 0
  /-- EN_CNT_TT_DROP (R100). -/
  cntTtDrop : Word := 0
  /-- EN_CNT_READ_LATE (R100). -/
  cntReadLate : Word := 0
  /-- EN_CNT_LW_LATE (R100). -/
  cntLwLate : Word := 0
  /-- EN_SPM_CORR (R167). -/
  spmCorr : Word := 0
  /-- EN_SPM_UNCORR (R167). -/
  spmUncorr : Word := 0
  /-- Remote reads outstanding (R386). -/
  remotes : List Remote := []
deriving DecidableEq, Repr, Inhabited

/-- A stream-mover transfer under way. Rule R183. -/
structure Transfer where
  /-- Number of the transfer (R183). The model's own, log 22. -/
  id : Nat := 0
  /-- Its packet (R183). -/
  hdr : Hdr := {}
  /-- Source address (R183). -/
  src : Nat := 0
  /-- Destination address (R183). -/
  dst : Nat := 0
  /-- Bytes (R183). -/
  len : Nat := 0
  /-- Pattern of a fill (R183). -/
  fill : Option Word := none
  /-- Stream mover (R183). -/
  mover : Nat := 0
  /-- Bytes moved before a fault (R189). -/
  done : Nat := 0
  /-- Waits for a fault reply (R187). -/
  stalled : Bool := false
  /-- Sail plan slot, MOVER point and period count (R317). -/
  plan : Option (Nat × Nat × Nat) := none
  /-- To Plinth's setpoint mailbox (R304). -/
  mailbox : Bool := false
deriving DecidableEq, Repr, Inhabited

/-- An entry of the PSM error log. Rule R191. -/
structure PsmErr where
  /-- Burst address (R191). -/
  addr : Nat := 0
  /-- 0 symbol, 1 row, 2 uncorrectable, 3 replay limit, 4 patrol uncorrectable (R191). -/
  typ : Nat := 0
  /-- Requesting master (R191). -/
  master : Nat := 0
  /-- Context or 0x3F (R191). -/
  ctx : Nat := 63
  /-- Halyard wrapping view (R191). -/
  time : Word := 0
deriving DecidableEq, Repr, Inhabited

/-- A granule's retirement record. Rule R178. -/
structure Granule where
  /-- Row-level corrections counted (R178). -/
  rows : Nat := 0
  /-- Marked and not yet migrated (R178). -/
  marked : Bool := false
  /-- Retired (R179). -/
  retired : Bool := false
  /-- Retired or marked for an uncorrectable burst (R179). -/
  unc : Bool := false
deriving DecidableEq, Repr, Inhabited

/-- The PSM controller. Rule R191. -/
structure Psmc where
  /-- PSMC_STATUS.stack_up (R191). -/
  stackUp : BitVec 6 := 0
  /-- PSMC_STATUS.trained (R191). -/
  trained : Bool := false
  /-- PSMC_STATUS.train_fail (R191). -/
  trainFail : Bool := false
  /-- PSMC_STATUS.fail_chan (R191). -/
  failChan : Nat := 0
  /-- PSMC_STATUS.patrol (R191). -/
  patrol : Bool := false
  /-- PSMC_CNT_SYMs (R191). -/
  cntSym : List (Nat × Word) := []
  /-- PSMC_CNT_ROWs (R191). -/
  cntRow : List (Nat × Word) := []
  /-- PSMC_CNT_UNCs (R191). -/
  cntUnc : List (Nat × Word) := []
  /-- PSMC_CNT_REPLAYs (R191). -/
  cntReplay : List (Nat × Word) := []
  /-- PSMC_RET_CFG.threshold (R191). -/
  threshold : Nat := 2
  /-- PSMC_PATROL_CFG.hours (R191). -/
  hours : Nat := 24
  /-- PSMC_ERR_LOGi (R191). -/
  log : List (Nat × PsmErr) := []
  /-- Log entries written and not yet read (R191). The model's own, log 22. -/
  logUnread : List Nat := []
  /-- PSMC_ERR_IDX.next (R191). -/
  logNext : Nat := 0
  /-- PSMC_ERR_IDX.lost (R191). -/
  logLost : Nat := 0
  /-- Retirement records (kept in the store) (R178). DESIGN CHOICE, log 9. -/
  granules : List (Nat × Granule) := []
  /-- Bursts that stay uncorrectable until written whole (R175). -/
  uncorr : List Nat := []
  /-- Scratchpad and explicit Commons words uncorrectable until written (R151). -/
  spmUncorr : List Nat := []
  /-- Successive replays without success, per channel (R176). -/
  replays : List (Nat × Nat) := []
  /-- Halyard ns of the replays of a channel within the last 1 ms, newest first (R176). -/
  replayAt : List (Nat × List Nat) := []
deriving DecidableEq, Repr, Inhabited

/-- The Commons. Rule R161. -/
structure Commons where
  /-- DEV_COM_CFG.explicit: X in MiB (R168). -/
  x : Nat := 0
  /-- DEV_COM_CFG.changing (R168). -/
  changing : Bool := false
  /-- X that a COMMONS_SPLIT is setting (R163). -/
  newX : Nat := 0
  /-- DEV_COM_CORR (R168). -/
  cntCorr : Word := 0
  /-- DEV_COM_UNCORR (R168). -/
  cntUncorr : Word := 0
  /-- DEV_PF_ISSUED (R168). -/
  pfIssued : Word := 0
  /-- DEV_PF_DROP_XLT (R168). -/
  pfDropXlt : Word := 0
  /-- DEV_PF_DROP_MEM (R168). -/
  pfDropMem : Word := 0
  /-- Explicit ranges in use: base, bytes, partition, being scrubbed (R164). -/
  used : List (Nat × Nat × Nat × Bool) := []
deriving DecidableEq, Repr, Inhabited

/-- What an entry of a TLB or of the walk cache stands for. Rule R185. -/
structure XlTag where
  /-- Context (R185). -/
  ctx : Nat := 0
  /-- First device-virtual address it covers (R185). -/
  lo : Nat := 0
  /-- Bytes it covers (R185). -/
  len : Nat := 0
  /-- A leaf, else a pointer to a next table (R184). -/
  leaf : Bool := true
deriving DecidableEq, Repr, Inhabited

/-- Address translation. Rule R192. -/
structure Xlt where
  /-- XLT_CFG.fault_timeout, ms (R192). -/
  timeout : Nat := 0
  /-- TLBs of engines and stream movers by master number, each by place (R185). -/
  tlbs : List (Nat × List (Nat × XlTag)) := []
  /-- Walk cache, by place (R185). -/
  walkCache : List (Nat × XlTag) := []
  /-- XLT_CNT_WALK (R192). -/
  cntWalk : Word := 0
  /-- XLT_CNT_FAULT (R192). -/
  cntFault : Word := 0
  /-- XLT_CNT_STATIC_MISS (R192). -/
  cntStaticMiss : Word := 0
  /-- XLT_CNT_TIMEOUT (R192). -/
  cntTimeout : Word := 0
deriving DecidableEq, Repr, Inhabited

/-- A KV page directory entry. Rule R225. -/
structure DirEntry where
  /-- 0 FREE, 1 RESIDENT, 2 SWAPPED, 3 MOVING, 4 SCRUB, 5 RETIRED (R225). -/
  state : Nat := 0
  /-- Committed rows (R225). -/
  rows : Nat := 0
  /-- Owning context (R225). -/
  owner : Nat := 0
  /-- Sequences holding the page (R225). -/
  refs : Nat := 0
  /-- Page epoch (R225). -/
  epoch : Nat := 0
  /-- Layer (R225). -/
  layer : Nat := 0
  /-- PSM granule, or slot in the swap image (R225). -/
  frame : Nat := 0
  /-- CRC-32C of a swapped page image (R225). -/
  check : Word := 0
deriving DecidableEq, Repr, Inhabited

/-- A page a sequence holds. Rule R219. -/
structure SeqPage where
  /-- Layer (R219). -/
  layer : Nat := 0
  /-- Page number in the layer (positions 64 idx to 64 idx + 63) (R224). -/
  idx : Nat := 0
  /-- Directory entry (R225). -/
  entry : Nat := 0
  /-- Page epoch the sequence keeps (R226). -/
  epoch : Nat := 0
deriving DecidableEq, Repr, Inhabited

/-- A sequence. Rule R219. -/
structure Seq where
  /-- Open (R219). -/
  present : Bool := false
  /-- Owning context (R219). -/
  ctx : Nat := 0
  /-- State code 0x30 to 0x34 (R63). -/
  state : Nat := 48
  /-- Layers (R219). -/
  layers : Nat := 0
  /-- KV heads (R219). -/
  kvh : Nat := 0
  /-- Head dimension (R219). -/
  hdim : Nat := 0
  /-- KV format (R219). -/
  fmt : Nat := 0
  /-- Committed length L (R219). -/
  len : Nat := 0
  /-- Sequence epoch (R226). -/
  epoch : Nat := 0
  /-- Pinned length bucket (R219). -/
  pin : Option Nat := none
  /-- Pages held (R219). -/
  pages : List SeqPage := []
  /-- A SEQ_PREEMPT is pending (R245). -/
  preempt : Bool := false
  /-- Device-virtual address of the swap image (R244). -/
  image : Nat := 0
  /-- Slots of the swap image (R245). -/
  imagePages : Nat := 0
  /-- Pages still to scrub for SEQ_CLOSE (R222). -/
  closing : Nat := 0
  /-- Stream movers of its swap (R245). -/
  movers : List Nat := []
  /-- Pages, in the order of the swap, that its swap-out has dealt with (R245). The model's own, log 22. -/
  swapIdx : Nat := 0
  /-- Image slots written (R245). -/
  swapSlot : Nat := 0
  /-- Fault that ended its swap, told once its pages are scrubbed (R245). -/
  bad : Nat := 0
deriving DecidableEq, Repr, Inhabited

/-- An entry of a running step, in step order. Rule R231. -/
structure StepEntry where
  /-- Sequence (R229). -/
  seq : Nat := 0
  /-- Its tokens (R229). -/
  tokens : List Word := []
  /-- Its rows (R231). -/
  rows : Nat := 0
  /-- First step row (R233). -/
  rowStart : Nat := 0
  /-- Position of its first row (R233). -/
  firstPos : Nat := 0
  /-- Committed length at the start of the step (R233). -/
  base : Nat := 0
  /-- Sequence epoch of the step (R233). -/
  epoch : Nat := 0
  /-- Bucket (R232). -/
  bucket : Nat := 0
  /-- Index in the candidate table (R241). -/
  tabIdx : Nat := 0
  /-- Last entry of its sequence (R241). -/
  last : Bool := true
deriving DecidableEq, Repr, Inhabited

/-- A running step. Rule R231. -/
structure Step where
  /-- Runs (R231). -/
  present : Bool := false
  /-- The SEQ_STEP packet (R231). -/
  hdr : Hdr := {}
  /-- Context (R231). -/
  ctx : Nat := 0
  /-- 0 VERIFY_LINEAR, 1 EXTEND, 2 VERIFY_TREE (R228). -/
  kind : Nat := 0
  /-- Cand or nodes (R228). -/
  rows : Nat := 0
  /-- Parents word (R228). -/
  parents : Nat := 0
  /-- Race mode (R228). -/
  race : Bool := false
  /-- Device-virtual address of the result area (R228). -/
  results : Nat := 0
  /-- Entries in step order (R231). -/
  entries : List StepEntry := []
  /-- Engine and step cleat of each list (R228). -/
  engines : List (Nat × Nat) := []
  /-- Lists not yet completed (R240). -/
  left : List Nat := []
  /-- List whose verdicts count (R243). -/
  winner : Nat := 0
  /-- A job of its group stopped or was cancelled (R242). -/
  failed : Bool := false
  /-- Cancelled rather than faulted (R242). -/
  cancelled : Bool := false
  /-- The fault (R242). -/
  fault : Nat := 0
  /-- Detail1 of that fault (R141). -/
  detail : Word := 0
  /-- Step rows R (R233). -/
  total : Nat := 0
deriving DecidableEq, Repr, Inhabited

/-- A stream's stage descriptor, or the basic defaults of R256. Rule R255. -/
structure StageCfg where
  /-- CFA pattern (R255). -/
  cfa : Nat := 0
  /-- YUV matrix (R255). -/
  yuv : Nat := 0
  /-- Pointing unit on (R255). -/
  warp : Bool := false
  /-- Nearest sampling (R255). -/
  nearest : Bool := false
  /-- Feeds Plinth's depth input (R255). -/
  tap : Bool := false
  /-- Order in the group's sets (R255). -/
  member : Nat := 0
  /-- Black level (R255). -/
  black : Nat := 0
  /-- White-balance gains, FP32 (R255). -/
  gain : List Word := []
  /-- Warp output width (R255). -/
  ow : Nat := 0
  /-- Warp output height (R255). -/
  oh : Nat := 0
  /-- Warp fill value, FP32 (R255). -/
  fill : Word := 0
  /-- Per-channel mean, FP32 (R255). -/
  mean : List Word := []
  /-- Per-channel inverse deviation, FP32 (R255). -/
  invstd : List Word := []
  /-- Repeat limit (R256). -/
  repLimit : Nat := 2
  /-- Static limit (R256). -/
  staticLimit : Nat := 0
  /-- Static threshold (R255). -/
  staticMad : Nat := 0
  /-- Ns from Frame Start to the sample instant (R256). -/
  offset : Int := 0
  /-- Alignment tolerance, ns (R256). -/
  tol : Nat := 50000
  /-- Set deadline, ns (R256). -/
  deadline : Nat := 0
  /-- Set period, ns (R256). -/
  period : Nat := 0
  /-- Set phase (R255). -/
  phase : Nat := 0
  /-- FSYNC lead, HCLK cycles (R255). -/
  lead : Nat := 0
  /-- FSYNC pulse width, HCLK cycles (R255). -/
  width : Nat := 0
  /-- RATLINE node list (R255). -/
  nodes : List Nat := []
deriving DecidableEq, Repr, Inhabited

/-- A sample received by the front end. Rule R261. -/
structure Sample where
  /-- Sample sequence number of its stream (R272). -/
  no : Nat := 0
  /-- Halyard stamp, units of 2^-16 ns (R261). -/
  stamp : Nat := 0
  /-- Payload bytes as received (a ratline payload, or a camera image line by line) (R249). -/
  data : List (BitVec 8) := []
  /-- Lines received (R250). -/
  lines : Nat := 0
  /-- Its Frame End has arrived (R250). -/
  done : Bool := false
  /-- Cause code once corrupt (R276). -/
  cause : Nat := 0
  /-- Ratline node (R258). -/
  node : Nat := 0
  /-- Receive stamp of its ratline frame, units of 2^-16 ns (R294). -/
  rx : Nat := 0
  /-- Still: address of the compressed data (R269). -/
  addr : Nat := 0
  /-- Still: its JPEG_DECODE (R269). -/
  hdr : Hdr := {}
  /-- Still: the packet's parameters (R269). -/
  params : List Word := []
  /-- Delivered with a repeat count above 0 (R272). -/
  rep : Bool := false
  /-- Telltale sample (R275). -/
  tele : Bool := false
deriving DecidableEq, Repr, Inhabited

/-- An open set of a group or RATLINE stream. Rule R262. -/
structure OpenSet where
  /-- Set instant, units of 2^-16 ns of Halyard (R262). -/
  t : Nat := 0
  /-- Members present (R262). -/
  got : List (Nat × Sample) := []
deriving DecidableEq, Repr, Inhabited

/-- A sample written into the batch in assembly. Rule R272. -/
structure Desc where
  /-- Sample number (R272). -/
  no : Nat := 0
  /-- Sample instant (R272). -/
  stamp : Nat := 0
  /-- Byte offset of its data (R272). -/
  off : Nat := 0
  /-- Width (R272). -/
  w : Nat := 0
  /-- Height (R272). -/
  h : Nat := 0
  /-- Format (R272). -/
  fmt : Nat := 0
  /-- Channels (R272). -/
  ch : Nat := 0
  /-- Repeat flag (R272). -/
  rep : Bool := false
  /-- Telltale flag (R272). -/
  tele : Bool := false
  /-- Stream (R272). -/
  stream : Nat := 0
deriving DecidableEq, Repr, Inhabited

/-- A front-end stream. Rule R253. -/
structure Stream where
  /-- State code 0x40 to 0x44 (R63). -/
  state : Nat := 64
  /-- Owning context (R252). -/
  ctx : Nat := 0
  /-- 0 CSI, 1 RATLINE, 2 STILL (R253). -/
  source : Nat := 0
  /-- Port (R253). -/
  port : Nat := 0
  /-- Virtual channel (R253). -/
  vc : Nat := 0
  /-- Data type (R253). -/
  dtype : Nat := 0
  /-- Feeds a sail plan (R253). -/
  safety : Bool := false
  /-- Samples (or sets) per batch (R253). -/
  samples : Nat := 0
  /-- Fusion group (R253). -/
  group : Nat := 0
  /-- Member of the group (R253). -/
  grouped : Bool := false
  /-- Input width (R253). -/
  width : Nat := 0
  /-- Input height (R253). -/
  height : Nat := 0
  /-- Output format code (R253). -/
  format : Nat := 0
  /-- 0 channels-last, 1 planar (R253). -/
  layout : Nat := 0
  /-- Batch slots (R253). -/
  slots : Nat := 0
  /-- Input ring, samples (R253). -/
  ring : Nat := 0
  /-- Declared burst (R253). -/
  burst : Nat := 0
  /-- Largest rate, samples/s (R253). -/
  rate : Nat := 0
  /-- Output cleat address (R252). -/
  outVa : Nat := 0
  /-- Input ring address (R253). -/
  ringVa : Nat := 0
  /-- The ring was placed by firmware (R254). -/
  ringFw : Bool := false
  /-- Stage configuration (R255). -/
  cfg : StageCfg := {}
  /-- Mesh nodes per row; 0 = none loaded (R265). -/
  meshX : Nat := 0
  /-- Mesh rows (R265). -/
  meshY : Nat := 0
  /-- Mesh node words (R265). -/
  mesh : List Word := []
  /-- Input ring (R274). -/
  inq : List Sample := []
  /-- A frame is in progress (R250). -/
  frame : Bool := false
  /-- Its FSYNC pin is driven from its group's schedule (R257). -/
  fsync : Bool := false
  /-- Sample held past stage 3 (R248). -/
  cur : Option Sample := none
  /-- Quarantine slot (R276). -/
  quar : Option Sample := none
  /-- Cause of the last quarantine (R280). -/
  cause : Nat := 0
  /-- Repeat count (R271). -/
  repeatCnt : Nat := 0
  /-- Static count (R271). -/
  staticCnt : Nat := 0
  /-- CRC-32C of the previous sample examined (R271). -/
  lastCrc : Option Word := none
  /-- Its 32 x 32 grid of points (R271). -/
  lastPts : List Nat := []
  /-- Last sample instant per ratline node (R259). -/
  lastInst : List (Nat × Nat) := []
  /-- Last sequence per ratline node (R259). -/
  lastSeq : List (Nat × Word) := []
  /-- Open sets of a RATLINE stream (R262). -/
  sets : List OpenSet := []
  /-- Samples of the batch in assembly (R272). -/
  asm : List Desc := []
  /-- Slot in assembly (R273). -/
  slotNo : Nat := 0
  /-- Batch number in assembly (R272). -/
  batchNo : Nat := 0
  /-- FE_STRn_BATCH (R280). -/
  lastBatch : Word := 0
  /-- Valid of the last batch written (R277). -/
  lastValid : Nat := 0
  /-- FE_STRn_SAMPLE (R280). -/
  nextNo : Nat := 0
  /-- STREAM_STOP under way: 1, or 2 where stage 3 holds the sample at the head of the ring, whose lines still arrive (R279). -/
  stopping : Nat := 0
  /-- Telltale window open: plan slot, launch point, and the Halyard ns of its end (R275). -/
  tele : Option (Nat × Nat × Nat) := none
  /-- FE_CNT_DROPn (R280). -/
  cntDrop : Word := 0
  /-- FE_CNT_ALIGN_DROPn (R280). -/
  cntAlign : Word := 0
  /-- FE_CNT_SET_DROPn (R280). -/
  cntSet : Word := 0
  /-- FE_CNT_REPEATn (R280). -/
  cntRepeat : Word := 0
  /-- FE_CNT_SKIPn (R280). -/
  cntSkip : Word := 0
  /-- FE_CNT_GAPn (R280). -/
  cntGap : Word := 0
  /-- FE_CNT_QUARn (R280). -/
  cntQuar : Word := 0
deriving DecidableEq, Repr, Inhabited

/-- A fusion group. Rule R262. -/
structure Group where
  /-- Open sets (R262). -/
  sets : List OpenSet := []
  /-- Halted by a quarantined member (R276). -/
  halted : Bool := false
  /-- Samples of the batch in assembly (R272). -/
  asm : List Desc := []
  /-- Sets of the batch in assembly (R272). -/
  valid : Nat := 0
  /-- Slot in assembly (R273). -/
  slotNo : Nat := 0
  /-- Batch number in assembly (R272). -/
  batchNo : Nat := 0
deriving DecidableEq, Repr, Inhabited

/-- A camera port. Rule R249. -/
structure CsiPort where
  /-- FE_STATUS.port_up (R280). -/
  up : Bool := false
  /-- FE_CNT_UNBOUNDp (R280). -/
  unbound : Word := 0
  /-- FE_CNT_ECCp (R280). -/
  ecc : Word := 0
  /-- Silence already raised FLT_LINK (R250). -/
  silent : Bool := false
  /-- Halyard ns from which the silence of the port counts (R250). The model's own, log 11. -/
  fsAt : Nat := 0
  /-- FSYNC pin level (R251). -/
  fsync : Bool := false
deriving DecidableEq, Repr, Inhabited

/-- The front end. Rule R280. -/
structure Fe where
  /-- FE_STATUS.cphy: the ports that their ball straps set to C-PHY (R280). DESIGN CHOICE, log 147. -/
  cphy : BitVec 8 := Config.cphy
  /-- FE_STATUS.jpeg_busy: the stream whose still is being decoded (R280). -/
  jpegBusy : Option Nat := none
  /-- Camera ports (R249). -/
  ports : List (Nat × CsiPort) := []
  /-- Streams 0 to 31 (R252). -/
  streams : List (Nat × Stream) := []
  /-- Fusion groups 0 to 7 (R262). -/
  groups : List (Nat × Group) := []
  /-- FE cleat table: entry, base, bytes, context (R252). -/
  cleats : List (Nat × Nat × Nat × Nat) := []
deriving DecidableEq, Repr, Inhabited

/-- An Ethernet frame queued for transmission. Rule R298. -/
structure EthFrame where
  /-- The frame from its destination address to before the FCS (R298). -/
  bytes : List (BitVec 8) := []
  /-- One-step flag (R295). -/
  oneStep : Bool := false
  /-- Two-step PTP event: messageType, domainNumber, sequenceId (R296). -/
  ptp : Option (Nat × Nat × Nat) := none
deriving DecidableEq, Repr, Inhabited

/-- An 802.1Qbv gate control list. Rule R299. -/
structure QbvList where
  /-- Change time (instant entry 0 begins), Halyard total ns (R299). -/
  base : Nat := 0
  /-- Cycle time, ns (R299). -/
  cycle : Nat := 0
  /-- Gates and interval of each entry (R299). -/
  entries : List (BitVec 8 × Nat) := []
deriving DecidableEq, Repr, Inhabited

/-- An Ethernet port with its stamp and gate state. Rule R303. -/
structure HalPort where
  /-- Link up (R411). -/
  up : Bool := false
  /-- HAL_Pp_RXLAT (R303). -/
  rxlat : Word := 0
  /-- HAL_Pp_TXLAT (R303). -/
  txlat : Word := 0
  /-- HAL_Pp_PDELAY (R303). -/
  pdelay : Word := 0
  /-- HAL_Pp_CNT_TSDROP (R303). -/
  tsDrop : Word := 0
  /-- Transmit stamps: messageType, domainNumber, sequenceId, stamp (R296). -/
  tsFifo : List (Nat × Nat × Nat × Nat) := []
  /-- Operating list (R303). -/
  oper : Option QbvList := none
  /-- List awaiting its change time (R303). -/
  pend : Option QbvList := none
  /-- HAL_Pp_QBV.entry (R303). -/
  entry : Nat := 0
  /-- HAL_Pp_QBV.gates (R303). -/
  gates : BitVec 8 := 255
  /-- Instant of the next gate event, Halyard total ns (R299). -/
  nextGate : Nat := 0
  /-- TC0 to TC7 (R298). -/
  queues : List (Nat × List EthFrame) := []
  /-- ETH drop counter (R15). -/
  drops : Word := 0
  /-- Compute-die receive ring: frames and stamps (R294). -/
  rxRing : List (List (BitVec 8) × Nat) := []
deriving DecidableEq, Repr, Inhabited

/-- A network-time domain. Rule R290. -/
structure Domain where
  /-- HAL_Dd_STATE: 0x70 to 0x75 (R303). -/
  state : Nat := 112
  /-- Profile (R300). -/
  profile : Nat := 0
  /-- Transport (R300). -/
  transport : Nat := 0
  /-- Two-step (R300). -/
  twoStep : Bool := false
  /-- Never MASTER (R300). -/
  slaveOnly : Bool := false
  /-- DomainNumber (R300). -/
  number : Nat := 0
  /-- Ports (R300). -/
  ports : BitVec 4 := 0
  /-- Ports that may act as master (R300). -/
  mports : BitVec 4 := 0
  /-- Priority1 (R300). -/
  prio1 : Nat := 0
  /-- Priority2 (R300). -/
  prio2 : Nat := 0
  /-- ClockClass (R300). -/
  clockClass : Nat := 0
  /-- LogSync (R300). -/
  logSync : Int := 0
  /-- LogAnnounce (R300). -/
  logAnnounce : Int := 0
  /-- LogPdelay (R300). -/
  logPdelay : Int := 0
  /-- Announce receipt timeout (R300). -/
  timeout : Nat := 0
  /-- Halyard ns of the last Announce, or of entry into LISTENING (R290). The model's own, log 11. -/
  annAt : Nat := 0
  /-- Kp, FP32 (0.7) (R300). -/
  kp : Word := 0x3F333333
  /-- Ki, FP32 (0.3) (R300). -/
  ki : Word := 0x3E99999A
  /-- Step threshold, ns (R300). -/
  step : Nat := 1000000
  /-- Lock threshold, ns (R300). -/
  lock : Nat := 100
  /-- O_d as held, signed, units of 2^-16 ns (R303). -/
  ofs : BitVec 64 := 0
  /-- R_d as held, signed, parts per 10^12 (R303). -/
  rate : BitVec 32 := 0
  /-- The domain's time less Halyard time as its last Sync gave it, in units of 2^-16 ns, beyond what o_d can hold (R286). The model's own, log 172. -/
  diff : Int := 0
  /-- Grandmaster clockIdentity (R303). -/
  gm : Nat := 0
  /-- Grandmaster clockClass (R301). -/
  gmClass : Nat := 0
  /-- StepsRemoved (R301). -/
  stepsRemoved : Nat := 0
  /-- HAL_Dd_UTC.offset (R303). -/
  utc : Nat := 0
  /-- HAL_Dd_UTC.valid (R303). -/
  utcValid : Bool := false
  /-- HAL_Dd_CNT_SYNC (R303). -/
  cntSync : Word := 0
  /-- Consecutive updates within the lock threshold (R290). -/
  good : Nat := 0
  /-- Consecutive updates with residual above 1 us (R290). -/
  bad : Nat := 0
  /-- HCLK cycle since which it has been usable (R292). The model's own, log 2. -/
  usableSince : Nat := 0
  /-- Halyard ns of the last update (R291). -/
  lastUpd : Nat := 0
deriving DecidableEq, Repr, Inhabited

/-- A decision on the counter that takes effect 16 HCLK edges after it was made. Rule R287. -/
structure HalWrite where
  /-- HCLK cycle at which it takes effect (R287). -/
  due : Nat := 0
  /-- New mode (R287). -/
  mode : Option Nat := none
  /-- Increment that software wrote, units of 2^-32 ns (R287). -/
  incr : Option Nat := none
  /-- Increment that the servo sets (R291). -/
  servo : Option Nat := none
  /-- Manual step: the counter's new value, units of 2^-32 ns (R286). -/
  set : Option Nat := none
  /-- Acquisition step: what the counter gains, units of 2^-16 ns (R286). -/
  add : Option Int := none
deriving DecidableEq, Repr, Inhabited

/-- The Halyard time base. Rule R303. -/
structure Hal where
  /-- Seconds, 48 bits (R281). -/
  sec : Nat := 0
  /-- Nanoseconds (R281). -/
  ns : Nat := 0
  /-- Fraction, 2^-32 ns (R281). -/
  f : Nat := 0
  /-- HCLK cycles counted by the model's ticks (R281). The model's own, log 2. -/
  hclk : Nat := 0
  /-- Effective increment I, units of 2^-32 ns (R282). -/
  inc : Nat := 17179869184
  /-- HAL_CTRL.mode (R303). -/
  mode : Nat := 2
  /-- HAL_CTRL.pref (R303). -/
  pref : Nat := 0
  /-- HAL_CTRL.revert (R303). -/
  revert : Nat := 10
  /-- HAL_CTRL.step_ok (R303). -/
  stepOk : Bool := true
  /-- HAL_STATUS.source (R303). -/
  source : Nat := 0
  /-- HAL_STATUS.holdover (R303). -/
  holdover : Bool := false
  /-- HAL_STATUS.slewing (R303). -/
  slewing : Bool := false
  /-- HAL_STATUS.stepped (R303). -/
  stepped : Bool := false
  /-- HAL_STATUS.step_refused (R303). -/
  stepRefused : Bool := false
  /-- HAL_STATUS.switch_blocked (R303). -/
  switchBlocked : Bool := false
  /-- HAL_STATUS.copy_fail (R303). -/
  copyFail : Bool := false
  /-- HAL_SLEW.ppm (R303). -/
  slew : Nat := 50
  /-- HAL_SWITCH.max_ns (R303). -/
  maxNs : Word := 1000000
  /-- HAL_SET_NS (R303). -/
  setNs : Word := 0
  /-- HAL_SET_SEC_LO (R303). -/
  setLo : Word := 0
  /-- HAL_SET_SEC_HI (R303). -/
  setHi : Word := 0
  /-- HAL_CNT_SWITCH (R303). -/
  cntSwitch : Word := 0
  /-- HAL_CNT_STEP (R303). -/
  cntStep : Word := 0
  /-- HAL_CNT_INCR_IGN (R303). -/
  cntIncrIgn : Word := 0
  /-- A first source has been taken since reset (R286). -/
  acquired : Bool := false
  /-- Decisions not yet in effect (R287). -/
  pend : List HalWrite := []
  /-- Latch of each master (R302). -/
  snaps : List (Nat × Word × Word) := []
  /-- Domains A and B (R290). -/
  domains : List (Nat × Domain) := []
  /-- Ethernet ports 0 to 3 (R303). -/
  ports : List (Nat × HalPort) := []
deriving DecidableEq, Repr, Inhabited

/-- A MOVER launch waiting on its dependency. Rule R317. -/
structure MoverWait where
  /-- Launch point (R317). -/
  point : Nat := 0
  /-- Period count (R317). -/
  count : Nat := 0
deriving DecidableEq, Repr, Inhabited

/-- How a launched list ended in a period. Rule R317. -/
structure ListEnd where
  /-- LIST point (R317). -/
  point : Nat := 0
  /-- Period count (R317). -/
  count : Nat := 0
  /-- Completed (else stopped or discarded) (R317). -/
  ok : Bool := true
deriving DecidableEq, Repr, Inhabited

/-- A sail-plan slot. Rule R305. -/
structure Plan where
  /-- State code 0x50 to 0x54 (R323). -/
  state : Nat := 80
  /-- Period, ns (R304). -/
  period : Nat := 0
  /-- Phase, ns (R304). -/
  phase : Nat := 0
  /-- Owning context (R304). -/
  ctx : Nat := 0
  /-- Fence mask (R304). -/
  fences : BitVec 16 := 0
  /-- Launch points, eight words each (R304). -/
  points : List (List Word) := []
  /-- Checked list of each LIST point (R305). -/
  lists : List (Nat × List (List Word)) := []
  /-- Window length w of each LIST point, ns: its duration and its memory allowance (R307). -/
  allow : List (Nat × Nat) := []
  /-- CRC-32C of the image (R397). -/
  imageCrc : Word := 0
  /-- Engines with a LIST or SELFTEST point (R323). -/
  engines : BitVec 8 := 0
  /-- Start instant, Halyard total ns (R323). -/
  start : Nat := 0
  /-- Period count c (R323). -/
  count : Nat := 0
  /-- Instant at which the present period began (R311). -/
  periodNs : Nat := 0
  /-- CNT_LATE (R323). -/
  cntLate : Word := 0
  /-- CNT_OVERRUN (R323). -/
  cntOverrun : Word := 0
  /-- CNT_TELLTALE (R323). -/
  cntTelltale : Word := 0
  /-- CNT_DEFER (R323). -/
  cntDefer : Word := 0
  /-- CNT_ABORT (R323). -/
  cntAbort : Word := 0
  /-- CNT_SKIP (R323). -/
  cntSkip : Word := 0
  /-- SLACK_MIN (R323). -/
  slackMin : Word := 0xFFFFFFFF
  /-- CNT_STARVED (R323). -/
  cntStarved : Word := 0
  /-- MOVER launches waiting on their lists (R317). -/
  movers : List MoverWait := []
  /-- Lists ended in the present and last period (R317). -/
  ends : List ListEnd := []
  /-- Digests sent and not yet at Plinth: monitor, period count, LIST point, CRC-32C (R319). -/
  digests : List (Nat × Nat × Nat × Word) := []
  /-- Points launched and their period counts (R311). -/
  launched : List (Nat × Nat) := []
deriving DecidableEq, Repr, Inhabited

/-- A deadline monitor on Plinth. Rule R318. -/
structure Monitor where
  /-- Armed (R318). -/
  armed : Bool := false
  /-- Plan slot (R318). -/
  slot : Nat := 0
  /-- MONITOR point (R318). -/
  point : Nat := 0
  /-- Period count (R318). -/
  count : Nat := 0
  /-- 0 ACTION, 1 COMPLETION, 2 DIGEST (R304). -/
  watch : Nat := 0
  /-- Watched LIST point (R304). -/
  wpoint : Nat := 0
  /-- Instant of expiry, ns (R318). -/
  expiry : Nat := 0
  /-- Expected digest (R304). -/
  expect : Word := 0
  /-- Satisfied (R318). -/
  satisfied : Bool := false
  /-- Order of arming (R318). The model's own, log 22. -/
  order : Nat := 0
deriving DecidableEq, Repr, Inhabited

/-- A verified Trim image, split into its sections. Rule R336. -/
structure TrimImage where
  /-- States (R336). -/
  nx : Nat := 1
  /-- Inputs (R336). -/
  nu : Nat := 1
  /-- Measurements (R336). -/
  ny : Nat := 1
  /-- Referenced states (R336). -/
  nr : Nat := 0
  /-- Scheduling variables used (R336). -/
  nsv : Nat := 0
  /-- Sample period, ns (R336). -/
  period : Nat := 1000000
  /-- Phase, ns (R336). -/
  phase : Nat := 0
  /-- Wait, ns (R336). -/
  wait : Nat := 0
  /-- Apply offset, ns (R336). -/
  applyOfs : Nat := 0
  /-- Time domain of the motor frames (R336). -/
  domain : Nat := 0
  /-- Absent samples before FLT_LINK (R336). -/
  missLimit : Nat := 1
  /-- Words 8 to 11: source and index of each scheduling variable (R336). -/
  vars : List Word := []
  /-- Measurement map (R336). -/
  meas : List Word := []
  /-- Output map (R334). -/
  outs : List Word := []
  /-- Initial estimate (R336). -/
  x0 : List Word := []
  /-- Region entries, twelve words each (R332). -/
  regions : List (List Word) := []
  /-- Gain sets: A, B, C, K, L, each row-major (R336). -/
  gains : List (List Word) := []
  /-- Its signature block (R348). -/
  sig : List Word := []
deriving DecidableEq, Repr, Inhabited

/-- A sensor frame held in Plinth SRAM. Rule R328. -/
structure RxFrame where
  /-- Ratline node (R327). -/
  node : Nat := 0
  /-- Sample instant on Plinth's counter, ns (R327). -/
  inst : Nat := 0
  /-- Ethernet port it arrived on (R14). The model's own, log 24. -/
  port : Nat := 0
  /-- The ratline frame (R258). -/
  bytes : List (BitVec 8) := []
  /-- Its receive stamp, units of 2^-16 ns of Halyard (R294). -/
  stamp : Nat := 0
deriving DecidableEq, Repr, Inhabited

/-- A setpoint: the elements of an action payload. Rule R330. -/
structure Setpoint where
  /-- X_ref (R330). -/
  xref : List Word := []
  /-- U_ff (R330). -/
  uff : List Word := []
  /-- Scheduling values (R330). -/
  sched : List Word := []
  /-- Held or taken from the Maquette (R335). -/
  subst : Bool := true
deriving DecidableEq, Repr, Inhabited

/-- A Trim sample awaiting its frames or running. Rule R327. -/
structure TrimRun where
  /-- Its instant T, ns (R327). -/
  t : Nat := 0
  /-- Started (R327). -/
  started : Bool := false
  /-- The setpoint it uses (R331). -/
  set : Setpoint := {}
  /-- Measurements, none where absent (R328). -/
  y : List (Option Word) := []
  /-- Its deadline has passed (R329). -/
  late : Bool := false
  /-- Torques of step 4 (R324). -/
  u : List Word := []
  /-- State estimate of step 6 (R324). -/
  x : List Word := []
  /-- Innovations of step 5 (R324). -/
  e : List Word := []
  /-- Scheduling variables (R333). -/
  sig : List Word := []
  /-- Blend factor, 0 where the sample does not blend (R333). -/
  alpha : Word := 0
  /-- The sample blends (R333). -/
  blend : Bool := false
  /-- Its B, row-major (R324). -/
  b : List Word := []
  /-- A torque or the new estimate is not finite (R325). -/
  bad : Bool := false
deriving DecidableEq, Repr, Inhabited

/-- A Trim trace configuration. Rule R338. -/
structure TraceCfg where
  /-- Node words (R338). -/
  nodes : List Word := []
  /-- 0 one-shot, 1 ring until trigger (R338). -/
  mode : Nat := 0
  /-- Trigger kind (R338). -/
  trigger : Nat := 0
  /-- Decimation (R338). -/
  decim : Nat := 1
  /-- Records the buffer holds (R338). -/
  samples : Nat := 1
  /-- Records before the trigger (R338). -/
  pre : Nat := 0
  /-- Samples from configuration to trigger (R338). -/
  arg : Nat := 0
deriving DecidableEq, Repr, Inhabited

/-- The Trim engine and its registers. Rule R324. -/
structure Trim where
  /-- The active image (R337). -/
  active : Option TrimImage := none
  /-- A verified image that awaits its replacement instant (R337). -/
  pend : Option TrimImage := none
  /-- Plinth ns from which it may replace the active one (R337). -/
  pendFrom : Nat := 0
  /-- State estimate (R324). -/
  xhat : List Word := []
  /-- Torques computed in the previous sample (R324). -/
  uPrev : List Word := []
  /-- Torques sent in the previous sample (R324). -/
  uSent : List Word := []
  /-- B of the previous sample, row-major (R324). -/
  bPrev : List Word := []
  /-- Region of the previous sample (R338). -/
  lastRegion : Nat := 0
  /-- The previous sample's torques were altered before sending (R324). -/
  altered : Bool := false
  /-- Next sample instant, Plinth ns (R327). -/
  nextT : Nat := 0
  /-- The sample under way (R327). -/
  run : Option TrimRun := none
  /-- Sensor frames in Plinth SRAM, newest first (R327). -/
  rx : List RxFrame := []
  /-- Consecutive absences per node (R328). -/
  miss : List (Nat × Nat) := []
  /-- Sequence counter per output node (R335). -/
  seqs : List (Nat × Word) := []
  /-- TRIM_STATUS.state (R340). -/
  state : Nat := 0
  /-- TRIM_STATUS.region (R340). -/
  region : Nat := 0
  /-- TRIM_STATUS.blend (R340). -/
  blend : Bool := false
  /-- TRIM_SAMPLES (R340). -/
  samples : Word := 0
  /-- TRIM_LAST_CYC (R340). -/
  lastCyc : Nat := 0
  /-- TRIM_CNT_MISSING (R340). -/
  cntMissing : Word := 0
  /-- TRIM_CNT_SKIP (R340). -/
  cntSkip : Word := 0
  /-- TRIM_CNT_NOREGION (R340). -/
  cntNoRegion : Word := 0
  /-- TRIM_CNT_BLEND (R340). -/
  cntBlend : Word := 0
  /-- TRIM_CNT_BADACT (R340). -/
  cntBadAct : Word := 0
  /-- TRIM_CNT_STARTLATE (R340). -/
  cntStartLate : Word := 0
  /-- TRIM_STATUS.trace (R340). -/
  trace : Nat := 0
  /-- The trace configuration (R338). -/
  traceCfg : TraceCfg := {}
  /-- Records captured, newest first (R339). -/
  traceRecs : List (List Word) := []
  /-- Samples since configuration (R338). -/
  traceSeen : Nat := 0
  /-- Records still to capture after the trigger (R339). -/
  traceLeft : Option Nat := none
  /-- A Plinth fault arose since the last sample (R338). -/
  traceFault : Bool := false
deriving DecidableEq, Repr, Inhabited

/-- A valid Maquette result. Rule R355. -/
structure MaqResult where
  /-- Its instant, Plinth ns (R358). -/
  t : Nat := 0
  /-- Action, P elements (R355). -/
  act : List Word := []
  /-- Lower bounds (R355). -/
  lo : List Word := []
  /-- Upper bounds (R355). -/
  hi : List Word := []
deriving DecidableEq, Repr, Inhabited

/-- The instance of the action monitor that awaits its decision. Rule R358. -/
structure ActInst where
  /-- Period count (R358). -/
  count : Nat := 0
  /-- The monitor expired (R358). -/
  expired : Bool := false
  /-- Action payload words, none where it is missing or bad (R330). -/
  payload : Option (List Word) := none
deriving DecidableEq, Repr, Inhabited

/-- The Plinth die: mode, comparator, Maquette and safe-stop outputs. Rule R368. -/
structure Plinth where
  /-- PLN_MODE.mode (R368). -/
  mode : Nat := 128
  /-- PLN_MODE.ss0: SS0 in stop (R368). -/
  ss0 : Bool := true
  /-- PLN_MODE.ss1: SS1 in stop (R368). -/
  ss1 : Bool := true
  /-- Levels of SS0_A, SS0_B, SS1_A, SS1_B (R363). -/
  pins : BitVec 4 := 0
  /-- PLN_MODE.free_run (R368). -/
  freeRun : Bool := false
  /-- The last ten decisions, newest first: rejected (R359). -/
  hist : List Bool := []
  /-- PLN_REJ.holds (R368). -/
  holds : Nat := 0
  /-- PLN_CNT_ACCEPT (R368). -/
  cntAccept : Word := 0
  /-- PLN_CNT_SUBST (R368). -/
  cntSubst : Word := 0
  /-- PLN_CNT_HOLD (R368). -/
  cntHold : Word := 0
  /-- PLN_CNT_NOENV (R368). -/
  cntNoEnv : Word := 0
  /-- PLN_CNT_SHADOW (R368). -/
  cntShadow : Word := 0
  /-- PLN_CNT_CLAMP (R368). -/
  cntClamp : Word := 0
  /-- PLN_CNT_MAILBOX (R368). -/
  cntMailbox : Word := 0
  /-- PLN_CNT_BRIDGE (R368). -/
  cntBridge : Word := 0
  /-- PLN_CNT_STOP (R368). -/
  cntStop : Word := 0
  /-- PLN_DEPTH_AGE (R368). -/
  depthAge : Word := 0xFFFFFFFF
  /-- Plinth's time counter, units of 2^-32 ns (R343). DESIGN CHOICE, log 23. -/
  time : Nat := 0
  /-- Consecutive updates within 50 us during free run (R344). -/
  conv : Nat := 0
  /-- Converging toward the updates (R344). -/
  slewing : Bool := false
  /-- Plinth ns of the last valid time update (R344). The model's own, log 11. -/
  updAt : Nat := 0
  /-- Plinth ns of entry into a free run that has not yet passed free_max (R344). The model's own, log 11. -/
  freeSince : Option Nat := none
  /-- A verified image runs (R432). -/
  booted : Bool := false
  /-- ROM awaits its image over the bridge (R432). -/
  awaiting : Bool := false
  /-- The setpoint applied (R331). -/
  applied : Option Setpoint := none
  /-- A decision that applies from the next sample (R331). -/
  next : Option Setpoint := none
  /-- Instance awaiting its decision (R358). -/
  inst : Option ActInst := none
  /-- Ns between two instances of the action monitor, as its last arming gave it; 0 = never armed (R25). The model's own, log 149. -/
  actPeriod : Nat := 0
  /-- Plinth ns at which, with no further arming, the next period passes without an action (R25). The model's own, log 149. -/
  actDue : Nat := 0
  /-- Plan slots and period counts in which a monitor raised a fault, newest first (R318). The model's own, log 22. -/
  missed : List (Nat × Nat) := []
  /-- The last ten shadow decisions were ACCEPT, newest first (R346). -/
  shadow : List Bool := []
  /-- Latest valid Maquette result (R358). -/
  maq : Option MaqResult := none
  /-- Step under way: instant, buffer 0, buffer 1 (R353). -/
  maqRun : Option (Nat × List Int × List Int) := none
  /-- Next Maquette instant, Plinth ns (R353). -/
  maqNext : Nat := 0
  /-- Plinth ns of the last known-answer run (R356). The model's own, log 11. -/
  katAt : Nat := 0
  /-- Latest depth grid (R342). -/
  grid : Option (List (BitVec 16)) := none
  /-- Its Halyard stamp, ns (R357). -/
  gridStamp : Nat := 0
  /-- Safety parameters, eight words (R349). -/
  params : Option (List Word) := none
  /-- Limits entries, eight words each (R350). -/
  limits : List (List Word) := []
  /-- Maquette model object before its signature block (R354). -/
  model : Option (List (BitVec 8)) := none
  /-- Signature blocks in force, objects 1 to 4 (R348). -/
  sigs : List (Nat × List Word) := []
  /-- Replay counters per safety key slot (R348). -/
  counters : List (Nat × Nat) := []
  /-- Object streaming into the staging area: packet parameters (R347). -/
  staging : Option (Nat × List Word) := none
  /-- Mode change that applies from the next decision instant (R346). -/
  modeReq : Option Nat := none
  /-- A RESTART awaits its edge (R346). -/
  restart : Bool := false
  /-- Plinth ns at which the RESTART was applied (R346). The model's own, log 11. -/
  restartAt : Nat := 0
  /-- Supply, clock and output-readback faults that persist (R346). -/
  persist : BitVec 3 := 0
  /-- Setpoint in force before T0 (R361). -/
  rampBase : Option Setpoint := none
  /-- T0, Plinth ns (R361). -/
  rampT0 : Nat := 0
  /-- Ramp samples taken (R361). -/
  rampK : Nat := 0
  /-- Nr (R361). -/
  rampN : Nat := 0
  /-- The ramp awaits its first sample instant (R361). -/
  rampPend : Bool := false
  /-- SS1 awaits brake_delay (R362). -/
  ss1Wait : Bool := false
  /-- Plinth ns at which SS0 went to stop (R362). The model's own, log 11. -/
  ss0At : Nat := 0
  /-- Previous sent torque of each joint, keyed 64 x node + joint (R352). -/
  torque : List (Nat × Word) := []
  /-- FLT_DEADLINE of the last ten samples, newest first (R365). -/
  deadHist : List Bool := []
  /-- Plinth's fault log (R366). -/
  log : FaultLog := {}
  /-- Corrections of Plinth SRAM counted (R365). -/
  sramCorr : Word := 0
  /-- Frames in the TC7 hold, each with its port (R403). -/
  txHold : List (Nat × EthFrame) := []
deriving DecidableEq, Repr, Inhabited

/-- Twin pairing: SHR and the Plinth twin registers. Rule R410. -/
structure Twin where
  /-- SHR_STATUS.state (R410). -/
  state : Nat := 144
  /-- SHR_STATUS.lanes (R410). -/
  lanes : Nat := 0
  /-- SHR_STATUS.side (R410). -/
  side : Bool := false
  /-- The main link is up (R395). -/
  up : Bool := false
  /-- SHR_CNT_REPLAY (R410). -/
  cntReplay : Word := 0
  /-- SHR_CNT_DIGEST (R410). -/
  cntDigest : Word := 0
  /-- SHR_CNT_REDIRECT (R410). -/
  cntRedirect : Word := 0
  /-- SHR_CNT_LATE_DISCARD (R410). -/
  cntLate : Word := 0
  /-- Identity key named for the peer (R394). -/
  peerKey : List (BitVec 8) := []
  /-- Transmit preset of TWIN_LINK_UP (R394). DESIGN CHOICE, log 176. -/
  preset : Nat := 0
  /-- Receive equaliser boost of TWIN_LINK_UP (R394). DESIGN CHOICE, log 176. -/
  boost : Nat := 0
  /-- SPLIT: local and peer contexts (R396). -/
  pairs : List (Nat × Nat) := []
  /-- Own mailbox prefixes by period count (R401). -/
  prefixes : List (Nat × List Word) := []
  /-- The peer's mailbox prefixes by period count (R401). -/
  peerPrefixes : List (Nat × List Word) := []
  /-- The peer's mode request, which arrived first (R396). -/
  peerReq : Option PeerFacts := none
  /-- Halyard ns at which the own mode request was accepted (R396). The model's own, log 11. -/
  reqAt : Nat := 0
  /-- Halyard ns at which the peer's mode request arrived (R396). The model's own, log 11. -/
  peerAt : Nat := 0
  /-- PLN_TWIN.role (R410). -/
  role : Bool := true
  /-- PLN_TWIN.eligible (R410). -/
  eligible : Bool := false
  /-- PLN_TWIN.alive_in (R410). -/
  aliveIn : Bool := false
  /-- Level of TWIN_ALIVE_O (R402). -/
  aliveOut : Bool := false
  /-- An edge arrived since the previous check (R406). -/
  edge : Bool := false
  /-- Valid token since the previous check (R406). -/
  token : Option (List Word) := none
  /-- Plinth ns of the heartbeat check that is due (R406). The model's own, log 11. -/
  hbAt : Option Nat := none
  /-- Peer's Plinth mode code (R409). -/
  peerMode : Nat := 0
  /-- The last token's rej (R403). -/
  rej : Nat := 0
  /-- Consecutive samples with an adopted state block (R404). -/
  adopted : Nat := 0
  /-- A block was adopted in the current sample (R404). -/
  adoptedNow : Bool := false
  /-- CRC-32C of the own frames of the sample (R403). -/
  frameCrc : Word := 0
  /-- 0 none, 1 flag set for the next sample, 2 sample k sent, 3 the peer hands over: ACTIVE from the next sample (R408). -/
  handover : Nat := 0
  /-- PLN_TWIN_CNT_TAKEOVER (R410). -/
  cntTakeover : Word := 0
  /-- PLN_TWIN_CNT_HB_MISS (R410). -/
  cntHbMiss : Word := 0
  /-- PLN_TWIN_CNT_BAD (R410). -/
  cntBad : Word := 0
  /-- PLN_TWIN_CNT_DIVERGE (R410). -/
  cntDiverge : Word := 0
  /-- Stop cause to mirror in the next token (R405). -/
  stopCause : Option Nat := none
  /-- Stopped for a cause of its own (R404). -/
  ownStop : Bool := false
deriving DecidableEq, Repr, Inhabited

/-- The event controller. Rule R422. -/
structure Evc where
  /-- EVC_CTRL.disable (R422). -/
  disable : Bool := false
  /-- EVC_CNT_SPUR (R422). -/
  cntSpur : Word := 0
  /-- EVC_CNT_BAD_EOI (R422). -/
  cntBadEoi : Word := 0
  /-- EVC_ENg (R422). -/
  en : List (Nat × Word) := []
  /-- EVC_PENDg (R422). -/
  pend : List (Nat × Word) := []
  /-- Active sources and the processor + 1 that claimed each (R422). -/
  active : List (Nat × Nat) := []
  /-- EVC_GRPg.holdoff (R422). -/
  holdoff : List (Nat × Nat) := []
  /-- EVC_GRPg.prio (R422). -/
  prio : List (Nat × Nat) := []
  /-- EVC_GRPg.holding (R422). -/
  holding : BitVec 16 := 0
  /-- Halyard ns at which the hold-off of a group last began (R418). The model's own, log 11. -/
  holdAt : List (Nat × Nat) := []
  /-- EVC_CPk_MASK.mask (R422). -/
  mask : BitVec 4 := 15
  /-- EVC_CPk_STATUS.sleep (R422). -/
  sleep : BitVec 4 := 0
  /-- EVC_BRGg.vector (R422). -/
  vector : List (Nat × Nat) := []
  /-- EVC_BRG_LATCH (R422). -/
  latch : BitVec 16 := 0
  /-- EVC_BRG_CNT (R422). -/
  brgCnt : Word := 0
  /-- EVC_TGTs (R422). -/
  tgt : List (Nat × Nat) := []
deriving DecidableEq, Repr, Inhabited

/-- An access-table entry. Rule R443. -/
structure AccEntry where
  /-- First byte (R443). -/
  base : Nat := 0
  /-- 0 device, 1 BAR0, 2 boot flash, 3 unused (R443). -/
  space : Nat := 0
  /-- Last byte (R443). -/
  limit : Nat := 0
  /-- Read mask (R443). -/
  rmask : BitVec 64 := 0
  /-- Write mask (R443). -/
  wmask : BitVec 64 := 0
deriving DecidableEq, Repr, Inhabited

/-- Protection and life cycle. Rule R443. -/
structure Sec where
  /-- Life-cycle fuses, as the codes of R427 (FIELD_DEBUG apart) (R443). DESIGN CHOICE, log 7. -/
  lc : Nat := 3
  /-- SEC_STATUS.debug (R443). -/
  debug : Bool := false
  /-- A debug session is open (R427). -/
  session : Bool := false
  /-- SEC_LOCK.lock (R443). -/
  locked : Bool := false
  /-- SEC_STATUS.fallback (R443). -/
  fallback : Bool := false
  /-- SEC_SVN.compute (R443). DESIGN CHOICE, log 7. -/
  svnC : Nat := 0
  /-- SEC_SVN.plinth (R443). DESIGN CHOICE, log 7. -/
  svnP : Nat := 0
  /-- SEC_VER_C (R443). DESIGN CHOICE, log 7. -/
  verC : Word := 0
  /-- SEC_VER_P (R443). DESIGN CHOICE, log 7. -/
  verP : Word := 0
  /-- SEC_KEYREV.fw (R443). DESIGN CHOICE, log 7. -/
  keyrev : BitVec 4 := 0
  /-- SEC_VIOL_CNT (R443). -/
  violCnt : Word := 0
  /-- SEC_VIOL.master (R443). -/
  violMaster : Nat := 0
  /-- SEC_VIOL.write (R443). -/
  violWrite : Bool := false
  /-- SEC_VIOL.entry (R443). -/
  violEntry : Nat := 0
  /-- SEC_VIOL_ADDR (R443). -/
  violAddr : Nat := 0
  /-- Access table (R443). -/
  table : List (Nat × AccEntry) := []
  /-- Firmware public keys of slots 0 to 3 (slot 0 the root) (R427). DESIGN CHOICE, log 7. -/
  fwKeys : List (Nat × List (BitVec 8)) := Config.fwKeys
  /-- SEC owner public keys (R427). DESIGN CHOICE, log 7. -/
  ownerKeys : List (Nat × List (BitVec 8)) := Config.ownerKeys
  /-- Safety public keys (R427). DESIGN CHOICE, log 7. -/
  safetyKeys : List (Nat × List (BitVec 8)) := Config.safetyKeys
  /-- Every SEC, firmware and safety key slot is revoked (RMA) (R426). -/
  revoked : Bool := false
  /-- SHA-512 of the running compute image (R429). -/
  imgC : List (BitVec 8) := []
  /-- SHA-512 of the running Plinth image (R429). -/
  imgP : List (BitVec 8) := []
  /-- Neither compute slot passed at boot (R431). -/
  noImage : Bool := false
  /-- Compute slot that runs (R431). -/
  bootSlot : Nat := 0
  /-- Identity seed fuses destroyed (RMA) (R426). -/
  seedGone : Bool := false
deriving DecidableEq, Repr, Inhabited

/-- A result entry. Rule R448. -/
structure TestRes where
  /-- 0 not run, 1 pass, 2 fail, 3 skipped, 4 aborted (R448). -/
  result : Nat := 0
  /-- Found by an online slice (R448). -/
  online : Bool := false
  /-- Duration, us (R448). -/
  dur : Word := 0
  /-- Where [31:0] (R448). -/
  whereLo : Word := 0
  /-- Where [63:32] (R448). -/
  whereHi : Word := 0
  /-- Time as R284 (R448). -/
  time : Word × Word × Word := (0, 0, 0)
  /-- Signature (R448). -/
  sig : Word := 0
deriving DecidableEq, Repr, Inhabited

/-- A store record. Rule R441. -/
structure StoreRec where
  /-- Sequence (R441). -/
  seq : Nat := 0
  /-- Active compute slot (R441). DESIGN CHOICE, log 7. -/
  slotC : Nat := 0
  /-- Active Plinth slot (R441). DESIGN CHOICE, log 7. -/
  slotP : Nat := 0
  /-- Compute tries (R441). -/
  tries : Nat := 0
  /-- Slot A failed (R441). -/
  failA : Bool := false
  /-- Slot B failed (R441). -/
  failB : Bool := false
  /-- Running compute fwver (R441). -/
  runC : Word := 0
  /-- Highest accepted compute fwver (R441). -/
  hiC : Word := 0
  /-- Running Plinth fwver (R441). -/
  runP : Word := 0
  /-- Highest accepted Plinth fwver (R441). -/
  hiP : Word := 0
  /-- Session state code (R441). -/
  sess : Nat := 96
  /-- Session target (R441). -/
  sessTarget : Nat := 0
  /-- Session slot (R441). -/
  sessSlot : Nat := 0
  /-- SHA-512 of the session's manifest (R441). -/
  sessHash : List (BitVec 8) := []
  /-- SEC owner key replay counters (R441). -/
  owner : List (Nat × Nat) := []
  /-- Safety key replay counters (R441). -/
  safety : List (Nat × Nat) := []
  /-- Granule entries (R441). -/
  granules : List (Nat × Granule) := []
  /-- Results header: valid (R448). -/
  resValid : Bool := false
  /-- Results header: fwver (R448). -/
  resFwver : Word := 0
  /-- Results header: time (R448). -/
  resTime : Word × Word × Word := (0, 0, 0)
  /-- Results header: passed (R448). -/
  resPassed : Nat := 0
  /-- Results header: failed (R448). -/
  resFailed : Nat := 0
  /-- Results header: skipped (R448). -/
  resSkipped : Nat := 0
  /-- Result entries (R448). -/
  results : List (Nat × TestRes) := []
deriving DecidableEq, Repr, Inhabited

/-- The persistent store. Rule R442. -/
structure Store where
  /-- The record in memory (R442). -/
  cur : StoreRec := {}
  /-- Bank 0 where it is valid (R441). DESIGN CHOICE, log 7. -/
  bank0 : Option StoreRec := some { seq := 1 }
  /-- Bank 1 where it is valid (R441). DESIGN CHOICE, log 7. -/
  bank1 : Option StoreRec := none
  /-- SEC_STORE_BANK.bank (R443). -/
  bank : Bool := false
  /-- SEC_STORE_BANK.fail (R443). -/
  fail : Bool := false
  /-- SEC_STORE.seq (R443). -/
  seq : Word := 0
  /-- Record being written (R442). -/
  writing : Option StoreRec := none
  /-- It is being programmed once more (R442). -/
  again : Bool := false
  /-- Writes requested during the write (R442). -/
  queued : Bool := false
  /-- SEC_STATUS.store_lost (R443). -/
  lost : Bool := false
deriving DecidableEq, Repr, Inhabited

/-- A firmware slot of the boot flash. Rule R433. -/
structure FlashSlot where
  /-- Manifest area (R433). -/
  manifest : List (BitVec 8) := []
  /-- Image blocks programmed (R433). -/
  blocks : List (Nat × List (BitVec 8)) := []
  /-- Blocks whose progress bit is programmed (R437). -/
  progress : List Nat := []
  /-- Not marked invalid (R437). -/
  valid : Bool := false
deriving DecidableEq, Repr, Inhabited

/-- The update session. Rule R436. -/
structure Upd where
  /-- SEC_STATUS.upd: 0x60 to 0x64 (R443). -/
  state : Nat := 96
  /-- Target (R434). -/
  target : Nat := 0
  /-- Opened from the service port (R439). -/
  svp : Bool := false
  /-- Block being programmed (R437). -/
  busy : Option (Nat × List (BitVec 8)) := none
  /-- A whole-image read is under way (R437). -/
  verifying : Bool := false
  /-- The staging read for activation is under way (R438). -/
  staging : Bool := false
  /-- Store writes that activation still waits for (R438). -/
  acting : Nat := 0
  /-- Stated activation instant, Halyard total ns (R438). -/
  atNs : Option Nat := none
deriving DecidableEq, Repr, Inhabited

/-- The service port. Rule R439. -/
structure Svp where
  /-- SEC_STATUS.svp (R443). -/
  opened : Bool := false
  /-- Manifest pieces by offset (R439). -/
  manifest : List (Nat × List (BitVec 8)) := []
  /-- Chunks received, keyed 16 x block + chunk (R439). -/
  chunks : List (Nat × List (BitVec 8)) := []
  /-- Tool frames whose answer is due: type and seq (R439). The model's own, log 22. -/
  pendSeq : List (Nat × Nat) := []
  /-- Halyard ns of the last valid frame (R439). The model's own, log 11. -/
  frameAt : Nat := 0
deriving DecidableEq, Repr, Inhabited

/-- A loop-back slot. Rule R460. -/
structure LoopBack where
  /-- Interface (R460). -/
  iface : Nat := 0
  /-- Index (R460). -/
  index : Nat := 0
  /-- Depth, 0 = free (R460). -/
  depth : Nat := 0
  /-- Pattern (R459). -/
  pattern : Nat := 0
  /-- Bits checked, 64 bits (R460). -/
  bits : Nat := 0
  /-- Bit errors (R460). -/
  err : Word := 0
deriving DecidableEq, Repr, Inhabited

/-- A run of test blocks under way. Rule R446. -/
structure TestRun where
  /-- Number of its packet (R450). The model's own, log 22. -/
  no : Nat := 0
  /-- The shut-down test (R445). -/
  shut : Bool := false
  /-- Listed blocks not yet started (R446). -/
  todo : List Nat := []
  /-- Blocks running (R446). -/
  active : List Nat := []
  /-- Blocks passed (R445). -/
  passed : Nat := 0
  /-- Blocks failed (R445). -/
  failed : Nat := 0
  /-- Blocks skipped (R445). -/
  skipped : Nat := 0
  /-- Results so far (R448). -/
  results : List (Nat × TestRes) := []
deriving DecidableEq, Repr, Inhabited

/-- The test controller. Rule R460. -/
structure Tst where
  /-- The runs under way; TST_STATUS.run is 1 with a shut-down test, else 2 with a TEST_RUN, else 0 (R460). -/
  runs : List TestRun := []
  /-- Of the shut-down test: 1 plans retire, 2 contexts are scrubbed, 3 the mark of an invalid run is written, 4 blocks run, 5 the results are written (R445). The model's own, log 22. -/
  phase : Nat := 0
  /-- Store writes the shut-down test still waits for (R445). -/
  hold : Nat := 0
  /-- TST_STATUS.slice (R460). -/
  slice : Bool := false
  /-- TST_STATUS.engine (R460). -/
  engine : Nat := 0
  /-- TST_STATUS.stale (R460). -/
  stale : Bool := false
  /-- TST_CFG.budget (R460). -/
  budget : Nat := 180
  /-- TST_FENCE.engines (from the store) (R460). -/
  engines : BitVec 8 := 0
  /-- TST_FENCE.movers (from the store) (R460). -/
  movers : BitVec 16 := 0
  /-- TST_FENCE.ports (from the store) (R460). -/
  ports : BitVec 8 := 0
  /-- Block 20 failed (R444). -/
  shrFail : Bool := false
  /-- TST_CNT_SLICE (R460). -/
  cntSlice : Word := 0
  /-- TST_CNT_FAIL (R460). -/
  cntFail : Word := 0
  /-- TST_CNT_YIELD (R460). -/
  cntYield : Word := 0
  /-- Latest result of each block (R451). -/
  latest : List (Nat × TestRes) := []
  /-- Loop-back slots 0 to 3 (R460). -/
  loops : List (Nat × LoopBack) := []
  /-- Engines rotated (R456). -/
  dpMask : BitVec 8 := 0
  /-- Rotation interval, ms (R456). -/
  interval : Nat := 0
  /-- Next slice of each engine's sweep (R454). -/
  nextSlice : List (Nat × Nat) := []
deriving DecidableEq, Repr, Inhabited

/-- Clocks, power and reset. Rule R475. -/
structure Cpw where
  /-- CPW_STATUS.reef (R475). -/
  reef : Nat := 0
  /-- CPW_STATUS.target (R475). -/
  target : Nat := 0
  /-- CPW_STATUS.ramping (R475). -/
  ramping : Bool := false
  /-- CPW_STATUS.dp_scale (R475). -/
  k : Nat := 64
  /-- CPW_STATUS.align (R475). -/
  align : Bool := false
  /-- CPW_STATUS.thermal (R475). -/
  thermal : Nat := 0
  /-- T is at or above the throttle point (R475). -/
  throttle : Bool := false
  /-- CPW_POWER (R475). -/
  power : Nat := 0
  /-- CPW_POWER_PEAK (R475). -/
  peak : Nat := 0
  /-- CPW_TEMP_CD (R475). -/
  tempCd : BitVec 12 := 0
  /-- CPW_TEMP_PSM (R475). -/
  tempPsm : BitVec 12 := 0
  /-- CPW_TEMP_PLN (R475). -/
  tempPln : BitVec 12 := 0
  /-- T as the last thermal command gave it, units of 0.125 °C (R474). The model's own, log 22. -/
  temp : Int := 0
  /-- CPW_THERM_CFG.warn (R475). -/
  warn : Nat := 10
  /-- CPW_THERM_CFG.throttle (R475). -/
  throttleCfg : Nat := 3
  /-- CPW_CFG.wake_reef (R475). -/
  wakeReef : Nat := 0
  /-- CPW_WDOG.timeout (R475). -/
  wdog : Nat := 0
  /-- Halyard ns of the last write of CPW_WDOG (R466). The model's own, log 11. -/
  wdogAt : Nat := 0
  /-- CPW_RST_CAUSE (R475). -/
  cause : BitVec 7 := 1
  /-- CPW_CNT_THROTTLE (R475). -/
  cntThrottle : Word := 0
  /-- CPW_CNT_OVER (R475). -/
  cntOver : Word := 0
  /-- Excess counted towards the next millisecond, units of 100 us (R470). -/
  overUs : Nat := 0
  /-- Cap at the start of the ramp, mW (R471). -/
  rampFrom : Nat := 300000
  /-- Ramp length, units of 100 us (R471). -/
  rampLen : Nat := 0
  /-- Ramp position, units of 100 us (R471). -/
  rampPos : Nat := 0
  /-- Previous commanded level (R471). -/
  prev : Nat := 0
  /-- Time T has been below Tjmax - warn, units of 100 ms (R474). -/
  cool : Nat := 0
  /-- CORE_EN: the core island is powered (R465). -/
  coreOn : Bool := true
  /-- The core island is held in reset or starting (R466). -/
  coreHeld : Bool := true
  /-- Every PLL is in lock (R463). -/
  pllOk : Bool := true
  /-- The 1 ms before a core reset runs (R468). -/
  resetDue : Bool := false
  /-- Halyard ns at which that 1 ms began (R468). The model's own, log 11. -/
  resetAt : Nat := 0
  /-- A core rail is out of its range (R466). -/
  railBad : Bool := false
  /-- The 1 ms before CORE_EN falls runs (R471). -/
  reefDue : Bool := false
  /-- Halyard ns at which that 1 ms began (R471). The model's own, log 11. -/
  reefAt : Nat := 0
  /-- Level of FLASH_RSTn: low while PORn is low (R487). -/
  flashRst : Bool := false
  /-- Level of ETH_PHY_RSTn: low while PORn is low (R488). -/
  ethRst : Bool := false
deriving DecidableEq, Repr, Inhabited

/-- The KV counters. Rule R247. -/
structure KvCnt where
  /-- DEV_KV_STALE (R247). -/
  stale : Word := 0
  /-- DEV_KV_REWOUND (R247). -/
  rewound : Word := 0
  /-- DEV_KV_SWAP_OUT (R247). -/
  out : Word := 0
  /-- DEV_KV_SWAP_IN (R247). -/
  back : Word := 0
deriving DecidableEq, Repr, Inhabited

/-- The scheduler's registers. Rule R392. -/
structure Sch where
  /-- SCH_CNT_SWITCH (R392). -/
  switches : Word := 0
  /-- SCH_CNT_REMOTE (R392). -/
  remotes : Word := 0
  /-- Latched high words, keyed 4096 x master + offset (R391). -/
  latch : List (Nat × Word) := []
deriving DecidableEq, Repr, Inhabited

/-- Something the device sends out, oldest last. Rule R34. -/
structure Output where
  /-- 0 MSI-X message, 1 Ethernet frame, 2 pin pulse, 3 service-port frame, 4 sideband message, 5 Shroud frame, 6 control-processor interrupt or wake, 7 bridge transfer to Plinth (0 mailbox, 1 depth grid) (R34). The model's own, log 22. -/
  kind : Nat := 0
  /-- Vector, port, pin or message type (R34). The model's own, log 22. -/
  dest : Nat := 0
  /-- Its bytes (R34). The model's own, log 22. -/
  data : List (BitVec 8) := []
deriving DecidableEq, Repr, Inhabited

/-- The completion of the last bus read or write. Rule R5. -/
structure Bus where
  /-- 0 success, 1 Unsupported Request, 2 Completer Abort (R5). The model's own, log 22. -/
  status : Nat := 0
  /-- Bytes returned (R5). The model's own, log 22. -/
  data : List (BitVec 8) := []
deriving DecidableEq, Repr, Inhabited

/-- The whole device. Rule R63. -/
structure State where
  /-- Host interface (R65). -/
  hif : Hif := {}
  /-- Device state code: 0x01 INIT, 0x02 READY and so on (see State.reset) (R63). -/
  dev : Nat := 0
  /-- Clients (R370). -/
  clients : List (Nat × Client) := []
  /-- Partitions 0 to 3 (R60). -/
  partitions : List (Nat × Partition) := []
  /-- Contexts 0 to 63 (R371). -/
  ctxs : List (Nat × Ctx) := []
  /-- Engines 0 to 7 (R67). -/
  engines : List (Nat × Engine) := []
  /-- Transfers under way (R183). -/
  transfers : List Transfer := []
  /-- Number of the next transfer (R183). The model's own, log 22. -/
  xferNo : Nat := 0
  /-- Packets taken and not yet applied, in the order taken (R39). -/
  taken : List Packet := []
  /-- Number of the next packet taken (R39). The model's own, log 22. -/
  takenNo : Nat := 0
  /-- Packets whose final reply is due (R48). -/
  opens : List OpenReq := []
  /-- Packets taken are discarded (after DEV_RESET_COMPUTE) (R468). -/
  discard : Bool := false
  /-- Memory: PSM, Commons, scratchpads and host memory (R169). -/
  mem : List Host.Cell := []
  /-- PSM granules in use (R180). -/
  psmUse : List PsmUse := []
  /-- PSM controller (R191). -/
  psmc : Psmc := {}
  /-- Commons (R168). -/
  commons : Commons := {}
  /-- Translation (R192). -/
  xlt : Xlt := {}
  /-- KV page directory (R225). -/
  kvDir : List (Nat × DirEntry) := []
  /-- Sequences (R219). -/
  kvSeqs : List (Nat × Seq) := []
  /-- KV counters (R247). -/
  kv : KvCnt := {}
  /-- Scheduler registers (R392). -/
  sch : Sch := {}
  /-- Running steps (R231). -/
  steps : List (Nat × Step) := []
  /-- Front end (R280). -/
  fe : Fe := {}
  /-- Halyard (R303). -/
  hal : Hal := {}
  /-- Sail-plan slots (R305). -/
  plans : List (Nat × Plan) := []
  /-- Deadline monitors (R318). -/
  monitors : List (Nat × Monitor) := []
  /-- Compute-die fault log (R366). -/
  log : FaultLog := {}
  /-- Trim (R324). -/
  trim : Trim := {}
  /-- Plinth (R368). -/
  plinth : Plinth := {}
  /-- Twin pairing (R410). -/
  twin : Twin := {}
  /-- Event controller (R422). -/
  evc : Evc := {}
  /-- Protection (R443). -/
  sec : Sec := {}
  /-- Update session (R436). -/
  upd : Upd := {}
  /-- Service port (R439). -/
  svp : Svp := {}
  /-- Persistent store (R442). -/
  store : Store := {}
  /-- Slots: 0 and 1 Plinth A and B, 2 and 3 compute A and B (R433). DESIGN CHOICE, log 7. -/
  flash : List (Nat × FlashSlot) := []
  /-- Test controller (R460). -/
  tst : Tst := {}
  /-- Clocks and power (R475). -/
  cpw : Cpw := {}
  /-- Command-store bytes in use (R73). -/
  cmdUse : Nat := 0
  /-- Completion of the last bus access (R5). The model's own, log 22. -/
  bus : Bus := {}
  /-- Everything sent out (R34). The model's own, log 22. -/
  outs : List Output := []
  /-- Counter the free values are drawn with (R93). The model's own, log 20. -/
  free : Nat := 0
  /-- Commands that wait, first in first out. The model's own, log 22. -/
  pending : List Instr := []
deriving DecidableEq, Repr, Inhabited

/-- The machine right after a power-on reset, before the core reset is released: INIT, Plinth in INIT, memory with
nothing listed, every register at its reset value. Client 0, the supervisor, may use every class and hold every context
(R370). -/
def State.reset : State :=
  { dev := 1, clients := [(0, { classes := 7, maxCtx := 64 })] }

end Sys2Proof.Machine
end

