-- ==== Sys2Proof/Machine/Ops.lean ====
section
/-! DEFINITION. The named operations over tables, words, memory and time that every meaning uses. -/

namespace Sys2Proof.Machine

/-! ### Tables: lists of (number, row) pairs, numbers rising -/

/-- The row of a number, or `d` where none is listed. -/
def Tab.get {α : Type} (d : α) : List (Nat × α) → Nat → α
  | [], _ => d
  | (k, x) :: t, i => if k = i then x else Tab.get d t i

/-- The row of a number, if one is listed. -/
def Tab.find {α : Type} : List (Nat × α) → Nat → Option α
  | [], _ => none
  | (k, x) :: t, i => if k = i then some x else Tab.find t i

/-- Write the row of a number, in its place. -/
def Tab.set {α : Type} : List (Nat × α) → Nat → α → List (Nat × α)
  | [], i, x => [(i, x)]
  | (k, y) :: t, i, x =>
    if k = i then (i, x) :: t else if i < k then (i, x) :: (k, y) :: t else (k, y) :: Tab.set t i x

/-- Drop the row of a number. -/
def Tab.erase {α : Type} (t : List (Nat × α)) (i : Nat) : List (Nat × α) := t.filter fun p => p.1 ≠ i

/-! ### Fields of words -/

/-- Bits `hi` to `lo` of a word, as a number. -/
def fld (w : Word) (hi lo : Nat) : Nat := (w.toNat / 2 ^ lo) % 2 ^ (hi + 1 - lo)

/-- Bit `i` of a word. -/
def bit (w : Word) (i : Nat) : Bool := w.getLsbD i

/-- A number as a word, modulo 2^32. -/
def wd (n : Nat) : Word := BitVec.ofNat 32 n

/-- An integer as a word, modulo 2^32. -/
def wdInt (i : Int) : Word := BitVec.ofInt 32 i

/-- A Boolean as bit `i` of a number. -/
def bitAt (b : Bool) (i : Nat) : Nat := if b then 2 ^ i else 0

/-- Word `i` of a list, 0 beyond its end. -/
def wat (ws : List Word) (i : Nat) : Word := ws.getD i 0

/-- The 64-bit value of two words, low word first. -/
def w64 (lo hi : Word) : Nat := lo.toNat + 2 ^ 32 * hi.toNat

/-- Saturating increment of a counter that stops at all ones. -/
def satInc (w : Word) : Word := if w = 0xFFFFFFFF then w else w + 1

/-- A number limited to 32 bits. -/
def sat32 (n : Nat) : Word := if n < 2 ^ 32 then wd n else 0xFFFFFFFF

/-- An integer saturated to 32 signed bits. -/
def satS32 (i : Int) : Word :=
  if i > 0x7FFFFFFF then 0x7FFFFFFF else if i < -0x80000000 then 0x80000000 else wdInt i

/-- A signed value of `n` bits. -/
def sext (n v : Nat) : Int := if v < 2 ^ (n - 1) then (v : Int) else (v : Int) - 2 ^ n

/-- Update bit `i` of a bit vector. -/
def setBit {n : Nat} (v : BitVec n) (i : Nat) (b : Bool) : BitVec n :=
  if b then v ||| BitVec.ofNat n (2 ^ i) else v &&& ~~~(BitVec.ofNat n (2 ^ i))

/-- The numbers below `n` whose bit is set in `v`. -/
def bitsOf (n v : Nat) : List Nat := (List.range n).filter fun i => v / 2 ^ i % 2 = 1

/-- How many bits of the low `n` are set. -/
def popcount (n v : Nat) : Nat := (bitsOf n v).length

/-- The number with the listed bits set. -/
def maskOf (l : List Nat) : Nat := l.foldl (fun a i => if a / 2 ^ i % 2 = 1 then a else a + 2 ^ i) 0

/-- Sum of a list of numbers. -/
def sumN (l : List Nat) : Nat := l.foldl (· + ·) 0

/-- Quotient rounded up. -/
def cdiv (a b : Nat) : Nat := (a + b - 1) / b

/-! ### Bytes (little-endian, R5) -/

/-- The four bytes of a word. -/
def wordBytes (w : Word) : List Byte :=
  [w.setWidth 8, (w >>> 8).setWidth 8, (w >>> 16).setWidth 8, (w >>> 24).setWidth 8]

/-- The bytes of words. -/
def bytesOf (ws : List Word) : List Byte := ws.flatMap wordBytes

/-- The number that bytes spell, first byte lowest. -/
def leNat : List Byte → Nat
  | [] => 0
  | b :: bs => b.toNat + 256 * leNat bs

/-- `n` bytes of a number, lowest first. -/
def natBytes : Nat → Nat → List Byte
  | 0, _ => []
  | n + 1, v => BitVec.ofNat 8 v :: natBytes n (v / 256)

/-- The number that bytes spell, first byte highest (network order). -/
def beNat (bs : List Byte) : Nat := bs.foldl (fun a b => 256 * a + b.toNat) 0

/-- `n` bytes of a number, highest first. -/
def beBytes (n v : Nat) : List Byte := (natBytes n v).reverse

/-- Bytes `off` to `off + n - 1` of a list, zero beyond its end. -/
def slice (bs : List Byte) (off n : Nat) : List Byte :=
  let t := (bs.drop off).take n
  t ++ List.replicate (n - t.length) 0

/-- The word at a byte offset. -/
def wordAt (bs : List Byte) (off : Nat) : Word := wd (leNat (slice bs off 4))

/-- Cut a list into words, a last short word filled with zeros; `n` bounds the count. -/
def wordsOfFuel : Nat → List Byte → List Word
  | 0, _ => []
  | n + 1, a :: bs => wordAt (a :: bs) 0 :: wordsOfFuel n ((a :: bs).drop 4)
  | _ + 1, [] => []

/-- The words of a byte list. -/
def wordsOf (bs : List Byte) : List Word := wordsOfFuel (cdiv bs.length 4) bs

/-- Pieces of `k` elements each (the last may be short), at most `n` of them. -/
def chunks {α : Type} (k : Nat) : Nat → List α → List (List α)
  | 0, _ => []
  | _ + 1, [] => []
  | n + 1, a :: l => (a :: l).take k :: chunks k n ((a :: l).drop k)

/-! ### CRC-32C (R42) -/

/-- One bit of the reflected Castagnoli polynomial. -/
def crcBit (c : Word) : Word := if bit c 0 then (c >>> 1) ^^^ 0x82F63B78 else c >>> 1

/-- One byte of the CRC. -/
def crcByte (c : Word) (b : Byte) : Word :=
  let x := c ^^^ b.setWidth 32
  crcBit (crcBit (crcBit (crcBit (crcBit (crcBit (crcBit (crcBit x)))))))

/-- CRC-32C of bytes: initial value and final exclusive-or all ones. -/
def crc32c (bs : List Byte) : Word := (bs.foldl crcByte 0xFFFFFFFF) ^^^ 0xFFFFFFFF

/-- CRC-32C of words in little-endian order. -/
def crcWords (ws : List Word) : Word := crc32c (bytesOf ws)

/-! ### Memory: (address, byte) pairs, addresses strictly rising, no byte 0 listed -/

/-- What an address that is not listed reads as. DESIGN CHOICE, log 4. -/
def Memory.blank : Byte := 0

/-- The canonical form: addresses strictly rising, no blank byte listed. -/
def Memory.wf : List Host.Cell → Bool
  | [] => true
  | [(_, b)] => b != Memory.blank
  | (a, b) :: (a', b') :: t => decide (a < a') && b != Memory.blank && Memory.wf ((a', b') :: t)

/-- Read a byte. -/
def Memory.read (m : List Host.Cell) (a : Nat) : Byte := Tab.get Memory.blank m a

/-- The cells of bytes laid from an address on. -/
def Memory.cells : Nat → List Byte → List Host.Cell
  | _, [] => []
  | a, b :: bs => if b = Memory.blank then Memory.cells (a + 1) bs else (a, b) :: Memory.cells (a + 1) bs

/-- Write bytes from an address on. -/
def Memory.write (m : List Host.Cell) (a : Nat) (bs : List Byte) : List Host.Cell :=
  m.filter (fun c => c.1 < a) ++ Memory.cells a bs ++ m.filter (fun c => a + bs.length ≤ c.1)

/-- Zero `n` bytes from an address on. -/
def Memory.clear (m : List Host.Cell) (a n : Nat) : List Host.Cell :=
  m.filter fun c => c.1 < a ∨ a + n ≤ c.1

/-- The first `n` bytes from an address on. -/
def Memory.readN (m : List Host.Cell) (a n : Nat) : List Byte := (List.range n).map fun i => Memory.read m (a + i)

/-! ### The device physical space (R169) -/

/-- Bytes of PSM. -/
def psmSize : Nat := 96 * 2 ^ 30
/-- First byte of the explicit Commons. -/
def commonsBase : Nat := 0x100000000000
/-- First byte of engine `e`'s scratchpad. -/
def spmBase (e : Nat) : Nat := 0x110000000000 + e * 0x1000000
/-- Words of a scratchpad. -/
def spmWords : Nat := 196608
/-- First byte of host memory. -/
def hostBase : Nat := 0x800000000000

/-- Read bytes of the device physical space. -/
def State.rd (s : State) (a n : Nat) : List Byte := Memory.readN s.mem a n
/-- Write bytes of the device physical space. -/
def State.wr (s : State) (a : Nat) (bs : List Byte) : State := { s with mem := Memory.write s.mem a bs }
/-- Zero bytes of the device physical space. -/
def State.zero (s : State) (a n : Nat) : State := { s with mem := Memory.clear s.mem a n }
/-- Read a word of the device physical space. -/
def State.rdW (s : State) (a : Nat) : Word := wd (leNat (s.rd a 4))
/-- Read words of the device physical space. -/
def State.rdWs (s : State) (a n : Nat) : List Word := wordsOf (s.rd a (4 * n))
/-- Write bytes at a host bus address. -/
def State.wrHost (s : State) (a : Nat) (bs : List Byte) : State := s.wr (hostBase + a) bs
/-- Read bytes at a host bus address. -/
def State.rdHost (s : State) (a n : Nat) : List Byte := s.rd (hostBase + a) n

/-- Draw a free value (log 20). -/
def State.draw (s : State) : Word × State := (Config.freeWord s.free, { s with free := s.free + 1 })

/-- `n` free bytes, drawn a word at a time. -/
def State.drawBytes (s : State) (n : Nat) : List Byte × State :=
  (slice (bytesOf ((List.range (cdiv n 4)).map fun i => Config.freeWord (s.free + i))) 0 n,
    { s with free := s.free + cdiv n 4 })

/-- Something leaves the device. -/
def State.out (s : State) (kind dest : Nat) (data : List Byte) : State :=
  { s with outs := s.outs ++ [{ kind := kind, dest := dest, data := data }] }

/-- The bus access completes. -/
def State.busAns (s : State) (status : Nat) (data : List Byte) : State :=
  { s with bus := { status := status, data := data } }

/-- The bus access completes with a word. -/
def State.busWord (s : State) (w : Word) : State := s.busAns 0 (wordBytes w)

/-- Change the hif part of the state. -/
def State.upHif (s : State) (g : Hif → Hif) : State := { s with hif := g s.hif }

/-- Change the psmc part of the state. -/
def State.upPsmc (s : State) (g : Psmc → Psmc) : State := { s with psmc := g s.psmc }

/-- Change the commons part of the state. -/
def State.upCommons (s : State) (g : Commons → Commons) : State := { s with commons := g s.commons }

/-- Change the xlt part of the state. -/
def State.upXlt (s : State) (g : Xlt → Xlt) : State := { s with xlt := g s.xlt }

/-- Change the fe part of the state. -/
def State.upFe (s : State) (g : Fe → Fe) : State := { s with fe := g s.fe }

/-- Change the hal part of the state. -/
def State.upHal (s : State) (g : Hal → Hal) : State := { s with hal := g s.hal }

/-- Change the trim part of the state. -/
def State.upTrim (s : State) (g : Trim → Trim) : State := { s with trim := g s.trim }

/-- Change the plinth part of the state. -/
def State.upPlinth (s : State) (g : Plinth → Plinth) : State := { s with plinth := g s.plinth }

/-- Change the twin part of the state. -/
def State.upTwin (s : State) (g : Twin → Twin) : State := { s with twin := g s.twin }

/-- Change the evc part of the state. -/
def State.upEvc (s : State) (g : Evc → Evc) : State := { s with evc := g s.evc }

/-- Change the sec part of the state. -/
def State.upSec (s : State) (g : Sec → Sec) : State := { s with sec := g s.sec }

/-- Change the upd part of the state. -/
def State.upUpd (s : State) (g : Upd → Upd) : State := { s with upd := g s.upd }

/-- Change the svp part of the state. -/
def State.upSvp (s : State) (g : Svp → Svp) : State := { s with svp := g s.svp }

/-- Change the store part of the state. -/
def State.upStore (s : State) (g : Store → Store) : State := { s with store := g s.store }

/-- Change the tst part of the state. -/
def State.upTst (s : State) (g : Tst → Tst) : State := { s with tst := g s.tst }

/-- Change the cpw part of the state. -/
def State.upCpw (s : State) (g : Cpw → Cpw) : State := { s with cpw := g s.cpw }

/-- Row `i` of the clients table. -/
def State.client (s : State) (i : Nat) : Client := Tab.get {} s.clients i
/-- Write row `i` of the clients table. -/
def State.setClient (s : State) (i : Nat) (x : Client) : State := { s with clients := Tab.set s.clients i x }

/-- Change row `i` of that table. -/
def State.upClient (s : State) (i : Nat) (g : Client → Client) : State := s.setClient i (g (s.client i))

/-- Row `i` of the partitions table. -/
def State.part (s : State) (i : Nat) : Partition := Tab.get {} s.partitions i
/-- Write row `i` of the partitions table. -/
def State.setPart (s : State) (i : Nat) (x : Partition) : State := { s with partitions := Tab.set s.partitions i x }

/-- Change row `i` of that table. -/
def State.upPart (s : State) (i : Nat) (g : Partition → Partition) : State := s.setPart i (g (s.part i))

/-- Row `i` of the ctxs table. -/
def State.ctx (s : State) (i : Nat) : Ctx := Tab.get {} s.ctxs i
/-- Write row `i` of the ctxs table. -/
def State.setCtx (s : State) (i : Nat) (x : Ctx) : State := { s with ctxs := Tab.set s.ctxs i x }

/-- Change row `i` of that table. -/
def State.upCtx (s : State) (i : Nat) (g : Ctx → Ctx) : State := s.setCtx i (g (s.ctx i))

/-- Row `i` of the engines table. -/
def State.engine (s : State) (i : Nat) : Engine := Tab.get {} s.engines i
/-- Write row `i` of the engines table. -/
def State.setEngine (s : State) (i : Nat) (x : Engine) : State := { s with engines := Tab.set s.engines i x }

/-- Change row `i` of that table. -/
def State.upEngine (s : State) (i : Nat) (g : Engine → Engine) : State := s.setEngine i (g (s.engine i))

/-- Row `i` of the kvSeqs table. -/
def State.seq (s : State) (i : Nat) : Seq := Tab.get {} s.kvSeqs i
/-- Write row `i` of the kvSeqs table. -/
def State.setSeq (s : State) (i : Nat) (x : Seq) : State := { s with kvSeqs := Tab.set s.kvSeqs i x }

/-- Change row `i` of that table. -/
def State.upSeq (s : State) (i : Nat) (g : Seq → Seq) : State := s.setSeq i (g (s.seq i))

/-- Row `i` of the kvDir table. -/
def State.dir (s : State) (i : Nat) : DirEntry := Tab.get {} s.kvDir i
/-- Write row `i` of the kvDir table. -/
def State.setDir (s : State) (i : Nat) (x : DirEntry) : State := { s with kvDir := Tab.set s.kvDir i x }

/-- Change row `i` of that table. -/
def State.upDir (s : State) (i : Nat) (g : DirEntry → DirEntry) : State := s.setDir i (g (s.dir i))

/-- Row `i` of the steps table. -/
def State.step (s : State) (i : Nat) : Step := Tab.get {} s.steps i
/-- Write row `i` of the steps table. -/
def State.setStep (s : State) (i : Nat) (x : Step) : State := { s with steps := Tab.set s.steps i x }

/-- Change row `i` of that table. -/
def State.upStep (s : State) (i : Nat) (g : Step → Step) : State := s.setStep i (g (s.step i))

/-- Row `i` of the plans table. -/
def State.plan (s : State) (i : Nat) : Plan := Tab.get {} s.plans i
/-- Write row `i` of the plans table. -/
def State.setPlan (s : State) (i : Nat) (x : Plan) : State := { s with plans := Tab.set s.plans i x }

/-- Change row `i` of that table. -/
def State.upPlan (s : State) (i : Nat) (g : Plan → Plan) : State := s.setPlan i (g (s.plan i))

/-- Row `i` of the monitors table. -/
def State.monitor (s : State) (i : Nat) : Monitor := Tab.get {} s.monitors i
/-- Write row `i` of the monitors table. -/
def State.setMonitor (s : State) (i : Nat) (x : Monitor) : State := { s with monitors := Tab.set s.monitors i x }

/-- Change row `i` of that table. -/
def State.upMonitor (s : State) (i : Nat) (g : Monitor → Monitor) : State := s.setMonitor i (g (s.monitor i))

/-- Row `i` of the flash table. -/
def State.slotOf (s : State) (i : Nat) : FlashSlot := Tab.get {} s.flash i
/-- Write row `i` of the flash table. -/
def State.setSlotOf (s : State) (i : Nat) (x : FlashSlot) : State := { s with flash := Tab.set s.flash i x }

/-- Change row `i` of that table. -/
def State.upSlotOf (s : State) (i : Nat) (g : FlashSlot → FlashSlot) : State := s.setSlotOf i (g (s.slotOf i))

/-- Row `i` of the hif.rings table. -/
def State.ring (s : State) (i : Nat) : Ring := Tab.get {} s.hif.rings i
/-- Write row `i` of the hif.rings table. -/
def State.setRing (s : State) (i : Nat) (x : Ring) : State :=
  { s with hif := { s.hif with rings := Tab.set s.hif.rings i x } }

/-- Change row `i` of that table. -/
def State.upRing (s : State) (i : Nat) (g : Ring → Ring) : State := s.setRing i (g (s.ring i))

/-- Row `i` of the hif.apertures table. -/
def State.ap (s : State) (i : Nat) : Aperture := Tab.get {} s.hif.apertures i
/-- Write row `i` of the hif.apertures table. -/
def State.setAp (s : State) (i : Nat) (x : Aperture) : State :=
  { s with hif := { s.hif with apertures := Tab.set s.hif.apertures i x } }

/-- Change row `i` of that table. -/
def State.upAp (s : State) (i : Nat) (g : Aperture → Aperture) : State := s.setAp i (g (s.ap i))

/-- Row `i` of the fe.streams table. -/
def State.stream (s : State) (i : Nat) : Stream := Tab.get {} s.fe.streams i
/-- Write row `i` of the fe.streams table. -/
def State.setStream (s : State) (i : Nat) (x : Stream) : State :=
  { s with fe := { s.fe with streams := Tab.set s.fe.streams i x } }

/-- Change row `i` of that table. -/
def State.upStream (s : State) (i : Nat) (g : Stream → Stream) : State := s.setStream i (g (s.stream i))

/-- Row `i` of the fe.groups table. -/
def State.group (s : State) (i : Nat) : Group := Tab.get {} s.fe.groups i
/-- Write row `i` of the fe.groups table. -/
def State.setGroup (s : State) (i : Nat) (x : Group) : State :=
  { s with fe := { s.fe with groups := Tab.set s.fe.groups i x } }

/-- Change row `i` of that table. -/
def State.upGroup (s : State) (i : Nat) (g : Group → Group) : State := s.setGroup i (g (s.group i))

/-- Row `i` of the fe.ports table. -/
def State.csi (s : State) (i : Nat) : CsiPort := Tab.get {} s.fe.ports i
/-- Write row `i` of the fe.ports table. -/
def State.setCsi (s : State) (i : Nat) (x : CsiPort) : State :=
  { s with fe := { s.fe with ports := Tab.set s.fe.ports i x } }

/-- Change row `i` of that table. -/
def State.upCsi (s : State) (i : Nat) (g : CsiPort → CsiPort) : State := s.setCsi i (g (s.csi i))

/-- Row `i` of the hal.ports table. -/
def State.hport (s : State) (i : Nat) : HalPort := Tab.get {} s.hal.ports i
/-- Write row `i` of the hal.ports table. -/
def State.setHport (s : State) (i : Nat) (x : HalPort) : State :=
  { s with hal := { s.hal with ports := Tab.set s.hal.ports i x } }

/-- Change row `i` of that table. -/
def State.upHport (s : State) (i : Nat) (g : HalPort → HalPort) : State := s.setHport i (g (s.hport i))

/-- Row `i` of the hal.domains table. -/
def State.domain (s : State) (i : Nat) : Domain := Tab.get {} s.hal.domains i
/-- Write row `i` of the hal.domains table. -/
def State.setDomain (s : State) (i : Nat) (x : Domain) : State :=
  { s with hal := { s.hal with domains := Tab.set s.hal.domains i x } }

/-- Change row `i` of that table. -/
def State.upDomain (s : State) (i : Nat) (g : Domain → Domain) : State := s.setDomain i (g (s.domain i))

/-! ### Halyard time (R281, R282, R285) -/

/-- Nanoseconds of the counter. -/
def Hal.nowNs (h : Hal) : Nat := h.sec * 1000000000 + h.ns
/-- The counter in units of 2^-32 ns. -/
def Hal.total (h : Hal) : Nat := h.nowNs * 2 ^ 32 + h.f
/-- Set the counter from units of 2^-32 ns. -/
def Hal.setTotal (h : Hal) (t : Nat) : Hal :=
  { h with sec := t / 2 ^ 32 / 1000000000, ns := t / 2 ^ 32 % 1000000000, f := t % 2 ^ 32 }
/-- The counter in units of 2^-16 ns, the resolution of stamps. -/
def Hal.stamp (h : Hal) : Nat := h.total / 2 ^ 16
/-- The wrapping view (R285). -/
def Hal.ns32 (h : Hal) : Word := wd h.nowNs
/-- The nominal increment: 4 ns. -/
def Hal.nominal : Nat := 0x40000 * 2 ^ 16
/-- An increment limited to nominal plus or minus 500 ppm (R282). -/
def Hal.clamp (i : Nat) : Nat :=
  if i < 0x3FF7D * 2 ^ 16 then 0x3FF7D * 2 ^ 16 else if 0x40083 * 2 ^ 16 < i then 0x40083 * 2 ^ 16 else i
/-- The three words of a time value (R284). -/
def timeWords (sec ns frac : Nat) : List Word := [wd ns, wd sec, wd (sec / 2 ^ 32 % 2 ^ 16 + 2 ^ 16 * frac)]
/-- The counter as a time value. -/
def Hal.words (h : Hal) : List Word := timeWords h.sec h.ns (h.f / 2 ^ 16)
/-- A time in nanoseconds as a time value with fraction 0. -/
def nsWords (t : Nat) : List Word := timeWords (t / 1000000000) (t % 1000000000) 0

/-- The low or the high word that a value has which its register cannot hold: open (log 172). -/
def heldFree (v : Int) (i : Nat) : Nat := (Config.openWord 9 [v.natAbs, bitAt (decide (v < 0)) 0] i).toNat
/-- A signed value in a register of `k` bits; the spec states none where it does not fit (log 172). -/
def heldInt (k : Nat) (v : Int) : BitVec k :=
  if -2 ^ (k - 1) ≤ v ∧ v < 2 ^ (k - 1) then BitVec.ofInt k v else BitVec.ofNat k (heldFree v 0 + 2 ^ 32 * heldFree v 1)

/-- The counter moves by a step: elapsed times go on as they were, and it is counted (R286). -/
def Hal.stepped' (h h' : Hal) : Hal :=
  let move := fun (t : Nat) => ((t : Int) + h'.nowNs - h.nowNs).toNat
  { h' with cntStep := h.cntStep + 1, stepped := true
            domains := h.domains.map fun p => (p.1, { p.2 with lastUpd := move p.2.lastUpd }) }

/-- The counter gains what makes it the time of the domain that it acquires: every offset loses as much (R286, R291). -/
def Hal.acquire (h : Hal) (o : Int) : Hal :=
  let h := h.stepped' (h.setTotal ((h.total : Int) + o * 65536).toNat)
  { h with domains := h.domains.map fun p => (p.1, { p.2 with diff := p.2.diff - o, ofs := heldInt 64 (p.2.diff - o) }) }

/-- A decision takes effect on its edge (R282, R286, R287): software's increment in MANUAL alone, the servo's in SERVO. -/
def Hal.take (h : Hal) (w : HalWrite) : Hal :=
  let h := match w.mode with
    | none => h
    | some m =>
      { h with mode := m
               inc := if m = 0 then Hal.nominal
                      else if m = 2 ∧ h.source = 0 then Hal.clamp (Hal.nominal + h.inc % 2 ^ 16) else h.inc }
  let h := match w.incr with
    | none => h
    | some i => if h.mode = 1 then { h with inc := i } else { h with cntIncrIgn := h.cntIncrIgn + 1 }
  let h := match w.servo with
    | none => h
    | some i => if h.mode = 2 then { h with inc := i } else h
  let h := match w.set with
    | none => h
    | some t => h.stepped' (h.setTotal t)
  match w.add with
  | none => h
  | some o => h.acquire o

/-- `n` edges of HCLK with the present increment. -/
def Hal.plain (h : Hal) (n : Nat) : Hal := { h.setTotal (h.total + n * h.inc) with hclk := h.hclk + n }

/-- `n` edges of HCLK, software changes taking effect on their edges. -/
def Hal.runWith (h : Hal) (n : Nat) : List HalWrite → Hal
  | [] => { h.plain n with pend := [] }
  | w :: ws =>
    if w.due ≤ h.hclk + n then
      ((h.plain (w.due - h.hclk)).take w).runWith (n - (w.due - h.hclk)) ws
    else { h.plain n with pend := w :: ws }

/-- `n` edges of HCLK. -/
def Hal.run (h : Hal) (n : Nat) : Hal := h.runWith n h.pend

/-- Edges of HCLK until the counter has gained `need` units of 2^-32 ns. -/
def Hal.edgesWith (h : Hal) (need : Nat) : List HalWrite → Nat
  | [] => cdiv need h.inc
  | w :: ws =>
    if need ≤ (w.due - h.hclk) * h.inc then cdiv need h.inc
    else
      let h' := (h.plain (w.due - h.hclk)).take w
      (w.due - h.hclk) + h'.edgesWith (h.total + need - h'.total) ws

/-- Scheduled actions start: ALIGN holds and no Halyard copy disagrees (R287, R463). -/
def State.launches (s : State) : Bool := s.cpw.align && !s.hal.copyFail

/-- Halyard runs while the core island does. -/
def State.halRuns (s : State) : Bool := s.cpw.coreOn && !s.cpw.coreHeld

/-- `n` HCLK periods pass: Halyard advances while the core island runs, and Plinth's counter advances at the rate it
measured, which the model takes as the present increment (log 23). -/
def State.pass (s : State) (n : Nat) : State :=
  let p := { s.plinth with time := s.plinth.time + n * s.hal.inc }
  if s.halRuns then { s with hal := s.hal.run n, plinth := p } else { s with plinth := p }

/-- Time passes until Halyard reads at least `t` ns (R288). Nothing happens where it does already, or where Halyard
does not run. -/
def State.passTo (s : State) (t : Nat) : State :=
  if s.halRuns ∧ s.hal.total < t * 2 ^ 32 then
    s.pass (s.hal.edgesWith (t * 2 ^ 32 - s.hal.total) s.hal.pend)
  else s

/-- Plinth's counter in ns. -/
def State.pnow (s : State) : Nat := s.plinth.time / 2 ^ 32

/-- Time passes until Plinth's counter reads at least `t` ns. -/
def State.passPln (s : State) (t : Nat) : State :=
  if s.plinth.time < t * 2 ^ 32 then
    s.pass (s.hal.edgesWith (t * 2 ^ 32 - s.plinth.time)
      (if s.halRuns then s.hal.pend.map fun w => { w with set := none, add := none } else []))
  else s

end Sys2Proof.Machine
end

