-- ==== Sys2Proof/Machine/Num.lean ====
section
/-! DEFINITION. Number formats and exact rounding (R101, R105, R106, R109, R110, R117, R119). -/

namespace Sys2Proof.Machine

/-- A number as a format gives it: a NaN, an infinity, or a sign with a magnitude `m * 2^e`. -/
inductive FV where
  | nan
  | inf (neg : Bool)
  | fin (neg : Bool) (m : Nat) (e : Int)
deriving DecidableEq, Repr, Inhabited

/-- A floating-point format: significand bits, exponent of the smallest normal, code of the largest finite value, place
of the sign bit, whether it has infinities, canonical NaN (R105). -/
structure FFmt where
  /-- Significand bits, the leading one included. -/
  p : Nat
  /-- Exponent of the smallest normal. -/
  emin : Int
  /-- Magnitude code of the largest finite value. -/
  maxc : Nat
  /-- Place of the sign bit. -/
  sgn : Nat
  /-- Has infinities (their magnitude code is `maxc + 1`). -/
  hasInf : Bool
  /-- Canonical NaN; 0 where the format has none. -/
  nan : Nat
deriving DecidableEq, Repr, Inhabited

/-- FP32. -/
def fFP32 : FFmt := ⟨24, -126, 0x7F7FFFFF, 31, true, 0x7FC00000⟩
/-- BF16. -/
def fBF16 : FFmt := ⟨8, -126, 0x7F7F, 15, true, 0x7FC0⟩
/-- FP16. -/
def fFP16 : FFmt := ⟨11, -14, 0x7BFF, 15, true, 0x7E00⟩
/-- FP8E5M2. -/
def fE5M2 : FFmt := ⟨3, -14, 0x7B, 7, true, 0x7E⟩
/-- FP8E4M3. -/
def fE4M3 : FFmt := ⟨4, -6, 0x7E, 7, false, 0x7F⟩
/-- FP4. -/
def fFP4 : FFmt := ⟨2, 0, 7, 3, false, 0⟩

/-- The value of a code. -/
def FFmt.dec (f : FFmt) (c : Nat) : FV :=
  let neg := c.testBit f.sgn
  let g := c % 2 ^ f.sgn
  if f.maxc < g then (if f.hasInf ∧ g = f.maxc + 1 then .inf neg else .nan)
  else
    let ex := g / 2 ^ (f.p - 1)
    let fr := g % 2 ^ (f.p - 1)
    let q := f.emin - ((f.p : Int) - 1)
    if ex = 0 then .fin neg fr q else .fin neg (fr + 2 ^ (f.p - 1)) (q + ((ex : Int) - 1))

/-- The code of a magnitude with a sign. -/
def FFmt.code (f : FFmt) (neg : Bool) (g : Nat) : Nat := g + bitAt neg f.sgn

/-- Whether a mode rounds a magnitude away from zero: `half` compares the dropped part with one half. -/
def roundAway (mode : Nat) (neg odd : Bool) (half : Ordering) (exact : Bool) : Bool :=
  if exact then false
  else if mode = 0 then (match half with | .gt => true | .eq => odd | .lt => false)
  else if mode = 1 then false
  else if mode = 2 then !neg
  else neg

/-- Round the quotient `num / den` to a whole number in a mode. -/
def roundQuot (mode : Nat) (neg : Bool) (num den : Nat) : Nat :=
  let n := num / den
  let r := num % den
  if roundAway mode neg (n % 2 == 1) (compare (2 * r) den) (r == 0) then n + 1 else n

/-- What lies beyond the largest finite value (R109). -/
def FFmt.overflow (f : FFmt) (mode : Nat) (neg : Bool) : Nat :=
  if !f.hasInf then f.code neg f.maxc
  else if mode = 0 ∨ (mode = 2 ∧ ¬ neg) ∨ (mode = 3 ∧ neg) then f.code neg (f.maxc + 1)
  else f.code neg f.maxc

/-- The place of the leading bit of `num / den` (both positive). -/
def floorLog (num den : Nat) : Int :=
  let e : Int := (num.log2 : Int) - den.log2
  let less := if 0 ≤ e then decide (num < den * 2 ^ e.toNat) else decide (num * 2 ^ (-e).toNat < den)
  if less then e - 1 else e

/-- The code of the value `num / den * 2^e` rounded once in a mode; a zero keeps its sign. -/
def FFmt.round (f : FFmt) (mode : Nat) (neg : Bool) (num den : Nat) (e : Int) : Nat :=
  if num = 0 ∨ den = 0 then f.code neg 0
  else
    let qmin := f.emin - ((f.p : Int) - 1)
    let q := max qmin (floorLog num den + e - ((f.p : Int) - 1))
    let sh := e - q
    let sig := if 0 ≤ sh then roundQuot mode neg (num * 2 ^ sh.toNat) den
      else roundQuot mode neg num (den * 2 ^ (-sh).toNat)
    let g := (q - qmin).toNat * 2 ^ (f.p - 1) + sig
    if f.maxc < g then f.overflow mode neg else f.code neg g

/-- The code of a value of a format in a mode, signs of zeros kept (R109). -/
def FFmt.ofFV (f : FFmt) (mode : Nat) : FV → Nat
  | .nan => f.nan
  | .inf neg => if f.hasInf then f.code neg (f.maxc + 1) else f.code neg f.maxc
  | .fin neg m e => f.round mode neg m 1 e

/-- The sign of an exactly zero sum: + but in mode 3 (R110). -/
def zeroSum (mode : Nat) : FV := .fin (mode == 3) 0 0

/-- An exact integer multiple of a power of two as a sum's value (R110). -/
def FV.ofSum (mode : Nat) (v : Int) (e : Int) : FV := if v = 0 then zeroSum mode else .fin (decide (v < 0)) v.natAbs e

/-- The signed significand of a finite value at exponent `e` not above its own. -/
def sig (neg : Bool) (m : Nat) (em e : Int) : Int :=
  let v : Int := (m * 2 ^ (em - e).toNat : Nat)
  if neg then -v else v

/-- Exact sum; `mode` fixes the sign of a zero sum (R110). -/
def FV.add (mode : Nat) : FV → FV → FV
  | .nan, _ => .nan
  | _, .nan => .nan
  | .inf a, .inf b => if a = b then .inf a else .nan
  | .inf a, _ => .inf a
  | _, .inf b => .inf b
  | .fin a m e, .fin b n d =>
    let q := min e d
    FV.ofSum mode (sig a m e q + sig b n d q) q

/-- Negation. -/
def FV.neg : FV → FV
  | .nan => .nan
  | .inf a => .inf (!a)
  | .fin a m e => .fin (!a) m e

/-- Magnitude. -/
def FV.abs : FV → FV
  | .nan => .nan
  | .inf _ => .inf false
  | .fin _ m e => .fin false m e

/-- Exact product. -/
def FV.mul : FV → FV → FV
  | .nan, _ => .nan
  | _, .nan => .nan
  | .inf a, .inf b => .inf (a != b)
  | .inf a, .fin b m _ => if m = 0 then .nan else .inf (a != b)
  | .fin a m _, .inf b => if m = 0 then .nan else .inf (a != b)
  | .fin a m e, .fin b n d => .fin (a != b) (m * n) (e + d)

/-- Not a NaN and not an infinity. -/
def FV.isFin : FV → Bool
  | .fin _ _ _ => true
  | _ => false

/-- A NaN. -/
def FV.isNan : FV → Bool
  | .nan => true
  | _ => false

/-- Exact comparison of numbers; none where one is a NaN. Zeros are equal. -/
def FV.cmp : FV → FV → Option Ordering
  | .nan, _ => none
  | _, .nan => none
  | .inf a, .inf b => some (if a = b then .eq else if a then .lt else .gt)
  | .inf a, .fin _ _ _ => some (if a then .lt else .gt)
  | .fin _ _ _, .inf b => some (if b then .gt else .lt)
  | .fin a m e, .fin b n d =>
    let q := min e d
    some (compare (sig a m e q) (sig b n d q))

/-- At most; false with a NaN. -/
def FV.le (a b : FV) : Bool := match a.cmp b with | some .lt => true | some .eq => true | _ => false
/-- Less; false with a NaN. -/
def FV.lt (a b : FV) : Bool := match a.cmp b with | some .lt => true | _ => false

/-! ### FP32 operations -/

/-- The value of an FP32 word. -/
def fv (w : Word) : FV := fFP32.dec w.toNat
/-- A value rounded to an FP32 word. -/
def toF (mode : Nat) (x : FV) : Word := wd (fFP32.ofFV mode x)
/-- The canonical NaN. -/
def fNan : Word := 0x7FC00000
/-- One. -/
def fOne : Word := 0x3F800000
/-- Finite. -/
def fIsFin (w : Word) : Bool := (fv w).isFin
/-- NaN. -/
def fIsNan (w : Word) : Bool := (fv w).isNan
/-- Sum (R117). -/
def fAdd (mode : Nat) (a b : Word) : Word := toF mode ((fv a).add mode (fv b))
/-- Difference. -/
def fSub (mode : Nat) (a b : Word) : Word := toF mode ((fv a).add mode (fv b).neg)
/-- Product. -/
def fMul (mode : Nat) (a b : Word) : Word := toF mode ((fv a).mul (fv b))
/-- `a * b + c`, rounded once. -/
def fFma (mode : Nat) (a b c : Word) : Word := toF mode (((fv a).mul (fv b)).add mode (fv c))
/-- Quotient, rounded once. -/
def fDiv (mode : Nat) (a b : Word) : Word :=
  match fv a, fv b with
  | .nan, _ => fNan
  | _, .nan => fNan
  | .inf _, .inf _ => fNan
  | .inf x, .fin y _ _ => toF mode (.inf (x != y))
  | .fin x _ _, .inf y => toF mode (.fin (x != y) 0 0)
  | .fin x m e, .fin y n d =>
    if n = 0 then (if m = 0 then fNan else toF mode (.inf (x != y)))
    else wd (fFP32.round mode (x != y) m n (e - d))
/-- An integer as FP32. -/
def fOfInt (mode : Nat) (i : Int) : Word := wd (fFP32.round mode (decide (i < 0)) i.natAbs 1 0)
/-- Negated. -/
def fNeg (a : Word) : Word := if fIsNan a then fNan else a ^^^ 0x80000000
/-- Magnitude. -/
def fAbs (a : Word) : Word := if fIsNan a then fNan else a &&& 0x7FFFFFFF
/-- Less; false with a NaN. -/
def fLt (a b : Word) : Bool := (fv a).lt (fv b)
/-- At most; false with a NaN. -/
def fLe (a b : Word) : Bool := (fv a).le (fv b)
/-- The larger, +0 above -0; NaN where either is one (R119). -/
def fMax (a b : Word) : Word :=
  if fIsNan a ∨ fIsNan b then fNan
  else if fLt a b then b
  else if fLt b a then a
  else if bit a 31 then b else a
/-- Clamp to [lo, hi]; a NaN stays one. -/
def fClamp (x lo hi : Word) : Word := if fLt x lo then lo else if fLt hi x then hi else x
/-- A value rounded to a whole number in a mode; none where it is not finite. -/
def FV.toInt (mode : Nat) : FV → Option Int
  | .fin neg m e =>
    let n := if 0 ≤ e then m * 2 ^ e.toNat else roundQuot mode neg m (2 ^ (-e).toNat)
    some (if neg then -(n : Int) else n)
  | _ => none

/-- One level of the canonical tree: neighbours are added, a last odd element is kept (R119). -/
def treeLevel (add : Word → Word → Word) : List Word → List Word
  | a :: b :: t => add a b :: treeLevel add t
  | l => l

/-- Levels of the tree until one element is left; `n` levels are enough for 2^n elements. -/
def treeFuel (add : Word → Word → Word) : Nat → List Word → Word
  | 0, l => l.headD 0
  | n + 1, l =>
    match l with
    | [] => 0
    | [x] => x
    | _ => treeFuel add n (treeLevel add l)

/-- The sum by the canonical tree with a given addition. -/
def treeWith (add : Word → Word → Word) (l : List Word) : Word := treeFuel add (l.length.log2 + 1) l

/-- The canonical tree sum (R119). -/
def treeSum (mode : Nat) (l : List Word) : Word := treeWith (fAdd mode) l

/-- Sum with the signs of zeros of IEEE 754 in round to nearest: two negative zeros give a negative zero. R110 speaks of
the VU and the XU, Trim is neither (DEDUCED, log 25). -/
def iAdd (a b : Word) : Word := if a = 0x80000000 ∧ b = 0x80000000 then a else fAdd 0 a b
/-- Difference in the same arithmetic. -/
def iSub (a b : Word) : Word := iAdd a (if fIsNan b then fNan else b ^^^ 0x80000000)

/-- A matrix-vector product, each row summed over ascending columns by the canonical tree: products are rounded, then
added (R324). -/
def matVec (rows : List (List Word)) (v : List Word) : List Word :=
  rows.map fun r => treeWith iAdd (List.zipWith (fMul 0) r v)

/-- Elementwise operation on two lists. -/
def zipF (f : Word → Word → Word) (a b : List Word) : List Word := List.zipWith f a b

end Sys2Proof.Machine
end

