-- ==== Sys2Proof/Machine/Flags.lean ====
section
/-! DEFINITION. Flags and signals: MSI-X messages, event sources with their delivery, and fault records. -/

namespace Sys2Proof.Machine

/-! ### Counters and device state -/

/-- Device state codes (R63). -/
def devInit : Nat := 1
/-- READY. -/
def devReady : Nat := 2
/-- SHUTDOWN. -/
def devShutdown : Nat := 3
/-- FAULTED. -/
def devFaulted : Nat := 4

/-! ### MSI-X (R34) -/

/-- Entry `v` of the MSI-X table. -/
def State.msixEntry (s : State) (v : Nat) : MsixEntry := Tab.get {} s.hif.msix v

/-- A message of vector `v` falls due: it is sent, or held in the PBA while the vector is masked or the function is in
D3hot (R30, R34). -/
def State.msix (s : State) (v : Nat) : State :=
  let e := s.msixEntry v
  if e.masked ∨ s.hif.d3hot then
    s.upHif fun h => { h with pba := if h.pba.contains v then h.pba else v :: h.pba }
  else s.out 0 v (natBytes 8 e.addr ++ wordBytes e.data)

/-- A held message is sent if nothing holds it any longer. -/
def State.msixRelease (s : State) (v : Nat) : State :=
  if s.hif.pba.contains v ∧ ¬ (s.msixEntry v).masked ∧ ¬ s.hif.d3hot then
    (s.upHif fun h => { h with pba := h.pba.filter (· ≠ v) }).msix v
  else s

/-! ### Event sources (R411 to R422) -/

/-- The sources the table of R411 names. -/
def evcNamed (src : Nat) : Bool :=
  if src < 19 then true
  else if 32 ≤ src ∧ src ≤ 37 then true
  else if 40 ≤ src ∧ src ≤ 55 then true
  else if 64 ≤ src ∧ src < 128 then src % 8 < 6
  else if 128 ≤ src ∧ src < 224 then true
  else if 224 ≤ src ∧ src ≤ 236 then true
  else if 256 ≤ src ∧ src ≤ 261 then true
  else if 288 ≤ src ∧ src ≤ 290 then true
  else if 320 ≤ src ∧ src ≤ 322 then true
  else if 352 ≤ src ∧ src ≤ 353 then true
  else if 384 ≤ src ∧ src ≤ 386 then true
  else if 416 ≤ src ∧ src ≤ 418 then true
  else if 448 ≤ src ∧ src ≤ 451 then true
  else 480 ≤ src ∧ src < 512

/-- The bits of group `g` that belong to named sources. -/
def evcBits (g : Nat) : Word := wd (maskOf ((List.range 32).filter fun i => evcNamed (32 * g + i)))

/-- Pending. -/
def Evc.isPend (v : Evc) (src : Nat) : Bool := bit (Tab.get 0 v.pend (src / 32)) (src % 32)
/-- Enabled. -/
def Evc.isEn (v : Evc) (src : Nat) : Bool := bit (Tab.get 0 v.en (src / 32)) (src % 32)
/-- Target mask: bits 0 to 3 the processors, bit 4 the host. -/
def Evc.target (v : Evc) (src : Nat) : Nat := Tab.get 0 v.tgt src
/-- Active. -/
def Evc.isActive (v : Evc) (src : Nat) : Bool := (Tab.get 0 v.active src) ≠ 0
/-- Deliverable to processor `k`. -/
def Evc.deliverable (v : Evc) (k src : Nat) : Bool :=
  v.isPend src && v.isEn src && !v.isActive src && (v.target src).testBit k && !v.disable &&
    !v.holding.getLsbD (src / 32)
/-- The sources of a group. -/
def evcGroup (g : Nat) : List Nat := (List.range 32).map (32 * g + ·)
/-- The first source deliverable to processor `k` in a group. -/
def Evc.firstIn (v : Evc) (k g : Nat) : Option Nat := (evcGroup g).find? (v.deliverable k)
/-- The interrupt line of processor `k` (R413). -/
def Evc.line (v : Evc) (k : Nat) : Bool :=
  !v.mask.getLsbD k && (List.range 16).any fun g => (v.firstIn k g).isSome
/-- The source a claim by processor `k` takes: highest priority of group, then lowest number (R413). -/
def Evc.choice (v : Evc) (k : Nat) : Option Nat :=
  [0, 1, 2, 3].findSome? fun p =>
    (List.range 16).findSome? fun g => if Tab.get 0 v.prio g = p then v.firstIn k g else none

/-- The host bridge looks at group `g` (R420). -/
def State.evcBridge (s : State) (g : Nat) : State :=
  let v := s.evc
  if !v.latch.getLsbD g && !v.holding.getLsbD g && !v.disable &&
      (evcGroup g).any (fun i => v.isPend i && v.isEn i && (v.target i).testBit 4) then
    (s.upEvc fun v => { v with latch := setBit v.latch g true, brgCnt := v.brgCnt + 1 }).msix
      (Tab.get 0 v.vector g)
  else s

/-- The bridge looks at every group. -/
def State.evcBridgeAll (s : State) : State := (List.range 16).foldl State.evcBridge s

/-- A sleeping processor in the target mask of an enabled source wakes (R419). -/
def State.evcWake (s : State) (src : Nat) : State :=
  if s.evc.isEn src then
    (List.range 4).foldl (fun s k =>
      if s.evc.sleep.getLsbD k && (s.evc.target src).testBit k then
        (s.upEvc fun v => { v with sleep := setBit v.sleep k false }).out 6 k []
      else s) s
  else s

/-- An event of a source: it becomes pending; a reserved source never does (R411, R412). -/
def State.event (s : State) (src : Nat) : State :=
  if evcNamed src then
    let s := s.upEvc fun v =>
      { v with pend := Tab.set v.pend (src / 32) (Tab.get 0 v.pend (src / 32) ||| wd (2 ^ (src % 32))) }
    (s.evcWake src).evcBridge (src / 32)
  else s

/-- Several events. -/
def State.events (s : State) (l : List Nat) : State := l.foldl State.event s

/-! ### Fault records (R364 to R366) -/

/-- Add a record, newest first; the log keeps 256 and counts the others. -/
def FaultLog.add (l : FaultLog) (r : FaultRec) : FaultLog :=
  { recs := (r :: l.recs).take 256, lost := if l.recs.length < 256 then l.lost else l.lost + 1 }

/-- The device enters a state (event sources 0 and 1). -/
def State.enterDev (s : State) (d : Nat) : State :=
  if s.dev = d then s
  else
    let s := ({ s with dev := d }).event 0
    if d = devFaulted then s.event 1 else s

/-- A fault of the compute die: a record with Halyard time; class F makes the device FAULTED (R364). -/
def State.fault (s : State) (code cls ctx unit : Nat) (a0 : Word) (a1 : Word := 0) (a2 : Word := 0) : State :=
  let r : FaultRec := { code := code, cls := cls, ctx := ctx, unit := unit, sec := s.hal.sec, ns := s.hal.ns,
                        frac := s.hal.f / 2 ^ 16, arg0 := a0, arg1 := a1, arg2 := a2 }
  let s := { s with log := s.log.add r }
  if cls = 5 then s.enterDev devFaulted else s

/-- A fault record of Plinth, with Plinth time (R366). -/
def State.plnRecord (s : State) (code cls ctx unit : Nat) (a0 : Word) (a1 : Word := 0) (a2 : Word := 0) : State :=
  let r : FaultRec := { code := code, cls := cls, ctx := ctx, unit := unit, sec := s.pnow / 1000000000,
                        ns := s.pnow % 1000000000, frac := s.plinth.time % 2 ^ 32 / 2 ^ 16,
                        arg0 := a0, arg1 := a1, arg2 := a2 }
  ({ s with plinth := { s.plinth with log := s.plinth.log.add r }
            trim := { s.trim with traceFault := true } }).event 449

/-- The eight words of a fault record (R366). -/
def FaultRec.words (r : FaultRec) : List Word :=
  [wd (r.code + 2 ^ 16 * r.cls), wd (r.ctx + 2 ^ 8 * r.unit)] ++ timeWords r.sec r.ns r.frac ++
    [r.arg0, r.arg1, r.arg2]

/-! Fault codes (R365). -/

/-- FLT_MEM_UNCORR. -/
def fltMemUncorr : Nat := 0x0101
/-- FLT_RESIDUE. -/
def fltResidue : Nat := 0x0102
/-- FLT_SCALE_SKEW. -/
def fltScaleSkew : Nat := 0x0103
/-- FLT_OPERAND. -/
def fltOperand : Nat := 0x0104
/-- FLT_EPOCH_STALE. -/
def fltEpochStale : Nat := 0x0105
/-- FLT_XLT_MISS. -/
def fltXltMiss : Nat := 0x0106
/-- FLT_LINK. -/
def fltLink : Nat := 0x0107
/-- FLT_CORRUPT_INPUT. -/
def fltCorruptInput : Nat := 0x0201
/-- FLT_FROZEN_INPUT. -/
def fltFrozenInput : Nat := 0x0202
/-- FLT_TT_OVERRUN. -/
def fltTtOverrun : Nat := 0x0301
/-- FLT_DEADLINE. -/
def fltDeadline : Nat := 0x0302
/-- FLT_TEST_STARVED. -/
def fltTestStarved : Nat := 0x0303
/-- FLT_TELLTALE. -/
def fltTelltale : Nat := 0x0304
/-- FLT_COMPARE_REJECT. -/
def fltCompareReject : Nat := 0x0401
/-- FLT_REJECT_LIMIT. -/
def fltRejectLimit : Nat := 0x0402
/-- FLT_LIMIT. -/
def fltLimit : Nat := 0x0403
/-- FLT_TRIM_STATE. -/
def fltTrimState : Nat := 0x0404
/-- FLT_MAILBOX. -/
def fltMailbox : Nat := 0x0405
/-- FLT_DEPTH_STALE. -/
def fltDepthStale : Nat := 0x0406
/-- FLT_MAQUETTE. -/
def fltMaquette : Nat := 0x0407
/-- FLT_LOCKSTEP. -/
def fltLockstep : Nat := 0x0501
/-- FLT_PLN_MEM. -/
def fltPlnMem : Nat := 0x0502
/-- FLT_SUPPLY. -/
def fltSupply : Nat := 0x0503
/-- FLT_CLOCK. -/
def fltClock : Nat := 0x0504
/-- FLT_TIME. -/
def fltTime : Nat := 0x0505
/-- FLT_SAFE_OUTPUT. -/
def fltSafeOutput : Nat := 0x0506
/-- FLT_TWIN_LOST. -/
def fltTwinLost : Nat := 0x0601
/-- FLT_HAL_COPY. -/
def fltHalCopy : Nat := 0x0701
/-- FLT_THERMAL. -/
def fltThermal : Nat := 0x0702

end Sys2Proof.Machine
end

