-- ==== Sys2Proof/Machine/Reply.lean ====
section
/-! DEFINITION. Reply rings and the life of a packet between its intake and its final reply (R38 to R54). -/

namespace Sys2Proof.Machine

/-! Status codes (R53). -/

/-- ST_OK. -/
def stOk : Nat := 0
/-- ST_PENDING. -/
def stPending : Nat := 1
/-- ST_PARTIAL. -/
def stPartial : Nat := 2
/-- ST_STATE. -/
def stState : Nat := 0x10
/-- ST_RANGE. -/
def stRange : Nat := 0x11
/-- ST_FORMAT. -/
def stFormat : Nat := 0x12
/-- ST_SEAL. -/
def stSeal : Nat := 0x13
/-- ST_AUTH. -/
def stAuth : Nat := 0x14
/-- ST_NOSPACE. -/
def stNospace : Nat := 0x15
/-- ST_BUSY. -/
def stBusy : Nat := 0x16
/-- ST_FAULT. -/
def stFault : Nat := 0x20

/-- The fields of a reply that its opcode sets. -/
structure RF where
  /-- detail0. -/
  d0 : Word := 0
  /-- detail1. -/
  d1 : Word := 0
  /-- result_lo. -/
  lo : Word := 0
  /-- result_hi. -/
  hi : Word := 0
  /-- Fault code. -/
  fault : Nat := 0
  /-- Cancelled. -/
  canc : Bool := false
deriving DecidableEq, Repr, Inhabited

/-- Where an offending field stands: word and low bit, as detail0 gives them (R52). -/
def det (w lo : Nat) : Word := wd (w + 2 ^ 16 * lo)

/-! ### Rings -/

/-- Records of a ring. -/
def Ring.size (r : Ring) : Nat := 2 ^ r.k
/-- Records written and not returned. -/
def Ring.used (r : Ring) : Nat := (r.tail + r.size - r.head) % r.size
/-- Full (R50). -/
def Ring.full (r : Ring) : Bool := (r.tail + 1) % r.size == r.head
/-- A record built now finds no room once the records ahead of it are written. -/
def Ring.fullDue (r : Ring) : Bool := r.size ≤ r.used + r.wait.length + 1
/-- Free records of the hold: 256 less the reservations and the final replies and refusals that wait (R51). -/
def Ring.holdFree (r : Ring) : Nat := 256 - (r.reserved + (r.wait.filter (·.fin)).length)

/-- A record enters the hold of its ring, behind those that wait. On an unregistered ring nothing happens: that is where the
refusal of a DEV_RING_SET at checks 10 to 14 goes that names the ring it would register (R49; DESIGN CHOICE, log 151). -/
def State.pushReply (s : State) (ring : Nat) (rep : Reply) : State :=
  let r := s.ring ring
  if r.registered then
    let s := if r.fullDue then s.upAp rep.hdr.ap fun a => { a with statWaited := a.statWaited + 1 } else s
    s.upRing ring fun r => { r with wait := r.wait ++ [rep] }
  else s

/-- The record of a reply to a packet, built now. -/
def State.mkReply (s : State) (h : Hdr) (st : Nat) (f : RF) (fin refusal : Bool) : Reply :=
  { hdr := h, status := st, fin := fin, cancelled := f.canc, fault := f.fault, detail0 := f.d0, detail1 := f.d1,
    resultLo := f.lo, resultHi := f.hi, time := s.hal.ns32, refusal := refusal }

/-- The eight words of a record (R52). -/
def Reply.words (r : Reply) (ring : Nat) (phase : Bool) : List Word :=
  [wd (r.status + bitAt phase 8 + bitAt r.fin 9 + bitAt r.cancelled 10 + bitAt r.hdr.expert 12 +
      bitAt r.hdr.quiet 13 + bitAt r.hdr.ordered 14 + bitAt r.hdr.top 15 + 2 ^ 16 * r.hdr.opcode + 2 ^ 28 * r.hdr.ap),
   r.hdr.sequence, wd (r.hdr.ctx + 2 ^ 8 * ring + 2 ^ 16 * r.fault), r.detail0, r.detail1, r.resultLo, r.resultHi,
   r.time]

/-- Count a refusal in the aperture of its packet, and raise that aperture's event (R54, R411). -/
def State.countRefusal (s : State) (ap st : Nat) : State :=
  (s.upAp ap fun a =>
    if st = stState then { a with cntState := a.cntState + 1, statState := a.statState + 1 }
    else if st = stSeal then { a with cntSeal := a.cntSeal + 1, statSeal := a.statSeal + 1 }
    else { a with cntRefuse := a.cntRefuse + 1, statRefuse := a.statRefuse + 1 }).event (3 + ap)

/-- Count a final status (R54, R56). -/
def State.countFinal (s : State) (ap st : Nat) : State :=
  if stState ≤ st ∧ st ≤ stBusy then s.countRefusal ap st
  else s.upAp ap fun a =>
    if st = stOk then { a with statOk := a.statOk + 1 }
    else if st = stPartial then { a with statPartial := a.statPartial + 1 }
    else if st = stFault then { a with statFault := a.statFault + 1 }
    else a

/-- Give back the reservation of a packet's final reply (R51). -/
def State.unreserve (s : State) (ring : Nat) : State :=
  s.upRing ring fun r => { r with reserved := r.reserved - 1 }

/-- The final reply to a packet: none where it is QUIET and the status is ST_OK (R41). -/
def State.final (s : State) (h : Hdr) (st : Nat) (f : RF) : State :=
  let s := (s.countFinal h.ap st).unreserve h.ring
  if h.quiet ∧ st = stOk then s else s.pushReply h.ring (s.mkReply h st f true false)

/-- The ST_PENDING reply; dropped where the ring is full when it is due (R51). -/
def State.pendingReply (s : State) (h : Hdr) : State :=
  if (s.ring h.ring).fullDue then s
  else s.pushReply h.ring (s.mkReply h stPending {} false false)

/-! ### Open requests -/

/-- The open request of an opcode with a key. -/
def State.openOf (s : State) (op key : Nat) : Option OpenReq :=
  s.opens.find? fun o => o.hdr.opcode = op ∧ o.key = key

/-- Drop an open request, found by the number of its packet. -/
def State.dropOpen (s : State) (no : Nat) : State := { s with opens := s.opens.filter fun o => o.hdr.no ≠ no }

/-- Finish an open request with its final reply. -/
def State.close (s : State) (o : OpenReq) (st : Nat) (f : RF) : State := (s.dropOpen o.hdr.no).final o.hdr st f

/-- Finish the open request of an opcode and key, if there is one. -/
def State.closeOp (s : State) (op key st : Nat) (f : RF) : State :=
  match s.openOf op key with
  | some o => s.close o st f
  | none => s

/-- Finish the open request of the packet with a number, if there is one. -/
def State.closeNo (s : State) (no st : Nat) (f : RF) : State :=
  match s.opens.find? fun o => o.hdr.no == no with
  | some o => s.close o st f
  | none => s

/-- ST_PENDING of an open request that is accepted only now. -/
def State.accept (s : State) (op key : Nat) : State :=
  match s.openOf op key with
  | some o => s.pendingReply o.hdr
  | none => s

/-- Finish every open request that a test picks, as cancelled (R53). -/
def State.cancelOpens (s : State) (p : OpenReq → Bool) : State :=
  (s.opens.filter p).foldl (fun s o => s.close o stFault { canc := true }) s

/-! ### Which packets may be applied -/

/-- Opcode of a packet. -/
def Packet.op (p : Packet) : Nat := p.hdr.opcode
/-- Packet word `w` (words 4 and up are the parameters). -/
def Packet.w (p : Packet) (w : Nat) : Word := wat p.params (w - 4)
/-- A field of a packet word. -/
def Packet.f (p : Packet) (w hi lo : Nat) : Nat := fld (p.w w) hi lo
/-- The 64-bit value of packet words `w` and `w + 1`. -/
def Packet.a (p : Packet) (w : Nat) : Nat := w64 (p.w w) (p.w (w + 1))

/-- The object a packet names, as a kind and a number (R45). -/
def Packet.object (p : Packet) : Option (Nat × Nat) :=
  let op := p.op
  if p.hdr.ctx ≠ 255 then some (1, p.hdr.ctx)
  else if op = 0x002 ∨ op = 0x003 then some (2, p.f 4 7 0)
  else if op = 0x004 ∨ op = 0x007 ∨ op = 0x008 then some (0, 0)
  else if op = 0x009 then some (4, p.f 4 3 0)
  else if 0x100 ≤ op ∧ op ≤ 0x110 then some (5, p.f 4 1 0)
  else if op = 0x600 ∨ op = 0x601 then some (7, p.f 4 0 0)
  else if 0x610 ≤ op ∧ op ≤ 0x614 then some (8, p.f 4 3 0)
  else if op = 0x620 then some (9, p.f 4 1 0)
  else if 0x700 ≤ op ∧ op ≤ 0x712 then some (10, 0)
  else if 0x800 ≤ op ∧ op ≤ 0x803 then some (11, 0)
  else if 0x901 ≤ op ∧ op ≤ 0x906 then some (12, 0)
  else if op = 0x910 ∨ op = 0x911 then some (13, 0)
  else if 0xA00 ≤ op ∧ op ≤ 0xA03 then some (14, 0)
  else none

/-- Packet `k` of the taken list must wait: an earlier packet names its object, it is ORDERED and an earlier packet of
its aperture has had no final reply, or it is a basic CLEAT_ALLOC that waits for scrubs (R45, R154). -/
def State.mustWait (s : State) (k : Nat) (p : Packet) : Bool :=
  (s.taken.take k).any (fun q => p.object.isSome && q.object == p.object && !q.waiting) ||
    (p.hdr.ordered &&
      ((s.taken.take k).any (fun q => q.hdr.ap = p.hdr.ap) ||
        s.opens.any (fun o => o.hdr.ap = p.hdr.ap ∧ o.hdr.no < p.hdr.no)))

/-- Opcodes that queries of R63 use, and NOP: legal in every state. -/
def opIsQuery (op : Nat) : Bool :=
  [0x000, 0x001, 0x005, 0x006, 0x115, 0x302, 0x303, 0x411, 0x601, 0x614, 0x700, 0x701, 0x802, 0x906, 0xA01].contains op

/-- Opcodes by which aperture 0 may end any object (R46). -/
def opEnds (op : Nat) : Bool := [0x111, 0x201, 0x203, 0x211, 0x401, 0x501, 0x301].contains op

/-- Opcodes accepted only from aperture 0: those marked S and K (R46, R48). -/
def opSupervisor (op : Nat) : Bool :=
  [0x004, 0x007, 0x008, 0x009, 0x100, 0x101, 0x102, 0x230, 0x600, 0x610, 0x611, 0x612, 0x613, 0x620, 0x710, 0x711,
   0x712, 0x800, 0x801, 0x803, 0x901, 0x902, 0x903, 0x904, 0x905, 0x906, 0x910, 0x911, 0xA00, 0xA02, 0xA03].contains op

/-- The opcode is legal in the device state (R63). LOOPBACK_SET in SHUTDOWN has its own condition. -/
def State.devLegal (s : State) (p : Packet) : Bool :=
  opIsQuery p.op || s.dev = devReady ||
    (s.dev = devShutdown && (p.op = 0x702 || p.op = 0x008 || (p.op = 0xA02 && p.f 4 2 0 = 2 && s.tst.runs.isEmpty))) ||
    (s.dev = devFaulted && p.op = 0x008)

/-- A refusal: status, detail0, detail1. -/
abbrev Refuse := Nat × Word × Word

/-- Check 10 of R43, as far as it asks the same of every packet: who may send it, its class, the owner of the context it
names; one that does not exist has no owner, and its state allows nothing. -/
def State.objection (s : State) (p : Packet) : Option Refuse :=
  let ap := p.hdr.ap
  let c := s.ctx p.hdr.ctx
  if opSupervisor p.op ∧ ap ≠ 0 then some (stAuth, 0, 0)
  else if ¬ (s.client ap).classes.getLsbD p.hdr.cls then some (stAuth, 0, 0)
  else if p.hdr.ctx ≠ 255 ∧ ¬ c.present then
    some (stState, if s.devLegal p then 0 else wd s.dev, 0)
  else if p.hdr.ctx ≠ 255 ∧ c.client ≠ ap ∧ ¬ (ap = 0 ∧ (opIsQuery p.op ∨ opEnds p.op)) then some (stAuth, 0, 0)
  else none

/-- Check 11, and check 12 for the device: the class of the context, the device state. -/
def State.bar (s : State) (p : Packet) : Option Refuse :=
  if p.hdr.ctx ≠ 255 ∧ (s.ctx p.hdr.ctx).cls ≠ p.hdr.cls then some (stFormat, det 2 16, 0)
  else if ¬ s.devLegal p then some (stState, wd s.dev, 0)
  else none

/-- What applying a packet comes to. -/
inductive Ans where
  /-- It is refused: status, detail0, detail1. -/
  | refuse (st : Nat) (d0 : Word := 0) (d1 : Word := 0)
  /-- It is done, with its single final reply. -/
  | done (s : State) (f : RF) (st : Nat := stOk)
  /-- It is accepted with ST_PENDING: the object it waits for, values kept for its final reply, and its effect. -/
  | pend (key val val2 : Nat) (g : State → State)
  /-- It is accepted without ST_PENDING, and its single final reply comes later (R277). -/
  | late (key val val2 : Nat) (g : State → State)
  /-- A basic CLEAT_ALLOC that waits for scrubs of an engine (R154). -/
  | wait (e : Nat) (scrubs : List Nat)
  /-- It cannot be applied yet and stays where it is. -/
  | hold

/-- A refusal as an answer. -/
def Ans.ofRefuse (r : Refuse) : Ans := .refuse r.1 r.2.1 r.2.2

/-- An answer against a refusal of checks 11 and 12: a refusal with ST_AUTH, which is check 10, comes before it (R43). -/
def Ans.over (a : Ans) (r : Refuse) : Ans :=
  match a with
  | .refuse st d0 d1 => if st = stAuth then .refuse st d0 d1 else .ofRefuse r
  | _ => .ofRefuse r

/-- Apply a packet that has left the taken list. -/
def State.answer (s : State) (p : Packet) (a : Ans) : State :=
  match a with
  | .refuse st d0 d1 => s.final p.hdr st { d0 := d0, d1 := d1 }
  | .done s' f st => s'.final p.hdr st f
  | .pend key val val2 g =>
    let o : OpenReq := { hdr := p.hdr, key := key, val := val, val2 := val2, params := p.params }
    g (({ s with opens := s.opens ++ [o] } : State).pendingReply p.hdr)
  | .late key val val2 g =>
    g { s with opens := s.opens ++ [{ hdr := p.hdr, key := key, val := val, val2 := val2, params := p.params }] }
  | .wait _ _ => s
  | .hold => s

/-- Apply packet `k` of the taken list if it has the opcode and need not wait. -/
def State.applyPacket (s : State) (op k : Nat) (body : Packet → State → Ans) : State :=
  match s.taken[k]? with
  | none => s
  | some p =>
    if p.op ≠ op ∨ p.waiting ∨ s.mustWait k p then s
    else
      let s' := { s with taken := s.taken.eraseIdx k }
      match s'.objection p with
      | some r => s'.answer p (.ofRefuse r)
      | none =>
        match (match s'.bar p with
          | some r => (body p s').over r
          | none => body p s') with
        | .wait e l => { s with taken := s.taken.set k { p with waiting := true, eng := e, scrubs := l } }
        | .hold => s
        | a => s'.answer p a

/-- The next state of a packet row. -/
def runPacket (op k : Nat) (body : Packet → State → Ans) (s : State) : Host.Outcome State Fault Refusal :=
  .next (s.applyPacket op k body)

/-- Legality of an opcode in a set of object states: refused with ST_STATE and the code where it is not listed. -/
def needState (code : Nat) (legal : List Nat) (a : Ans) : Ans :=
  if legal.contains code then a else .refuse stState (wd code)

/-- The same where `a` may find an object of another client: that check comes first (R43). -/
def ownThenState (code : Nat) (legal : List Nat) (a : Ans) : Ans :=
  if legal.contains code then a else a.over (stState, wd code, 0)

/-- Refuse with a status where a condition holds, else go on. -/
def refuseIf (c : Bool) (st : Nat) (d0 : Word) (a : Ans) : Ans := if c then .refuse st d0 else a

end Sys2Proof.Machine
end

