-- ==== Sys2Proof/Machine/Queue.lean ====
section
/-! DEFINITION. The queues of an engine (R69): CQ0 to CQ3 are queues 0 to 3, TQ is queue 4. CQk holds the jobs of the
context in resident slot k, so the jobs stand with their context; TQ's stand with the engine. -/

namespace Sys2Proof.Machine

/-- Resident slot `k`. -/
def Engine.slot (e : Engine) (k : Nat) : Eslot :=
  if k = 0 then e.slot0 else if k = 1 then e.slot1 else if k = 2 then e.slot2 else e.slot3

/-- Replace resident slot `k`. -/
def Engine.setSlot (e : Engine) (k : Nat) (x : Eslot) : Engine :=
  if k = 0 then { e with slot0 := x } else if k = 1 then { e with slot1 := x } else if k = 2 then { e with slot2 := x }
  else { e with slot3 := x }

/-- Change resident slot `k` of engine `e`. -/
def State.upSlot (s : State) (e k : Nat) (g : Eslot → Eslot) : State :=
  s.upEngine e fun x => x.setSlot k (g (x.slot k))

/-- What queue `q` of an engine keeps for its context. -/
def Engine.qs' (e : Engine) (q : Nat) : QState := Tab.get {} e.qs q

/-- Replace it. -/
def Engine.setQs (e : Engine) (q : Nat) (x : QState) : Engine := { e with qs := Tab.set e.qs q x }

/-- Change what queue `q` of engine `e` keeps. -/
def State.upQs (s : State) (e q : Nat) (g : QState → QState) : State :=
  s.upEngine e fun x => x.setQs q (g (x.qs' q))

/-- The numbers of the context queues. -/
def slotNos : List Nat := [0, 1, 2, 3]
/-- The numbers of the queues. -/
def qNos : List Nat := [0, 1, 2, 3, 4]
/-- The numbers of the engines. -/
def engNos : List Nat := List.range 8

/-- The jobs of context `c` on engine `e`. -/
def State.jobsOf (s : State) (c e : Nat) : List Job := Tab.get [] (s.ctx c).jobs e

/-- Replace them. -/
def State.setJobs (s : State) (c e : Nat) (l : List Job) : State :=
  s.upCtx c fun x => { x with jobs := if l.isEmpty then Tab.erase x.jobs e else Tab.set x.jobs e l }

/-- The jobs of queue `q` of engine `e`, the running one first. -/
def State.queue (s : State) (e q : Nat) : List Job :=
  if q = 4 then (s.engine e).tq
  else match ((s.engine e).slot q).ctx with
    | some c => s.jobsOf c e
    | none => []

/-- Replace them. -/
def State.setQueue (s : State) (e q : Nat) (l : List Job) : State :=
  if q = 4 then s.upEngine e fun x => { x with tq := l }
  else match ((s.engine e).slot q).ctx with
    | some c => s.setJobs c e l
    | none => s

/-- Change the running job of a queue. -/
def State.upJob (s : State) (e q : Nat) (g : Job → Job) : State :=
  match s.queue e q with
  | j :: t => s.setQueue e q (g j :: t)
  | [] => s

/-- The resident slot of context `c` on engine `e`. -/
def State.slotFor (s : State) (c e : Nat) : Option Nat := slotNos.find? fun k => ((s.engine e).slot k).ctx == some c

/-- The engines on which a context holds a resident slot. -/
def State.residentOn (s : State) (c : Nat) : List Nat := engNos.filter fun e => (s.slotFor c e).isSome

/-- Every job of a context with its engine: those of its context queues, then those of the TQs. -/
def State.ctxJobs (s : State) (c : Nat) : List (Nat × Job) :=
  (engNos.flatMap fun e => (s.jobsOf c e).map fun j => (e, j)) ++
    engNos.flatMap fun e => ((s.engine e).tq.filter fun j => j.ctx == c).map fun j => (e, j)

/-- A context has a job queued or running. -/
def State.ctxHasJobs (s : State) (c : Nat) : Bool := !(s.ctxJobs c).isEmpty

/-- A context belongs to a TT partition. -/
def State.ctxTT (s : State) (c : Nat) : Bool := (s.part (s.ctx c).part).tt

/-- The numbers of the contexts. -/
def ctxNos : List Nat := List.range 64

/-- The state code of a context (R63). -/
def State.ctxCode (s : State) (c : Nat) : Nat :=
  let x := s.ctx c
  if x.scrubbing then 0x24
  else if ¬ x.faults.isEmpty then 0x22
  else if x.suspended then 0x23
  else if (s.residentOn c).isEmpty then 0x20 else 0x21

/-- The partition an engine belongs to. -/
def State.partOf (s : State) (e : Nat) : Option Nat :=
  [0, 1, 2, 3].find? fun p => (s.part p).present && (s.part p).mask.getLsbD e

/-- A plan runs: ARMED, ACTIVE or RETIRING. -/
def Plan.runs (p : Plan) : Bool := 0x52 ≤ p.state && p.state ≤ 0x54

/-- The numbers of the plan slots. -/
def planNos : List Nat := List.range 8

end Sys2Proof.Machine
end

