-- ==== Sys2Proof/Machine/Cmd.lean ====
section
/-! DEFINITION. List commands as sixteen words: their fields, the operands they name, the ranges they read and write
(R74 to R90, R193 to R218), and their durations (R96, R204, R210, R218, R239). -/

namespace Sys2Proof.Machine

/-! ### Fields -/

/-- Word `i` of a command. -/
def cw (c : List Word) (i : Nat) : Word := wat c i
/-- A field of a command word. -/
def cf (c : List Word) (w hi lo : Nat) : Nat := fld (wat c w) hi lo
/-- Bit `i` of word `w`. -/
def cb (c : List Word) (w i : Nat) : Bool := bit (wat c w) i
/-- Opcode. -/
def cOp (c : List Word) : Nat := cf c 0 7 0
/-- BAR: issue only after every earlier command of the queue. -/
def cBar (c : List Word) : Bool := cb c 0 8
/-- SIG. -/
def cSig (c : List Word) : Bool := cb c 0 9
/-- sigf. -/
def cSigf (c : List Word) : Nat := cf c 0 13 10
/-- The cleat of the TOW in word `w`. -/
def tH (c : List Word) (w : Nat) : Nat := cf c w 6 0
/-- Its offset in words. -/
def tO (c : List Word) (w : Nat) : Nat := cf c w 24 7
/-- Its format code. -/
def tF (c : List Word) (w : Nat) : Nat := cf c w 28 25
/-- The device-virtual address in words `w` and `w + 1`. -/
def cVa (c : List Word) (w : Nat) : Nat := (wat c w).toNat + 2 ^ 32 * cf c (w + 1) 15 0

/-! Opcodes (R76). -/

/-- NOP. -/
def opNop : Nat := 0x00
/-- FENCE_SIGNAL. -/
def opFSig : Nat := 0x01
/-- FENCE_WAIT. -/
def opFWait : Nat := 0x02
/-- LAUNCH_WAIT. -/
def opLWait : Nat := 0x03
/-- LOAD. -/
def opLoad : Nat := 0x08
/-- STORE. -/
def opStore : Nat := 0x09
/-- FILL. -/
def opFill : Nat := 0x0A
/-- MATMUL. -/
def opMat : Nat := 0x10
/-- CONV. -/
def opConv : Nat := 0x11
/-- ATTENTION. -/
def opAttn : Nat := 0x12
/-- KV_APPEND. -/
def opKv : Nat := 0x13
/-- VECTOR. -/
def opVec : Nat := 0x18
/-- TRANSFORM. -/
def opXf : Nat := 0x19
/-- CHISEL. -/
def opChis : Nat := 0x1A

/-! ### Formats (R101, R111) -/

/-- Width of a format in bits; 0 for a code that is none. -/
def fmtBits (f : Nat) : Nat :=
  if f = 0 then 8 else if f ≤ 3 then 4 else if f ≤ 7 then 8 else if f ≤ 10 then 16 else if f = 11 then 32 else 0
/-- Bytes of a row of `n` elements. -/
def rowBytes (f n : Nat) : Nat := cdiv (n * fmtBits f) 8
/-- Integer format. -/
def fmtInt (f : Nat) : Bool := [1, 3, 4, 5, 8].contains f
/-- Float format of the spar array. -/
def fmtFlt (f : Nat) : Bool := [2, 6, 7, 9, 10].contains f
/-- Format with a scale. -/
def fmtScaled (f : Nat) : Bool := [1, 2, 3, 4].contains f
/-- A legal pair of operands A and B (R107). -/
def fmtPair (a b : Nat) : Bool :=
  ([1, 4, 5, 8].contains a && [1, 3, 4, 8].contains b) || (fmtFlt a && fmtFlt b)
/-- Legal outputs of MATMUL and CONV (R108). -/
def fmtOut (f : Nat) : Bool := [11, 10, 9, 6, 7, 8, 15].contains f
/-- Formats of the VU (R101). -/
def fmtVu (f : Nat) : Bool := [5, 6, 7, 8, 9, 10, 11].contains f
/-- L: exponent of a format's least significant bit. -/
def fmtL (f : Nat) : Int :=
  if f = 2 then -1 else if f = 6 then -9 else if f = 7 then -16 else if f = 9 then -24 else if f = 10 then -133 else 0
/-- T: every magnitude is at most 2^T. -/
def fmtT (f : Nat) : Int :=
  if f = 1 ∨ f = 3 ∨ f = 2 then 3 else if f = 4 then 7 else if f = 5 then 8 else if f = 6 then 9
  else if f = 7 ∨ f = 9 then 16 else if f = 8 then 15 else 128
/-- W: bits of a superaccumulator (R111), 261 more where each product carries its pixel's scale (R196). -/
def accW (a b : Nat) (px : Bool) : Nat :=
  (fmtT a + fmtT b - (fmtL a + fmtL b) + 34).toNat + if px then 261 else 0
/-- We: bits of an escape lane. -/
def accWe (a : Nat) (px : Bool) : Nat := (fmtT a + 128 - fmtL a + 133 + 34).toNat + if px then 261 else 0
/-- Bytes of a raw record (R115). -/
def recBytes (a b : Nat) (px : Bool) : Nat :=
  8 + 8 * cdiv (accW a b px) 64 + if b = 3 then 8 * cdiv (accWe a px) 64 else 0
/-- Bytes of `n` elements of an output format, raw records included. -/
def outBytes (f n r : Nat) : Nat := if f = 15 then n * r else rowBytes f n

/-! ### CONV geometry (R193 to R211) -/

/-- What a CONV command says of its shape. -/
structure Geo where
  /-- Kind. -/
  kind : Nat
  /-- Input height. -/
  h : Nat
  /-- Input width. -/
  w : Nat
  /-- Input channels. -/
  ci : Nat
  /-- Output channels. -/
  co : Nat
  /-- Window height. -/
  kh : Nat
  /-- Window width. -/
  kw : Nat
  /-- Row stride. -/
  sh : Nat
  /-- Column stride. -/
  sw : Nat
  /-- Row dilation. -/
  dh : Nat
  /-- Column dilation. -/
  dw : Nat
  /-- Top padding. -/
  pt : Nat
  /-- Bottom padding. -/
  pb : Nat
  /-- Left padding. -/
  pl : Nat
  /-- Right padding. -/
  pr : Nat
  /-- Padding mode. -/
  pad : Nat
  /-- Output height. -/
  ho : Nat
  /-- Output width. -/
  wo : Nat
deriving DecidableEq, Repr, Inhabited

/-- Effective extent of `k` taps at dilation `d` (R194). -/
def extent (k d : Nat) : Nat := d * (k - 1) + 1
/-- Output size of one axis (R194); 0 where the numerator is negative. -/
def outSize (n p q k d st : Nat) : Nat :=
  if n + p + q < extent k d then 0 else (n + p + q - extent k d) / st + 1

/-- The geometry of a CONV command. -/
def geo (c : List Word) : Geo :=
  let k := cf c 0 18 16
  let h := cf c 4 14 0
  let w := cf c 4 30 16
  let kh := cf c 6 7 0
  let kw := cf c 6 15 8
  let sh := cf c 6 19 16
  let sw := cf c 6 23 20
  let dh := cf c 7 15 0
  let dw := cf c 7 31 16
  let pt := cf c 8 7 0
  let pb := cf c 8 15 8
  let pl := cf c 8 23 16
  let pr := cf c 8 31 24
  { kind := k, h := h, w := w, ci := cf c 5 15 0, co := cf c 5 31 16, kh := kh, kw := kw, sh := sh, sw := sw
    dh := dh, dw := dw, pt := pt, pb := pb, pl := pl, pr := pr, pad := cf c 9 1 0
    ho := if 4 ≤ k then cf c 7 14 0 else outSize h pt pb kh dh sh
    wo := if 4 ≤ k then cf c 7 30 16 else outSize w pl pr kw dw sw }

/-- K values of one filter row. -/
def Geo.k (g : Geo) : Nat := if g.kind = 1 then g.kh * g.kw else g.kh * g.kw * g.ci

/-- The largest effective extent. -/
def Geo.ext (g : Geo) : Nat := max (extent g.kh g.dh) (extent g.kw g.dw)

/-- The tile size T of the frequency path (R206): the smallest power of two at least max(32, 4 × extent); 0 above 256. -/
def Geo.tile (g : Geo) : Nat :=
  if g.ext ≤ 8 then 32 else if g.ext ≤ 16 then 64 else if g.ext ≤ 32 then 128 else if g.ext ≤ 64 then 256 else 0

/-- Workspace bytes of the frequency path (R207). -/
def Geo.wsBytes (g : Geo) : Nat := (g.co * g.ci + g.ci + 1) * g.tile ^ 2 * 8

/-- A command meets R205. -/
def freqOk (c : List Word) : Bool :=
  let g := geo c
  let fl := fun f => [6, 7, 9, 10].contains f
  g.kind == 0 && !cb c 9 9 && fl (tF c 1) && fl (tF c 2) && tF c 3 != 15 && g.sh == 1 && g.sw == 1 && g.tile != 0

/-! ### Durations -/

/-- The class of a rate: 0 the 4-bit, 1 the 8-bit, 2 the 16-bit rate (R68). -/
def rateOf (a b : Nat) : Nat :=
  if fmtBits a = 16 ∨ fmtBits b = 16 then 2 else if fmtBits a = 8 ∨ fmtBits b = 8 then 1 else 0
/-- Kb = Nb of a rate (R96). -/
def rateKb (r : Nat) : Nat := if r = 0 then 256 else if r = 1 then 128 else 64
/-- Tw of a rate. -/
def rateTw (r : Nat) : Nat := if r = 0 then 16 else if r = 1 then 8 else 4

/-- ECLK cycles of a product of M × K by K × N (R96). -/
def matCycles (r m n k : Nat) (sp act : Bool) : Nat :=
  cdiv k (rateKb r * if sp then 2 else 1) * cdiv n (rateKb r) * max m (rateTw r) + 96 +
    if act then cdiv (m * n) 512 else 0

/-- log2 of a power of two. -/
def lg (n : Nat) : Nat := n.log2

/-- ECLK cycles of one 2-D transform (R96). -/
def fftCycles (nx ny : Nat) : Nat := cdiv (nx * ny / 2 * lg (nx * ny)) 128 + 2 * cdiv (nx * ny * 8) 2048

/-- The coordinate of tap `j` of output `o` on one axis, as the padding maps it: none where it contributes nothing or a
constant (R195, R197). -/
def tapAt (pad n o st p d j : Nat) : Option Nat :=
  let y : Int := (o * st : Nat) - (p : Int) + (j * d : Nat)
  if 0 ≤ y ∧ y < n then some y.toNat
  else if pad = 2 then some (if y < 0 then 0 else n - 1)
  else if pad = 3 then
    if n = 1 then some 0
    else
      let pp : Int := 2 * ((n : Int) - 1)
      let m := (y % pp).toNat
      some (if m ≤ n - 1 then m else pp.toNat - m)
  else none

/-- Taps of one axis that are in bounds at output `o`. -/
def tapsIn (g : Geo) (rows : Bool) (o : Nat) : Nat :=
  if rows then ((List.range g.kh).filter fun j => (tapAt 0 g.h o g.sh g.pt g.dh j).isSome).length
  else ((List.range g.kw).filter fun j => (tapAt 0 g.w o g.sw g.pl g.dw j).isSome).length

/-- How many outputs of one axis have each number of taps in bounds: number of taps, outputs. -/
def Geo.tally (g : Geo) (rows : Bool) : List (Nat × Nat) :=
  (List.range (if rows then g.ho else g.wo)).foldl (fun l o =>
    let k := tapsIn g rows o
    Tab.set l k (Tab.get 0 l k + 1)) []

/-- Passes of the spar array over the pixels of a direct CONV (R96): the skipped taps are removed from each pixel's K.
Together with their largest. -/
def Geo.passes (g : Geo) (kb : Nat) : Nat × Nat :=
  if g.pad ≤ 1 then
    (g.tally true).foldl (fun a y => (g.tally false).foldl (fun a x =>
      let k := cdiv (g.ci * y.1 * x.1) kb
      (a.1 + y.2 * x.2 * k, max a.2 k)) a) (0, 0)
  else (g.ho * g.wo * cdiv (g.ci * g.kh * g.kw) kb, cdiv (g.ci * g.kh * g.kw) kb)

/-- In-bounds taps over all output pixels. -/
def Geo.inTaps (g : Geo) : Nat :=
  sumN ((List.range g.ho).map (tapsIn g true)) * sumN ((List.range g.wo).map (tapsIn g false))

/-- Skipped taps, as JOB_STATS counts them on the direct path (R199). -/
def Geo.skipped (g : Geo) : Nat := if g.pad ≤ 1 ∧ g.kind ≤ 3 then g.ho * g.wo * g.kh * g.kw - g.inTaps else 0

/-- Taps considered over all output pixels (R204): the in-bounds ones under zero padding, else all. -/
def Geo.taps (g : Geo) : Nat := if g.pad = 0 then g.inTaps else g.ho * g.wo * g.kh * g.kw

/-- The sets of out-of-bounds taps of one axis. -/
def axisSets (g : Geo) (rows : Bool) : List (List Nat) :=
  (if rows then (List.range g.ho).map fun o => (List.range g.kh).filter fun j => (tapAt 0 g.h o g.sh g.pt g.dh j).isNone
    else (List.range g.wo).map fun o => (List.range g.kw).filter fun j => (tapAt 0 g.w o g.sw g.pl g.dw j).isNone).eraseDups

/-- Border classes of a command (R198): the pixels of a row or a column with every tap out of bounds are of one class. -/
def Geo.classes (g : Geo) : Nat :=
  let y := axisSets g true
  let x := axisSets g false
  let y' := y.filter fun l => decide (l.length < g.kh)
  let x' := x.filter fun l => decide (l.length < g.kw)
  y'.length * x'.length + if y'.length < y.length ∨ x'.length < x.length then 1 else 0

/-- ECLK cycles of the constant-padding prologue (R204). -/
def prologue (g : Geo) (r : Nat) : Nat :=
  if g.pad = 1 then g.classes * cdiv g.co (rateKb r) * cdiv (g.ci * g.kh * g.kw) (rateKb r) * rateTw r
  else 0

/-- ECLK cycles of the direct path with no skipped taps removed (R211). -/
def directCycles (c : List Word) : Nat :=
  let g := geo c
  let r := rateOf (tF c 1) (tF c 2)
  matCycles r (g.ho * g.wo) g.co (g.ci * g.kh * g.kw) false (cf c 9 13 10 != 0) + prologue g r

/-- ECLK cycles of the frequency path (R210). -/
def freqCycles (c : List Word) : Nat :=
  let g := geo c
  let t := g.tile
  let vh := t - extent g.kh g.dh + 1
  let vw := t - extent g.kw g.dw + 1
  let f := fftCycles t t
  g.co * g.ci * f + cdiv g.ho vh * cdiv g.wo vw * ((g.ci + g.co) * f + cdiv (g.co * g.ci * t ^ 2) 128) + 96

/-- The frequency path runs (R211). -/
def takesFreq (c : List Word) : Bool :=
  let g := geo c
  let path := cf c 0 22 21
  if path = 2 then true
  else path == 0 && freqOk c && decide (7 ≤ g.kh ∧ 7 ≤ g.kw ∧ g.wsBytes ≤ 4 * 2 ^ 20) &&
    decide (freqCycles c < directCycles c)

/-- VECTOR functions of one operand: B is reserved. -/
def vecUnary (fn : Nat) : Bool :=
  [0x00, 0x08, 0x09, 0x10, 0x11, 0x12, 0x13, 0x14, 0x15, 0x16, 0x17, 0x20, 0x21, 0x22, 0x2A, 0x30, 0x31, 0x3A].contains fn
/-- VECTOR functions that exist (R87). -/
def vecKnown (fn : Nat) : Bool := vecUnary fn || [0x01, 0x02, 0x03, 0x04, 0x05, 0x28, 0x29, 0x38].contains fn

/-- ECLK cycles of a command with every operand in the scratchpad (R96, R204, R210, R218); the bound of its fields where
the duration depends on data (R306). A row of R96 is the whole duration, as the durations that R96 and Tensor Engines work
out show; a command without a row of its own takes decode and issue (log 55). Transfers count 0 here. -/
def cmdCycles (c : List Word) : Nat :=
  let op := cOp c
  if op = opFill then cdiv (cf c 2 17 0) 32
  else if op = opMat then
    matCycles (rateOf (tF c 1) (tF c 2)) (cf c 4 15 0) (cf c 4 31 16) (cf c 5 19 0) (cb c 0 16) (cf c 5 31 28 != 0)
  else if op = opConv then
    let g := geo c
    let r := rateOf (tF c 1) (tF c 2)
    if g.kind = 0 then (if takesFreq c then freqCycles c else
      let p := g.passes (rateKb r)
      cdiv g.co (rateKb r) * max p.1 (rateTw r * p.2) + 96 + prologue g r +
        if cf c 9 13 10 ≠ 0 then cdiv (g.ho * g.wo * g.co) 512 else 0)
    else if g.kind = 1 then cdiv (g.co * g.taps) (if r = 2 then 256 else 1024) + 96 + prologue g r
    else if g.kind ≤ 3 then cdiv (g.ci * g.taps) 512 + 96
    else if g.kind = 4 then cdiv (g.ho * g.wo * g.ci) 512 + 96
    else cdiv (4 * g.ho * g.wo * g.ci) 512 + 96
  else if op = opVec then
    let fn := cf c 0 23 16
    let n := cdiv (cf c 4 15 0 * cf c 4 31 16) 512
    if 0x11 ≤ fn ∧ fn ≤ 0x17 then 4 * n + 24
    else if fn = 0x28 ∨ fn = 0x29 ∨ fn = 0x2A then 3 * n + 10 * cf c 4 15 0 + 24
    else if (0x20 ≤ fn ∧ fn ≤ 0x22) ∨ fn = 0x30 then n + 10 * cf c 4 15 0 + 24
    else n + 24
  else if op = opXf then
    if cf c 0 17 16 = 2 then cdiv (cf c 5 15 0 * cf c 5 31 16 * cf c 4 12 0 * cf c 4 28 16) 128 + 96
    else fftCycles (cf c 4 12 0) (cf c 4 28 16) * cf c 5 15 0
  else if op = opChis then
    let n := cf c 5 19 0
    let dec := cdiv n 64 + 64
    let nk := n * cf c 6 15 0
    let e := min (if cb c 0 18 then nk else n) 65536
    let nms := cdiv nk 64 + 8 * cdiv e 64 * (max e 2 - 1).log2.succ + cdiv (e * cf c 6 28 16) 64 + 64
    if cf c 0 17 16 = 0 then dec else if cf c 0 17 16 = 1 then nms else dec + nms
  else if op = opLoad ∨ op = opStore ∨ op = opAttn then 0
  else 8

/-- Units per ns in which durations are reckoned: an ECLK cycle is 3,072, a byte read 5, a byte written 10. -/
def durNs : Nat := 3840

/-- D of R239 in those units, for `n` entries of the same shape at a rate of R96: `v` positions each, `g` query rows to each KV
head, `b` bytes an element, and token scales where INT8. -/
def attnDur (r b : Nat) (int : Bool) (n v g kvh hd : Nat) : Nat :=
  let k := rateKb r
  let sc := n * kvh * (cdiv hd k * cdiv v k + cdiv v k * cdiv hd k) * max g (rateTw r)
  let u := n * (3 * kvh * cdiv (g * v) 512)
  max (3072 * max sc u) (5 * (n * v * (2 * kvh * hd * b + if int then 4 * kvh else 0))) + 3072 * 96 + 140 * durNs

/-- Positions that the rows of one entry of an ATTENTION may read, at most: those of its bucket, and of its window. -/
def attnSpan (buckets : List Nat) (c : List Word) : Nat :=
  let v := buckets.getD (cf c 5 26 24) 131072
  let w := cf c 8 17 0
  let n := cf c 5 13 9
  if w = 0 then v
  else min v (w - 1 + if cb c 0 18 then (if cb c 0 17 then n else n * cf c 5 8 0) else 0)

/-- The longest an ATTENTION may last by its fields (R239, R306): an integer Q goes with INT8 pages, a float Q with pages of
8 or of 16 bits (R237). -/
def attnUnits (buckets : List Nat) (c : List Word) : Nat :=
  let v := attnSpan buckets c
  let kvh := max 1 (cf c 6 15 8)
  let hd := cf c 6 24 16
  let g := cf c 5 13 9 * cf c 6 7 0 / kvh
  let n := cf c 5 8 0
  if fmtInt (tF c 1) then attnDur 1 1 true n v g kvh hd
  else max (attnDur 1 1 false n v g kvh hd) (attnDur 2 2 false n v g kvh hd)

/-! ### Operands -/

/-- A scratchpad operand: the word that holds its TOW, rows at a stride of words, bytes of each row, written or read. -/
structure Opnd where
  /-- Word of the TOW. -/
  w : Nat
  /-- Rows. -/
  rows : Nat := 1
  /-- Words between rows. -/
  stride : Nat := 0
  /-- Bytes of a row. -/
  bytes : Nat := 0
  /-- Written. -/
  wr : Bool := false
  /-- First word after the TOW's offset. -/
  skip : Nat := 0
deriving DecidableEq, Repr, Inhabited

/-- The words an operand spans, from its offset on. -/
def Opnd.span (o : Opnd) : Nat := o.skip + (o.rows - 1) * o.stride + cdiv o.bytes 64

/-- Words of one packed metadata column (R95). -/
def metaWords (k : Nat) : Nat := cdiv (4 * cdiv k 4) 512
/-- Kept values of a 2:4 column. -/
def keptK (k : Nat) : Nat := 2 * cdiv k 4

/-- The scratchpad operands a command uses, in ascending word of their TOW. -/
def operands (c : List Word) : List Opnd :=
  let op := cOp c
  if op = opLoad ∨ op = opStore then
    let rb := cf c 4 20 0
    let rows := cf c 5 15 0
    let pl := cf c 7 15 0
    if cb c 0 16 then [{ w := 1, bytes := rb * rows * pl, wr := op == opLoad }]
    else [{ w := 1, rows := pl, stride := cf c 10 17 0, bytes := 64 * ((rows - 1) * cf c 9 17 0 + cdiv rb 64), wr := op == opLoad }]
  else if op = opFill then [{ w := 1, bytes := 64 * cf c 2 17 0, wr := true }]
  else if op = opMat then
    let m := cf c 4 15 0
    let n := cf c 4 31 16
    let k := cf c 5 19 0
    let r := recBytes (tF c 1) (tF c 2) false
    [{ w := 1, rows := m, stride := cf c 6 17 0, bytes := rowBytes (tF c 1) k },
     { w := 2, rows := n, stride := cf c 7 17 0, bytes := rowBytes (tF c 2) (if cb c 0 16 then keptK k else k) }] ++
    (if cf c 14 1 0 = 0 then
      [{ w := 3, rows := m, stride := cf c 8 17 0, bytes := outBytes (tF c 3) n r, wr := cf c 0 21 20 = 0 || cf c 0 21 20 = 3 }]
     else []) ++
    (if fmtScaled (tF c 1) then [{ w := 9, bytes := 2 * m }] else []) ++
    (if cb c 0 17 then [{ w := 10, bytes := 4 * n }] else []) ++
    (if cb c 0 18 then [{ w := 11, bytes := 4 * m, wr := cf c 0 21 20 = 0 || cf c 0 21 20 = 3 }] else []) ++
    (if cb c 0 19 then [{ w := 12, rows := m, stride := cdiv (n * r) 64, bytes := n * r }] else []) ++
    (if cb c 0 16 then [{ w := 13, rows := n, stride := metaWords k, bytes := 64 * metaWords k }] else [])
  else if op = opConv then
    let g := geo c
    let r := recBytes (tF c 1) (tF c 2) (fmtScaled (tF c 1))
    [{ w := 1, rows := g.h, stride := cf c 11 17 0, bytes := rowBytes (tF c 1) (g.w * g.ci) }] ++
    (if g.kind ≤ 1 then
      [{ w := 2, rows := g.co, stride := cdiv (rowBytes (tF c 2) g.k) 64, bytes := rowBytes (tF c 2) g.k }] else []) ++
    [{ w := 3, rows := g.ho, stride := cf c 12 17 0, bytes := outBytes (tF c 3) (g.wo * g.co) r, wr := true }] ++
    (if takesFreq c then [{ w := 3, skip := g.ho * cf c 12 17 0, bytes := g.wsBytes, wr := true }] else []) ++
    (if cb c 0 19 then [{ w := 13, bytes := 4 * g.co }] else []) ++
    (if cb c 0 20 then [{ w := 14, bytes := 4 * g.ho * g.wo, wr := true }] else []) ++
    (if fmtScaled (tF c 1) then [{ w := 15, bytes := 2 * g.h * g.w }] else [])
  else if op = opAttn then
    let rows := cf c 5 8 0 * cf c 5 13 9
    let el := cf c 6 7 0 * cf c 6 24 16
    let qw := cdiv (rowBytes (tF c 1) el) 64
    let ow := cdiv (rowBytes (tF c 2) el) 64
    [{ w := 1, rows := rows, stride := qw, bytes := 64 * qw }, { w := 2, rows := rows, stride := ow, bytes := 64 * ow, wr := true },
     { w := 3, bytes := 32 * cf c 5 8 0 }] ++
    (if cb c 0 16 then [{ w := 4, bytes := 32 }] else []) ++
    (if fmtScaled (tF c 1) then [{ w := 9, bytes := 2 * rows }] else [])
  else if op = opKv then
    (if cb c 0 16 then
      [{ w := 1, rows := cf c 3 16 8 * cf c 3 21 17, stride := cf c 4 17 0, bytes := 1 }] else []) ++
    [{ w := 2, bytes := 32 * cf c 3 16 8 }]
  else if op = opVec then
    let fn := cf c 0 23 16
    let rows := cf c 4 15 0
    let cols := cf c 4 31 16
    let dcols := if 0x20 ≤ fn ∧ fn ≤ 0x22 then 1 else cols
    let a : Opnd := if fn = 0x38 then { w := 1, bytes := rowBytes (tF c 1) cols }
      else { w := 1, rows := rows, stride := cf c 5 17 0, bytes := rowBytes (tF c 1) cols }
    let b : List Opnd :=
      if vecUnary fn then []
      else if fn = 0x28 then [{ w := 2, bytes := rowBytes (tF c 2) cols }]
      else if fn = 0x29 then [{ w := 2, rows := 2, stride := cf c 6 17 0, bytes := rowBytes (tF c 2) cols }]
      else if fn = 0x38 then [{ w := 2, bytes := rowBytes (tF c 2) rows }]
      else [{ w := 2, rows := if cb c 9 5 then 1 else rows, stride := cf c 6 17 0
              bytes := rowBytes (tF c 2) (if cb c 9 6 then 1 else cols) }]
    let d : Opnd := { w := 3, rows := rows, stride := cf c 7 17 0, wr := true
                      bytes := if fn = 0x3A then 4 * cdiv (rowBytes (tF c 3) (cw c 8).toNat) 4 + 4 * (cw c 8).toNat
                               else rowBytes (tF c 3) dcols }
    [a] ++ b ++ [d] ++
      (if cb c 9 4 then [{ w := 10, bytes := 4 * rows, wr := true }] else []) ++
      (if fn = 0x30 ∨ fn = 0x31 then [{ w := 11, bytes := 2 * rows, wr := fn == 0x30 }] else [])
  else if op = opXf then
    let b := cf c 4 12 0 * cf c 4 28 16 * 8
    let n := cf c 5 15 0
    let co := cf c 5 31 16
    if cf c 0 17 16 = 2 then
      [{ w := 1, rows := n, stride := cf c 6 17 0, bytes := b }, { w := 2, bytes := n * co * b },
       { w := 3, rows := co, stride := cf c 7 17 0, bytes := b, wr := true }]
    else [{ w := 1, rows := n, stride := cf c 6 17 0, bytes := b }, { w := 3, rows := n, stride := cf c 7 17 0, bytes := b, wr := true }]
  else if op = opChis then
    let n := cf c 5 19 0
    let nms := cf c 0 17 16 == 1
    (if cf c 0 17 16 = 0 then [] else [{ w := 1, bytes := rowBytes (tF c 1) (n * cf c 6 15 0) }]) ++ [{ w := 2, bytes := 16 * n }] ++
      (if nms then [] else [{ w := 3, bytes := 16 * n }]) ++
      [{ w := 4, bytes := if cf c 0 17 16 = 0 then 16 * n else 64 + 32 * cf c 6 28 16, wr := true }]
  else []

/-- The handles a command names, each with the word of its TOW. -/
def handles (c : List Word) : List (Nat × Nat) := (operands c).map fun o => (o.w, tH c o.w)

/-- A range the tracker compares (R90): of a cleat's words (handle + 1) or of device-virtual bytes (0). -/
structure Rng where
  /-- Handle + 1, or 0 for device memory. -/
  sp : Nat
  /-- First. -/
  lo : Nat
  /-- One past the last. -/
  hi : Nat
  /-- Written. -/
  wr : Bool
deriving DecidableEq, Repr, Inhabited

/-- Two ranges share a word or byte. -/
def Rng.meets (a b : Rng) : Bool := a.sp == b.sp && decide (a.lo < b.hi ∧ b.lo < a.hi)

/-- The device-virtual bytes of a LOAD or STORE, from its address to one past its last byte. -/
def vaRange (c : List Word) : Option Rng :=
  if cOp c = opLoad ∨ cOp c = opStore then
    let va := cVa c 2
    some { sp := 0, lo := va, wr := cOp c == opStore
           hi := va + (cf c 7 15 0 - 1) * (64 * (cw c 8).toNat) + (cf c 5 15 0 - 1) * (cw c 6).toNat + cf c 4 20 0 }
  else none

/-- One past the last word of an operand's range. The rows that a GATHER_ROW reads are those its indices name: any of its
cleat from the TOW's offset on. A row that a KV_APPEND copies holds `kv` bytes. -/
def rangeEnd (kv : Nat) (c : List Word) (o : Opnd) : Nat :=
  if cOp c = opVec ∧ cf c 0 23 16 = 0x38 ∧ o.w = 1 then spmWords
  else if cOp c = opKv ∧ o.w = 1 then tO c o.w + ({ o with bytes := kv } : Opnd).span
  else tO c o.w + o.span

/-- Every range a command reads or writes. -/
def ranges (kv : Nat) (c : List Word) : List Rng :=
  ((operands c).map fun o => { sp := tH c o.w + 1, lo := tO c o.w + o.skip, hi := rangeEnd kv c o, wr := o.wr }) ++
    (vaRange c).toList

/-- Two commands share what a queue keeps between commands: the hold set (R83), or the arming of an append (R84, R234).
They keep the queue's order, since the results are those of running the commands one after another (R90). -/
def chained (c d : List Word) : Bool :=
  let hold := fun x => cOp x == opMat && cf x 0 21 20 != 0
  let rows := fun x => cOp x == opMat && cf x 14 1 0 != 0
  let arm := fun x => cOp x == opKv && !cb x 0 16
  (hold c && hold d) || (arm c && (arm d || rows d)) || (rows c && arm d)

/-- A later command must wait for an earlier one (R90). -/
def hazard (kv : Nat) (later earlier : List Word) : Bool :=
  chained later earlier ||
    (ranges kv later).any fun a => (ranges kv earlier).any fun b => (a.wr || b.wr) && a.meets b

/-- The first of the units that a command occupies: 0 none (decoder), 1 load/store port, 2 spar array, 3 VU, 4 XU, 5 Chisel
unit, 8 append path (R76). -/
def unitOf (c : List Word) : Nat :=
  let op := cOp c
  if op = opLoad ∨ op = opStore ∨ op = opFill then 1
  else if op = opMat ∨ op = opConv ∨ op = opAttn then 2
  else if op = opVec then 3 else if op = opXf then 4 else if op = opChis then 5 else if op = opKv then 8 else 0

/-- Every unit a command occupies (R76), those of `unitOf`, 6 the AGU and 7 the SPU. -/
def unitsOf (c : List Word) : List Nat :=
  let op := cOp c
  if op = opLoad ∨ op = opStore then [1, 6]
  else if op = opMat then [2, 7, 3]
  else if op = opConv then [2, 6, 4, 3]
  else if op = opAttn then [2, 3, 1]
  else if unitOf c = 0 then [] else [unitOf c]

/-- The rows of a cleat that a command writes: the word of the TOW, the first word after its offset, bytes. The rows of an
unpacked LOAD stand plane by plane. -/
def writtenRows (c : List Word) : List (Nat × Nat × Nat × Nat) :=
  if cOp c = opLoad ∧ ¬ cb c 0 16 then
    (List.range (cf c 7 15 0)).flatMap fun p => (List.range (cf c 5 15 0)).map fun r =>
      (1, p * cf c 5 15 0 + r, p * cf c 10 17 0 + r * cf c 9 17 0, cf c 4 20 0)
  else (operands c).flatMap fun o =>
    if o.wr then (List.range o.rows).map fun r => (o.w, r, o.skip + r * o.stride, o.bytes) else []

/-- A job's commands name device bytes that meet a range. -/
def Job.names (j : Job) (lo hi : Nat) : Bool :=
  j.cmds.any fun c => match vaRange c with
    | some r => decide (r.lo < hi ∧ lo < r.hi)
    | none => false

/-! ### Geometry of KV pages (R220, R224) -/

/-- Bytes of an element of a KV format. -/
def kvB (f : Nat) : Nat := fmtBits f / 8
/-- Page size of a geometry (R220). -/
def kvPage (kvh hdim f : Nat) : Nat := 4096 * cdiv (128 * kvh * hdim * kvB f + if f = 4 then 256 * kvh else 0) 4096
/-- Page size of a sequence. -/
def Seq.page (q : Seq) : Nat := kvPage q.kvh q.hdim q.fmt
/-- Bytes of one token's keys, or of its values. -/
def Seq.rowB (q : Seq) : Nat := q.kvh * q.hdim * kvB q.fmt
/-- Offset in a page of token `t`'s keys (0) or values (1). -/
def Seq.rowOff (q : Seq) (which t : Nat) : Nat := (which * 64 + t) * q.rowB
/-- Offset in a page of token `t`'s scales. -/
def Seq.sclOff (q : Seq) (which t : Nat) : Nat := 128 * q.rowB + which * 128 * q.kvh + 2 * (t * q.kvh)
/-- The page that holds position `p` of a layer. -/
def Seq.pageAt (q : Seq) (layer p : Nat) : Option SeqPage := q.pages.find? fun g => g.layer == layer && g.idx == p / 64

/-- First byte of the PSM frame of a directory entry. -/
def State.pagePa (s : State) (i : Nat) : Nat := 4096 * (s.dir i).frame

end Sys2Proof.Machine
end

