-- ==== Sys2Proof/Machine/Layouts.lean ====
section
/-! DEFINITION. The parameter layouts of the packets: which counts each form allows, which fields must be zero or
aligned (check 8 of R43) and which have a range (check 9, R64). -/

namespace Sys2Proof.Machine

/-- A layout applied to a packet: whether the count is allowed, then the faulty fields as (word, low bit, faulty). -/
structure Shape where
  /-- The parameter count is allowed (check 7). -/
  count : Bool
  /-- Reserved or misaligned fields (check 8). -/
  fmt : List (Nat × Nat × Bool) := []
  /-- Fields with a range (check 9). -/
  rng : List (Nat × Nat × Bool) := []

/-- Packet word `w` of a parameter list. -/
def pw (ps : List Word) (w : Nat) : Word := wat ps (w - 4)
/-- A field of a packet word of a parameter list. -/
def pf (ps : List Word) (w hi lo : Nat) : Nat := fld (pw ps w) hi lo
/-- A reserved or aligned field: faulty unless zero. -/
def rz (ps : List Word) (w hi lo : Nat) : Nat × Nat × Bool := (w, lo, pf ps w hi lo != 0)
/-- A field with a range. -/
def rr (ps : List Word) (w hi lo mn mx : Nat) : Nat × Nat × Bool :=
  (w, lo, decide (pf ps w hi lo < mn ∨ mx < pf ps w hi lo))
/-- A 64-bit host bus address below 2^47 in words `w` and `w + 1`, with its low `k` bits zero: the two checks. -/
def hostAlign (ps : List Word) (w k : Nat) : Nat × Nat × Bool := rz ps w (k - 1) 0
/-- The range half of it. -/
def hostRange (ps : List Word) (w : Nat) : Nat × Nat × Bool := (w + 1, 0, decide (2 ^ 15 ≤ (pw ps (w + 1)).toNat))
/-- Nanoseconds of a time value (R284) in words `w` to `w + 2`. -/
def timeNs (ps : List Word) (w : Nat) : Nat :=
  ((pw ps (w + 1)).toNat + 2 ^ 32 * pf ps (w + 2) 15 0) * 1000000000 + (pw ps w).toNat
/-- Its nanoseconds field must be below a second. -/
def timeRange (ps : List Word) (w : Nat) : Nat × Nat × Bool := (w, 0, decide (999999999 < (pw ps w).toNat))

/-! ### Device and partition packets (R48, R55 to R62) -/

/-- NOP. -/
def layNop (_ : Bool) (ps : List Word) : Shape := { count := ps.length == 0 }
/-- DEV_INFO (R55). -/
def layDevInfo (_ : Bool) (ps : List Word) : Shape :=
  { count := ps.length == 2, fmt := [hostAlign ps 4 6], rng := [hostRange ps 4] }
/-- DEV_RING_SET (R57, R64). -/
def layDevRingSet (_ : Bool) (ps : List Word) : Shape :=
  { count := ps.length == 4
    fmt := [rz ps 4 15 13, rz ps 4 31 24, rz ps 5 15 8, rz ps 6 11 0]
    rng := [rr ps 4 12 8 6 16, rr ps 4 23 16 0 63, rr ps 5 7 0 1 254,
            (5, 0, decide (2 ^ pf ps 4 12 8 - 1 < pf ps 5 7 0)), rr ps 5 31 16 0 1000] }
/-- DEV_RING_CLEAR (R58). -/
def layDevRingClear (_ : Bool) (ps : List Word) : Shape := { count := ps.length == 1, fmt := [rz ps 4 31 8] }
/-- DEV_REEF_SET (R471). A share of a TT or absent partition is looked at when the packet is applied. -/
def layDevReefSet (ex : Bool) (ps : List Word) : Shape :=
  if ex then
    { count := ps.length == 3, fmt := [rz ps 4 31 3, rz ps 5 31 10]
      rng := [rr ps 4 2 0 0 4, rr ps 5 9 0 1 1000,
              (6, 0, decide (pf ps 6 7 0 + pf ps 6 15 8 + pf ps 6 23 16 + pf ps 6 31 24 < 1 ∨
                100 < pf ps 6 7 0 + pf ps 6 15 8 + pf ps 6 23 16 + pf ps 6 31 24))] }
  else { count := ps.length == 1, fmt := [rz ps 4 31 3], rng := [rr ps 4 2 0 0 4] }
/-- DEV_STATS (R56). -/
def layDevStats (_ : Bool) (ps : List Word) : Shape :=
  { count := ps.length == 3, fmt := [hostAlign ps 4 6, rz ps 6 31 1], rng := [hostRange ps 4] }
/-- DEV_FAULT_READ and PLN_FAULT_READ (R366). -/
def layDevFaultRead (_ : Bool) (ps : List Word) : Shape :=
  { count := ps.length == 3, fmt := [hostAlign ps 4 5, rz ps 6 31 9], rng := [hostRange ps 4, rr ps 6 8 0 1 256] }
/-- PLN_FAULT_READ (R366). -/
def layPlnFaultRead (ex : Bool) (ps : List Word) : Shape := layDevFaultRead ex ps
/-- The block list of DEV_SHUTDOWN and TEST_RUN (R445): a reserved code is out of range, a code named twice is
malformed. -/
def layDevShutdown (ex : Bool) (ps : List Word) : Shape :=
  if ex then
    let n := pf ps 4 4 0
    let codes := (ps.drop 1).map fun w => fld w 4 0
    { count := decide (1 < ps.length) && ps.length == 1 + n
      fmt := rz ps 4 31 5 :: (List.range n).map (fun i => rz ps (5 + i) 31 5) ++
        (List.range n).map fun i => (5 + i, 0, (codes.take i).contains (codes.getD i 0))
      rng := rr ps 4 4 0 1 22 :: (List.range n).map fun i => rr ps (5 + i) 4 0 0 21 }
  else { count := ps.length == 0 }
/-- DEV_RESET_COMPUTE (R59). -/
def layDevResetCompute (_ : Bool) (ps : List Word) : Shape := { count := ps.length == 0 }
/-- PART_CREATE (R60). -/
def layPartCreate (ex : Bool) (ps : List Word) : Shape :=
  if ex then
    { count := ps.length == 3
      fmt := [rz ps 4 3 3, rz ps 4 7 4, rz ps 4 31 8, rz ps 5 15 8, rz ps 5 31 25, rz ps 6 31 7,
              (5, 16, !bit (pw ps 4) 2 && pf ps 5 24 16 != 0)]
      rng := [rr ps 5 7 0 1 255, (5, 16, bit (pw ps 4) 2 && decide (pf ps 5 24 16 < 144 ∨ 400 < pf ps 5 24 16)),
              rr ps 6 6 0 0 60] }
  else { count := ps.length == 1, fmt := [rz ps 4 3 3, rz ps 4 31 8], rng := [rr ps 4 7 4 1 8] }
/-- PART_RESIZE (R61). -/
def layPartResize (ex : Bool) (ps : List Word) : Shape :=
  if ex then
    { count := ps.length == 2, fmt := [rz ps 4 3 2, rz ps 4 7 4, rz ps 4 31 8, rz ps 5 31 8], rng := [rr ps 5 7 0 1 255] }
  else { count := ps.length == 1, fmt := [rz ps 4 3 2, rz ps 4 31 8], rng := [rr ps 4 7 4 1 8] }
/-- PART_DELETE (R62). -/
def layPartDelete (_ : Bool) (ps : List Word) : Shape := { count := ps.length == 1, fmt := [rz ps 4 31 2] }

/-! ### Memory packets (R180 to R190) -/

/-- MEM_ALLOC (R180). -/
def layMemAlloc (ex : Bool) (ps : List Word) : Shape :=
  if ex then
    { count := ps.length == 3
      fmt := [rz ps 5 31 1, rz ps 6 7 2, rz ps 6 15 14, rz ps 6 19 18, rz ps 6 31 21,
              (6, 16, decide (pf ps 6 13 8 ≠ 63 ∧ pf ps 6 17 16 ≠ 0))]
      rng := [rr ps 4 31 0 1 25165824, rr ps 6 1 0 0 1, rr ps 6 13 8 1 63, rr ps 6 17 16 0 2] }
  else { count := ps.length == 2, fmt := [rz ps 5 31 1], rng := [rr ps 4 31 0 1 25165824] }
/-- MEM_FREE (R181): words 4 and 5 hold a 48-bit address. -/
def layMemFree (_ : Bool) (ps : List Word) : Shape := { count := ps.length == 2 }
/-- MEM_UNMAP (R181). -/
def layMemUnmap (_ : Bool) (ps : List Word) : Shape := { count := ps.length == 2 }
/-- MEM_MAP_HOST (R182). -/
def layMemMapHost (ex : Bool) (ps : List Word) : Shape :=
  let pg := pf ps 7 1 0
  let al := if pg = 0 then 12 else if pg = 1 then 16 else 21
  if ex then
    { count := ps.length == 6
      fmt := [hostAlign ps 4 12, rz ps 7 31 2, rz ps 8 (al - 1) 0, rz ps 9 31 16, (4, 0, pf ps 4 (al - 1) 0 != 0)]
      rng := [hostRange ps 4, rr ps 6 31 0 1 33554432, rr ps 7 1 0 0 2] }
  else { count := ps.length == 3, fmt := [hostAlign ps 4 12], rng := [hostRange ps 4, rr ps 6 31 0 1 33554432] }
/-- MEM_COPY (R183): lengths are multiples of 4. -/
def layMemCopy (ex : Bool) (ps : List Word) : Shape :=
  let len := (pw ps 8).toNat + 2 ^ 32 * pf ps 9 15 0
  { count := ps.length == if ex then 7 else 6
    fmt := [rz ps 5 31 16, rz ps 7 31 16, rz ps 9 31 16] ++
      if ex then [rz ps 10 7 4, rz ps 10 31 10] else []
    rng := [(8, 0, decide (len < 1 ∨ 103079215104 < len ∨ len % 4 ≠ 0))] ++ if ex then [rr ps 10 9 8 0 2] else [] }
/-- MEM_FILL (R183). -/
def layMemFill (ex : Bool) (ps : List Word) : Shape :=
  let len := (pw ps 6).toNat + 2 ^ 32 * pf ps 7 15 0
  { count := ps.length == if ex then 6 else 5
    fmt := [rz ps 5 31 16, rz ps 7 31 16] ++ if ex then [rz ps 9 31 4] else []
    rng := [(6, 0, decide (len < 1 ∨ 103079215104 < len ∨ len % 4 ≠ 0))] }
/-- XLT_FAULT_REPLY (R188): INSTALL in expert form only. -/
def layXltFaultReply (ex : Bool) (ps : List Word) : Shape :=
  let act := pf ps 4 9 8
  { count := ps.length == 3
    fmt := [rz ps 4 31 10] ++
      (if act = 1 then [hostAlign ps 5 12]
       else if act = 3 then [rz ps 5 11 8, rz ps 6 23 16, rz ps 6 31 30] else [rz ps 5 31 0, rz ps 6 31 0]) ++
      [(4, 8, !ex && act == 3)]
    rng := if act = 1 then [hostRange ps 5] else [] }


/-! ### Cleat, Commons and prefetch packets (R153 to R165) -/

/-- CLEAT_ALLOC (R153, R155). -/
def layCleatAlloc (ex : Bool) (ps : List Word) : Shape :=
  if ex then
    { count := ps.length == 3, fmt := [rz ps 4 31 20, rz ps 5 15 3, rz ps 6 31 18]
      rng := [rr ps 4 19 0 1 196608, rr ps 5 31 16 1 65535, (6, 0, decide (196352 < pf ps 6 17 0 ∨ pf ps 6 7 0 ≠ 0))] }
  else { count := ps.length == 1, fmt := [rz ps 4 31 20], rng := [rr ps 4 19 0 1 196608] }
/-- CLEAT_RELEASE (R156). -/
def layCleatRelease (_ : Bool) (ps : List Word) : Shape :=
  { count := ps.length == 1, fmt := [rz ps 4 7 7, rz ps 4 31 11] }
/-- COMMONS_SPLIT (R163). -/
def layCommonsSplit (ex : Bool) (ps : List Word) : Shape :=
  let x := pf ps 4 6 0
  if ex then
    { count := ps.length == 5
      fmt := [rz ps 4 31 7, rz ps 5 31 7, rz ps 6 31 7, rz ps 7 31 7, rz ps 8 31 7]
      rng := [rr ps 4 6 0 0 60, (5, 0, decide (x < pf ps 5 6 0 + pf ps 6 6 0 + pf ps 7 6 0 + pf ps 8 6 0))] }
  else { count := ps.length == 1, fmt := [rz ps 4 31 7], rng := [rr ps 4 6 0 0 60] }
/-- PREFETCH_CFG (R165). -/
def layPrefetchCfg (ex : Bool) (ps : List Word) : Shape :=
  let n := pf ps 5 3 0
  let com := [rz ps 4 7 6, rz ps 4 31 16]
  let rg := [rr ps 4 5 4 0 2, rr ps 4 15 8 1 254]
  if ex then
    { count := decide (2 < ps.length) && ps.length == 2 + n, fmt := com ++ [rz ps 5 31 4]
      rng := rg ++ [rr ps 5 3 0 1 8] ++
        (List.range n).map fun i => (6 + i, 0, decide ((pw ps (6 + i)).toNat = 0 ∨ (pw ps (6 + i)).toNat % 64 ≠ 0)) }
  else { count := ps.length == 1, fmt := com ++ [(4, 4, pf ps 4 5 4 == 2)], rng := rg }
/-! ### Halyard packets (R299 to R301) -/

/-- The value of an FP32 word is above 0, or 0 of either sign where `z`, finite, and at most `m` (an integer). -/
def fpIn (w : Word) (z : Bool) (m : Nat) : Bool :=
  (!bit w 31 || (z && fld w 30 0 == 0)) && (z || w != 0) && decide ((fld w 30 0) ≤ (if m = 2 then 0x40000000 else 0x3F800000))

/-- HAL_CFG (R300). -/
def layHalCfg (ex : Bool) (ps : List Word) : Shape :=
  let prof := pf ps 4 3 2
  let tr := pf ps 4 5 4
  let ports := pf ps 4 19 16
  let mp := pf ps 4 23 20
  { count := ps.length == if ex then 7 else 3
    fmt := [rz ps 4 31 24, rz ps 5 31 24, rz ps 6 31 16,
            (4, 4, prof == 0 && tr != 0), (4, 6, tr == 2 && !bit (pw ps 4) 6), (4, 20, (mp &&& ports) != mp)]
    rng := [rr ps 4 3 2 0 2, rr ps 4 5 4 0 2, rr ps 4 15 8 0 127,
            (6, 0, decide (sext 4 (pf ps 6 3 0) < -7 ∨ 1 < sext 4 (pf ps 6 3 0))),
            (6, 4, decide (sext 4 (pf ps 6 7 4) < -3 ∨ 4 < sext 4 (pf ps 6 7 4))),
            (6, 8, decide (sext 4 (pf ps 6 11 8) < -7 ∨ 5 < sext 4 (pf ps 6 11 8))),
            rr ps 6 15 12 2 10] ++
      if ex then [(7, 0, !fpIn (pw ps 7) false 2), (8, 0, !fpIn (pw ps 8) true 1), rr ps 9 31 0 1 0xFFFFFFFE,
                  rr ps 10 31 0 1 1000000] else [] }
/-- HAL_QUERY (R301). -/
def layHalQuery (_ : Bool) (ps : List Word) : Shape := { count := ps.length == 1, fmt := [rz ps 4 31 1] }
/-- QBV_CFG (R299). -/
def layQbvCfg (_ : Bool) (ps : List Word) : Shape :=
  let n := pf ps 4 9 2
  let cyc := (pw ps 8).toNat
  let ents := (List.range n).map fun i => pw ps (9 + i)
  { count := ps.length == 5 + n
    fmt := [rz ps 4 31 10, rz ps 7 31 16]
    rng := [rr ps 4 9 2 1 128, timeRange ps 5, (8, 0, decide (cyc < 4000 ∨ 1000000000 < cyc ∨ cyc % 4 ≠ 0))] ++
      (List.range n).map (fun i => (9 + i, 8, decide (pf ps (9 + i) 31 8 < 4 ∨ 16777212 < pf ps (9 + i) 31 8 ∨
        pf ps (9 + i) 31 8 % 4 ≠ 0))) ++
      [(8, 0, sumN (ents.map fun w => fld w 31 8) != cyc), (9, 0, !(ents.any fun w => bit w 7))] }

/-! ### Plinth and Trim packets (R338, R339, R346, R347, R366, R368) -/

/-- The reserved bits of a signature block that starts at packet word `w` (R348). -/
def sigFmt (ps : List Word) (w : Nat) : Nat × Nat × Bool := rz ps w 31 9
/-- PLN_STATUS (R368). -/
def layPlnStatus (_ : Bool) (ps : List Word) : Shape := { count := ps.length == 0 }
/-- TRIM_TRACE_READ (R339). -/
def layTrimTraceRead (_ : Bool) (ps : List Word) : Shape :=
  { count := ps.length == 3, fmt := [hostAlign ps 4 6, rz ps 6 31 15], rng := [hostRange ps 4, rr ps 6 14 0 1 16384] }
/-- PLN_CONFIG (R347): the length is held against the object's maximum. -/
def layPlnConfig (_ : Bool) (ps : List Word) : Shape :=
  let ob := pf ps 4 2 0
  let mx := if ob = 1 then 12591824 else if ob = 2 then 4194384 else if ob = 3 then 6240 else 112
  { count := ps.length == 4, fmt := [rz ps 4 31 3], rng := [rr ps 4 2 0 1 4,
            (5, 0, decide (¬ (w64 (pw ps 5) (pw ps 6) + (pw ps 7).toNat ≤ psmSize ∨
              (hostBase ≤ w64 (pw ps 5) (pw ps 6) ∧
                w64 (pw ps 5) (pw ps 6) + (pw ps 7).toNat ≤ hostBase + 2 ^ 47)))),
            rr ps 7 31 0 1 mx] }
/-- PLN_MODE_SET (R346). -/
def layPlnModeSet (_ : Bool) (ps : List Word) : Shape :=
  { count := ps.length == 21, fmt := [rz ps 4 31 3, sigFmt ps 5], rng := [rr ps 4 2 0 0 3] }
/-- TRIM_TRACE_CFG (R338). -/
def layTrimTraceCfg (_ : Bool) (ps : List Word) : Shape :=
  let n := pf ps 4 6 0
  let trig := pf ps 4 11 9
  { count := decide (23 < ps.length) && ps.length == 23 + n
    fmt := [rz ps 4 31 20, rz ps 5 15 15, rz ps 5 31 31] ++ (List.range n).map (fun i => rz ps (7 + i) 31 10) ++
      [sigFmt ps (7 + n)]
    rng := [rr ps 4 6 0 1 64, rr ps 4 8 7 0 1, rr ps 4 11 9 0 3, rr ps 4 19 12 1 254, rr ps 5 14 0 1 16384,
            (5, 16, decide (pf ps 5 14 0 ≤ pf ps 5 30 16)),
            (6, 0, if trig = 3 then decide ((pw ps 6).toNat < 1 ∨ 0xFFFFFFFE < (pw ps 6).toNat) else pw ps 6 != 0)] }

/-! ### Twin packets (R394, R396, R408, R409) -/

/-- TWIN_LINK_UP (R394). -/
def layTwinLinkUp (ex : Bool) (ps : List Word) : Shape :=
  { count := ps.length == if ex then 10 else 9
    fmt := rz ps 4 31 1 :: if ex then [rz ps 13 31 8] else []
    rng := if ex then [rr ps 13 3 0 0 10] else [] }
/-- TWIN_MODE_SET (R396). -/
def layTwinModeSet (_ : Bool) (ps : List Word) : Shape :=
  let m := pf ps 4 1 0
  let n := pf ps 4 11 8
  { count := ps.length == 1 + n
    fmt := [rz ps 4 7 3, rz ps 4 31 12] ++
      (List.range n).flatMap (fun i => [rz ps (5 + i) 7 6, rz ps (5 + i) 31 14])
    rng := [rr ps 4 1 0 0 2, (4, 8, if m = 2 then decide (n < 1 ∨ 8 < n) else n != 0)] }
/-- TWIN_QUERY (R409). -/
def layTwinQuery (_ : Bool) (ps : List Word) : Shape := { count := ps.length == 0 }
/-- TWIN_HANDOVER (R408). -/
def layTwinHandover (_ : Bool) (ps : List Word) : Shape := { count := ps.length == 0 }

/-! ### Protection, update and test packets (R427, R429, R436, R450, R451, R456, R459) -/

/-- SEC_ATTEST (R429). -/
def laySecAttest (_ : Bool) (ps : List Word) : Shape :=
  { count := ps.length == 10, fmt := [hostAlign ps 12 6], rng := [hostRange ps 12] }
/-- UPD_OPEN (R436). -/
def layUpdOpen (_ : Bool) (ps : List Word) : Shape :=
  { count := ps.length == 3, fmt := [hostAlign ps 4 6, rz ps 6 31 18], rng := [hostRange ps 4, rr ps 6 17 0 256 131264] }
/-- UPD_BLOCK (R436). -/
def layUpdBlock (_ : Bool) (ps : List Word) : Shape :=
  { count := ps.length == 4, fmt := [rz ps 4 31 16, hostAlign ps 5 6, rz ps 7 31 17]
    rng := [rr ps 4 15 0 0 2047, hostRange ps 5, rr ps 7 16 0 1 65536] }
/-- UPD_VERIFY (R436). -/
def layUpdVerify (_ : Bool) (ps : List Word) : Shape := { count := ps.length == 0 }
/-- UPD_ACTIVATE (R436). -/
def layUpdActivate (ex : Bool) (ps : List Word) : Shape :=
  if ex then { count := ps.length == 3, rng := [timeRange ps 4] } else { count := ps.length == 0 }
/-- UPD_ABORT (R436). -/
def layUpdAbort (_ : Bool) (ps : List Word) : Shape := { count := ps.length == 0 }
/-- UPD_QUERY (R436). -/
def layUpdQuery (_ : Bool) (ps : List Word) : Shape := { count := ps.length == 0 }
/-- LC_TRANSITION (R427). -/
def layLcTransition (_ : Bool) (ps : List Word) : Shape :=
  { count := ps.length == 21, fmt := [rz ps 4 31 3, sigFmt ps 5], rng := [rr ps 4 2 0 0 6] }
/-- DBG_SESSION (R427). -/
def layDbgSession (_ : Bool) (ps : List Word) : Shape :=
  { count := ps.length == 21, fmt := [rz ps 4 3 2, rz ps 4 31 7, sigFmt ps 5] }
/-- TEST_RUN (R450): the parameters of DEV_SHUTDOWN. -/
def layTestRun (ex : Bool) (ps : List Word) : Shape := layDevShutdown ex ps
/-- TEST_RESULT (R451). -/
def layTestResult (_ : Bool) (ps : List Word) : Shape :=
  { count := ps.length == 1, fmt := [rz ps 4 31 6], rng := [rr ps 4 4 0 0 21] }
/-- LOOPBACK_SET (R459). -/
def layLoopbackSet (_ : Bool) (ps : List Word) : Shape :=
  let ifc := pf ps 4 2 0
  let d := pf ps 4 14 12
  let okd := d == 0 ||
    (if ifc = 1 then d ≤ 4 else if ifc = 3 then d == 1 || d == 2 || d == 4
     else if ifc = 4 then d == 1 || d == 2 || d == 4 else d ≤ 3)
  let mx := if ifc = 0 then 7 else if ifc = 1 then 3 else if ifc = 2 then 95 else 0
  { count := ps.length == 1, fmt := [rz ps 4 3 3, rz ps 4 11 11, rz ps 4 15 15, rz ps 4 31 18]
    rng := [rr ps 4 2 0 0 4, rr ps 4 10 4 0 mx, (4, 12, !okd), rr ps 4 17 16 0 2] }
/-- TEST_ROTATE_CFG (R456). -/
def layTestRotateCfg (_ : Bool) (ps : List Word) : Shape :=
  { count := ps.length == 1, fmt := [rz ps 4 31 24], rng := [rr ps 4 23 8 1 10000] }

/-! ### Clients, contexts, jobs and fences (R97, R126, R370 to R372, R387) -/

/-- An address pair with route 0 in words `w` and `w + 1`, its low `k` bits zero (R75): the faulty fields. -/
def pairFmt (ps : List Word) (w k : Nat) : List (Nat × Nat × Bool) :=
  (if k = 0 then [] else [rz ps w (k - 1) 0]) ++ [rz ps (w + 1) 18 16, rz ps (w + 1) 31 19]
/-- The address in words `w` and `w + 1` of a packet. -/
def Packet.va (p : Packet) (w : Nat) : Nat := (wat p.params (w - 4)).toNat + 2 ^ 32 * fld (wat p.params (w - 3)) 15 0

/-- DEV_CLIENT_CFG (R370, R46): client 0 keeps INTERACTIVE. -/
def layDevClientCfg (_ : Bool) (ps : List Word) : Shape :=
  { count := ps.length == 2, fmt := [rz ps 4 7 4, rz ps 4 15 11, rz ps 4 31 24, rz ps 5 31 10]
    rng := [(4, 8, pf ps 4 3 0 == 0 && !bit (pw ps 4) 9), rr ps 4 22 16 0 64, rr ps 5 9 0 1 1000] }
/-- CTX_CREATE (R371, R372). -/
def layCtxCreate (ex : Bool) (ps : List Word) : Shape :=
  if ex then { count := ps.length == 4, fmt := [rz ps 4 31 2, rz ps 5 31 9, rz ps 6 15 0, rz ps 7 31 16] }
  else { count := ps.length == 1, fmt := [rz ps 4 31 2] }
/-- CTX_DESTROY (R387). -/
def layCtxDestroy (_ : Bool) (ps : List Word) : Shape := { count := ps.length == 0 }
/-- CTX_SUSPEND (R387). -/
def layCtxSuspend (_ : Bool) (ps : List Word) : Shape := { count := ps.length == 0 }
/-- CTX_RESUME (R387). -/
def layCtxResume (_ : Bool) (ps : List Word) : Shape := { count := ps.length == 0 }
/-- CTX_MODE_SET (R126). -/
def layCtxModeSet (_ : Bool) (ps : List Word) : Shape := { count := ps.length == 1, fmt := [rz ps 4 31 1] }
/-- CTX_QUERY (R387). -/
def layCtxQuery (_ : Bool) (ps : List Word) : Shape := { count := ps.length == 0 }
/-- JOB_SUBMIT (R48, R97). -/
def layJobSubmit (ex : Bool) (ps : List Word) : Shape :=
  { count := ps.length == if ex then 6 else 4
    fmt := [rz ps 4 5 0, rz ps 5 31 16, rz ps 6 31 20] ++ if ex then pairFmt ps 8 0 else []
    rng := [rr ps 6 19 0 1 1048574] }
/-- JOB_CANCEL (R97). -/
def layJobCancel (_ : Bool) (ps : List Word) : Shape := { count := ps.length == 1 }
/-- JOB_QUERY (R97). -/
def layJobQuery (_ : Bool) (ps : List Word) : Shape := { count := ps.length == 1 }
/-- JOB_STATS (R97). -/
def layJobStats (_ : Bool) (ps : List Word) : Shape :=
  { count := ps.length == 3, fmt := [hostAlign ps 5 6], rng := [hostRange ps 5] }
/-- FENCE_SIGNAL (R78, R97): as the list command, an addition of 0 and the value of all ones are out of range. -/
def layFenceSignal (_ : Bool) (ps : List Word) : Shape :=
  { count := ps.length == 2, fmt := [rz ps 4 7 4, rz ps 4 31 9]
    rng := [(5, 0, pw ps 5 == 0xFFFFFFFF || (!bit (pw ps 4) 8 && pw ps 5 == 0))] }
/-- FENCE_WAIT (R64, R97). -/
def layFenceWait (_ : Bool) (ps : List Word) : Shape :=
  { count := ps.length == 2, fmt := [rz ps 4 31 4], rng := [rr ps 5 31 0 1 0xFFFFFFFE] }

/-! ### Sequences (R219, R221, R222, R227, R228, R232, R244, R246) -/

/-- SEQ_OPEN (R219). -/
def laySeqOpen (ex : Bool) (ps : List Word) : Shape :=
  { count := ps.length == if ex then 4 else 1
    fmt := [rz ps 4 31 29, (4, 25, !([4, 6, 7, 9, 10].contains (pf ps 4 28 25)))] ++
      if ex then [rz ps 5 31 4, rz ps 6 31 12, rz ps 7 31 18, (6, 0, pf ps 7 17 0 == 0 && pf ps 6 11 0 != 0)] else []
    rng := [rr ps 4 7 0 1 255, rr ps 4 15 8 1 254, rr ps 4 24 16 1 256,
      (4, 8, decide (2097152 < kvPage (pf ps 4 15 8) (pf ps 4 24 16) (pf ps 4 28 25)))] ++ if ex then [rr ps 7 17 0 0 131072] else [] }
/-- SEQ_CLOSE (R222). -/
def laySeqClose (_ : Bool) (ps : List Word) : Shape := { count := ps.length == 1, fmt := [rz ps 4 31 12] }
/-- SEQ_RESTORE (R246). -/
def laySeqRestore (_ : Bool) (ps : List Word) : Shape := { count := ps.length == 1, fmt := [rz ps 4 31 12] }
/-- SEQ_FORK (R221). -/
def laySeqFork (_ : Bool) (ps : List Word) : Shape := { count := ps.length == 1, fmt := [rz ps 4 31 12] }
/-- SEQ_PREEMPT (R244). -/
def laySeqPreempt (ex : Bool) (ps : List Word) : Shape :=
  { count := ps.length == if ex then 3 else 1
    fmt := rz ps 4 31 12 :: if ex then [rz ps 5 11 0, rz ps 6 31 16] else [] }
/-- The fields of a list descriptor at word `w` (R228). -/
def listDescFmt (ps : List Word) (w : Nat) : List (Nat × Nat × Bool) :=
  [rz ps w 5 0, rz ps (w + 1) 31 16, rz ps (w + 2) 31 20, rz ps (w + 3) 7 7, rz ps (w + 3) 31 11]
/-- SEQ_STEP (R228). -/
def laySeqStep (ex : Bool) (ps : List Word) : Shape :=
  let kind := pf ps 4 1 0
  let more := pf ps 15 1 0
  { count := ps.length == if ex then 24 else 9
    fmt := [(4, 0, kind == 3 || (!ex && kind == 2)), (4, 2, kind == 2 && pf ps 4 5 2 != 0),
            (4, 6, kind != 2 && pf ps 4 10 6 != 0), (4, 20, !ex && pf ps 4 20 20 != 0), rz ps 4 31 21] ++
      pairFmt ps 5 6 ++ pairFmt ps 7 7 ++ listDescFmt ps 9 ++
      (if ex then
        [(13, 0, kind != 2 && pw ps 13 != 0), (14, 0, kind != 2 && pw ps 14 != 0), rz ps 15 31 2] ++
        ((List.range 3).flatMap fun i => if i < more then listDescFmt ps (16 + 4 * i)
          else (List.range 4).map fun j => rz ps (16 + 4 * i + j) 31 0)
       else [])
    rng := [if kind = 2 then rr ps 4 10 6 1 16 else rr ps 4 5 2 1 8, rr ps 4 19 11 1 256, rr ps 11 19 0 1 1048574] ++
      if ex then (List.range more).map fun i => rr ps (18 + 4 * i) 19 0 1 1048574 else [] }
/-- KV_BUCKETS_SET (R232). -/
def layKvBucketsSet (_ : Bool) (ps : List Word) : Shape :=
  let n := pf ps 4 3 0
  { count := ps.length == 8
    fmt := rz ps 4 31 4 :: (List.range 7).map fun i => if i + 1 < n then rz ps (5 + i) 31 18 else rz ps (5 + i) 31 0
    rng := rr ps 4 3 0 1 8 :: (List.range (min 7 (n - 1))).map fun i =>
      (5 + i, 0, decide (pf ps (5 + i) 17 0 < 1 ∨ 131071 < pf ps (5 + i) 17 0 ∨ (0 < i ∧ pf ps (5 + i) 17 0 ≤ pf ps (4 + i) 17 0))) }
/-- KV_DIR_QUERY (R227). -/
def layKvDirQuery (_ : Bool) (ps : List Word) : Shape :=
  { count := ps.length == 1, fmt := [rz ps 4 31 20, (4, 12, bit (pw ps 4) 19 && pf ps 4 18 12 != 0)] }

/-! ### Streams (R253, R265, R269, R278) -/

/-- A CSI-2 data type that the ports take (R249). -/
def csiType (d : Nat) : Bool := [0x2A, 0x2B, 0x2C, 0x2D, 0x1E, 0x24].contains d
/-- An output format of the front end (R253). -/
def feFormat (f : Nat) : Bool := [5, 6, 9, 10, 11].contains f
/-- STREAM_OPEN (R253, R254). -/
def layStreamOpen (ex : Bool) (ps : List Word) : Shape :=
  let src := pf ps 4 6 5
  let safety := bit (pw ps 4) 20
  { count := ps.length == if ex then 10 else 6
    fmt := [(4, 5, src == 3), (4, 7, src != 0 && pf ps 4 9 7 != 0), (4, 10, src != 0 && pf ps 4 13 10 != 0),
            (4, 14, if src = 0 then !csiType (pf ps 4 19 14) else pf ps 4 19 14 != 0),
            (4, 27, !bit (pw ps 4) 30 && pf ps 4 29 27 != 0), rz ps 4 31 31, rz ps 5 15 15, rz ps 5 31 31,
            (6, 0, !feFormat (pf ps 6 3 0)), rz ps 6 7 5, rz ps 6 31 28, rz ps 7 31 14] ++
      pairFmt ps 8 6 ++ if ex then pairFmt ps 10 0 ++ pairFmt ps 12 12 else []
    rng := [rr ps 4 26 21 1 32, rr ps 5 14 0 1 (if src = 1 then 64 else 16384), rr ps 5 30 16 1 (if src = 1 then 32 else 16384),
            rr ps 6 11 8 2 15, rr ps 6 19 12 1 254, rr ps 6 27 20 0 (if safety then 254 else 0), rr ps 7 13 0 1 8000] }
/-- The layout of packets that name a stream alone (R278). -/
def streamOnly (ps : List Word) : Shape := { count := ps.length == 1, fmt := [rz ps 4 31 5] }
/-- STREAM_CLOSE. -/
def layStreamClose (_ : Bool) (ps : List Word) : Shape := streamOnly ps
/-- STREAM_START. -/
def layStreamStart (_ : Bool) (ps : List Word) : Shape := streamOnly ps
/-- STREAM_STOP. -/
def layStreamStop (_ : Bool) (ps : List Word) : Shape := streamOnly ps
/-- STREAM_RESUME. -/
def layStreamResume (_ : Bool) (ps : List Word) : Shape := streamOnly ps
/-- STREAM_SKIP. -/
def layStreamSkip (_ : Bool) (ps : List Word) : Shape := streamOnly ps
/-- MESH_LOAD (R265). -/
def layMeshLoad (_ : Bool) (ps : List Word) : Shape :=
  { count := ps.length == 3, fmt := rz ps 4 31 23 :: pairFmt ps 5 0, rng := [rr ps 4 13 5 2 257, rr ps 4 22 14 2 257] }
/-- JPEG_DECODE (R269). The basic count of 4 holds words 4 to 7; the stream is the one stated in word 4 of neither form,
so the stream is found from the context (log 47). -/
def layJpegDecode (ex : Bool) (ps : List Word) : Shape :=
  { count := ps.length == if ex then 9 else 4
    fmt := pairFmt ps 4 0 ++ [rz ps 6 31 24] ++
      if ex then pairFmt ps 8 6 ++ [rz ps 11 31 7, (11, 2, !feFormat (pf ps 11 5 2)), rz ps 12 31 0] else []
    rng := [rr ps 6 23 0 1 16777214] ++ if ex then [rr ps 10 31 0 1 0xFFFFFFFE] else [] }

/-! ### Plans (R305, R310, R313, R314) -/

/-- A plan slot in word 4. -/
def planSlot (ps : List Word) : Nat × Nat × Bool := rr ps 4 3 0 0 7
/-- PLAN_LOAD (R305). -/
def layPlanLoad (ex : Bool) (ps : List Word) : Shape :=
  { count := ps.length == if ex then 5 else 3
    fmt := rz ps 4 31 4 :: pairFmt ps 5 0 ++ if ex then pairFmt ps 7 0 else [], rng := [planSlot ps] }
/-- PLAN_ACTIVATE (R310). -/
def layPlanActivate (ex : Bool) (ps : List Word) : Shape :=
  { count := ps.length == if ex then 4 else 1, fmt := [rz ps 4 31 4], rng := planSlot ps :: if ex then [timeRange ps 5] else [] }
/-- PLAN_DEACTIVATE (R313). -/
def layPlanDeactivate (_ : Bool) (ps : List Word) : Shape := { count := ps.length == 1, fmt := [rz ps 4 31 4], rng := [planSlot ps] }
/-- PLAN_UNLOAD (R314). -/
def layPlanUnload (_ : Bool) (ps : List Word) : Shape := { count := ps.length == 1, fmt := [rz ps 4 31 4], rng := [planSlot ps] }
/-- PLAN_QUERY (R314). -/
def layPlanQuery (_ : Bool) (ps : List Word) : Shape := { count := ps.length == 1, fmt := [rz ps 4 31 4], rng := [planSlot ps] }

/-! ### The opcode table (R48) -/

/-- The layout of an opcode; none where the opcode is not in the table. -/
def layoutOf (op : Nat) (ex : Bool) (ps : List Word) : Option Shape :=
  if op = 0x000 then some (layNop ex ps)
  else if op = 0x001 then some (layDevInfo ex ps)
  else if op = 0x002 then some (layDevRingSet ex ps)
  else if op = 0x003 then some (layDevRingClear ex ps)
  else if op = 0x004 then some (layDevReefSet ex ps)
  else if op = 0x005 then some (layDevStats ex ps)
  else if op = 0x006 then some (layDevFaultRead ex ps)
  else if op = 0x007 then some (layDevShutdown ex ps)
  else if op = 0x008 then some (layDevResetCompute ex ps)
  else if op = 0x009 then some (layDevClientCfg ex ps)
  else if op = 0x100 then some (layPartCreate ex ps)
  else if op = 0x101 then some (layPartResize ex ps)
  else if op = 0x102 then some (layPartDelete ex ps)
  else if op = 0x110 then some (layCtxCreate ex ps)
  else if op = 0x111 then some (layCtxDestroy ex ps)
  else if op = 0x112 then some (layCtxSuspend ex ps)
  else if op = 0x113 then some (layCtxResume ex ps)
  else if op = 0x114 then some (layCtxModeSet ex ps)
  else if op = 0x115 then some (layCtxQuery ex ps)
  else if op = 0x200 then some (layMemAlloc ex ps)
  else if op = 0x201 then some (layMemFree ex ps)
  else if op = 0x202 then some (layMemMapHost ex ps)
  else if op = 0x203 then some (layMemUnmap ex ps)
  else if op = 0x204 then some (layMemCopy ex ps)
  else if op = 0x205 then some (layMemFill ex ps)
  else if op = 0x210 then some (layCleatAlloc ex ps)
  else if op = 0x211 then some (layCleatRelease ex ps)
  else if op = 0x220 then some (layXltFaultReply ex ps)
  else if op = 0x230 then some (layCommonsSplit ex ps)
  else if op = 0x231 then some (layPrefetchCfg ex ps)
  else if op = 0x300 then some (layJobSubmit ex ps)
  else if op = 0x301 then some (layJobCancel ex ps)
  else if op = 0x302 then some (layJobQuery ex ps)
  else if op = 0x303 then some (layJobStats ex ps)
  else if op = 0x310 then some (layFenceSignal ex ps)
  else if op = 0x311 then some (layFenceWait ex ps)
  else if op = 0x400 then some (laySeqOpen ex ps)
  else if op = 0x401 then some (laySeqClose ex ps)
  else if op = 0x402 then some (laySeqStep ex ps)
  else if op = 0x403 then some (laySeqPreempt ex ps)
  else if op = 0x404 then some (laySeqRestore ex ps)
  else if op = 0x405 then some (laySeqFork ex ps)
  else if op = 0x410 then some (layKvBucketsSet ex ps)
  else if op = 0x411 then some (layKvDirQuery ex ps)
  else if op = 0x500 then some (layStreamOpen ex ps)
  else if op = 0x501 then some (layStreamClose ex ps)
  else if op = 0x502 then some (layStreamStart ex ps)
  else if op = 0x503 then some (layStreamStop ex ps)
  else if op = 0x504 then some (layStreamResume ex ps)
  else if op = 0x505 then some (layStreamSkip ex ps)
  else if op = 0x510 then some (layMeshLoad ex ps)
  else if op = 0x511 then some (layJpegDecode ex ps)
  else if op = 0x600 then some (layHalCfg ex ps)
  else if op = 0x601 then some (layHalQuery ex ps)
  else if op = 0x610 then some (layPlanLoad ex ps)
  else if op = 0x611 then some (layPlanActivate ex ps)
  else if op = 0x612 then some (layPlanDeactivate ex ps)
  else if op = 0x613 then some (layPlanUnload ex ps)
  else if op = 0x614 then some (layPlanQuery ex ps)
  else if op = 0x620 then some (layQbvCfg ex ps)
  else if op = 0x700 then some (layPlnStatus ex ps)
  else if op = 0x701 then some (layPlnFaultRead ex ps)
  else if op = 0x702 then some (layTrimTraceRead ex ps)
  else if op = 0x710 then some (layPlnConfig ex ps)
  else if op = 0x711 then some (layPlnModeSet ex ps)
  else if op = 0x712 then some (layTrimTraceCfg ex ps)
  else if op = 0x800 then some (layTwinLinkUp ex ps)
  else if op = 0x801 then some (layTwinModeSet ex ps)
  else if op = 0x802 then some (layTwinQuery ex ps)
  else if op = 0x803 then some (layTwinHandover ex ps)
  else if op = 0x900 then some (laySecAttest ex ps)
  else if op = 0x901 then some (layUpdOpen ex ps)
  else if op = 0x902 then some (layUpdBlock ex ps)
  else if op = 0x903 then some (layUpdVerify ex ps)
  else if op = 0x904 then some (layUpdActivate ex ps)
  else if op = 0x905 then some (layUpdAbort ex ps)
  else if op = 0x906 then some (layUpdQuery ex ps)
  else if op = 0x910 then some (layLcTransition ex ps)
  else if op = 0x911 then some (layDbgSession ex ps)
  else if op = 0xA00 then some (layTestRun ex ps)
  else if op = 0xA01 then some (layTestResult ex ps)
  else if op = 0xA02 then some (layLoopbackSet ex ps)
  else if op = 0xA03 then some (layTestRotateCfg ex ps)
  else none

/-- Opcodes that have an expert form (R48). -/
def opExpert (op : Nat) : Bool :=
  [0x004, 0x007, 0x100, 0x101, 0x110, 0x200, 0x202, 0x204, 0x205, 0x210, 0x220, 0x230, 0x231, 0x300, 0x400, 0x402, 0x403, 0x500, 0x511, 0x600, 0x610, 0x611, 0x800, 0x904, 0xA00].contains op

end Sys2Proof.Machine
end

