-- ==== Sys2Proof/Machine/Access.lean ====
section
/-! DEFINITION. Access tables: which master may read or write what (R423 to R425). -/

namespace Sys2Proof.Machine

/-- The lowest-numbered entry of a space whose range contains a byte. -/
def State.accEntry (s : State) (space addr : Nat) : Option (Nat × AccEntry) :=
  s.sec.table.find? fun p => p.2.space = space ∧ p.2.base ≤ addr ∧ addr ≤ p.2.limit

/-- The life-cycle state as R427 codes it. -/
def Sec.code (x : Sec) : Nat := if x.debug then 4 else x.lc

/-- What the life-cycle state lets DBG do (R426). -/
def State.dbgOpen (s : State) (write : Bool) : Bool :=
  let c := s.sec.code
  c == 0 || c == 1 || c == 5 || (c == 2 && !write) || (c == 4 && s.sec.session)

/-- Whether master `m` may access `len` bytes from `addr` (R424), DBG only as the life-cycle state lets it (R426). The BOOT
master is not checked before it has locked the tables it writes (DEDUCED, log 8). -/
def State.allowed (s : State) (m space addr len : Nat) (write : Bool) : Bool :=
  (m = 48 && !s.sec.locked) ||
  ((m != 47 || s.dbgOpen write) &&
    match s.accEntry space addr with
    | none => false
    | some (_, e) => (if write then e.wmask else e.rmask).getLsbD m && decide (addr + len ≤ e.limit + 1))

/-- Residue hold of an engine ends: its held cleats are scrubbed in entry order (R159). -/
def State.holdRelease (s : State) (e : Nat) : State :=
  s.upEngine e fun x =>
    { x with resHold := false, cleats := x.cleats.map fun p => (p.1, { p.2 with hold := false })
             vacated := x.vacated.map fun p => (p.1, { p.2 with hold := false }) }

/-- The debug session ends, and with it every hold (event 322). -/
def State.dbgEnd (s : State) : State :=
  let s := (List.range 8).foldl State.holdRelease s
  if s.sec.session then (s.upSec fun x => { x with session := false }).event 322 else s

/-- An interface is looped back: what it carries reaches the test controller alone (R458). Interfaces as R458 codes them. -/
def State.looped (s : State) (iface index : Nat) : Bool :=
  s.tst.loops.any fun p => p.2.depth != 0 && p.2.iface == iface && p.2.index == index

/-- A refused access is recorded (R424, R443). -/
def State.violation (s : State) (m space addr : Nat) (write : Bool) : State :=
  s.upSec fun x =>
    { x with violCnt := x.violCnt + 1, violMaster := m, violWrite := write, violAddr := addr
             violEntry := match s.accEntry space addr with
               | none => 0x7F
               | some (e, _) => e }

/-- The effect of a refused access of a bus master (R424): a host's read completes with Completer Abort and its write is
discarded and reported; a control processor or BOOT makes the device FAULTED; a debug session ends. -/
def State.refusedAccess (s : State) (m space addr : Nat) (write : Bool) : State :=
  let s := s.violation m space addr write
  if m < 16 then
    if write then (s.upHif fun h => { h with aerUnsupported := true }).busAns 0 [] else s.busAns 2 []
  else if m < 20 ∨ m = 48 then s.enterDev devFaulted
  else if m = 47 then if write then s.dbgEnd.busAns 0 [] else s.dbgEnd.busWord 0
  else s

/-- The test block that a BAR0 offset belongs to (R444). -/
def blockAt (off : Nat) : Option Nat :=
  let b := off / 0x100000
  if 0x10 ≤ b ∧ b < 0x18 then some (b - 0x10)
  else if b = 1 then some 19 else if b = 2 then some 18 else if b = 0x20 then some 16 else if b = 0x21 then some 17
  else if b = 0x23 ∨ b = 0x24 ∨ b = 0x25 then some 21 else if b = 0x28 then some 20 else none

/-- The block of a BAR0 offset is under test: an access of it waits until it has been re-initialised (R447). -/
def State.underTest (s : State) (off : Nat) : Bool :=
  match blockAt off with
  | some b => s.tst.runs.any fun r => r.active.contains b
  | none => false

/-- A host access that the map or the power state does not allow completes with Unsupported Request (R30, R31, R421). -/
def State.hostUr (s : State) : State := (s.upHif fun h => { h with aerUnsupported := true }).busAns 1 []

/-- An access of BAR0 by a host while the function is in D3hot (R30). -/
def State.asleep (s : State) (m : Nat) : Bool := decide (m < 16) && s.hif.d3hot

/-- Run an access of a BAR0 register by master `m` under the access table; in D3hot a host's is not taken, and none comes
about while the block is under test. -/
def State.checked (s : State) (m off : Nat) (write : Bool) (g : State → State) : State :=
  if s.asleep m then s.hostUr
  else if s.underTest off then s
  else if s.allowed m 1 off 4 write then g s else s.refusedAccess m 1 off write

end Sys2Proof.Machine
end

