-- ==== Sys2Proof/Machine/Hal.lean ====
section
/-! DEFINITION. Halyard time, network time and scheduled Ethernet transmission (R281 to R303, R15). -/

namespace Sys2Proof.Machine

/-! ### Steps and increments -/

/-- A sail plan is ARMED, ACTIVE or RETIRING. -/
def State.planRuns (s : State) : Bool := s.plans.any fun p => 0x52 ≤ p.2.state && p.2.state ≤ 0x54

/-- A step of the counter is allowed (R286). -/
def State.stepAllowed (s : State) : Bool :=
  !s.planRuns && !(s.fe.streams.any fun p => p.2.state == 0x42 && p.2.cfg.period != 0)

/-- The increment that the writes made so far come to. -/
def Hal.incrAhead (h : Hal) : Nat := h.pend.foldl (fun i w => w.incr.getD i) h.inc

/-- A decision takes effect 16 HCLK edges after it was made (R287). -/
def Hal.later (h : Hal) (w : HalWrite) : Hal := { h with pend := h.pend ++ [{ w with due := h.hclk + 16 }] }

/-- The preference, revert and step_ok fields and the mode of a write to HAL_CTRL (R303). -/
def Hal.ctrl (h : Hal) (v : Word) : Hal :=
  let m := if fld v 1 0 = 3 then 2 else fld v 1 0
  { h with pref := fld v 2 2, revert := fld v 10 3, stepOk := bit v 11 }.later { mode := some m }

/-- The value that HAL_SET_* holds, in units of 2^-32 ns. -/
def Hal.target (h : Hal) : Nat :=
  ((h.setLo.toNat + 2 ^ 32 * fld h.setHi 15 0) * 1000000000 + h.setNs.toNat) * 2 ^ 32 + 2 ^ 16 * fld h.setHi 31 16

/-- A write to HAL_CTRL, with its manual step where it asks for one (R286, R287). -/
def State.halCtrl (s : State) (v : Word) : State :=
  let m := if fld v 1 0 = 3 then 2 else fld v 1 0
  let s := s.upHal fun h => h.ctrl v
  if bit v 12 then
    if m ≠ 2 ∧ s.stepAllowed ∧ s.hal.setNs.toNat ≤ 999999999 then
      s.upHal fun h => h.later { set := some h.target }
    else (s.upHal fun h => { h with stepRefused := true }).event 36
  else s

/-- HAL_MANUAL_STEP: a HAL_CTRL write with step set (R286). -/
def execHalManualStep (m : Fin 64) (v : Word) (s : State) : Host.Outcome State Fault Refusal :=
  .next (s.checked m 0x200004 true fun s => s.halCtrl v)

/-- HAL_MODE_WRITE: a HAL_CTRL write (R282, R303). -/
def execHalModeWrite (m : Fin 64) (v : Word) (s : State) : Host.Outcome State Fault Refusal :=
  .next (s.checked m 0x200004 true fun s => s.halCtrl v)

/-- A write to HAL_INCR or HAL_INCR_FINE: ignored and counted outside MANUAL (R282). -/
def Hal.writeIncr (h : Hal) (fine : Bool) (v : Word) : Hal :=
  if h.mode = 1 then
    let i := h.incrAhead
    h.later { incr := some (Hal.clamp (if fine then i / 2 ^ 16 * 2 ^ 16 + fld v 15 0 else v.toNat * 2 ^ 16 + i % 2 ^ 16)) }
  else { h with cntIncrIgn := h.cntIncrIgn + 1 }

/-- HAL_INCR_WRITE (R282). -/
def execHalIncrWrite (m : Fin 64) (fine : Bool) (v : Word) (s : State) : Host.Outcome State Fault Refusal :=
  .next (s.checked m (if fine then 0x20000C else 0x200008) true fun s => s.upHal fun h => h.writeIncr fine v)

/-- A read of HAL_SNAP_NS: the nanoseconds are returned and the seconds and fraction are latched for the reader (R302). -/
def State.halSnap (s : State) (m : Nat) : State :=
  (s.upHal fun h => { h with snaps := Tab.set h.snaps m (h.words.getD 1 0, h.words.getD 2 0) }).busWord (wd s.hal.ns)

/-- HAL_SNAP_READ (R302). -/
def execHalSnapRead (m : Fin 64) (s : State) : Host.Outcome State Fault Refusal :=
  .next (s.checked m 0x200020 false fun s => s.halSnap m)

/-- COPY_CHECK: a copy that disagrees faults the die (R287). -/
def execCopyCheck (agree : Bool) (s : State) : Host.Outcome State Fault Refusal :=
  .next (if agree ∨ ¬ s.halRuns then s
    else ((s.upHal fun h => { h with copyFail := true }).event 37).fault fltHalCopy 5 255 0 0)

/-- The counter at an event of another clock domain that comes `phase` half nanoseconds after the HCLK edge, in units of 2^-16
ns (R288). -/
def Hal.stampAt (h : Hal) (phase : Nat) : Nat := h.stamp + phase * 32768

/-! ### Domains and the servo -/

/-- The value of a finite FP32 word that is not negative, as numerator and power-of-two denominator. -/
def fpFrac (w : Word) : Nat × Nat :=
  let e := fld w 30 23
  let m := fld w 22 0
  if e = 0 then (m, 2 ^ 149) else if e ≤ 150 then (m + 2 ^ 23, 2 ^ (150 - e)) else ((m + 2 ^ 23) * 2 ^ (e - 150), 1)

/-- LOCKED or MASTER (R292). -/
def Domain.usable (d : Domain) : Bool := d.state == 0x73 || d.state == 0x75

/-- 2 to a power of a second, in ns. -/
def logNs (l : Int) : Nat := if 0 ≤ l then 1000000000 * 2 ^ l.toNat else 1000000000 / 2 ^ (-l).toNat
/-- The domain's sync interval in ns. -/
def Domain.interval (d : Domain) : Nat := logNs d.logSync
/-- The domain's announce interval in ns. -/
def Domain.annInterval (d : Domain) : Nat := logNs d.logAnnounce

/-- What an offset gains since the last update by the domain's rate (R291): units of 2^-16 ns. -/
def Domain.drift (d : Domain) (now : Nat) : Int :=
  if d.state = 0x75 then 0 else d.rate.toInt * ((now - d.lastUpd : Nat) : Int) * 65536 / 1000000000000
/-- o_d extrapolated to an instant (R291): units of 2^-16 ns. -/
def Domain.ofsAt (d : Domain) (now : Nat) : Int := d.ofs.toInt + d.drift now
/-- The same of the difference itself, which o_d holds where it can. -/
def Domain.diffAt (d : Domain) (now : Nat) : Int := d.diff + d.drift now

/-- The servo decides an increment from a frequency in parts per 10^12 (R282, R287, R291). -/
def Hal.servo (h : Hal) (ppt : Int) : Hal :=
  h.later { servo := some (Hal.clamp ((Hal.nominal : Int) + (Hal.nominal : Int) * ppt / 1000000000000).toNat) }

/-- The source changes (R292). -/
def State.halSource (s : State) (src : Nat) : State :=
  (s.upHal fun h => { h with source := src, cntSwitch := h.cntSwitch + 1, holdover := false }).event 34

/-- The counter is to take the time of a domain that becomes the first source, where that is a step (R286). -/
def State.halAcquire (s : State) (d : Nat) : State :=
  let dm := s.domain d
  let o := dm.diffAt s.hal.nowNs
  if s.hal.acquired then s
  else
    let s := s.upHal fun h => { h with acquired := true }
    if o.natAbs ≤ dm.step * 65536 ∨ ¬ s.hal.stepOk then s
    else if s.stepAllowed then s.upHal fun h => h.later { add := some o }
    else (s.upHal fun h => { h with stepRefused := true }).event 36

/-- The source rule (R292). -/
def State.halSelect (s : State) : State :=
  let h := s.hal
  let now := h.nowNs
  let p := h.pref
  let within (i : Nat) : Bool := decide (((s.domain i).ofsAt now).natAbs ≤ h.maxNs.toNat * 65536)
  if h.source = 0 then
    if (s.domain p).usable then (s.halSource (p + 1)).halAcquire p
    else if (s.domain (1 - p)).usable then (s.halSource (2 - p)).halAcquire (1 - p)
    else s
  else
    let c := h.source - 1
    if ¬ (s.domain c).usable then
      if (s.domain (1 - c)).usable ∧ within (1 - c) then s.halSource (2 - c)
      else
        let s' := s.upHal fun h =>
          { h with holdover := true, slewing := false
                   switchBlocked := h.switchBlocked || (s.domain (1 - c)).usable }.servo (s.domain c).rate.toInt
        if h.holdover then s' else s'.event 35
    else
      let s := s.upHal fun h => { h with holdover := false }
      if c ≠ p ∧ (s.domain p).usable ∧ h.revert ≠ 0 ∧ (s.domain p).usableSince + h.revert * 250000000 ≤ h.hclk ∧
          ¬ h.slewing ∧ within p then s.halSource (p + 1)
      else s

/-- A domain enters a state: an event, and the source rule is evaluated (R290, R292). -/
def State.domState (s : State) (d code : Nat) : State :=
  if (s.domain d).state = code then s
  else
    let was := (s.domain d).usable
    let s := s.upDomain d fun x => { x with state := code, good := 0, bad := 0 }
    let s := if (s.domain d).usable ∧ ¬ was then s.upDomain d fun x => { x with usableSince := s.hal.hclk } else s
    (s.event (32 + d)).halSelect

/-- The servo update of the source domain with residual `eps` (R291). -/
def State.servoUpdate (s : State) (d : Nat) (eps : Int) : State :=
  let dm := s.domain d
  let iv : Int := (dm.interval : Int) * 65536
  let (ki, kid) := fpFrac dm.ki
  let (kp, kpd) := fpFrac dm.kp
  let r := dm.rate.toInt + (ki : Int) * eps * 1000000000000 / ((kid : Int) * iv)
  let lim : Int := (s.hal.slew : Int) * 1000000
  let c0 := (kp : Int) * dm.ofs.toInt * 1000000000000 / ((kpd : Int) * iv)
  let c := if c0 > lim then lim else if c0 < -lim then -lim else c0
  let s := s.upDomain d fun x => { x with rate := heldInt 32 r }
  s.upHal fun h => { h with slewing := decide (c = lim ∨ c = -lim) }.servo ((s.domain d).rate.toInt + c)

/-- PTP_SYNC_RECEIVE: a Sync updates the offset, the state and, in the source domain, the increment (R290 to R292).
Which port and domain it belongs to has been matched by the protocol firmware. -/
def State.ptpSync (s : State) (d : Nat) (y : SyncFacts) : State :=
  let dm := s.domain d
  let s := s.upHport y.port fun p => { p with pdelay := sat32 y.delay }
  if s.halRuns ∧ ¬ s.looped 1 y.port ∧ dm.ports.getLsbD y.port ∧ (dm.state = 0x72 ∨ dm.state = 0x73 ∨ dm.state = 0x74) then
    let now := s.hal.nowNs
    let rx := sext 32 (s.hport y.port).rxlat.toNat
    let o := (y.origin : Int) + y.correction + y.delay - ((y.stamp : Int) - rx)
    let eps := o - dm.diffAt now
    let small := decide (eps.natAbs ≤ dm.lock * 65536)
    let big := decide (1000 * 65536 < eps.natAbs)
    let s := s.upDomain d fun x =>
      { x with ofs := heldInt 64 o, diff := o, lastUpd := now, cntSync := x.cntSync + 1
               good := if small then x.good + 1 else 0, bad := if big then x.bad + 1 else 0 }
    let s := if s.hal.source = d + 1 ∧ dm.state ≠ 0x74 then s.servoUpdate d eps else s
    let x := s.domain d
    if x.state ≠ 0x73 ∧ 8 ≤ x.good then s.domState d 0x73
    else if (x.state = 0x73 ∨ x.state = 0x74) ∧ 4 ≤ x.bad then s.domState d 0x72
    else s.halSelect
  else s

/-- PTP_SYNC_RECEIVE (R291). -/
def execPtpSyncReceive (d : Fin 2) (sync : SyncFacts) (s : State) : Host.Outcome State Fault Refusal :=
  .next (s.ptpSync d sync)

/-- PTP_ANNOUNCE_RECEIVE: the outcome of the best-master algorithm moves the domain's state (R290). -/
def execPtpAnnounceReceive (d : Fin 2) (ann : AnnounceFacts) (s : State) : Host.Outcome State Fault Refusal :=
  let dm := s.domain d
  .next (if ¬ s.halRuns ∨ dm.state = 0x70 then s
    else
      let s := s.upDomain d fun x =>
        { x with annAt := s.hal.nowNs, gm := ann.gm, gmClass := ann.gmClass, stepsRemoved := ann.steps, utc := ann.utc
                 utcValid := ann.utcValid }
      if ann.choice = 2 ∧ ¬ dm.slaveOnly then
        let now := s.hal.nowNs
        (s.upDomain d fun x => { x with ofs := heldInt 64 (dm.ofsAt now), diff := dm.diffAt now, rate := 0, lastUpd := now }).domState d 0x75
      else if ann.choice = 1 ∧ (dm.state = 0x71 ∨ dm.state = 0x75 ∨ dm.gm ≠ ann.gm) then s.domState d 0x72
      else s)

/-- SYNC_RECEIPT_TIMEOUT: three sync intervals after its last Sync, a LOCKED domain enters HOLDOVER (R290). -/
def execSyncReceiptTimeout (d : Fin 2) (s : State) : Host.Outcome State Fault Refusal :=
  .next (let x := s.domain d
    if x.state = 0x73 then (s.passTo (x.lastUpd + 3 * x.interval)).domState d 0x74 else s)

/-- ANNOUNCE_TIMEOUT: the receipt timeout after the last Announce, the domain returns to LISTENING (R290). -/
def execAnnounceTimeout (d : Fin 2) (s : State) : Host.Outcome State Fault Refusal :=
  .next (let x := s.domain d
    if x.state = 0x70 then s else (s.passTo (x.annAt + x.timeout * x.annInterval)).domState d 0x71)

/-! ### Packets -/

/-- HAL_CFG (R300). -/
def execHalCfg (k : Nat) (s : State) : Host.Outcome State Fault Refusal :=
  runPacket 0x600 k (fun p s =>
    let d := p.f 4 0 0
    let dm := s.domain d
    let ot := s.domain (1 - d)
    let en := p.f 4 1 1 = 1
    let same := dm.profile = p.f 4 3 2 ∧ dm.transport = p.f 4 5 4 ∧ dm.number = p.f 4 15 8
    if en ∧ ot.state ≠ 0x70 ∧ ot.profile = p.f 4 3 2 ∧ ot.number = p.f 4 15 8 then .refuse stFormat (det 4 8)
    else if s.hal.source = d + 1 ∧ (¬ en ∨ ¬ same) ∧ ¬ ot.usable ∧ s.planRuns then .refuse stState (wd dm.state)
    else
      let x : Domain :=
        { dm with profile := p.f 4 3 2, transport := p.f 4 5 4, twoStep := p.f 4 6 6 = 1, slaveOnly := p.f 4 7 7 = 1
                  number := p.f 4 15 8, ports := BitVec.ofNat 4 (p.f 4 19 16), mports := BitVec.ofNat 4 (p.f 4 23 20)
                  prio1 := p.f 5 7 0, prio2 := p.f 5 15 8, clockClass := p.f 5 23 16
                  logSync := sext 4 (p.f 6 3 0), logAnnounce := sext 4 (p.f 6 7 4), logPdelay := sext 4 (p.f 6 11 8)
                  timeout := p.f 6 15 12, annAt := s.hal.nowNs
                  kp := if p.hdr.expert then p.w 7 else 0x3F333333
                  ki := if p.hdr.expert then p.w 8 else 0x3E99999A
                  step := if p.hdr.expert then (p.w 9).toNat else 1000000
                  lock := if p.hdr.expert then (p.w 10).toNat else 100 }
      let s := s.setDomain d x
      .done (if ¬ en then s.domState d 0x70
             else if dm.state = 0x70 ∨ ¬ same then s.domState d 0x71 else s) {}) s

/-- HAL_QUERY (R301). -/
def execHalQuery (k : Nat) (s : State) : Host.Outcome State Fault Refusal :=
  runPacket 0x601 k (fun p s =>
    let x := s.domain (p.f 4 0 0)
    .done s { d0 := wd (x.state + 2 ^ 8 * s.hal.source), d1 := wd (x.gmClass + 2 ^ 8 * x.stepsRemoved)
              lo := satS32 (x.ofsAt s.hal.nowNs / 65536), hi := satS32 x.rate.toInt }) s

/-- QBV_CFG (R299). -/
def execQbvCfg (k : Nat) (s : State) : Host.Outcome State Fault Refusal :=
  runPacket 0x620 k (fun p s =>
    let base := timeNs p.params 5
    let cyc := (p.w 8).toNat
    let due := s.hal.nowNs + 10000 + if s.hal.f = 0 then 0 else 1
    let t := if due ≤ base then base else base + cdiv (due - base) cyc * cyc
    let es := (List.range (p.f 4 9 2)).map fun i => (BitVec.ofNat 8 (p.f (9 + i) 7 0), p.f (9 + i) 31 8)
    .done (s.upHport (p.f 4 1 0) fun x => { x with pend := some { base := t, cycle := cyc, entries := es } })
      { lo := wd (t % 1000000000), hi := wd (t / 1000000000) }) s

/-- QBV_LIST_CHANGE: the change time of the pending list arrives (R299); no copy that disagrees starts it (R287). -/
def execQbvListChange (port : Fin 4) (s : State) : Host.Outcome State Fault Refusal :=
  .next (match (s.hport port).pend with
    | none => s
    | some l =>
      if ¬ s.launches then s
      else (s.passTo l.base).upHport port fun x =>
        { x with oper := some l, pend := none, entry := 0, gates := (l.entries.getD 0 (255, 0)).1
                 nextGate := l.base + (l.entries.getD 0 (255, 0)).2 })

/-- QBV_GATE_EVENT: the next entry of the operating list begins (R299); no copy that disagrees starts it (R287). -/
def execQbvGateEvent (port : Fin 4) (s : State) : Host.Outcome State Fault Refusal :=
  .next (match (s.hport port).oper with
    | none => s
    | some l =>
      let x := s.hport port
      let n := if x.entry + 1 < l.entries.length then x.entry + 1 else 0
      if ¬ s.launches then s
      else (s.passTo x.nextGate).upHport port fun x =>
        { x with entry := n, gates := (l.entries.getD n (255, 0)).1
                 nextGate := x.nextGate + (l.entries.getD n (255, 0)).2 })

/-! ### Ethernet -/

/-- Where the payload of a frame begins, past an optional 802.1Q tag, and its EtherType. -/
def ethPayload (f : List Byte) : Nat × Nat :=
  if beNat (slice f 12 2) = 0x8100 then (18, beNat (slice f 16 2)) else (14, beNat (slice f 12 2))

/-- The frame is a ratline frame of the given type (R258). -/
def isRatline (f : List Byte) (typ : Nat) : Bool :=
  let (o, e) := ethPayload f
  e == 0x88B5 && (f.getD o 0).toNat / 16 == typ

/-- The traffic class of a frame from the compute die (R298). -/
def ethClass (f : List Byte) : Nat :=
  if beNat (slice f 12 2) = 0x8100 then min 6 ((f.getD 14 0).toNat / 32) else 0

/-- Where a PTP message begins in a frame, if it carries one (R297). -/
def ptpAt (f : List Byte) : Option Nat :=
  let (o, e) := ethPayload f
  if e = 0x88F7 then some o
  else if e = 0x0800 ∧ (f.getD (o + 9) 0).toNat = 17 then
    let u := o + 4 * ((f.getD o 0).toNat % 16)
    if beNat (slice f (u + 2) 2) = 319 ∨ beNat (slice f (u + 2) 2) = 320 then some (u + 8) else none
  else if e = 0x86DD ∧ (f.getD (o + 6) 0).toNat = 17 then
    if beNat (slice f (o + 42) 2) = 319 ∨ beNat (slice f (o + 42) 2) = 320 then some (o + 48) else none
  else none

/-- messageType, domainNumber and sequenceId of the PTP event message in a frame. -/
def ptpEvent (f : List Byte) : Option (Nat × Nat × Nat) :=
  match ptpAt f with
  | none => none
  | some o =>
    let t := (f.getD o 0).toNat % 16
    if t < 4 then some (t, (f.getD (o + 4) 0).toNat, beNat (slice f (o + 30) 2)) else none

/-- Replace bytes of a frame from an offset on. -/
def patch (f : List Byte) (off : Nat) (bs : List Byte) : List Byte :=
  f.take off ++ bs ++ f.drop (off + bs.length)

/-- A frame as the MAC sends it: padded with zeros to 60 bytes (R258). -/
def ethPad (f : EthFrame) : EthFrame := { f with bytes := f.bytes ++ List.replicate (60 - f.bytes.length) 0 }

/-- Queue a frame in a class of a port. -/
def State.queueFrame (s : State) (port tc : Nat) (f : EthFrame) : State :=
  s.upHport port fun x => { x with queues := Tab.set x.queues tc (Tab.get [] x.queues tc ++ [ethPad f]) }

/-- The stamp from which a follow-up frame is made leaves the FIFO of its port: a Follow_Up (8) that of its Sync, a
Pdelay_Resp_Follow_Up (10) that of its Pdelay_Resp (R296, log 171). -/
def State.takeStamp (s : State) (port : Nat) (f : List Byte) : State :=
  match ptpAt f with
  | none => s
  | some o =>
    let t := (f.getD o 0).toNat % 16
    if t = 8 ∨ t = 10 then
      let of' := if t = 8 then 0 else 3
      s.upHport port fun x =>
        { x with tsFifo := x.tsFifo.eraseP fun q => q.1 == of' && q.2.1 == (f.getD (o + 4) 0).toNat && q.2.2.1 == beNat (slice f (o + 30) 2) }
    else s

/-- ETH_FRAME_QUEUE: Plinth alone fills TC7; a motor-command frame of another master is discarded and counted (R15,
R298). -/
def execEthFrameQueue (m : Fin 64) (port : Fin 4) (data : List Byte) (oneStep : Bool) (s : State) :
    Host.Outcome State Fault Refusal :=
  .next (if m.val = 45 then s.queueFrame port 7 { bytes := data }
    else if isRatline data 2 then s.upHport port fun x => { x with drops := x.drops + 1 }
    else (s.takeStamp port data).queueFrame port (ethClass data) { bytes := data, oneStep := oneStep, ptp := ptpEvent data })

/-- How long the gate of a class stays open, in ns from the next gate event, walking the list from entry `n`; none
where it never closes within the list. -/
def gateRun (l : List (BitVec 8 × Nat)) (c : Nat) : Nat → Nat → Option Nat
  | 0, _ => none
  | k + 1, n =>
    let e := l.getD n (0, 0)
    if e.1.getLsbD c then (gateRun l c k (if n + 1 < l.length then n + 1 else 0)).map (· + e.2) else some 0

/-- The instant at which the open gate of a class closes by the operating list, if it does. -/
def HalPort.operCloses (x : HalPort) (c : Nat) : Option Nat :=
  match x.oper with
  | none => none
  | some l => (gateRun l.entries c l.entries.length (if x.entry + 1 < l.entries.length then x.entry + 1 else 0)).map
      (· + x.nextGate)

/-- The instant at which the open gate of a class closes, if it does: by the operating list, or from the change time of the
pending one on by that (R298, R299). -/
def HalPort.closes (x : HalPort) (c : Nat) : Option Nat :=
  match x.pend, x.operCloses c with
  | none, t => t
  | some l, t =>
    let new := (gateRun l.entries c l.entries.length 0).map (· + l.base)
    match t with
    | none => new
    | some t => if t < l.base then some t else new

/-- Preamble, frame, FCS and gap of a frame at 10 Gb/s, in units of 2^-32 ns. -/
def frameTime (f : List Byte) : Nat := (f.length + 24) * 4 * 2 ^ 32 / 5

/-- The class a port serves: the highest with an open gate whose first frame ends before the gate closes (R298). -/
def State.txClass (s : State) (port : Nat) : Option (Nat × EthFrame) :=
  let x := s.hport port
  [7, 6, 5, 4, 3, 2, 1, 0].findSome? fun c =>
    match Tab.get [] x.queues c with
    | [] => none
    | f :: _ =>
      let fits := match x.closes c with
        | none => true
        | some t => decide (s.hal.total + frameTime f.bytes < t * 2 ^ 32)
      if x.gates.getLsbD c && fits then some (c, f) else none

/-- The transport code of a frame that carries PTP (R300). -/
def ptpTransport (f : List Byte) : Nat := let e := (ethPayload f).2; if e = 0x0800 then 1 else if e = 0x86DD then 2 else 0

/-- An enabled domain to which a PTP message belongs: port, transport and number, the profile by the message's majorSdoId (1 in
802.1AS), and peer delay messages never to E2E (R293, R297, log 173). -/
def Domain.owns (d : Domain) (port : Nat) (f : List Byte) (o : Nat) : Bool :=
  let b := (f.getD o 0).toNat
  d.state != 0x70 && d.ports.getLsbD port && d.transport == ptpTransport f && d.number == (f.getD (o + 4) 0).toNat &&
    ((d.profile == 0) == (b / 16 == 1)) && !(d.profile == 1 && (b % 16 == 2 || b % 16 == 3))

/-- The offset of the domain to which a PTP message on a port belongs, at an instant. -/
def State.ofsOfMsg (s : State) (port : Nat) (f : List Byte) (o now : Nat) : Int :=
  match ([0, 1].filter fun d => (s.domain d).owns port f o) with
  | [] => 0
  | d :: l => (s.domain (if (s.domain d).state = 0x75 then d else (l.find? fun i => (s.domain i).state == 0x75).getD d)).ofsAt now

/-- The one-step changes to a frame that departs with a stamp (R295). The turnaround of a Pdelay_Resp counts from the
receive stamp of the latest request with its sequenceId in the compute-die ring. -/
def State.oneStepFix (s : State) (port : Nat) (f : EthFrame) (stamp : Int) : List Byte :=
  match ptpAt f.bytes, ptpEvent f.bytes with
  | some o, some (t, n, q) =>
    let ds := (stamp + s.ofsOfMsg port f.bytes o s.hal.nowNs).toNat
    let corr := sext 64 (beNat (slice f.bytes (o + 8) 8))
    let b := f.bytes
    let b :=
      if t = 3 then
        let rx := ((s.hport port).rxRing.reverse.find? fun r => ptpEvent r.1 = some (2, n, q)).map (·.2)
        patch b (o + 8) (beBytes 8 (BitVec.ofInt 64 (corr + stamp - (rx.getD 0 : Nat))).toNat)
      else
        let ns := ds / 65536
        patch (patch b (o + 34) (beBytes 6 (ns / 1000000000) ++ beBytes 4 (ns % 1000000000))) (o + 8)
          (beBytes 8 (BitVec.ofInt 64 (corr + (ds % 65536 : Nat))).toNat)
    let (e, ty) := ethPayload b
    if ty = 0x0800 then patch b (e + 4 * ((b.getD e 0).toNat % 16) + 6) [0, 0] else b
  | _, _ => f.bytes

/-- ETH_FRAME_TRANSMIT: the frame that a port serves departs, is stamped, and is corrected or leaves its stamp behind
(R294 to R298). -/
def State.ethTransmit (s : State) (port phase : Nat) : State :=
  match s.txClass port with
  | none => s
  | some (c, f) =>
    if ¬ (s.hport port).up ∨ s.looped 1 port then s
    else
      let stamp : Int := (s.hal.stampAt phase : Int) + sext 32 (s.hport port).txlat.toNat
      let s := s.upHport port fun x => { x with queues := Tab.set x.queues c ((Tab.get [] x.queues c).drop 1) }
      if f.oneStep then s.out 1 port (s.oneStepFix port f stamp)
      else
        let s := s.out 1 port f.bytes
        match f.ptp with
        | none => s
        | some (t, d, q) =>
          let full := 64 ≤ (s.hport port).tsFifo.length
          let s := s.upHport port fun x =>
            { x with tsFifo := (if full then x.tsFifo.drop 1 else x.tsFifo) ++ [(t, d, q, stamp.toNat)]
                     tsDrop := if full then x.tsDrop + 1 else x.tsDrop }
          (if full then s.event (232 + port) else s).event (228 + port)

/-- ETH_FRAME_TRANSMIT (R298). -/
def execEthFrameTransmit (port : FrameHead) (s : State) : Host.Outcome State Fault Refusal :=
  .next (s.ethTransmit port.port port.phase.val)

/-- The receive stamp of a frame whose start comes `phase` half nanoseconds after the HCLK edge (R288, R294). -/
def State.rxStamp (s : State) (port phase : Nat) : Nat :=
  ((s.hal.stampAt phase : Int) - sext 32 (s.hport port).rxlat.toNat).toNat

/-- A received frame reaches the compute-die ring with its stamp (R14, R294). -/
def State.ethToRing (s : State) (port phase : Nat) (data : List Byte) : State :=
  if s.halRuns then
    let s := s.upHport port fun x => { x with rxRing := x.rxRing ++ [(data, s.rxStamp port phase)] }
    if (ptpAt data).isSome then s.event 236 else s
  else s

/-- ETH_FRAME_RECEIVE: any frame but a ratline sensor frame (R294). -/
def execEthFrameReceive (port : Fin 4) (data : List Byte) (fcsOk : FrameTail) (s : State) :
    Host.Outcome State Fault Refusal :=
  .next (if fcsOk.fcsOk ∧ ¬ s.looped 1 port then s.ethToRing port fcsOk.phase.val data else s)

/-- ETH_LINK_CHANGE (R411). -/
def execEthLinkChange (port : Fin 4) (up : Bool) (s : State) : Host.Outcome State Fault Refusal :=
  .next ((s.upHport port fun x => { x with up := up }).event (224 + port))

end Sys2Proof.Machine
end

