-- ==== Sys2Proof/Machine/Crypto.lean ====
section
/-! DEFINITION. SHA-512 (FIPS 180-4) and Ed25519 (RFC 8032) with the cofactored check of R492. Both are cited by the
spec and their text is taken from those standards: PRESUMED, log 15. -/

namespace Sys2Proof.Machine

/-! ### SHA-512 -/

/-- Addition modulo 2^64. -/
def add64 (a b : Nat) : Nat := (a + b) % 2 ^ 64
/-- Rotation right of 64 bits. -/
def rotr64 (x n : Nat) : Nat := (x >>> n) ||| ((x <<< (64 - n)) % 2 ^ 64)
/-- A root rounded down, bit by bit: the largest `r` above the one so far with `r ^ d` at most `n`. -/
def rootBits (d n : Nat) : Nat → Nat → Nat
  | 0, r => r
  | k + 1, r => rootBits d n k (if (r + 2 ^ k) ^ d ≤ n then r + 2 ^ k else r)
/-- The first 64 bits of the fraction of the square root (2) or the cube root (3) of a number below 512. -/
def rootFrac (d p : Nat) : Nat := rootBits d (p * 2 ^ (64 * d)) 69 0 % 2 ^ 64
/-- The first 80 primes: those below 410, which have no divisor from 2 to 20 but themselves. -/
def shaPrimes : List Nat := (List.range 410).filter fun p => 2 ≤ p && (List.range 19).all fun d => d + 2 == p || p % (d + 2) != 0
/-- The round constants (FIPS 180-4, 4.2.3). -/
def shaK : List Nat := shaPrimes.map (rootFrac 3)
/-- The initial hash value (FIPS 180-4, 5.3.5). -/
def shaInit : List Nat := (shaPrimes.take 8).map (rootFrac 2)

/-- One more word of the message schedule, held newest first. -/
def shaNext (w : List Nat) : Nat :=
  let a := w.getD 1 0
  let b := w.getD 14 0
  let s1 := rotr64 a 19 ^^^ rotr64 a 61 ^^^ (a >>> 6)
  let s0 := rotr64 b 1 ^^^ rotr64 b 8 ^^^ (b >>> 7)
  add64 (add64 s1 (w.getD 6 0)) (add64 s0 (w.getD 15 0))

/-- The message schedule, `n` words more, newest first. -/
def shaSched : Nat → List Nat → List Nat
  | 0, w => w
  | n + 1, w => shaSched n (shaNext w :: w)

/-- One round. -/
def shaRound (v : List Nat) (kw : Nat × Nat) : List Nat :=
  match v with
  | [a, b, c, d, e, f, g, h] =>
    let s1 := rotr64 e 14 ^^^ rotr64 e 18 ^^^ rotr64 e 41
    let ch := (e &&& f) ^^^ ((2 ^ 64 - 1 - e) &&& g)
    let t1 := add64 (add64 h s1) (add64 ch (add64 kw.1 kw.2))
    let s0 := rotr64 a 28 ^^^ rotr64 a 34 ^^^ rotr64 a 39
    let mj := (a &&& b) ^^^ (a &&& c) ^^^ (b &&& c)
    [add64 t1 (add64 s0 mj), a, b, c, add64 d t1, e, f, g]
  | _ => v

/-- One block of 128 bytes. -/
def shaBlock (h : List Nat) (blk : List Byte) : List Nat :=
  let w := (shaSched 64 ((chunks 8 16 blk).map beNat).reverse).reverse
  List.zipWith add64 h ((shaK.zip w).foldl shaRound h)

/-- The padded message. -/
def shaPad (m : List Byte) : List Byte :=
  let z := (112 + 128 - (m.length + 1) % 128) % 128
  m ++ 0x80 :: List.replicate z 0 ++ beBytes 16 (8 * m.length)

/-- SHA-512 of bytes. -/
def sha512 (m : List Byte) : List Byte :=
  let p := shaPad m
  ((chunks 128 (p.length / 128) p).foldl shaBlock shaInit).flatMap (beBytes 8)

/-! ### Ed25519 -/

/-- The field prime. -/
def edP : Nat := 2 ^ 255 - 19
/-- The group order. -/
def edL : Nat := 2 ^ 252 + 27742317777372353535851937790883648493
/-- The curve constant. -/
def edD : Nat := 0x52036cee2b6ffe738cc740797779e89800700a4d4141d8ab75eb4dca135978a3
/-- Power modulo the prime, `n` bits of exponent. -/
def edPow : Nat → Nat → Nat → Nat
  | 0, _, _ => 1
  | n + 1, b, e =>
    let r := edPow n (b * b % edP) (e / 2)
    if e % 2 = 1 then r * b % edP else r
/-- Inverse. -/
def edInv (x : Nat) : Nat := edPow 255 x (edP - 2)

/-- A point in projective form: x = X / Z, y = Y / Z. -/
structure EdPt where
  /-- X. -/
  x : Nat
  /-- Y. -/
  y : Nat
  /-- Z. -/
  z : Nat
deriving DecidableEq, Repr, Inhabited

/-- The neutral point. -/
def edZero : EdPt := ⟨0, 1, 1⟩
/-- The base point. -/
def edB : EdPt := ⟨0x216936d3cd6e53fec0a4e231fdd6dc5c692cc7609525a7b2c9562d608f25d51a, 0x6666666666666666666666666666666666666666666666666666666666666658, 1⟩
/-- Difference modulo the prime. -/
def edSub (a b : Nat) : Nat := (a + edP - b % edP) % edP
/-- Sum of points (complete twisted Edwards law). -/
def edAdd (p q : EdPt) : EdPt :=
  let a := p.z * q.z % edP
  let b := a * a % edP
  let c := p.x * q.x % edP
  let d := p.y * q.y % edP
  let e := edD * c % edP * d % edP
  let f := edSub b e
  let g := (b + e) % edP
  let t := edSub (edSub ((p.x + p.y) * (q.x + q.y) % edP) c) d
  ⟨a * f % edP * t % edP, a * g % edP * ((d + c) % edP) % edP, f * g % edP⟩
/-- Scalar multiple, `n` bits of scalar. -/
def edMul : Nat → Nat → EdPt → EdPt
  | 0, _, _ => edZero
  | n + 1, k, p =>
    let r := edMul n (k / 2) (edAdd p p)
    if k % 2 = 1 then edAdd r p else r
/-- Equal points. -/
def edEq (p q : EdPt) : Bool := p.x * q.z % edP == q.x * p.z % edP && p.y * q.z % edP == q.y * p.z % edP

/-- Decode a point: refused where y is not below the prime or no x fits (R492). -/
def edDecode (bs : List Byte) : Option EdPt :=
  let v := leNat bs
  let s := v / 2 ^ 255
  let y := v % 2 ^ 255
  if bs.length ≠ 32 ∨ edP ≤ y then none
  else
    let u := edSub (y * y) 1
    let w := (edD * (y * y % edP) + 1) % edP
    let x2 := u * edInv w % edP
    let x0 := edPow 255 x2 ((edP + 3) / 8)
    let x1 := if x0 * x0 % edP = x2 then x0 else x0 * edPow 255 2 ((edP - 1) / 4) % edP
    if x1 * x1 % edP ≠ x2 then none
    else if x1 = 0 ∧ s = 1 then none
    else some ⟨if x1 % 2 = s then x1 else edP - x1, y, 1⟩

/-- Encode a point. -/
def edEncode (p : EdPt) : List Byte :=
  let zi := edInv p.z
  natBytes 32 (p.y * zi % edP + 2 ^ 255 * (p.x * zi % edP % 2))

/-- The check of R492: [8][S]B = [8]R + [8][k]A with S below L and canonical encodings. -/
def edVerify (key sg msg : List Byte) : Bool :=
  let sv := leNat (slice sg 32 32)
  match edDecode (slice sg 0 32), edDecode key with
  | some r, some a =>
    let k := leNat (sha512 (slice sg 0 32 ++ key ++ msg)) % edL
    sg.length == 64 && decide (sv < edL) &&
      edEq (edMul 4 8 (edMul 253 sv edB)) (edMul 4 8 (edAdd r (edMul 253 k a)))
  | _, _ => false

/-- The secret scalar and the prefix of a seed. -/
def edSecret (seed : List Byte) : Nat × List Byte :=
  let h := sha512 seed
  let a := leNat (slice h 0 32)
  ((a % 2 ^ 254) / 8 * 8 + 2 ^ 254, slice h 32 32)
/-- Public key of a seed. -/
def edPublic (seed : List Byte) : List Byte := edEncode (edMul 255 (edSecret seed).1 edB)
/-- Signature over a message. -/
def edSign (seed msg : List Byte) : List Byte :=
  let (a, pre) := edSecret seed
  let pk := edPublic seed
  let r := leNat (sha512 (pre ++ msg)) % edL
  let rb := edEncode (edMul 253 r edB)
  let k := leNat (sha512 (rb ++ pk ++ msg)) % edL
  rb ++ natBytes 32 ((r + k * a) % edL)

/-! ### Identity (R428) -/

/-- The identity private seed: the first half of SHA-512 of the secret and "JW8140ID". -/
def identitySeed : List Byte :=
  slice (sha512 (Config.deviceSecret ++ [0x4A, 0x57, 0x38, 0x31, 0x34, 0x30, 0x49, 0x44])) 0 32
/-- The identity public key. -/
def identityKey : List Byte := edPublic identitySeed

end Sys2Proof.Machine
end

