-- ==== Sys2Proof/Machine/Pln.lean ====
section
/-! DEFINITION. Plinth: modes, safe-stop outputs, faults and their reactions, authenticated configuration, its time
(R341 to R352, R361 to R368, R432). -/

namespace Sys2Proof.Machine

/-! ### Modes and outputs -/

/-- INIT. -/
def mInit : Nat := 0x80
/-- POLICY_LED. -/
def mPolicy : Nat := 0x81
/-- MAQUETTE_LED. -/
def mMaq : Nat := 0x82
/-- RAMPING. -/
def mRamp : Nat := 0x83
/-- STOPPED. -/
def mStop : Nat := 0x84

/-- Plinth enters a mode: an event, the history cleared on entering POLICY_LED or MAQUETTE_LED (R359), and an entry
into RAMPING or STOPPED from a mode that runs counted (R368). -/
def State.plnMode (s : State) (m : Nat) : State :=
  if s.plinth.mode = m then s
  else
    let runs := s.plinth.mode ≠ mRamp ∧ s.plinth.mode ≠ mStop
    let s := s.upPlinth fun x =>
      { x with mode := m
               hist := if m = mPolicy ∨ m = mMaq then [] else x.hist
               holds := if m = mPolicy ∨ m = mMaq then 0 else x.holds
               cntStop := if (m = mRamp ∨ m = mStop) ∧ runs then x.cntStop + 1 else x.cntStop }
    s.event 448

/-- Both outputs go to stop (R362). -/
def State.stopOutputs (s : State) : State :=
  s.upPlinth fun x => { x with ss0 := true, ss1 := true, pins := 0, ss1Wait := false }

/-- A mode request or a RESTART that a stop overtakes ends with ST_STATE. -/
def State.dropModeReq (s : State) : State :=
  let had := s.plinth.modeReq.isSome ∨ s.plinth.restart
  let s := s.upPlinth fun x => { x with modeReq := none, restart := false }
  if had then s.closeOp 0x711 0 stState { d0 := wd s.plinth.mode } else s

/-- The causes that are not mirrored to the peer (R405). -/
def notMirrored (code : Nat) : Bool :=
  [fltLockstep, fltPlnMem, fltSupply, fltClock, fltSafeOutput, fltDeadline, fltTime].contains code

/-- A stop cause, as the twin sees it (R404, R405). -/
def State.twinCause (s : State) (code : Nat) : State :=
  if s.twin.state = 0x93 ∧ s.twin.role ∧ ¬ notMirrored code then s.upTwin fun x => { x with stopCause := some code }
  else s.upTwin fun x => { x with ownStop := true, eligible := false }

/-- A cause of class S1: POLICY_LED or MAQUETTE_LED becomes RAMPING; nothing else changes (R345, R360, R361). -/
def State.plnS1 (s : State) : State :=
  if s.plinth.mode = mPolicy ∨ s.plinth.mode = mMaq then
    (s.upPlinth fun x => { x with next := none, rampPend := true, rampK := 0, inst := none }).dropModeReq.plnMode mRamp
  else s

/-- A cause of class S0: every mode becomes STOPPED, the outputs stop and any ramp is abandoned (R345, R362). -/
def State.plnS0 (s : State) : State :=
  (s.upPlinth fun x => { x with next := none, rampPend := false, inst := none }).dropModeReq.stopOutputs.plnMode mStop

/-- A fault of Plinth: its record and its reaction (R364). -/
def State.plnFault (s : State) (code cls unit : Nat) (a0 : Word := 0) (a1 : Word := 0) (a2 : Word := 0) : State :=
  let s := s.plnRecord code cls 255 unit a0 a1 a2
  if cls = 3 then (s.twinCause code).plnS1
  else if cls = 4 then (s.twinCause code).plnS0
  else s

/-- FLT_TRIM_STATE: S1, and S0 if raised during a ramp (R365). -/
def State.trimStateFault (s : State) : State :=
  s.plnFault fltTrimState (if s.plinth.mode = mRamp then 4 else 3) 0

/-- The restart completes: MAQUETTE_LED with the outputs in run (R346, R352). -/
def State.plnRestart (s : State) : State :=
  let s := s.upPlinth fun x =>
    { x with ss0 := false, ss1 := false, pins := 15, restart := false, modeReq := none, torque := [], rampPend := false
             rampK := 0, inst := none, next := none, shadow := [] }
  let s := s.upTwin fun x => { x with ownStop := false }
  (s.plnMode mMaq).closeOp 0x711 0 stOk {}

/-! ### Status (R368) -/

/-- PLN_MODE. -/
def Plinth.modeWord (x : Plinth) : Word := wd (x.mode + bitAt x.ss0 8 + bitAt x.ss1 9 + bitAt x.freeRun 10)
/-- PLN_REJ. -/
def Plinth.rejWord (x : Plinth) : Word :=
  wd (maskOf ((List.range 10).filter fun i => x.hist.getD i false) + 2 ^ 10 * (x.hist.filter id).length + 2 ^ 14 * x.holds)

/-- PLN_STATUS (R368). -/
def execPlnStatus (k : Nat) (s : State) : Host.Outcome State Fault Refusal :=
  runPacket 0x700 k (fun _ s =>
    .done s { d0 := wd s.plinth.mode, lo := s.plinth.modeWord, hi := s.plinth.rejWord }) s

/-- Fault records as the host reads them: newest first, with the count of those overwritten, which the read clears. -/
def FaultLog.read (l : FaultLog) (n : Nat) : List Byte × Nat × Nat :=
  let r := l.recs.take n
  (bytesOf (r.flatMap FaultRec.words), r.length, l.lost)

/-- PLN_FAULT_READ (R366). -/
def execPlnFaultRead (k : Nat) (s : State) : Host.Outcome State Fault Refusal :=
  runPacket 0x701 k (fun p s =>
    let (bs, n, lost) := s.plinth.log.read (p.f 6 8 0)
    let s := (s.wrHost (p.a 4) bs).upPlinth fun x => { x with log := { x.log with lost := 0 } }
    .done s { lo := wd n, hi := wd lost }) s

/-- DEV_FAULT_READ (R366). -/
def execDevFaultRead (k : Nat) (s : State) : Host.Outcome State Fault Refusal :=
  runPacket 0x006 k (fun p s =>
    let (bs, n, lost) := s.log.read (p.f 6 8 0)
    let s := s.wrHost (p.a 4) bs
    .done { s with log := { s.log with lost := 0 } } { lo := wd n, hi := wd lost }) s

/-! ### Signature blocks (R348, R492) -/

/-- Check a signature block over a body with a set of keys and the counters last accepted; the answer is the key slot
and the new counter. -/
def sigCheck (keys : List (Nat × List Byte)) (ctrs : List (Nat × Nat)) (blk : List Word) (what : Nat)
    (body : List Byte) : Option (Nat × Nat) :=
  let w0 := wat blk 0
  let slot := fld w0 5 4
  let ctr := w64 (wat blk 1) (wat blk 2)
  match Tab.find keys slot with
  | none => none
  | some key =>
    if fld w0 3 0 = 1 ∧ fld w0 8 6 = what ∧ fld w0 31 9 = 0 ∧ (wat blk 3).toNat = body.length ∧
        Tab.get 0 ctrs slot < ctr ∧
        edVerify key (bytesOf ((blk.drop 4).take 16)) (bytesOf (blk.take 4) ++ identityKey ++ body) then
      some (slot, ctr)
    else none

/-- The safety keys in force: none once RMA has revoked them (R426). -/
def State.safetyKeys (s : State) : List (Nat × List Byte) := if s.sec.revoked then [] else s.sec.safetyKeys

/-- Plinth checks a block with its safety keys. -/
def State.plnSig (s : State) (blk : List Word) (what : Nat) (body : List Byte) : Option (Nat × Nat) :=
  sigCheck s.safetyKeys s.plinth.counters blk what body

/-- An accepted counter is recorded (R348). -/
def State.plnCounter (s : State) (slot ctr : Nat) : State :=
  s.upPlinth fun x => { x with counters := Tab.set x.counters slot ctr }

/-! ### The objects -/

/-- Word `i` of the safety parameters. -/
def Plinth.par (x : Plinth) (i : Nat) : Word := wat (x.params.getD []) i
/-- A finite positive FP32 word. -/
def fpPos (w : Word) : Bool := fIsFin w && fLt 0 w

/-- The first fault of a list of checks: status, byte offset, low bit. detail0 is laid out as in R52, with the low 12 bits
of the word counted from the object's start, and detail1 is that word in full (R347; log 39). -/
def firstBad (l : List (Bool × Nat × Nat × Nat)) : Option Refuse :=
  (l.find? (·.1)).map fun (_, st, off, lo) => (st, det (off / 4 % 4096) lo, wd (off / 4))

/-- Check the safety parameters (R349). -/
def checkParams (ws : List Word) : Option Refuse :=
  let w := wat ws
  firstBad
    [(ws.length != 8, stRange, 0, 0), (fld (w 0) 3 0 != 1, stFormat, 0, 0), (fld (w 0) 31 15 != 0, stFormat, 0, 15),
     (w 7 != 0, stFormat, 28, 0),
     (decide (fld (w 1) 15 0 < 1 ∨ 10000 < fld (w 1) 15 0), stRange, 4, 0),
     (decide (10000 < fld (w 1) 31 16), stRange, 4, 16), (!fpPos (w 2), stRange, 8, 0), (!fpPos (w 3), stRange, 12, 0),
     (decide (fld (w 4) 15 0 < 1 ∨ 1000 < fld (w 4) 15 0), stRange, 16, 0),
     (decide (fld (w 4) 31 16 < fld (w 4) 15 0 ∨ 10000 < fld (w 4) 31 16), stRange, 16, 16),
     (decide (fld (w 5) 15 0 < 1 ∨ 3600 < fld (w 5) 15 0), stRange, 20, 0),
     (decide (10000 < fld (w 5) 31 16), stRange, 20, 16), (decide (999999 < (w 6).toNat), stRange, 24, 0)]

/-- The elements a limits entry names: kind (0 position, 1 velocity, 2 feedforward) and index. -/
def limitEls (e : List Word) : List (Nat × Nat) :=
  [(0, fld (wat e 0) 23 16), (1, fld (wat e 0) 31 24), (2, fld (wat e 1) 7 0)].filter fun p => p.2 ≠ 255

/-- The payload elements it names: x_ref elements and u_ff elements apart. -/
def limitRefs (e : List Word) : List (Bool × Nat) := (limitEls e).map fun p => (p.1 == 2, p.2)

/-- Check the limits object against the dimensions of the Trim image; while none is verified they are not held against
any (R350, log 56). An element that an earlier entry names too is refused at the later one. -/
def checkLimits (ws : List Word) (dims : Option (Nat × Nat)) : Option Refuse :=
  let n := fld (wat ws 0) 11 4
  let beyond : Bool → Nat → Bool := fun ff i => i != 255 && match dims with
    | some (nr, nu) => decide ((if ff then nu else nr) ≤ i)
    | none => false
  let es := (List.range n).map fun i => (ws.drop (4 + 8 * i)).take 8
  let twice : Nat → Bool → Nat → Bool := fun i ff el =>
    el != 255 && (es.take i).any fun e => (limitRefs e).contains (ff, el)
  firstBad
    ([(fld (wat ws 0) 3 0 != 1, stFormat, 0, 0), (fld (wat ws 0) 31 12 != 0, stFormat, 0, 12),
      (wat ws 1 != 0, stFormat, 4, 0), (wat ws 2 != 0, stFormat, 8, 0), (wat ws 3 != 0, stFormat, 12, 0),
      (decide (n < 1 ∨ 192 < n), stRange, 0, 4), (ws.length != 4 + 8 * n, stRange, 0, 4)] ++
    (List.range n).flatMap fun i =>
      let e := es.getD i []
      let off := 16 + 32 * i
      [(fld (wat e 0) 7 6 != 0, stFormat, off, 6), (fld (wat e 0) 15 14 != 0, stFormat, off, 14),
       (fld (wat e 1) 31 8 != 0, stFormat, off + 4, 8),
       (beyond false (fld (wat e 0) 23 16), stRange, off, 16),
       (beyond false (fld (wat e 0) 31 24), stRange, off, 24),
       (beyond true (fld (wat e 1) 7 0), stRange, off + 4, 0),
       (twice i false (fld (wat e 0) 23 16), stFormat, off, 16), (twice i false (fld (wat e 0) 31 24), stFormat, off, 24),
       (twice i true (fld (wat e 1) 7 0), stFormat, off + 4, 0)])

/-! ### Plinth time (R343, R344) -/

/-- The first instant not before `t` that is congruent to `phase` modulo `period`. -/
def instantFrom (period phase t : Nat) : Nat := t + (phase + period - t % period) % period

/-- BRIDGE_TIME_UPDATE: a Halyard time arrives with its marker; a transfer whose check fails is discarded (R342). -/
def State.bridgeTime (s : State) (t : Nat) (step : Bool) (crcOk : Bool) : State :=
  if ¬ crcOk then s.upPlinth fun x => { x with cntBridge := x.cntBridge + 1 }
  else
    let now := s.pnow
    let d := if t < now then now - t else t - now
    let set := s.upPlinth fun x => { x with time := t * 2 ^ 32, updAt := t }
    let s := s.upPlinth fun x => { x with updAt := now }
    if s.plinth.freeRun then
      if s.plinth.slewing then
        if d ≤ 100 then set.upPlinth fun x => { x with freeRun := false, freeSince := none, slewing := false, conv := 0 }
        else
          -- the counter slews toward the updates at 500 ppm: 0.5 ns for each update of 1 us
          s.upPlinth fun x => { x with time := if t < now then x.time - 2 ^ 31 else x.time + 2 ^ 31 }
      else if d ≤ 50000 then
        s.upPlinth fun x => { x with conv := x.conv + 1, slewing := decide (1000 ≤ x.conv + 1) }
      else s.upPlinth fun x => { x with conv := 0 }
    else if d ≤ 100 then set
    else if step then
      let set := set.upPlinth fun x => { x with maqNext := instantFrom 1000000 (x.par 6).toNat t }
      match s.trim.active.or s.trim.pend with
      | none => set
      | some im =>
        -- instants passed over are counted as skipped; no sample runs twice
        let first := if t % im.period ≤ im.phase then t - t % im.period + im.phase
          else t - t % im.period + im.phase + im.period
        let skipped := if s.trim.nextT < first then (first - s.trim.nextT) / im.period else 0
        { set with trim := { set.trim with nextT := if t < now then s.trim.nextT else max first s.trim.nextT
                                           cntSkip := set.trim.cntSkip + wd skipped } }
    else s.plnFault fltTime 3 0

/-- BRIDGE_TIME_UPDATE (R343). -/
def execBridgeTimeUpdate (time : Nat) (step : Bool) (crcOk : Bool) (s : State) : Host.Outcome State Fault Refusal :=
  .next (s.bridgeTime time step crcOk)

/-- FREE_RUN_ENTRY: 100 us without a valid update (R344). -/
def State.freeRunEnter (s : State) : State :=
  if s.plinth.freeRun then s
  else
    let s := s.passPln (s.plinth.updAt + 100000)
    (s.upPlinth fun x =>
      { x with freeRun := true, freeSince := some s.pnow, conv := 0, slewing := false }).plnFault fltTime 0 0

/-- FREE_RUN_ENTRY (R344). -/
def execFreeRunEntry (s : State) : Host.Outcome State Fault Refusal := .next s.freeRunEnter

/-- FREE_RUN_LIMIT: a free run that has lasted free_max, once for each (R344). -/
def State.freeRunLimit (s : State) : State :=
  match s.plinth.freeSince with
  | none => s
  | some t =>
    if s.plinth.freeRun ∧ s.plinth.params.isSome then
      ((s.passPln (t + fld (s.plinth.par 5) 15 0 * 1000000000)).upPlinth fun x => { x with freeSince := none }).plnFault
        fltTime 3 0
    else s

/-- FREE_RUN_LIMIT (R344). -/
def execFreeRunLimit (s : State) : Host.Outcome State Fault Refusal := .next s.freeRunLimit

/-! ### Outputs and hardware faults (R362, R363, R365) -/

/-- SS1_STOP: brake_delay after SS0, SS1 goes to stop (R362). -/
def execSs1Stop (s : State) : Host.Outcome State Fault Refusal :=
  .next (if s.plinth.ss1Wait then
    (s.passPln (s.plinth.ss0At + fld (s.plinth.par 5) 31 16 * 1000000)).upPlinth fun x => { x with ss1 := true, ss1Wait := false, pins := x.pins &&& 3 } else s)

/-- SS0 goes to stop at the end of a ramp: STOPPED, and SS1 follows (R362). -/
def State.ss0Stop (s : State) : State :=
  (s.upPlinth fun x =>
    { x with ss0 := true, pins := x.pins &&& 12, ss1Wait := true, ss0At := s.pnow, rampPend := false }).plnMode mStop

/-- SS0_GRACE_EXPIRY (R362): T0, the ramp and the grace have passed without standstill. -/
def execSs0GraceExpiry (s : State) : Host.Outcome State Fault Refusal :=
  .next (if s.plinth.mode = mRamp ∧ ¬ s.plinth.rampPend ∧ ¬ s.plinth.ss0 then
      let w1 := s.plinth.par 1
      let s := s.passPln (s.plinth.rampT0 + (fld w1 15 0 + fld w1 31 16) * 1000000)
      s.ss0Stop.plnFault fltLimit 3 0
    else s)

/-- LOCKSTEP_MISMATCH (R365). -/
def execLockstepMismatch (s : State) : Host.Outcome State Fault Refusal := .next (s.plnFault fltLockstep 4 0)

/-- PLN_SRAM_ERROR: S0 when uncorrectable, counted otherwise (R365). -/
def execPlnSramError (unc : Bool) (s : State) : Host.Outcome State Fault Refusal :=
  .next (if unc then s.plnFault fltPlnMem 4 0 else s.upPlinth fun x => { x with sramCorr := x.sramCorr + 1 })

/-- PLN_SUPPLY_FAULT (R365, R477). -/
def execPlnSupplyFault (s : State) : Host.Outcome State Fault Refusal :=
  .next ((s.upPlinth fun x => { x with persist := x.persist ||| 1 }).plnFault fltSupply 4 0)

/-- PLN_CLOCK_FAULT (R365, R484). -/
def execPlnClockFault (s : State) : Host.Outcome State Fault Refusal :=
  .next ((s.upPlinth fun x => { x with persist := x.persist ||| 2 }).plnFault fltClock 4 0)

/-- SAFE_OUTPUT_MISMATCH (R363). -/
def execSafeOutputMismatch (pin : Fin 4) (s : State) : Host.Outcome State Fault Refusal :=
  .next ((s.upPlinth fun x => { x with persist := x.persist ||| 4 }).plnFault fltSafeOutput 4 pin)

/-- The next test pulse of a pin: every 500 ms, those of channel B 250 ms after those of channel A (R363); the phase is the
model's choice (DESIGN CHOICE, log 177). -/
def State.pulseAt (s : State) (pin : Fin 4) : Nat :=
  instantFrom 500000000 (if pin.val % 2 = 1 then 250000000 else 0) (s.pnow + 1)

/-- TEST_PULSE: a running channel is pulsed low; the readback must see it (R363). -/
def execTestPulse (pin : Fin 4) (seen : Bool) (s : State) : Host.Outcome State Fault Refusal :=
  .next (if s.plinth.params.isSome ∧ bit (s.plinth.par 0) 14 ∧ s.plinth.pins.getLsbD pin then
      let s := (s.passPln (s.pulseAt pin)).out 2 (16 + pin) []
      if seen then s
      else (s.upPlinth fun x => { x with persist := x.persist ||| 4 }).plnFault fltSafeOutput 4 pin
    else s)

/-! ### Reset and boot (R345, R432, R466) -/

/-- PLN_RESET: INIT with the outputs in stop; the replay counters are persistent. The faults of Plinth's rails, clock
and outputs that brought the reset about are gone with it. -/
def State.plnReset (s : State) : State :=
  let was := s.plinth.mode
  let s := { s with plinth := { counters := s.plinth.counters, awaiting := true }, trim := {}, monitors := []
                    twin := { s.twin with role := true, eligible := false, aliveOut := false, edge := false, token := none
                                          adopted := 0, adoptedNow := false, handover := 0, cntTakeover := 0
                                          cntHbMiss := 0, cntBad := 0, cntDiverge := 0, stopCause := none
                                          ownStop := false, rej := 0, frameCrc := 0 } }
  let s := s.cancelOpens fun o => 0x702 ≤ o.hdr.opcode ∧ o.hdr.opcode ≤ 0x712
  if was = mInit then s else s.event 448

/-- PLN_RESET (R466). -/
def execPlnReset (s : State) : Host.Outcome State Fault Refusal := .next s.plnReset

/-- The checks of a manifest of a target against a key, an image and fused values (R432, R434, R435). -/
def manifestOk (m key : List Byte) (target svn : Nat) : Bool :=
  let blocks := fld (wordAt m 4) 11 0
  let len := (wordAt m 8).toNat
  fld (wordAt m 0) 3 0 == 1 && fld (wordAt m 0) 4 4 == target && m.length == 192 + 64 * blocks &&
    decide (1 ≤ blocks ∧ blocks ≤ 2048 ∧ 65536 * (blocks - 1) < len ∧ len ≤ 65536 * blocks) &&
    decide (svn ≤ fld (wordAt m 12) 7 0) && decide (fld (wordAt m 12) 7 0 ≤ 128) &&
    edVerify key (slice m (128 + 64 * blocks) 64) (slice m 0 (128 + 64 * blocks))

/-- The firmware key of a slot as it may be used in the life-cycle state (R426): the root alone in MANUFACTURE and RMA,
every unrevoked slot from PROVISIONED on. -/
def State.fwKey (s : State) (slot : Nat) : Option (List Byte) :=
  let ok := if s.sec.lc = 1 ∨ s.sec.lc = 5 then slot = 0
    else if s.sec.lc = 2 ∨ s.sec.lc = 3 then ¬ s.sec.keyrev.getLsbD slot else False
  if ok then Tab.find s.sec.fwKeys slot else none

/-! ### Mode packets (R346) -/

/-- The number of the action monitor (R349). -/
def State.actionMon (s : State) : Nat := fld (s.plinth.par 0) 9 4

/-- The plan that arms the action monitor is ACTIVE: it has an ACTION point of that monitor (R304, R346). -/
def State.actionPlan (s : State) : Option (Nat × Plan) :=
  s.plans.find? fun p => p.2.state == 0x53 && p.2.points.any fun w =>
    fld (wat w 1) 2 0 == 6 && fld (wat w 2) 5 0 == s.actionMon && fld (wat w 2) 7 6 == 0

/-- All four configuration objects have been verified (R346). -/
def State.allVerified (s : State) : Bool :=
  (s.trim.active.isSome || s.trim.pend.isSome) && [2, 3, 4].all fun o => (Tab.find s.plinth.sigs o).isSome

/-- PLN_MODE_SET (R345, R346). -/
def execPlnModeSet (k : Nat) (s : State) : Host.Outcome State Fault Refusal :=
  runPacket 0x711 k (fun p s =>
    let x := s.plinth
    let m := p.f 4 2 0
    let legal := (m = 0 ∧ x.mode = mMaq) ∨ (m = 1 ∧ x.mode = mPolicy) ∨ (m = 2 ∧ (x.mode = mInit ∨ x.mode = mStop)) ∨
      (m = 3 ∧ (x.mode = mPolicy ∨ x.mode = mMaq))
    match s.plnSig ((p.params.drop 1).take 20) 0 (wordBytes (p.w 4)) with
    | none => .refuse stAuth
    | some (slot, ctr) =>
      if ¬ x.booted ∨ ¬ legal then .refuse stState (wd x.mode)
      else if m = 0 ∧ (s.actionPlan.isNone ∨ ¬ (x.shadow.take 10 = List.replicate 10 true)) then
        .refuse stState (wd x.mode)
      else if m = 2 ∧ (¬ s.allVerified ∨ x.persist ≠ 0) then
        .refuse stState (wd x.mode)
      else if x.modeReq.isSome ∨ x.restart then .refuse stBusy
      else .pend 0 m 0 fun s =>
        let s := s.plnCounter slot ctr
        if m = 2 then s.upPlinth fun x => { x with restart := true, restartAt := s.pnow }
        else s.upPlinth fun x => { x with modeReq := some m }) s

/-- A mode request takes effect at a decision instant (R346). -/
def State.takeModeReq (s : State) : State :=
  match s.plinth.modeReq with
  | none => s
  | some m =>
    let s := s.upPlinth fun x => { x with modeReq := none }
    if m = 3 then
      let s := s.closeOp 0x711 0 stOk {}
      (s.twinCause 0).plnS1
    else if m = 2 then s.plnRestart
    else ((s.upPlinth fun x => { x with shadow := [] }).plnMode (if m = 0 then mPolicy else mMaq)).closeOp 0x711 0 stOk {}

/-- PLN_RESTART_EDGE: the RESTART applies from the next decision instant (R346). -/
def execPlnRestartEdge (s : State) : Host.Outcome State Fault Refusal :=
  .next (if s.plinth.restart ∧ s.plinth.persist = 0 then
    s.upPlinth fun x => { x with restart := false, modeReq := some 2 } else s)

/-- RESTART_WINDOW_EXPIRY (R346). -/
def execRestartWindowExpiry (s : State) : Host.Outcome State Fault Refusal :=
  .next (if s.plinth.restart then
    ((s.passPln (s.plinth.restartAt + 10000000000)).upPlinth fun x => { x with restart := false }).closeOp 0x711 0 stState { d0 := wd s.plinth.mode } else s)

/-- PLN_CONFIG: the object begins to stream into the staging area; it is accepted or refused once it is verified (R43,
R347; log 40). -/
def execPlnConfig (k : Nat) (s : State) : Host.Outcome State Fault Refusal :=
  runPacket 0x710 k (fun p s =>
    let x := s.plinth
    let ob := p.f 4 2 0
    if ¬ x.booted then .refuse stState (wd x.mode)
    else if x.staging.isSome then .refuse stBusy
    else .late ob 0 0 fun s => s.upPlinth fun x => { x with staging := some (ob, p.params) }) s

end Sys2Proof.Machine
end

