-- ==== Sys2Proof/Machine/Cmp.lean ====
section
/-! DEFINITION. The comparator and the plausibility limits (R330, R331, R351, R352, R358 to R361). -/

namespace Sys2Proof.Machine

/-- The elements of a setpoint in payload order. -/
def Setpoint.els (x : Setpoint) : List Word := x.xref ++ x.uff ++ x.sched

/-- A setpoint from elements in payload order. -/
def setpointOf (nr nu : Nat) (els : List Word) (subst : Bool) : Setpoint :=
  { xref := els.take nr, uff := (els.drop nr).take nu, sched := els.drop (nr + nu), subst := subst }

/-- The setpoint before the first one applied: x0, zeros (R331). -/
def TrimImage.first (im : TrimImage) : Setpoint :=
  { xref := im.x0.take im.nr, uff := List.replicate im.nu 0, sched := List.replicate im.nsv 0, subst := true }

/-- The setpoint in force. -/
def State.setpoint (s : State) : Setpoint :=
  match s.plinth.applied with
  | some x => x
  | none => (s.trim.active.map TrimImage.first).getD {}

/-- An action payload after its prefix, against the active image: its elements, or none where it is bad (R330). -/
def payloadEls (im : TrimImage) (ws : List Word) : Option (List Word) :=
  let w := wat ws 0
  if fld w 7 0 = im.nr ∧ fld w 15 8 = im.nu ∧ fld w 18 16 = im.nsv ∧ fld w 31 19 = 0 ∧
      ws.length = 1 + im.nr + im.nu + im.nsv ∧ (ws.drop 1).all fIsFin then some (ws.drop 1) else none

/-- Exact difference of two FP32 words. -/
def fvSub (a b : Word) : FV := (fv a).add 0 (fv b).neg

/-- The payload elements at which an action breaks a limits entry (R351). -/
def limitFails (act cur : Setpoint) (nr : Nat) (e : List Word) : List Nat :=
  let pos := fld (wat e 0) 23 16
  let vel := fld (wat e 0) 31 24
  let ff := fld (wat e 1) 7 0
  let x := wat act.xref pos
  let okPos := fLe (wat e 2) x && fLe x (wat e 3) && (fvSub x (wat cur.xref pos)).abs.le (fv (wat e 7))
  let okVel := (fv (wat act.xref vel)).abs.le (fv (wat e 4))
  let okFf := (fv (wat act.uff ff)).abs.le (fv (wat e 5))
  (if pos = 255 ∨ okPos then [] else [pos]) ++ (if vel = 255 ∨ okVel then [] else [vel]) ++
    (if ff = 255 ∨ okFf then [] else [nr + ff])

/-- The first payload element at which an action fails the limits. -/
def State.limitFail (s : State) (act : Setpoint) (nr : Nat) : Option Nat :=
  (s.plinth.limits.flatMap (limitFails act s.setpoint nr)).min?

/-- The first element outside the bounds of an envelope. -/
def outside (els lo hi : List Word) : Option Nat :=
  (List.range els.length).find? fun i => !(fLe (wat lo i) (wat els i) && fLe (wat els i) (wat hi i))

/-- Outcomes of a decision (R358). -/
inductive Outc where
  | accept
  | reject (cause el : Nat)
  | missing
  | noenv
  | maquette
deriving DecidableEq, Repr, Inhabited

/-- The valid Maquette result that is fresh at an instant. -/
def State.freshMaq (s : State) (t : Nat) : Option MaqResult :=
  match s.plinth.maq with
  | some r => if t ≤ r.t + 2000000 then some r else none
  | none => none

/-- The main action of an instance, none during free run (R344, R358). -/
def State.mainAction (s : State) (im : TrimImage) (i : ActInst) : Option Setpoint :=
  if i.expired ∨ s.plinth.freeRun then none
  else i.payload.map fun e => setpointOf im.nr im.nu e false

/-- What the main action would come to, apart from the mode. -/
def State.judge (s : State) (im : TrimImage) (i : ActInst) (r : MaqResult) : Outc :=
  match s.mainAction im i with
  | none => .missing
  | some a =>
    match s.limitFail a im.nr with
    | some el => .reject 1 el
    | none =>
      match outside a.els r.lo r.hi with
      | some el => .reject 2 el
      | none => .accept

/-- The outcome of an instance at a decision instant (R358). -/
def State.outcome (s : State) (im : TrimImage) (i : ActInst) (t : Nat) : Outc :=
  match s.freshMaq t with
  | none => .noenv
  | some r => if s.plinth.mode = mMaq then .maquette else s.judge im i r

/-- A decision enters the history; the third rejection of ten raises FLT_REJECT_LIMIT (R359). -/
def State.record (s : State) (rej : Bool) : State :=
  let h := (rej :: s.plinth.hist).take 10
  let s := s.upPlinth fun x => { x with hist := h }
  if rej ∧ 3 ≤ (h.filter id).length then s.plnFault fltRejectLimit 3 0 else s

/-- The Maquette's action as a setpoint. -/
def maqSet (im : TrimImage) (r : MaqResult) : Setpoint := setpointOf im.nr im.nu r.act true

/-- A setpoint to apply from the next sample; a stop raised by the same decision wins (R360). -/
def State.applyNext (s : State) (x : Setpoint) : State :=
  if s.plinth.mode = mPolicy ∨ s.plinth.mode = mMaq then s.upPlinth fun p => { p with next := some x } else s

/-- One decision (R358 to R360). -/
def State.decision (s : State) (im : TrimImage) (t : Nat) : State :=
  match s.plinth.inst with
  | none => s
  | some i =>
    let mon := fld (s.plinth.par 0) 9 4
    let s := s.upPlinth fun x => { x with inst := none }
    if ¬ (s.plinth.mode = mPolicy ∨ s.plinth.mode = mMaq) then s
    else
      let cur := s.setpoint
      match s.outcome im i t with
      | .accept =>
        ((s.upPlinth fun x => { x with cntAccept := x.cntAccept + 1, holds := 0 }).record false).applyNext
          ((s.mainAction im i).getD cur)
      | .reject c el =>
        let s := (s.upPlinth fun x => { x with cntSubst := x.cntSubst + 1, holds := 0 }).plnFault fltCompareReject 2 mon
          (wd c) (wd el) (wd i.count)
        (s.record true).applyNext ((s.plinth.maq.map (maqSet im)).getD cur)
      | .missing =>
        let inEnv : Bool :=
          match s.plinth.maq with
          | some r => (outside cur.els r.lo r.hi).isNone
          | none => false
        if inEnv ∧ s.plinth.holds < fld (s.plinth.par 0) 13 10 then
          ((s.upPlinth fun x => { x with cntHold := x.cntHold + 1, holds := x.holds + 1 }).record true).applyNext
            { cur with subst := true }
        else
          ((s.upPlinth fun x => { x with cntSubst := x.cntSubst + 1, holds := 0 }).record true).applyNext
            ((s.plinth.maq.map (maqSet im)).getD cur)
      | .noenv =>
        ((s.upPlinth fun x => { x with cntNoEnv := x.cntNoEnv + 1, holds := 0 }).record true).applyNext
          { cur with subst := true }
      | .maquette =>
        let would : Bool :=
          match s.plinth.maq with
          | some r => s.judge im i r == .accept
          | none => false
        let s := s.upPlinth fun x =>
          { x with holds := 0, shadow := (would :: x.shadow).take 10
                   cntShadow := if would then x.cntShadow else x.cntShadow + 1 }
        (s.record false).applyNext ((s.plinth.maq.map (maqSet im)).getD cur)

/-! ### The ramp (R361) -/

/-- An FP32 word times `(n - k) / n`, rounded once. -/
def rampScale (n k : Nat) (w : Word) : Word :=
  match fv w with
  | .fin neg m e => if n = 0 then w else wd (fFP32.round 0 neg (m * (n - k)) n e)
  | _ => w

/-- The setpoint of ramp sample `k` of `n`: velocity references and feedforward scaled, every other element kept. -/
def rampSet (limits : List (List Word)) (base : Setpoint) (n k : Nat) : Setpoint :=
  let vels := limits.map fun e => fld (wat e 0) 31 24
  { xref := (List.range base.xref.length).map fun j =>
      if vels.contains j ∧ j ≠ 255 then rampScale n k (wat base.xref j) else wat base.xref j
    uff := base.uff.map (rampScale n k), sched := base.sched, subst := true }

end Sys2Proof.Machine
end

