-- ==== Sys2Proof/Machine/Maq.lean ====
section
/-! DEFINITION. The Maquette: its model, its step and its known-answer test (R353 to R357). The order of weights and maps
is the model's reading, log 26. -/

namespace Sys2Proof.Machine

/-- Word `i` of the model header. -/
def mqH (m : List Byte) (i : Nat) : Word := wordAt m (4 * i)
/-- Word `i` of layer record `l`. -/
def mqL (m : List Byte) (l i : Nat) : Word := wordAt m (64 + 32 * l + 4 * i)
/-- Layers of a model. -/
def mqLayers (m : List Byte) : Nat := fld (mqH m 0) 10 4
/-- A signed byte. -/
def sByte (b : Byte) : Int := sext 8 b.toNat
/-- A signed 32-bit word at an offset. -/
def sWordAt (m : List Byte) (off : Nat) : Int := sext 32 (leNat (slice m off 4))
/-- Element of a buffer, code 0 beyond its end. -/
def iat (l : List Int) (i : Nat) : Int := l.getD i 0
/-- A sum kept in 40 bits. -/
def wrap40 (i : Int) : Int := sext 40 (i % 2 ^ 40).toNat
/-- Clamp an integer. -/
def iClamp (x lo hi : Int) : Int := if x < lo then lo else if hi < x then hi else x
/-- Round `num / 2^sh` to nearest, ties to even. -/
def roundShift (num : Int) (sh : Nat) : Int :=
  let n := roundQuot 0 (decide (num < 0)) num.natAbs (2 ^ sh)
  if num < 0 then -(n : Int) else n
/-- Requantise an accumulator (R354). -/
def requant (acc : Int) (mult sh : Nat) (relu : Bool) : Int :=
  let v := iClamp (roundShift (acc * mult) sh) (-128) 127
  if relu ∧ v < 0 then 0 else v

/-- The sums of a DENSE layer: row-major weights. -/
def denseSums (m : List Byte) (l : Nat) (src : List Int) : List Int :=
  let cin := fld (mqL m l 1) 15 0
  let cout := fld (mqL m l 1) 31 16
  let wo := (mqL m l 3).toNat
  let bo := (mqL m l 4).toNat
  (List.range cout).map fun o =>
    wrap40 (sWordAt m (bo + 4 * o) +
      ((List.range cin).map fun i => sByte (m.getD (wo + o * cin + i) 0) * iat src i).foldl (· + ·) 0)

/-- The sums of a CONV3 layer: maps and taps with channels last, one pixel of code 0 around (R354). -/
def convSums (m : List Byte) (l : Nat) (src : List Int) : List Int :=
  let cin := fld (mqL m l 1) 15 0
  let cout := fld (mqL m l 1) 31 16
  let h := fld (mqL m l 2) 15 0
  let w := fld (mqL m l 2) 31 16
  let st := if bit (mqL m l 0) 4 then 2 else 1
  let wo := (mqL m l 3).toNat
  let bo := (mqL m l 4).toNat
  (List.range ((h - 1) / st + 1)).flatMap fun y => (List.range ((w - 1) / st + 1)).flatMap fun x =>
    (List.range cout).map fun o =>
      wrap40 (sWordAt m (bo + 4 * o) +
        ((List.range 9).flatMap fun k => (List.range cin).map fun c =>
          let iy := y * st + k / 3
          let ix := x * st + k % 3
          if 1 ≤ iy ∧ iy ≤ h ∧ 1 ≤ ix ∧ ix ≤ w then
            sByte (m.getD (wo + (o * 9 + k) * cin + c) 0) * iat src (((iy - 1) * w + (ix - 1)) * cin + c)
          else 0).foldl (· + ·) 0)

/-- MAXPOOL2. -/
def poolOut (m : List Byte) (l : Nat) (src : List Int) : List Int :=
  let c := fld (mqL m l 1) 15 0
  let h := fld (mqL m l 2) 15 0
  let w := fld (mqL m l 2) 31 16
  (List.range (h / 2)).flatMap fun y => (List.range (w / 2)).flatMap fun x => (List.range c).map fun k =>
    let g (dy dx : Nat) := iat src (((2 * y + dy) * w + 2 * x + dx) * c + k)
    max (max (g 0 0) (g 0 1)) (max (g 1 0) (g 1 1))

/-- CONCAT along channels. -/
def concatOut (m : List Byte) (l : Nat) (a b : List Int) : List Int :=
  let ca := fld (mqL m l 1) 15 0
  let cb := fld (mqL m l 1) 31 16
  let n := fld (mqL m l 2) 15 0 * fld (mqL m l 2) 31 16
  (List.range n).flatMap fun i => (a.drop (i * ca)).take ca ++ (b.drop (i * cb)).take cb

/-- Run one layer on the buffers; the last layer leaves its sums. -/
def mqLayer (m : List Byte) (last : Bool) (l : Nat) (bufs : List (Nat × List Int)) : List (Nat × List Int) :=
  let w0 := mqL m l 0
  let k := fld w0 2 0
  let src := Tab.get [] bufs (fld w0 11 8)
  let q (sums : List Int) := if last then sums
    else sums.map fun a => requant a (fld (mqL m l 5) 15 0) (fld (mqL m l 5) 20 16) (bit w0 3)
  let out := if k = 1 then q (denseSums m l src) else if k = 2 then q (convSums m l src)
    else if k = 3 then poolOut m l src
    else concatOut m l src (Tab.get [] bufs (fld w0 19 16))
  Tab.set bufs (if last then 15 else fld w0 15 12) out

/-- The 3P sums of the model on its two input buffers (R354). -/
def mqRun (m : List Byte) (b0 b1 : List Int) : List Int :=
  let n := mqLayers m
  Tab.get [] ((List.range n).foldl (fun b l => mqLayer m (l + 1 == n) l b) [(0, b0), (1, b1)]) 15

/-- A sum converted to FP32: times its scale exactly, rounded once (R354). -/
def mqOut (m : List Byte) (sums : List Int) : List Word :=
  let p := fld (mqH m 2) 15 0
  let oo := (mqH m 4).toNat
  (List.range (3 * p)).map fun i =>
    toF 0 ((FV.fin (decide (iat sums i < 0)) (iat sums i).natAbs 0).mul (fv (wordAt m (oo + 4 * i))))

/-- MAC count of a layer. -/
def mqMacs (m : List Byte) (l : Nat) : Nat :=
  let k := fld (mqL m l 0) 2 0
  let cin := fld (mqL m l 1) 15 0
  let cout := fld (mqL m l 1) 31 16
  let st := if bit (mqL m l 0) 4 then 2 else 1
  if k = 1 then cin * cout
  else if k = 2 then 9 * cin * cout * ((fld (mqL m l 2) 15 0 - 1) / st + 1) * ((fld (mqL m l 2) 31 16 - 1) / st + 1)
  else 0

/-- Check a model object (R354); P is held against the Trim image once one is verified (log 56). -/
def checkModel (m : List Byte) (dims : Option (Nat × Nat)) : Option Refuse :=
  let n := mqLayers m
  let p := fld (mqH m 2) 15 0
  firstBad
    ([(decide (m.length < 64), stRange, 0, 0), (fld (mqH m 0) 3 0 != 1, stFormat, 0, 0), (fld (mqH m 0) 31 11 != 0, stFormat, 0, 11),
      (decide (n < 1 ∨ 64 < n), stRange, 0, 4), (fld (mqH m 1) 31 4 != 0, stFormat, 4, 4),
      (fld (mqH m 2) 31 16 != 0, stFormat, 8, 16), (dims.any (fun d => d.1 != p), stRange, 8, 0),
      (decide (m.length < 64 + 32 * n), stRange, 0, 4),
      (decide (m.length < (mqH m 3).toNat + 4 * (dims.map (·.2)).getD 0), stRange, 12, 0),
      (decide (m.length < (mqH m 4).toNat + 12 * p), stRange, 16, 0),
      (decide (m.length < (mqH m 6).toNat + (dims.map fun d => d.2 + 4000).getD 0), stRange, 24, 0)] ++
    ((List.range 8).map fun i => (mqH m (8 + i) != 0, stFormat, 32 + 4 * i, 0)) ++
    ((List.range n).flatMap fun l =>
      let off := 64 + 32 * l
      let k := fld (mqL m l 0) 2 0
      let w5 := mqL m l 5
      [(decide (k < 1 ∨ 4 < k), stFormat, off, 0), (bit (mqL m l 0) 4 && k != 2, stFormat, off, 4),
       (fld (mqL m l 0) 7 5 != 0, stFormat, off, 5), (fld (mqL m l 0) 31 20 != 0, stFormat, off, 20),
       (fld w5 31 21 != 0, stFormat, off + 20, 21), (mqL m l 6 != 0, stFormat, off + 24, 0),
       (mqL m l 7 != 0, stFormat, off + 28, 0),
       (decide (k = 1 ∧ ¬ (fld (mqL m l 2) 15 0 = 1 ∧ fld (mqL m l 2) 31 16 = 1)), stRange, off + 8, 0),
       (decide (k ≤ 2 ∧ fld w5 15 0 = 0), stRange, off + 20, 0),
       (decide (k ≤ 2 ∧ m.length < (mqL m l 3).toNat + fld (mqL m l 1) 15 0 * fld (mqL m l 1) 31 16 *
         (if k = 2 then 9 else 1)), stRange, off + 12, 0),
       (decide (k ≤ 2 ∧ m.length < (mqL m l 4).toNat + 4 * fld (mqL m l 1) 31 16), stRange, off + 16, 0)]) ++
    [(decide (400000000 < sumN ((List.range n).map (mqMacs m)) ∨ 400000000 < (mqH m 5).toNat), stRange, 20, 0)])

/-! ### Sensor frames in Plinth SRAM -/

/-- The record of a joint in a sensor frame: the offset of its first byte. -/
def jointRecord (f : List Byte) (joint : Nat) : Option Nat :=
  ((List.range (f.getD 18 0).toNat).find? fun k => (f.getD (24 + 16 * k) 0).toNat = joint).map (24 + 16 * ·)

/-- A field of a joint's record as FP32: 0 position, 1 velocity, 2 torque, 3 temperature; none where the record is
missing or marked invalid (R258, R328). -/
def jointField (f : List Byte) (joint fieldNo : Nat) : Option Word :=
  match jointRecord f joint with
  | none => none
  | some o =>
    if (f.getD (o + 1) 0).getLsbD 7 then none
    else if fieldNo = 3 then
      let t := sext 16 (leNat (slice f (o + 2) 2))
      some (wd (fFP32.round 0 (decide (t < 0)) t.natAbs 10 0))
    else some (wordAt f (o + 4 + 4 * fieldNo))

/-- The latest frame of a node. -/
def Trim.latest (t : Trim) (node : Nat) : Option RxFrame :=
  (t.rx.filter fun r => r.node = node).foldl (fun a r =>
    match a with
    | none => some r
    | some b => if b.inst < r.inst then some r else some b) none

/-- A measurement of the map from the latest frame of its node. -/
def Trim.latestMeas (t : Trim) (e : Word) : Option Word :=
  match t.latest (fld e 5 0) with
  | none => none
  | some r => jointField r.bytes (fld e 13 8) (fld e 17 16)

/-! ### Steps -/

/-- The code of a measurement (R353); the code of a NaN is open. -/
def mqCode (x q : Word) : Int :=
  match ((fv x).mul (fv q)).toInt 0 with
  | some i => iClamp i (-127) 127
  | none =>
    let p := toF 0 ((fv x).mul (fv q))
    if fIsNan p then iClamp (Config.openWord 10 [x.toNat, q.toNat] 0).toInt (-127) 127
    else if bit p 31 then -127 else 127

/-- The age of the grid at an instant, in ns. -/
def Plinth.gridAge (x : Plinth) (t : Nat) : Nat := t - x.gridStamp

/-- MAQUETTE_STEP_INSTANT: the step takes its two inputs (R353, R357). -/
def State.maqStart (s : State) : State :=
  match s.plinth.params, s.plinth.model, s.trim.active with
  | some _, some m, some im =>
    let s := s.passPln s.plinth.maqNext
    let t := s.plinth.maqNext
    let age := s.plinth.gridAge t
    let ageLim := fld (s.plinth.par 4) 15 0 * 1000000
    let stopLim := fld (s.plinth.par 4) 31 16 * 1000000
    let stale : Bool := s.plinth.grid.isNone || decide (ageLim < age)
    let b0 := (List.range im.ny).map fun i =>
      match s.trim.latestMeas (wat im.meas i) with
      | none => 0
      | some x => mqCode x (wordAt m ((mqH m 3).toNat + 4 * i))
    let sh := fld (mqH m 1) 3 0
    let b1 := match s.plinth.grid with
      | some g => if stale then List.replicate 4000 0 else g.map fun d => min ((d.toNat / 2 ^ sh : Nat) : Int) 127
      | none => List.replicate 4000 0
    let s := s.upPlinth fun x =>
      { x with maqRun := some (t, b0, b1), maqNext := t + 1000000
               depthAge := if x.grid.isNone then 0xFFFFFFFF else sat32 (age / 1000) }
    if s.plinth.grid.isSome ∧ stopLim < age then s.plnFault fltDepthStale 3 0
    else if s.plinth.grid.isSome ∧ ageLim < age then s.plnFault fltDepthStale 0 0
    else s
  | _, _, _ => s

/-- MAQUETTE_STEP_INSTANT (R353). -/
def execMaquetteStepInstant (s : State) : Host.Outcome State Fault Refusal := .next s.maqStart

/-- The three parts of the last layer's output as a result, where it is valid (R355). -/
def State.maqResult (s : State) (im : TrimImage) (t : Nat) (out : List Word) : Option MaqResult :=
  let p := im.nr + im.nu + im.nsv
  let a := out.take p
  let lo := (out.drop p).take p
  let hi := (out.drop (2 * p)).take p
  if out.length = 3 * p ∧ out.all fIsFin ∧ (List.range p).all (fun i => fLe (wat lo i) (wat hi i)) ∧
      (s.limitFail (setpointOf im.nr im.nu a true) im.nr).isNone then some { t := t, act := a, lo := lo, hi := hi }
  else none

/-- MAQUETTE_STEP_END: a valid result, or FLT_MAQUETTE (R355). -/
def execMaquetteStepEnd (s : State) : Host.Outcome State Fault Refusal :=
  .next (match s.plinth.maqRun, s.plinth.model, s.trim.active with
    | some (t, b0, b1), some m, some im =>
      let s := s.upPlinth fun x => { x with maqRun := none }
      match s.maqResult im t (mqOut m (mqRun m b0 b1)) with
      | some r => s.upPlinth fun x => { x with maq := some r }
      | none => s.plnFault fltMaquette 0 0
    | _, _, _ => s)

/-- MAQUETTE_DEADLINE: a step not ended 500 us after its instant is discarded (R353). -/
def execMaquetteDeadline (s : State) : Host.Outcome State Fault Refusal :=
  .next (match s.plinth.maqRun with
    | some (t, _, _) =>
      ((s.passPln (t + 500000)).upPlinth fun x => { x with maqRun := none }).plnFault fltDeadline 0 1
    | none => s)

/-- MAQUETTE_KAT: 100 ms after the last and with no step under way, the known-answer input gives the known sums, or
FLT_MAQUETTE of class S1 (R356). The input is taken as
the codes of buffer 0, then of buffer 1; a sum as five bytes (log 26). -/
def State.maqKat (s : State) : State :=
  match s.plinth.model, s.trim.active with
  | some m, some im =>
    if s.plinth.maqRun.isSome then s
    else
      let s := s.passPln (s.plinth.katAt + 100000000)
      let s := s.upPlinth fun x => { x with katAt := s.pnow }
      let o := (mqH m 6).toNat
      let b0 := (slice m o im.ny).map sByte
      let b1 := (slice m (o + im.ny) 4000).map sByte
      let sums := mqRun m b0 b1
      if crc32c (sums.flatMap fun i => natBytes 5 (i % 2 ^ 40).toNat) = mqH m 7 then s
      else s.plnFault fltMaquette 3 0
  | _, _ => s

/-- MAQUETTE_KAT (R356). -/
def execMaquetteKat (s : State) : Host.Outcome State Fault Refusal := .next s.maqKat

/-- BRIDGE_DEPTH_GRID: a grid reaches Plinth; one whose check fails is treated as absent (R342, R357). -/
def execBridgeDepthGrid (stamp : Nat) (grid : List (BitVec 16)) (crcOk : Bool) (s : State) :
    Host.Outcome State Fault Refusal :=
  .next (if crcOk then s.upPlinth fun x => { x with grid := some grid, gridStamp := stamp }
    else s.upPlinth fun x => { x with cntBridge := x.cntBridge + 1 })

end Sys2Proof.Machine
end

