-- ==== Sys2Proof/Machine/Trim.lean ====
section
/-! DEFINITION. Trim: its image, its samples, its motor frames and its trace (R324 to R340), the objects of PLN_CONFIG
as they are verified (R347), and the plausibility stage (R352). -/

namespace Sys2Proof.Machine

/-! ### The image (R336) -/

/-- A field of word `w` of an image. -/
def imF (b : List Byte) (w hi lo : Nat) : Nat := fld (wordAt b (4 * w)) hi lo
/-- The next 64-byte boundary. -/
def align64 (n : Nat) : Nat := cdiv n 64 * 64
/-- MACs of a set of dimensions (R326). -/
def macsOf (nx nu ny : Nat) : Nat := nx * nx + 2 * nx * nu + 2 * nx * ny
/-- MACs of an image. -/
def TrimImage.macs (im : TrimImage) : Nat := macsOf im.nx im.nu im.ny

/-- Where the sections of an image begin: output map, x0, region table, gain sets; then MACs and the pitch of a set. -/
def imSections (b : List Byte) : Nat × Nat × Nat × Nat × Nat × Nat :=
  let nx := imF b 1 7 0
  let ny := imF b 1 22 16
  let o := align64 (64 + 4 * ny)
  let x := align64 (o + 4 * imF b 2 23 16)
  let r := align64 (x + 4 * nx)
  let g := align64 (r + 48 * imF b 2 14 8)
  let m := macsOf nx (imF b 1 15 8) ny
  (o, x, r, g, m, align64 (4 * m))

/-- Words of an image from an offset. -/
def imWords (b : List Byte) (off n : Nat) : List Word := (List.range n).map fun i => wordAt b (off + 4 * i)

/-- An image read from the bytes before its signature block. -/
def trimParse (b : List Byte) (blk : List Word) : TrimImage :=
  let (o, x, r, g, m, pitch) := imSections b
  { nx := imF b 1 7 0, nu := imF b 1 15 8, ny := imF b 1 22 16, nr := imF b 1 31 24, nsv := imF b 2 26 24
    period := (wordAt b 12).toNat, phase := (wordAt b 16).toNat, wait := (wordAt b 20).toNat
    applyOfs := (wordAt b 24).toNat, domain := imF b 7 0 0, missLimit := imF b 7 8 1
    vars := imWords b 32 (imF b 2 26 24), meas := imWords b 64 (imF b 1 22 16), outs := imWords b o (imF b 2 23 16)
    x0 := imWords b x (imF b 1 7 0), regions := (List.range (imF b 2 14 8)).map fun i => imWords b (r + 48 * i) 12
    gains := (List.range (imF b 2 6 0)).map fun i => imWords b (g + pitch * i) m, sig := blk }

/-- The faults of region `i` of an image at an offset. -/
def regionFaults (im : TrimImage) (off : Nat) (e : List Word) : List (Bool × Nat × Nat × Nat) :=
  let w8 := wat e 8
  ((List.range im.nsv).flatMap fun k =>
    [(!fIsFin (wat e k), stRange, off + 4 * k, 0), (!fIsFin (wat e (4 + k)), stRange, off + 16 + 4 * k, 0)]) ++
  [(fld w8 7 6 != 0, stFormat, off + 32, 6), (fld w8 15 14 != 0, stFormat, off + 32, 14),
   (fld w8 31 17 != 0, stFormat, off + 32, 17), (decide (im.gains.length ≤ fld w8 5 0), stRange, off + 32, 0),
   (decide (im.regions.length ≤ fld w8 13 8), stRange, off + 32, 8),
   (bit w8 16 && im.nsv != 0 && !(fLe (wat e 0) (wat e 9) && fLt (wat e 9) (wat e 4)), stRange, off + 36, 0),
   (wat e 10 != 0, stFormat, off + 40, 0), (wat e 11 != 0, stFormat, off + 44, 0)]

/-- The faults of an entry of the output map at an offset (R334). -/
def outFaults (im : TrimImage) (off : Nat) (e : Word) (before : List Word) : List (Bool × Nat × Nat × Nat) :=
  let src := fld e 19 18
  let lim := if src = 0 then im.nu else if src = 1 then im.nr else im.nx
  [(fld e 7 6 != 0, stFormat, off, 6), (fld e 15 14 != 0, stFormat, off, 14), (fld e 17 16 == 3, stFormat, off, 16),
   (src == 3, stFormat, off, 18), (decide (lim ≤ fld e 26 20), stRange, off, 20), (fld e 31 27 != 0, stFormat, off, 27),
   (before.any (fun f => fld f 17 0 == fld e 17 0), stFormat, off, 0)]

/-- The faults of an entry of the measurement map at an offset. -/
def measFaults (off : Nat) (e : Word) : List (Bool × Nat × Nat × Nat) :=
  [(fld e 7 6 != 0, stFormat, off, 6), (fld e 15 14 != 0, stFormat, off, 14), (fld e 31 18 != 0, stFormat, off, 18)]

/-- The faults of the word of a scheduling variable. -/
def varFaults (im : TrimImage) (off : Nat) (w : Word) : List (Bool × Nat × Nat × Nat) :=
  let src := fld w 1 0
  let lim := if src = 0 then im.ny else if src = 1 then im.nx else 4
  [(src == 3, stFormat, off, 0), (decide (lim ≤ fld w 8 2), stRange, off, 2), (fld w 31 9 != 0, stFormat, off, 9)]

/-- Check the header of an image (R336). -/
def headFaults (b : List Byte) : List (Bool × Nat × Nat × Nat) :=
  let f := imF b
  let period := (wordAt b 12).toNat
  let minp := if 64 < f 1 7 0 then 250000 else 125000
  let out (v lo hi : Nat) : Bool := decide (v < lo ∨ hi < v)
  [(decide (b.length < 64), stRange, 0, 0), (f 0 3 0 != 1, stFormat, 0, 0), (f 0 31 4 != 0, stFormat, 0, 4),
   (out (f 1 7 0) 1 128, stRange, 4, 0), (out (f 1 15 8) 1 48, stRange, 4, 8), (out (f 1 22 16) 1 96, stRange, 4, 16),
   (f 1 23 23 != 0, stFormat, 4, 23), (out (f 1 31 24) 0 (f 1 7 0), stRange, 4, 24),
   (out (f 2 6 0) 1 64, stRange, 8, 0), (f 2 7 7 != 0, stFormat, 8, 7), (out (f 2 14 8) 1 64, stRange, 8, 8),
   (f 2 15 15 != 0, stFormat, 8, 15), (out (f 2 23 16) 1 192, stRange, 8, 16), (out (f 2 26 24) 0 4, stRange, 8, 24),
   (f 2 31 27 != 0, stFormat, 8, 27), (out period minp 10000000, stRange, 12, 0),
   (decide (period ≤ (wordAt b 16).toNat), stRange, 16, 0), (out (wordAt b 20).toNat 0 (period - 60000), stRange, 20, 0),
   (out (wordAt b 24).toNat 0 period, stRange, 24, 0), (out (f 7 8 1) 1 255, stRange, 28, 1),
   (f 7 31 9 != 0, stFormat, 28, 9),
   (decide (12582912 < f 2 6 0 * 4 * macsOf (f 1 7 0) (f 1 15 8) (f 1 22 16)), stRange, 8, 0)]

/-- Check a Trim image (R336): the first fault counts, header first and then section by section. The spec names two
statuses and does not say which a non-finite element gets: ST_RANGE (DESIGN CHOICE, log 27). -/
def checkTrim (b : List Byte) : Option Refuse :=
  match firstBad (headFaults b) with
  | some r => some r
  | none =>
    let (o, _, r, g, m, pitch) := imSections b
    let im := trimParse b []
    firstBad
      ((((List.range im.nsv).flatMap fun k => varFaults im (32 + 4 * k) (wat im.vars k)) ++
        ((List.range 4).map fun k => (wordAt b (48 + 4 * k) != 0, stFormat, 48 + 4 * k, 0))) ++
      [(decide (b.length < g + pitch * (im.gains.length - 1) + 4 * m), stRange, b.length, 0)] ++
      ((List.range im.ny).flatMap fun i => measFaults (64 + 4 * i) (wat im.meas i)) ++
      ((List.range im.outs.length).flatMap fun i => outFaults im (o + 4 * i) (wat im.outs i) (im.outs.take i)) ++
      ((List.range im.regions.length).flatMap fun i => regionFaults im (r + 48 * i) (im.regions.getD i [])) ++
      ((List.range im.gains.length).flatMap fun i => (List.range m).map fun j =>
        (!fIsFin (wat (im.gains.getD i []) j), stRange, g + pitch * i + 4 * j, 0)))

/-! ### Verification of a configuration object (R337, R347, R348) -/

/-- Both images share dimensions and maps, and their gain sets fit together (R337). -/
def seamless (a b : TrimImage) : Bool :=
  a.nx == b.nx && a.nu == b.nu && a.ny == b.ny && a.nr == b.nr && a.nsv == b.nsv && a.meas == b.meas &&
    a.outs == b.outs && decide ((a.gains.length + b.gains.length) * 4 * a.macs ≤ 12582912)

/-- Both outputs are in the stop state. -/
def Plinth.stopped (x : Plinth) : Bool := x.ss0 && x.ss1

/-- A Trim image is verified: it awaits its replacement instant (R337). -/
def State.trimVerified (s : State) (im : TrimImage) : State :=
  let from_ := s.pnow + 1000000
  let s := s.upTrim fun x => { x with pend := some im, pendFrom := from_, state := 2 }
  match s.trim.active with
  | some _ => s
  | none => s.upTrim fun x => { x with nextT := instantFrom im.period im.phase from_ }

/-- The Trim image that the limits and the model are held against: the one verified last, if any. -/
def State.lastTrim (s : State) : Option TrimImage := s.trim.pend.or s.trim.active

/-- The limits and the model that stand fit the dimensions of an image (R350, R354; log 56). -/
def Plinth.fits (x : Plinth) (im : TrimImage) : Bool :=
  (match x.model with
    | some m => fld (mqH m 2) 15 0 == im.nr + im.nu + im.nsv && decide ((mqH m 3).toNat + 4 * im.ny ≤ m.length)
    | none => true) &&
  (x.limits.flatMap limitRefs).all fun r => decide (r.2 < if r.1 then im.nu else im.nr)

/-- The content check of object `ob`. -/
def State.checkObject (s : State) (ob : Nat) (body : List Byte) : Option Refuse :=
  if ob = 1 then
    match checkTrim body with
    | some r => some r
    | none => if s.plinth.fits (trimParse body []) then none else some (stRange, 0, 0)
  else if ob = 2 then checkModel body (s.lastTrim.map fun im => (im.nr + im.nu + im.nsv, im.ny))
  else if ob = 3 then checkLimits (wordsOf body) (s.lastTrim.map fun im => (im.nr, im.nu))
  else checkParams (wordsOf body)

/-- Apply a verified object. -/
def State.applyObject (s : State) (ob : Nat) (body : List Byte) (blk : List Word) : State :=
  if ob = 1 then s.trimVerified (trimParse body blk)
  else
    let s := s.upPlinth fun x => { x with sigs := Tab.set x.sigs ob blk }
    (if ob = 2 then s.upPlinth fun x => { x with model := some body }
     else if ob = 3 then
       let ws := wordsOf body
       s.upPlinth fun x =>
         { x with limits := (List.range (fld (wat ws 0) 11 4)).map fun i => (ws.drop (4 + 8 * i)).take 8 }
     else
       s.upPlinth fun x =>
         { x with params := some (wordsOf body)
                  maqNext := instantFrom 1000000 (wordAt body 24).toNat s.pnow }).closeOp 0x710 ob stOk {}

/-- Why a verified signature is not enough: the mode, the content, the replacement rule. -/
def State.refuseObject (s : State) (ob : Nat) (body : List Byte) : Option Refuse :=
  let x := s.plinth
  if ¬ (x.mode = mInit ∨ x.mode = mStop ∨ (ob = 1 ∧ (x.mode = mPolicy ∨ x.mode = mMaq))) then
    some (stState, wd x.mode, 0)
  else
    match s.checkObject ob body with
    | some r => some r
    | none =>
      match s.trim.active with
      | some a => if ob = 1 ∧ ¬ x.stopped ∧ ¬ seamless a (trimParse body []) then some (stState, wd x.mode, 0) else none
      | none => none

/-- CONFIG_OBJECT_VERIFIED: the safety processor has the whole object and verifies, checks and applies it. -/
def State.configVerified (s : State) : State :=
  match s.plinth.staging with
  | none => s
  | some (ob, ps) =>
    let s := s.upPlinth fun x => { x with staging := none }
    let bs := s.rd (w64 (wat ps 1) (wat ps 2)) (wat ps 3).toNat
    let body := bs.take (bs.length - 80)
    let blk := wordsOf (bs.drop (bs.length - 80))
    if bs.length < 80 then s.closeOp 0x710 ob stRange {}
    else
      match s.plnSig blk ob body with
      | none => s.closeOp 0x710 ob stAuth {}
      | some (slot, ctr) =>
        match s.refuseObject ob body with
        | some r => s.closeOp 0x710 ob r.1 { d0 := r.2.1, d1 := r.2.2 }
        | none => ((s.accept 0x710 ob).plnCounter slot ctr).applyObject ob body blk

/-- CONFIG_OBJECT_VERIFIED (R347). -/
def execConfigObjectVerified (s : State) : Host.Outcome State Fault Refusal := .next s.configVerified

/-! ### Sample instants (R327 to R331, R337, R358, R361, R362) -/

/-- A verified image replaces the active one (R337); the setpoint before the first one applied is x0 (R331). -/
def State.trimReplace (s : State) (im : TrimImage) : State :=
  let old := s.trim.active
  let keepX : Bool := match old with | some a => a.nx == im.nx | none => false
  let keepB : Bool := match old with | some a => a.nx == im.nx && a.nu == im.nu | none => false
  let s := s.upTrim fun x =>
    { x with active := some im, pend := none, state := 1, xhat := if keepX then x.xhat else im.x0
             altered := x.altered && keepB, region := if x.region < im.regions.length then x.region else 0 }
  let s := s.upPlinth fun x => { x with applied := none, sigs := Tab.set x.sigs 1 im.sig }
  s.closeOp 0x710 1 stOk {}

/-- Every measured velocity lies within v_stop (R362); one that no frame carries is not measured. -/
def State.standstill (s : State) (im : TrimImage) : Bool :=
  im.meas.all fun e =>
    fld e 17 16 != 1 ||
      match s.trim.latestMeas e with
      | none => true
      | some v => (fv v).abs.le (fv (s.plinth.par 2))

/-- The ramp at a sample instant: it begins, goes on, or ends at standstill (R361, R362). Its setpoint is then the one in
force, and stays so in STOPPED (log 58). -/
def State.rampStep (s : State) (im : TrimImage) (t : Nat) : State :=
  let x := s.plinth
  if x.mode ≠ mRamp then s
  else if x.rampPend then
    let base := s.setpoint
    let n := cdiv (fld (x.par 1) 15 0 * 1000000) im.period
    s.upPlinth fun x =>
      { x with rampPend := false, rampBase := some base, rampT0 := t, rampK := 1, rampN := n
               applied := some (rampSet x.limits base n 1) }
  else if x.rampK < x.rampN then
    s.upPlinth fun x =>
      { x with rampK := x.rampK + 1
               applied := match x.rampBase with
                 | some b => some (rampSet x.limits b x.rampN (x.rampK + 1))
                 | none => x.applied }
  else if s.standstill im then s.ss0Stop else s

/-- The ramp runs: its samples carry stop = 1 and the torque limit (R361). -/
def Plinth.ramping (x : Plinth) : Bool := x.mode == mRamp && !x.rampPend

/-- Trim takes the Maquette's action as its setpoint source: in MAQUETTE_LED, and at Reef 4 (R24, R25, R473). -/
def State.maqLeads (s : State) : Bool := s.plinth.mode == mMaq || (s.plinth.mode == mPolicy && !s.cpw.coreOn)

/-- The setpoint of the sample: where it leads the latest Maquette action (R25), else the last decision (R331). -/
def State.takeSetpoint (s : State) (im : TrimImage) : State :=
  let s := match s.plinth.next with
    | some x => s.upPlinth fun p => { p with applied := some x, next := none }
    | none => s
  match s.plinth.maq with
  | some r => if s.maqLeads then s.upPlinth fun p => { p with applied := some (maqSet im r) } else s
  | none => s

/-- The STANDBY part may take over (R404). -/
def State.twinEligible (s : State) : Bool :=
  !s.twin.role && s.plinth.mode == s.twin.peerMode && decide (8 ≤ s.twin.adopted) &&
    !(s.twin.ownStop && (s.plinth.mode == mRamp || s.plinth.mode == mStop))

/-- The twin at a sample instant: a sample without a state block breaks the count of adoptions (R404), and a handover
completes at sample k + 1 (R408). -/
def State.twinSample (s : State) : State :=
  let s := s.upTwin fun x => { x with adopted := if x.adoptedNow then x.adopted else 0, adoptedNow := false }
  let s := s.upTwin fun x => { x with eligible := s.twinEligible }
  if s.twin.handover = 3 then s.upTwin fun x => { x with role := true, eligible := false, handover := 0 }
  else if s.twin.handover = 2 then
    (s.upTwin fun x => { x with role := false, handover := 0 }).closeOp 0x803 0 stOk {}
  else s

/-- A verified image whose replacement instant has come is in force from the sample at `t` (R337). -/
def State.replaceDue (s : State) (t : Nat) : State :=
  match s.trim.pend with
  | some im => if s.trim.pendFrom ≤ t then s.trimReplace im else s
  | none => s

/-- In POLICY_LED a period in which the action monitor is not armed again (its plan retired, the compute die reset) passes
without an action: its instance is missing like one that expired (R25, R313; DEDUCED, log 149). -/
def State.missDue (s : State) (t : Nat) : State :=
  let x := s.plinth
  if x.mode = mPolicy ∧ x.inst.isNone ∧ x.actPeriod ≠ 0 ∧ x.actDue ≤ t ∧ ¬ (s.monitor s.actionMon).armed then
    s.upPlinth fun x => { x with actDue := x.actDue + x.actPeriod
                                 inst := some { count := (s.monitor s.actionMon).count + 1, expired := true } }
  else s

/-- hb_check, in ns: the default, since no register or packet sets it (R393's table; DESIGN CHOICE, log 178). -/
def hbCheck : Nat := 40000

/-- The sample at `t` takes its setpoint, and awaits its frames unless the previous one still runs: a requested mode is
entered first, so that this sample takes its setpoint as the mode says (log 58); the ramp and the comparator go on (R329,
R331, R346, R358, R361). -/
def State.trimTake (s : State) (im : TrimImage) (t : Nat) : State :=
  let s := s.upTrim fun x => { x with nextT := instantFrom im.period im.phase (t + 1) }
  let s := s.upTwin fun x => { x with hbAt := some (t + hbCheck) }
  let s := ((s.twinSample.takeModeReq.takeSetpoint im).rampStep im t).missDue t |>.decision im t
  if s.trim.run.isSome then s.upTrim fun x => { x with cntSkip := x.cntSkip + 1 }
  else s.upTrim fun x => { x with run := some { t := t, set := s.setpoint } }

/-- TRIM_SAMPLE_INSTANT: the instant arrives (R327, R337). -/
def State.trimInstant (s : State) : State :=
  if (s.trim.active.or s.trim.pend).isNone then s
  else
    let t := s.trim.nextT
    let s := (s.passPln t).replaceDue t
    match s.trim.active with
    | none => s.upTrim fun x => { x with nextT := t + ((x.pend.map (·.period)).getD 1) }
    | some im => s.trimTake im t

/-- TRIM_SAMPLE_INSTANT (R327). -/
def execTrimSampleInstant (s : State) : Host.Outcome State Fault Refusal := .next s.trimInstant

/-! ### The law (R324, R325, R333) -/

/-- Rows of a matrix that stands row-major in words from `off`. -/
def matAt (g : List Word) (off rows cols : Nat) : List (List Word) :=
  (List.range rows).map fun i => (g.drop (off + i * cols)).take cols

/-- A quotient of exact values, rounded once to FP32. -/
def fvQuot (a b : FV) : Word :=
  match a, b with
  | .fin x m e, .fin y n d => if n = 0 then (if m = 0 then fNan else toF 0 (.inf (x != y)))
      else wd (fFP32.round 0 (x != y) m n (e - d))
  | .inf x, .fin y _ _ => toF 0 (.inf (x != y))
  | .fin x _ _, .inf y => toF 0 (.fin (x != y) 0 0)
  | _, _ => fNan

/-- The frame of a node that the sample at `t` uses: its instant lies in (t - period/2, t + period/2]; of two the later
(R327, R328). -/
def Trim.frameFor (x : Trim) (im : TrimImage) (t node : Nat) : Option RxFrame :=
  (x.rx.filter fun r => r.node = node ∧ 2 * t < 2 * r.inst + im.period ∧ 2 * r.inst ≤ 2 * t + im.period).foldl
    (fun a r => match a with
      | none => some r
      | some b => if b.inst < r.inst then some r else some b) none

/-- A frame that the sample can use: no record Trim needs is marked invalid (R328). -/
def TrimImage.usable (im : TrimImage) (r : RxFrame) : Bool :=
  im.meas.all fun e =>
    fld e 5 0 != r.node ||
      match jointRecord r.bytes (fld e 13 8) with
      | none => true
      | some o => !(r.bytes.getD (o + 1) 0).getLsbD 7

/-- The input nodes, in order of first appearance. -/
def TrimImage.nodes (im : TrimImage) : List Nat := (im.meas.map fun e => fld e 5 0).eraseDups

/-- The frame of a node, none where it is absent. -/
def Trim.present (x : Trim) (im : TrimImage) (t node : Nat) : Option RxFrame :=
  (x.frameFor im t node).filter im.usable

/-- The measurements of the sample at `t` (R328). -/
def Trim.measures (x : Trim) (im : TrimImage) (t : Nat) : List (Option Word) :=
  im.meas.map fun e => (x.present im t (fld e 5 0)).bind fun r => jointField r.bytes (fld e 13 8) (fld e 17 16)

/-- A node is absent at the start of a sample (R328). -/
def State.nodeAbsent (s : State) (im : TrimImage) (node : Nat) : State :=
  let n := Tab.get 0 s.trim.miss node + 1
  let s := s.upTrim fun x => { x with cntMissing := x.cntMissing + 1, miss := Tab.set x.miss node n }
  if n = im.missLimit then s.plnFault fltLink 0 node else s

/-- A region matches the scheduling variables (R333). -/
def regionOf (im : TrimImage) (sig : List Word) (e : List Word) : Bool :=
  (List.range im.nsv).all fun k => fLe (wat e k) (wat sig k) && fLt (wat sig k) (wat e (4 + k))

/-- The scheduling variables; what the spec does not say, the value of one that names an absent measurement or a value
no setpoint supplies, is free (log 28). -/
def State.sigmas (s : State) (im : TrimImage) (set : Setpoint) (y : List (Option Word)) (xh : List Word) :
    List Word × State :=
  let pick (k : Nat) : Option Word :=
    let w := wat im.vars k
    let i := fld w 8 2
    if fld w 1 0 = 0 then (y[i]?).join else if fld w 1 0 = 1 then xh[i]? else set.sched[i]?
  let free : Bool := (List.range im.nsv).any fun k => (pick k).isNone
  ((List.range im.nsv).map fun k => (pick k).getD (Config.freeWord (s.free + k)),
    if free then { s with free := s.free + 4 } else s)

/-- The gains of a sample: the region, whether it blends, the factor and the blended or plain set (R333). -/
def gainsOf (im : TrimImage) (r : Nat) (sig : List Word) : Bool × Word × List Word :=
  let e := im.regions.getD r []
  let g := im.gains.getD (fld (wat e 8) 5 0) []
  if bit (wat e 8) 16 ∧ im.nsv ≠ 0 ∧ fLe (wat e 9) (wat sig 0) then
    let a := fvQuot (fvSub (wat sig 0) (wat e 9)) (fvSub (wat e 4) (wat e 9))
    let n := im.gains.getD (fld (wat (im.regions.getD (fld (wat e 8) 13 8) []) 8) 5 0) []
    (true, a, List.zipWith (fun m q => fFma 0 a (iSub q m) m) g n)
  else (false, 0, g)

/-- Steps 1 to 6 of a sample (R324, R325). -/
def State.trimLaw (s : State) (im : TrimImage) (run : TrimRun) (y : List (Option Word)) : State :=
  let x := s.trim
  let xh := if x.altered then
      zipF iAdd x.xhat (matVec (matAt x.bPrev 0 im.nx im.nu) (zipF iSub x.uSent x.uPrev)) else x.xhat
  let (sig, s) := s.sigmas im run.set y xh
  let hit := (List.range im.regions.length).find? fun i => regionOf im sig (im.regions.getD i [])
  let r := hit.getD x.region
  let (bl, al, g) := gainsOf im r sig
  let (nx, nu, ny) := (im.nx, im.nu, im.ny)
  let oB := nx * nx
  let oC := oB + nx * nu
  let oK := oC + ny * nx
  let oL := oK + nu * nx
  let d := (List.range nx).map fun j => if j < im.nr then iSub (wat xh j) (wat run.set.xref j) else wat xh j
  let u := zipF iSub run.set.uff (matVec (matAt g oK nu nx) d)
  let cx := matVec (matAt g oC ny nx) xh
  let e := (List.range ny).map fun i => match (y[i]?).join with | none => 0 | some v => iSub v (wat cx i)
  let xn := zipF iAdd (zipF iAdd (matVec (matAt g 0 nx nx) xh) (matVec (matAt g oB nx nu) u)) (matVec (matAt g oL nx ny) e)
  let bad : Bool := !(u.all fIsFin && xn.all fIsFin)
  let run := { run with started := true, y := y, u := u, x := xn, e := e, sig := sig, alpha := al, blend := bl
                        b := (g.drop oB).take (nx * nu), bad := bad }
  let s := s.upTrim fun x =>
    { x with run := some run, xhat := if bad then xh else xn, region := r, blend := bl, altered := false
             cntNoRegion := if hit.isNone then x.cntNoRegion + 1 else x.cntNoRegion
             cntBlend := if bl then x.cntBlend + 1 else x.cntBlend }
  if bad then s.trimStateFault else s

/-- The sample starts (R327, R328). -/
def State.trimStart (s : State) (im : TrimImage) (run : TrimRun) (late : Bool) : State :=
  let s := im.nodes.foldl (fun s n =>
    if (s.trim.present im run.t n).isNone then s.nodeAbsent im n
    else s.upTrim fun x => { x with miss := Tab.set x.miss n 0 }) s
  let s := if late then s.upTrim fun x => { x with cntStartLate := x.cntStartLate + 1 } else s
  s.trimLaw im run (s.trim.measures im run.t)

/-- TRIM_SAMPLE_START: every awaited frame is there (R327). -/
def execTrimSampleStart (s : State) : Host.Outcome State Fault Refusal :=
  .next (match s.trim.active, s.trim.run with
    | some im, some run =>
      if ¬ run.started ∧ im.nodes.all (fun n => (s.trim.frameFor im run.t n).isSome) then
        s.trimStart im run (decide (run.t < s.pnow))
      else s
    | _, _ => s)

/-- TRIM_WAIT_EXPIRY: the sample starts without the frames that did not come (R327, R328). -/
def execTrimWaitExpiry (s : State) : Host.Outcome State Fault Refusal :=
  .next (match s.trim.active, s.trim.run with
    | some im, some run =>
      if run.started then s else (s.passPln (run.t + im.wait)).trimStart im run (decide (0 < im.wait))
    | _, _ => s)

/-! ### The end of a sample (R326, R329, R335, R352) -/

/-- The value of an output entry. -/
def TrimRun.value (r : TrimRun) (e : Word) : Word :=
  let i := fld e 26 20
  if fld e 19 18 = 0 then wat r.u i else if fld e 19 18 = 1 then wat r.set.xref i else wat r.x i

/-- A torque held to the limits of its joint: the clamps of R352 in order, each that acts counted. -/
def clampJoint (es : List (List Word)) (prev v : Word) : Word × Nat :=
  es.foldl (fun (a : Word × Nat) e =>
    let c1 := fClamp a.1 (fNeg (wat e 5)) (wat e 5)
    let c2 := fClamp c1 (iSub prev (wat e 6)) (iAdd prev (wat e 6))
    (c2, a.2 + (if c1 = a.1 then 0 else 1) + (if c2 = c1 then 0 else 1))) (v, 0)

/-- The limits entries of a joint. -/
def Plinth.jointLimits (x : Plinth) (key : Nat) : List (List Word) :=
  x.limits.filter fun e => 64 * fld (wat e 0) 5 0 + fld (wat e 0) 13 8 = key

/-- The joint an output entry drives. -/
def outJoint (e : Word) : Nat := 64 * fld e 5 0 + fld e 13 8

/-- The torque sent for a torque entry, and the clamps it took (R352, R361, R362). -/
def State.sendTorque (s : State) (run : TrimRun) (e : Word) : Word × Nat :=
  let x := s.plinth
  if x.mode = mStop ∨ x.mode = mInit then (0, 0)
  else
    let key := outJoint e
    let (v, n) := clampJoint (x.jointLimits key) (Tab.get 0 x.torque key) (run.value e)
    (if x.ramping then fClamp v (fNeg (x.par 3)) (x.par 3) else v, n)

/-- The torques of a sample by joint, in the order of the output map, and the count of clamps. -/
def State.sendTorques (s : State) (im : TrimImage) (run : TrimRun) : List (Nat × Word) × Nat :=
  (im.outs.filter fun e => fld e 17 16 = 0).foldl (fun (a : List (Nat × Word) × Nat) e =>
    let (v, n) := s.sendTorque run e
    (Tab.set a.1 (outJoint e) v, a.2 + n)) ([], 0)

/-- The measured limits of an entry are broken: the joint's latest frame shows a position outside the widened range or
a velocity beyond 1.25 vel_max (R352). -/
def State.overLimit (s : State) (e : List Word) : Bool :=
  match s.trim.latest (fld (wat e 0) 5 0) with
  | none => false
  | some r =>
    let j := fld (wat e 0) 13 8
    let posBad := match jointField r.bytes j 0 with
      | none => false
      | some p => !(((fv (wat e 2)).add 0 (fv (wat e 7)).neg).le (fv p) && (fv p).le ((fv (wat e 3)).add 0 (fv (wat e 7))))
    let velBad := match jointField r.bytes j 1 with
      | none => false
      | some v => !((fv v).abs.le ((FV.fin false 5 (-2)).mul (fv (wat e 4))))
    posBad || velBad

/-- The output nodes, and the joints of a node, in order of first appearance (R334). -/
def TrimImage.outNodes (im : TrimImage) : List Nat := (im.outs.map fun e => fld e 5 0).eraseDups
/-- The joints of an output node. -/
def TrimImage.outJoints (im : TrimImage) (node : Nat) : List Nat :=
  ((im.outs.filter fun e => fld e 5 0 = node).map fun e => fld e 13 8).eraseDups

/-- The record of a joint in a motor frame (R335). -/
def motorRecord (im : TrimImage) (run : TrimRun) (tq : List (Nat × Word)) (node joint : Nat) (subst stop : Bool) :
    List Byte :=
  let es := im.outs.filter fun e => fld e 5 0 = node ∧ fld e 13 8 = joint
  let field (f : Nat) : Word := match es.find? fun e => fld e 17 16 = f with
    | none => 0
    | some e => if f = 0 then Tab.get 0 tq (outJoint e) else run.value e
  let valid := maskOf (es.map fun e => fld e 17 16)
  [BitVec.ofNat 8 joint, BitVec.ofNat 8 (valid + bitAt subst 6 + bitAt stop 7), 0, 0] ++
    wordBytes (field 0) ++ wordBytes (field 1) ++ wordBytes (field 2)

/-- The motor frame payload of a node (R258, R335): header, records, CRC. -/
def motorPayload (node seq tNs domain records : Nat) (body : List Byte) : List Byte :=
  let h := [0x21, BitVec.ofNat 8 node] ++ natBytes 2 body.length ++ natBytes 4 seq ++
    natBytes 4 (tNs % 1000000000) ++ natBytes 6 (tNs / 1000000000) ++ natBytes 1 records ++ natBytes 1 domain ++
    natBytes 4 0
  h ++ body ++ wordBytes (crc32c (h ++ body))

/-- The Ethernet port on which a node's frames arrive (log 24). -/
def Trim.portOf (x : Trim) (node : Nat) : Nat := ((x.latest node).map (·.port)).getD 0

/-- An untagged frame with the ratline EtherType and zero addresses; the spec gives motor frames no
addresses (DESIGN CHOICE, log 24). -/
def motorFrame (payload : List Byte) : List Byte :=
  List.replicate 12 (0 : Byte) ++ [0x88, 0xB5] ++ payload

/-- The apply instant in the domain of the motor frames, in ns (R335). -/
def State.applyNs (s : State) (im : TrimImage) (t : Nat) : Nat :=
  (((t + im.applyOfs) * 65536 : Nat) + (s.domain im.domain).ofsAt s.hal.nowNs).toNat / 65536

/-- The payloads of a sample, each with its port, in node order; the sequence counters rise (R335). -/
def State.motorFrames (s : State) (im : TrimImage) (run : TrimRun) (tq : List (Nat × Word)) :
    List (Nat × List Byte) × State :=
  let stop : Bool := s.plinth.ramping || s.plinth.mode == mStop || s.plinth.mode == mInit
  let subst : Bool := run.set.subst || s.plinth.ramping
  im.outNodes.foldl (fun (a : List (Nat × List Byte) × State) node =>
    let js := im.outJoints node
    let seq := match Tab.find a.2.trim.seqs node with | none => 0 | some w => (w + 1).toNat
    let p := motorPayload node seq (s.applyNs im run.t) im.domain js.length
      (js.flatMap fun j => motorRecord im run tq node j subst stop)
    (a.1 ++ [(s.trim.portOf node, p)], a.2.upTrim fun x => { x with seqs := Tab.set x.seqs node (wd seq) })) ([], s)

/-- The heartbeat token after a sample (R402). -/
def State.tokenWords (s : State) : List Word :=
  let x := s.twin
  let ws := [wd (1 + bitAt x.role 4 + bitAt (x.handover == 1) 5 + bitAt x.stopCause.isSome 6 + 2 ^ 8 * s.plinth.mode),
    s.trim.samples, x.frameCrc, s.plinth.rejWord, wd (x.stopCause.getD 0), 0, 0]
  ws ++ [crcWords ws]

/-- The state block after a sample (R402). -/
def State.blockWords (s : State) (im : TrimImage) : List Word :=
  let ws := [wd (im.nx + 2 ^ 8 * im.nu + 2 ^ 16 * im.outNodes.length)] ++ s.trim.xhat ++ s.trim.uSent ++
    im.outNodes.map fun n => Tab.get 0 s.trim.seqs n
  ws ++ [crcWords ws]

/-- The ACTIVE Plinth sends its heartbeat (R402, R408). -/
def State.heartbeat (s : State) (im : TrimImage) : State :=
  let s := s.upTwin fun x => { x with aliveOut := !x.aliveOut }
  let s := (s.out 4 0 (bytesOf s.tokenWords)).out 4 1 (bytesOf (s.blockWords im))
  s.upTwin fun x => { x with stopCause := none, handover := if x.handover = 1 then 2 else x.handover }

/-- Frames of a sample: sent by the ACTIVE part, held by the STANDBY (R402, R403). -/
def State.sendFrames (s : State) (im : TrimImage) (fs : List (Nat × List Byte)) : State :=
  let s := s.upTwin fun x => { x with frameCrc := crc32c (fs.flatMap (·.2)) }
  if s.twin.role then
    (fs.foldl (fun s f => s.queueFrame f.1 7 { bytes := motorFrame f.2 }) s).heartbeat im
  else s.upPlinth fun x => { x with txHold := fs.map fun f => (f.1, { bytes := motorFrame f.2 }) }

/-! ### Trace (R338, R339) -/

/-- The value of a trace node. -/
def TrimRun.node (r : TrimRun) (region : Nat) (w : Word) (free : Word) : Word :=
  let k := fld w 2 0
  let i := fld w 9 3
  if k = 0 then wat r.x i else if k = 1 then wat r.u i
  else if k = 2 then ((r.y[i]?).join).getD free
  else if k = 3 then wat r.e i else if k = 4 then wat r.set.xref i else if k = 5 then wat r.sig i
  else if k = 6 then r.alpha else fOfInt 0 region

/-- A record of the trace. -/
def State.traceRecord (s : State) (r : TrimRun) : List Word :=
  [wd r.t, wd (s.trim.region + bitAt r.blend 6 + bitAt r.set.subst 7)] ++
    (List.range s.trim.traceCfg.nodes.length).map fun i =>
      r.node s.trim.region (wat s.trim.traceCfg.nodes i) (Config.freeWord (s.free + i))

/-- The trigger of a capture falls at this sample. -/
def Trim.triggers (x : Trim) (prevRegion : Nat) : Bool :=
  let c := x.traceCfg
  if c.trigger = 0 then x.traceSeen == 0
  else if c.trigger = 1 then x.traceFault
  else if c.trigger = 2 then x.region != prevRegion
  else x.traceSeen + 1 == c.arg

/-- The trace takes note of a sample: trigger, record, end of the capture. The record of the sample at which the trigger
falls is the first that follows it (DESIGN CHOICE, log 29). -/
def State.traceSample (s : State) (r : TrimRun) (prevRegion : Nat) : State :=
  let x := s.trim
  let c := x.traceCfg
  if x.trace ≠ 1 then s.upTrim fun x => { x with traceFault := false }
  else
    let left := match x.traceLeft with
      | some n => some n
      | none => if x.triggers prevRegion then some (c.samples - c.pre) else none
    let rec_ : Bool := x.traceSeen % c.decim == c.decim - 1
    let recs := if rec_ then (s.traceRecord r :: x.traceRecs).take c.samples else x.traceRecs
    let left := if rec_ then left.map (· - 1) else left
    let ended : Bool := left == some 0 || (c.mode == 0 && recs.length == c.samples)
    { s with free := if rec_ then s.free + c.nodes.length else s.free
             trim := { x with traceRecs := recs, traceLeft := left, traceSeen := x.traceSeen + 1, traceFault := false
                              trace := if ended then 2 else 1 } }

/-- TRIM_TRACE_CFG (R338). -/
def execTrimTraceCfg (k : Nat) (s : State) : Host.Outcome State Fault Refusal :=
  runPacket 0x712 k (fun p s =>
    let n := p.f 4 6 0
    match s.plnSig ((p.params.drop (3 + n)).take 20) 7 (bytesOf (p.params.take (3 + n))) with
    | none => .refuse stAuth
    | some (slot, ctr) =>
      if s.trim.trace = 3 then .refuse stBusy
      else .done ((s.plnCounter slot ctr).upTrim fun x =>
        { x with trace := 1, traceRecs := [], traceSeen := 0, traceLeft := none, traceFault := false
                 traceCfg := { nodes := (p.params.drop 3).take n, mode := p.f 4 8 7, trigger := p.f 4 11 9
                               decim := p.f 4 19 12, samples := p.f 5 14 0, pre := p.f 5 30 16
                               arg := (p.w 6).toNat } }) {}) s

/-- TRIM_TRACE_READ: the records begin to move through the status window (R339). -/
def execTrimTraceRead (k : Nat) (s : State) : Host.Outcome State Fault Refusal :=
  runPacket 0x702 k (fun p s =>
    let n := p.f 6 14 0
    if s.trim.trace = 1 then .refuse stState (wd s.plinth.mode)
    else if s.trim.trace = 3 then .refuse stBusy
    else if s.trim.traceRecs.length < n then .refuse stRange (det 6 0)
    else .pend 0 s.trim.trace n fun s => s.upTrim fun x => { x with trace := 3 }) s

/-- TRIM_TRACE_READ_COMPLETE: the records, oldest first, are in host memory (R339). -/
def execTrimTraceReadComplete (s : State) : Host.Outcome State Fault Refusal :=
  .next (match s.openOf 0x702 0 with
    | none => s
    | some o =>
      let recs := s.trim.traceRecs.reverse.take o.val2
      let s := s.wrHost (w64 (wat o.params 0) (wat o.params 1)) (bytesOf recs.flatten)
      (s.upTrim fun x => { x with trace := o.val }).close o stOk
        { lo := wd recs.length, hi := wat (recs.headD []) 0 })

/-! ### The end of a sample -/

/-- The torques sent, per input: an input whose torque entry was altered takes the value sent (R324, R352). -/
def sentU (im : TrimImage) (run : TrimRun) (tq : List (Nat × Word)) : List Word :=
  (List.range run.u.length).map fun i =>
    match im.outs.find? fun e => fld e 17 16 = 0 ∧ fld e 19 18 = 0 ∧ fld e 26 20 = i with
    | none => wat run.u i
    | some e => Tab.get 0 tq (outJoint e)

/-- Frames no longer needed leave Plinth SRAM: those older than every later window that are not the latest of their
node. -/
def Trim.prune (x : Trim) (im : TrimImage) (t : Nat) : List RxFrame :=
  x.rx.filter fun r => t < r.inst + im.period ∨ (x.latest r.node).map (·.inst) = some r.inst

/-- PLNCLK cycles of a sample (R326). -/
def TrimRun.cycles (r : TrimRun) (im : TrimImage) : Nat := cdiv im.macs 16 * (if r.blend then 2 else 1) + 800

/-- TRIM_SAMPLE_END: step 7, the plausibility stage, and the frames to TC7 (R324, R326, R335, R352). -/
def State.trimEnd (s : State) (im : TrimImage) (run : TrimRun) : State :=
  let prevRegion := s.trim.lastRegion
  let s := s.upTrim fun x =>
    { x with run := none, samples := x.samples + 1, lastCyc := run.cycles im % 65536, rx := x.prune im run.t
             lastRegion := x.region }
  let s := if run.bad ∨ run.late then s
    else
      let (tq, n) := s.sendTorques im run
      let us := sentU im run tq
      let s := s.upTrim fun x => { x with uPrev := run.u, uSent := us, bPrev := run.b, altered := us != run.u }
      let s := s.upPlinth fun x =>
        { x with torque := tq.foldl (fun t p => Tab.set t p.1 p.2) x.torque, cntClamp := x.cntClamp + wd n }
      let (fs, s) := s.motorFrames im run tq
      s.sendFrames im fs
  let s := s.plinth.limits.foldl (fun s e => if s.overLimit e then s.plnFault fltLimit 3 0 else s) s
  let s := if run.late then s else s.upPlinth fun x => { x with deadHist := (false :: x.deadHist).take 10 }
  s.traceSample run prevRegion

/-- TRIM_SAMPLE_END (R326). -/
def execTrimSampleEnd (s : State) : Host.Outcome State Fault Refusal :=
  .next (match s.trim.active, s.trim.run with
    | some im, some run => if run.started then s.trimEnd im run else s
    | _, _ => s)

/-- TRIM_DEADLINE_EXPIRY: the last frame of the sample is not in the queue by its deadline: FLT_DEADLINE, class S0 at
three in ten consecutive samples, and the frames are discarded (R329, R365). -/
def execTrimDeadlineExpiry (s : State) : Host.Outcome State Fault Refusal :=
  .next (match s.trim.active, s.trim.run with
    | some im, some run =>
      if run.late ∨ run.bad then s
      else
        let s := s.passPln (run.t + im.wait + 27000)
        let h := (true :: s.plinth.deadHist).take 10
        let s := (s.upTrim fun x => { x with run := some { run with late := true } }).upPlinth fun x =>
          { x with deadHist := h }
        s.plnFault fltDeadline (if 3 ≤ (h.filter id).length then 4 else 0) 0
    | _, _ => s)

end Sys2Proof.Machine
end

