-- ==== Sys2Proof/Machine/Twin.lean ====
section
/-! DEFINITION. Twin pairing: link training, modes, heartbeats, takeover and handover (R393 to R410). -/

namespace Sys2Proof.Machine

/-- DOWN. -/
def twDown : Nat := 0x90
/-- TRAINING. -/
def twTraining : Nat := 0x91
/-- INDEPENDENT. -/
def twInd : Nat := 0x92
/-- SHADOW. -/
def twShadow : Nat := 0x93
/-- SPLIT. -/
def twSplit : Nat := 0x94
/-- LOST. -/
def twLost : Nat := 0x95

/-! ### The link (R394) -/

/-- TWIN_LINK_UP: training begins (R393, R394), unless the link failed its self-test (R444). In basic form firmware
equalises by itself, and the model holds 0 for preset and boost (DESIGN CHOICE, log 176). -/
def execTwinLinkUp (k : Nat) (s : State) : Host.Outcome State Fault Refusal :=
  runPacket 0x800 k (fun p s =>
    let x := s.twin
    if ¬ s.tst.shrFail ∧ (x.state = twDown ∨ (x.state = twLost ∧ ¬ x.up)) then
      .pend 0 0 0 fun s => s.upTwin fun x =>
        { x with state := twTraining, side := p.f 4 0 0 == 1, peerKey := bytesOf ((p.params.drop 1).take 8)
                 preset := if p.hdr.expert then p.f 13 3 0 else 0, boost := if p.hdr.expert then p.f 13 7 4 else 0 }
    else .refuse stState (wd x.state)) s

/-- Training and authentication end (R394). -/
def State.trainingEnd (s : State) (peer : PeerAuth) : State :=
  if s.twin.state ≠ twTraining then s
  else if peer.lanes ≠ 16 ∧ peer.lanes ≠ 8 then
    (s.upTwin fun x => { x with state := twDown }).closeOp 0x800 0 stFault { fault := fltLink }
  else if peer.side = s.twin.side ∨ peer.refused ∨ ¬ edVerify s.twin.peerKey peer.sig peer.nonce then
    (s.upTwin fun x => { x with state := twDown }).closeOp 0x800 0 stAuth {}
  else
    (s.upTwin fun x => { x with state := twInd, lanes := peer.lanes, up := true }).closeOp 0x800 0 stOk
      { lo := wd peer.lanes }

/-- TWIN_TRAINING_COMPLETE (R394). -/
def execTwinTrainingComplete (peer : PeerAuth) (s : State) : Host.Outcome State Fault Refusal :=
  .next (s.trainingEnd peer)

/-! ### Modes (R396, R397) -/

/-- The pair state that a mode of TWIN_MODE_SET names. -/
def twOfMode (m : Nat) : Nat := if m = 0 then twInd else if m = 1 then twShadow else twSplit

/-- The mode is legal in the pair state (R393). -/
def State.twinLegal (s : State) (m : Nat) : Bool :=
  let x := s.twin
  if x.state = twInd then m == 1 || m == 2
  else if x.state = twShadow then m == 0
  else if x.state = twSplit then m == 0 && x.pairs.all fun p => !s.ctxHasJobs p.1
  else x.state == twLost && x.up && m == 0

/-- The two requests match: equal modes, one of the two ACTIVE in SHADOW, the same pairs seen from either side. -/
def reqMatch (mode : Nat) (active : Bool) (pairs : List (Nat × Nat)) (peer : PeerFacts) : Bool :=
  peer.mode == mode && (mode != 1 || active != peer.active) &&
    (mode != 2 || peer.pairs.map (fun p => (p.2, p.1)) == pairs)

/-- The conditions of R397 on SHADOW. -/
def State.shadowFit (s : State) (peer : PeerFacts) : Bool :=
  [1, 2, 3, 4].all (fun o => (Tab.find s.plinth.sigs o).isSome &&
    Tab.find s.plinth.sigs o == Tab.find peer.sigs o) &&
  (match s.actionPlan with
    | none => false
    | some (_, p) => peer.planActive && p.period == peer.period && p.phase == peer.phase && p.imageCrc == peer.crc) &&
  s.plinth.mode == peer.plnMode && (s.plinth.mode == mPolicy || s.plinth.mode == mMaq)

/-- A context of this part may take part in SPLIT (R397). -/
def State.splitFit (s : State) (c : Nat) : Bool :=
  let x := s.ctx c
  x.present && !x.relaxed && !s.ctxTT c && x.maps.all fun m => decide (m.va + m.len ≤ 0x400000000000)

/-- Both requests are there: the mode changes, or it is refused (R396, R397). -/
def State.twinEnter (s : State) (o : OpenReq) (peer : PeerFacts) : State :=
  let w := wat o.params 0
  let m := fld w 1 0
  let prs := (List.range (fld w 11 8)).map fun i => (fld (wat o.params (1 + i)) 5 0, fld (wat o.params (1 + i)) 13 8)
  let s := s.upTwin fun x => { x with peerReq := none }
  let fit := if m = 1 then s.shadowFit peer else if m = 2 then !peer.unfit && prs.all (fun p => s.splitFit p.1) else true
  if ¬ s.twinLegal m ∨ ¬ fit then s.close o stState { d0 := wd s.twin.state }
  else
    (s.upTwin fun x =>
      { x with state := twOfMode m, pairs := if m = 2 then prs else [], role := if m = 1 then bit w 2 else true
               eligible := false, adopted := 0, adoptedNow := false, prefixes := [], peerPrefixes := []
               peerMode := if m = 1 then peer.plnMode else x.peerMode }).close o stOk {}

/-- The own request, once it waits, meets the peer's while that one is not yet 1 s old (R396). -/
def State.twinTry (s : State) : State :=
  match s.openOf 0x801 0, s.twin.peerReq with
  | some o, some peer =>
    let w := wat o.params 0
    let prs := (List.range (fld w 11 8)).map fun i => (fld (wat o.params (1 + i)) 5 0, fld (wat o.params (1 + i)) 13 8)
    if reqMatch (fld w 1 0) (bit w 2) prs peer ∧ s.hal.nowNs ≤ s.twin.peerAt + 1000000000 then s.twinEnter o peer else s
  | _, _ => s

/-- TWIN_MODE_SET (R396). -/
def execTwinModeSet (k : Nat) (s : State) : Host.Outcome State Fault Refusal :=
  runPacket 0x801 k (fun p s =>
    if ¬ s.twinLegal (p.f 4 1 0) then .refuse stState (wd s.twin.state)
    else if (s.openOf 0x801 0).isSome then .refuse stBusy
    else .pend 0 0 0 fun s => (s.upTwin fun x => { x with reqAt := s.hal.nowNs }).twinTry) s

/-- TWIN_PEER_MODE_REQUEST: the peer's request arrives; the change takes effect when both are there (R396). -/
def execTwinPeerModeRequest (peer : PeerFacts) (s : State) : Host.Outcome State Fault Refusal :=
  .next ((s.upTwin fun x => { x with peerReq := some peer, peerAt := s.hal.nowNs }).twinTry)

/-- TWIN_MODE_TIMEOUT: 1 s without the matching request (R396). -/
def execTwinModeTimeout (s : State) : Host.Outcome State Fault Refusal :=
  .next (if (s.openOf 0x801 0).isNone then s
    else ((s.passTo (s.twin.reqAt + 1000000000)).upTwin fun x => { x with peerReq := none }).closeOp 0x801 0 stState
      { d0 := wd s.twin.state })

/-- TWIN_QUERY (R409). -/
def execTwinQuery (k : Nat) (s : State) : Host.Outcome State Fault Refusal :=
  runPacket 0x802 k (fun _ s =>
    let x := s.twin
    .done s { d0 := wd x.state, d1 := wd (x.lanes + bitAt x.role 8 + bitAt x.eligible 9 + 2 ^ 16 * x.peerMode)
              lo := x.cntTakeover, hi := x.cntDigest }) s

/-- TWIN_HANDOVER (R408): `peerEligible` says that the peer has been eligible for the last 10 samples. -/
def execTwinHandover (k : Nat) (peerEligible : Bool) (s : State) : Host.Outcome State Fault Refusal :=
  runPacket 0x803 k (fun _ s =>
    if s.twin.state = twShadow ∧ s.twin.role ∧ peerEligible ∧ s.twin.handover = 0 then
      .pend 0 0 0 fun s => s.upTwin fun x => { x with handover := 1 }
    else .refuse stState (wd s.twin.state)) s

/-! ### SHADOW: prefixes (R401) -/

/-- Compare the prefixes of a period count once both are there. -/
def State.prefixCompare (s : State) (c : Nat) : State :=
  match Tab.find s.twin.prefixes c, Tab.find s.twin.peerPrefixes c with
  | some a, some b =>
    let s := s.upTwin fun x => { x with prefixes := Tab.erase x.prefixes c, peerPrefixes := Tab.erase x.peerPrefixes c }
    if a = b then s else (s.upTwin fun x => { x with cntDigest := x.cntDigest + 1 }).event 417
  | _, _ => s

/-- SHR_PREFIX_RECEIVE (R401). -/
def execShrPrefixReceive (ws : List Word) (s : State) : Host.Outcome State Fault Refusal :=
  .next (if s.twin.state = twShadow then
    let c := (wat ws 1).toNat
    (s.upTwin fun x => { x with peerPrefixes := Tab.set x.peerPrefixes c ws }).prefixCompare c else s)

/-! ### Heartbeats (R402 to R406) -/

/-- A stop of the ACTIVE part takes the STANDBY into the same mode (R405). -/
def State.mirrorStop (s : State) (mode : Nat) : State :=
  if mode = mRamp then s.plnS1 else if mode = mStop then s.plnS0 else s

/-- A good token (R402, R404, R405, R408). -/
def State.tokenIn (s : State) (ws : List Word) : State :=
  let w := wat ws 0
  let s := s.upTwin fun x =>
    { x with token := some ws, peerMode := fld w 15 8, rej := fld (wat ws 3) 17 0 }
  if s.twin.role then s
  else
    let s := if bit w 6 then s.mirrorStop (fld w 15 8) else s
    s.upTwin fun x => { x with eligible := s.twinEligible, handover := if bit w 5 then 3 else x.handover }

/-- HEARTBEAT_TOKEN_RECEIVE (R402). -/
def execHeartbeatTokenReceive (ws : List Word) (s : State) : Host.Outcome State Fault Refusal :=
  .next (if wat ws 7 = crcWords (ws.take 7) then s.tokenIn ws else s.upTwin fun x => { x with cntBad := x.cntBad + 1 })

/-- The STANDBY adopts a state block whose dimensions are its own (R403). -/
def State.adopt (s : State) (im : TrimImage) (ws : List Word) : State :=
  let us := (ws.drop (1 + im.nx)).take im.nu
  let seqs := ((List.range im.outNodes.length).map fun i => (im.outNodes.getD i 0, wat ws (1 + im.nx + im.nu + i)))
  let s := s.upTrim fun x =>
    { x with xhat := (ws.drop 1).take im.nx, uSent := us, altered := us != x.uPrev
             seqs := seqs.foldl (fun t p => Tab.set t p.1 p.2) x.seqs }
  let s := s.upPlinth fun x =>
    { x with hist := (List.range 10).map fun i => s.twin.rej.testBit i, holds := s.twin.rej / 2 ^ 14 % 16 }
  let s := s.upTwin fun x => { x with adopted := if x.adoptedNow then x.adopted else x.adopted + 1, adoptedNow := true }
  s.upTwin fun x => { x with eligible := s.twinEligible }

/-- STATE_BLOCK_RECEIVE (R402, R403). -/
def execStateBlockReceive (ws : List Word) (s : State) : Host.Outcome State Fault Refusal :=
  .next (if ws.length = 0 ∨ wat ws (ws.length - 1) ≠ crcWords (ws.take (ws.length - 1)) then
      s.upTwin fun x => { x with cntBad := x.cntBad + 1 }
    else
      match s.trim.active with
      | none => s
      | some im =>
        let w := wat ws 0
        if ¬ s.twin.role ∧ fld w 7 0 = im.nx ∧ fld w 15 8 = im.nu ∧ fld w 22 16 = im.outNodes.length ∧
            ws.length = 2 + im.nx + im.nu + im.outNodes.length then s.adopt im ws
        else s)

/-- TWIN_ALIVE_EDGE (R406, R486). -/
def execTwinAliveEdge (s : State) : Host.Outcome State Fault Refusal :=
  .next (s.upTwin fun x => { x with aliveIn := !x.aliveIn, edge := true })

/-- The eligible STANDBY takes over and releases its held frames (R406). -/
def State.takeover (s : State) : State :=
  let held := s.plinth.txHold
  let s := s.upPlinth fun x => { x with txHold := [] }
  let s := held.foldl (fun s f => s.queueFrame f.1 7 f.2) s
  let s := s.upTwin fun x =>
    { x with role := true, eligible := false, aliveOut := !x.aliveOut, cntTakeover := x.cntTakeover + 1, state := twLost }
  (s.plnFault fltTwinLost 0 0).event 450

/-- The STANDBY looks for both signs (R403, R406). -/
def State.heartbeatLook (s : State) : State :=
  if s.twin.role then s
  else
    let tok := s.twin.token
    let edge := s.twin.edge
    let s := s.upTwin fun x => { x with token := none, edge := false }
    let s := match tok with
      | none => s
      | some ws =>
        let s := if wat ws 2 = s.twin.frameCrc then s else s.upTwin fun x => { x with cntDiverge := x.cntDiverge + 1 }
        s.upPlinth fun x => { x with txHold := [] }
    if tok.isNone ∧ ¬ edge then (if s.twin.eligible then s.takeover else s)
    else if tok.isSome ∧ edge then s
    else (s.upTwin fun x => { x with cntHbMiss := x.cntHbMiss + 1 }).plnFault fltTwinLost 0 0

/-- HEARTBEAT_CHECK: the check due at T + hb_check comes (R406). -/
def State.heartbeatCheck (s : State) : State :=
  match s.twin.hbAt with
  | none => s
  | some t => ((s.passPln t).upTwin fun x => { x with hbAt := none }).heartbeatLook

/-- HEARTBEAT_CHECK (R406). -/
def execHeartbeatCheck (s : State) : Host.Outcome State Fault Refusal := .next s.heartbeatCheck

end Sys2Proof.Machine
end

