-- ==== Sys2Proof/Machine/Sec.lean ====
section
/-! DEFINITION. Protection and life cycle, the persistent store, update sessions and the service port (R423 to R443). -/

namespace Sys2Proof.Machine

/-! ### The persistent store (R441, R442) -/

/-- A record begins to be written into the bank that does not hold the current one; during a write the request is merged
into the next record (R442). -/
def State.storeSave (s : State) : State :=
  if s.store.writing.isSome then s.upStore fun x => { x with queued := true }
  else s.upStore fun x =>
    { x with writing := some { x.cur with seq := x.cur.seq + 1 }, again := false
             bank0 := if x.bank then none else x.bank0, bank1 := if x.bank then x.bank1 else none }

/-- How many completions a write asked for now takes. -/
def State.storeWaits (s : State) : Nat := if s.store.writing.isSome then 2 else 1

/-- Change the record in memory and have it written. -/
def State.storePut (s : State) (g : StoreRec → StoreRec) : State :=
  (s.upStore fun x => { x with cur := g x.cur }).storeSave

/-- A record write and read-back end: the banks change places, or the write is made once more, or the record stays in
memory only (R442). The answer says whether the write is over. -/
def State.storeDone (s : State) (ok : Bool) : Bool × State :=
  match s.store.writing with
  | none => (false, s)
  | some r =>
    if ok then
      (true, s.upStore fun x =>
        { x with writing := none, cur := { x.cur with seq := r.seq }, seq := wd r.seq, bank := !x.bank
                 bank0 := if x.bank then some r else x.bank0, bank1 := if x.bank then x.bank1 else some r })
    else if ¬ s.store.again then (false, s.upStore fun x => { x with again := true })
    else (true, s.upStore fun x => { x with writing := none, fail := true })

/-- The next record, where writes were asked for during the last one. -/
def State.storeNext (s : State) : State :=
  if s.store.queued then (s.upStore fun x => { x with queued := false }).storeSave else s

/-- The record at boot: the valid bank with the higher sequence, or defaults (R442). -/
def State.storeLoad (s : State) : State :=
  let best := match s.store.bank0, s.store.bank1 with
    | some a, some b => if a.seq < b.seq then some (true, b) else some (false, a)
    | some a, none => some (false, a)
    | none, some b => some (true, b)
    | none, none => none
  match best with
  | some (bank, r) => s.upStore fun x =>
      { x with cur := r, bank := bank, seq := wd r.seq, writing := none, again := false, queued := false
               lost := false, fail := false }
  | none => s.upStore fun x =>
      { x with cur := {}, bank := false, seq := 0, writing := none, again := false, queued := false, lost := true
               fail := false }

/-! ### Update sessions (R434 to R438) -/

/-- The flash slot of a target: Plinth A and B are 0 and 1, compute A and B 2 and 3. -/
def slotIdx (target slot : Nat) : Nat := (if target = 1 then 0 else 2) + slot

/-- The active slot of a target. -/
def State.activeSlot (s : State) (target : Nat) : Nat :=
  if target = 1 then s.store.cur.slotP else s.store.cur.slotC

/-- The flash slot the session fills. -/
def State.sessIdx (s : State) : Nat := slotIdx s.store.cur.sessTarget s.store.cur.sessSlot

/-- The manifest of the session. -/
def State.sessManifest (s : State) : List Byte := (s.slotOf s.sessIdx).manifest

/-- Blocks of a manifest. -/
def mfBlocks (m : List Byte) : Nat := fld (wordAt m 4) 11 0
/-- Length of block `i` of a manifest's image. -/
def mfBlockLen (m : List Byte) (i : Nat) : Nat :=
  if i + 1 < mfBlocks m then 65536 else (wordAt m 8).toNat - 65536 * (mfBlocks m - 1)
/-- Digest of block `i`. -/
def mfDigest (m : List Byte) (i : Nat) : List Byte := slice m (128 + 64 * i) 64

/-- The manifest's form (R434): its length and its reserved and bounded fields. -/
def mfForm (m : List Byte) : Bool :=
  let b := mfBlocks m
  let len := (wordAt m 8).toNat
  m.length == 192 + 64 * b && fld (wordAt m 0) 3 0 == 1 && fld (wordAt m 0) 31 8 == 0 && fld (wordAt m 4) 31 12 == 0 &&
    decide (1 ≤ b ∧ b ≤ 2048 ∧ 65536 * (b - 1) < len ∧ len ≤ 65536 * b) && fld (wordAt m 12) 31 8 == 0 &&
    decide (fld (wordAt m 12) 7 0 ≤ 128) && (slice m 24 40).all (· == 0)

/-- The security version and the firmware version are not below what the fuses and the store hold (R435). -/
def State.mfFresh (s : State) (m : List Byte) : Bool :=
  let t := fld (wordAt m 0) 4 4
  decide ((if t = 1 then s.sec.svnP else s.sec.svnC) ≤ fld (wordAt m 12) 7 0 ∧
    (if t = 1 then s.store.cur.hiP else s.store.cur.hiC).toNat ≤ (wordAt m 16).toNat)

/-- The signature of a manifest, with a key that may be used (R426, R434). -/
def State.mfSigned (s : State) (m : List Byte) : Bool :=
  match s.fwKey (fld (wordAt m 0) 6 5) with
  | none => false
  | some k => edVerify k (slice m (128 + 64 * mfBlocks m) 64) (slice m 0 (128 + 64 * mfBlocks m))

/-- The largest image of a slot of a target (R433). -/
def slotRoom (target : Nat) : Nat :=
  (if target = 1 then 4194304 else 65536 * ((Config.flashSize - 8585216) / 131072)) - 262144

/-- What the check of a manifest comes to (R437). -/
def State.openStatus (s : State) (m : List Byte) : Nat :=
  if ¬ mfForm m then stFormat
  else if ¬ (s.mfSigned m ∧ s.mfFresh m) then stAuth
  else if slotRoom (fld (wordAt m 0) 4 4) < (wordAt m 8).toNat then stNospace
  else stOk

/-- The word of UPD_OPEN that a refusal of its manifest names (R52): the length where it does not fit, else the address. -/
def openField (m : List Byte) (st : Nat) : Word :=
  if st = stFormat then if m.length = 192 + 64 * mfBlocks m then det 4 0 else det 6 0 else 0

/-- The session enters a state (event 320). -/
def State.updState (s : State) (c : Nat) : State :=
  if s.upd.state = c then s else (s.upUpd fun x => { x with state := c }).event 320

/-- A session opens on a checked manifest (R437). -/
def State.openSession (s : State) (m : List Byte) (svp : Bool) : State :=
  let t := fld (wordAt m 0) 4 4
  let slot := 1 - s.activeSlot t
  let s := s.upSlotOf (slotIdx t slot) fun x => { x with manifest := m, progress := [], valid := true }
  let s := s.storePut fun r => { r with sess := 0x61, sessTarget := t, sessSlot := slot, sessHash := sha512 m }
  (s.upUpd fun x => { x with target := t, svp := svp }).updState 0x61

/-- The session is over: IDLE, also in the store; of the tool's frames only an ABORT is still answered. -/
def State.updIdle (s : State) : State :=
  let s := s.storePut fun r => { r with sess := 0x60 }
  let s := s.upUpd fun x =>
    { x with svp := false, busy := none, verifying := false, staging := false, acting := 0, atNs := none }
  (s.upSvp fun x =>
    { x with opened := false, manifest := [], chunks := [], pendSeq := x.pendSeq.filter fun p => p.1 = 7 }).updState 0x60

/-- An abort: the progress sector is erased and the slot marked invalid (R437). -/
def State.updAbort (s : State) : State :=
  (s.upSlotOf s.sessIdx fun x => { x with progress := [], valid := false }).updIdle

/-- Indices of the session's blocks not yet received. -/
def State.updMissing (s : State) : List Nat :=
  (List.range (mfBlocks s.sessManifest)).filter fun i => ¬ (s.slotOf s.sessIdx).progress.contains i

/-- RECEIVING, or COMPLETE once no block is missing. -/
def State.updReceived (s : State) : State := s.updState (if s.updMissing.isEmpty then 0x63 else 0x61)

/-- The image that stands in a flash slot, as the manifest gives its length. -/
def State.slotImage (s : State) (i : Nat) : List Byte :=
  let x := s.slotOf i
  ((List.range (mfBlocks x.manifest)).flatMap fun b => Tab.get [] x.blocks b).take (wordAt x.manifest 8).toNat

/-! ### Frames of the service port (R439) -/

/-- Answer a tool frame: ACK for ST_OK, else NAK; the sequence number, then the status (the widths are the model's, log
30). -/
def State.svpAnswer (s : State) (seq st : Nat) : State :=
  s.out 3 (if st = stOk then 0x81 else 0x82) (natBytes 2 seq ++ natBytes 1 st)

/-- Answer the frames of a type that wait. -/
def State.svpClose (s : State) (typ st : Nat) : State :=
  let due := s.svp.pendSeq.filter fun p => p.1 = typ
  let s := s.upSvp fun x => { x with pendSeq := x.pendSeq.filter fun p => p.1 ≠ typ }
  due.foldl (fun s p => s.svpAnswer p.2 st) s

/-- An ABORT of the tool that came during a block or a verification is applied once that has ended (R45, R439). -/
def State.svpAborts (s : State) : State :=
  if ¬ s.svp.pendSeq.any (fun p => p.1 == 7) then s
  else if s.upd.state < 0x61 ∨ 0x64 < s.upd.state then s.svpClose 7 stState
  else (s.svpClose 7 stOk).updAbort

/-- The end of a session opcode, to the packet or to the tool. -/
def State.updEnd (s : State) (op typ st : Nat) (f : RF) : State := (s.closeOp op 0 st f).svpClose typ st

/-! ### The session packets (R436, R437) -/

/-- A host update packet meets a session of the service port (R440). -/
def State.svpHolds (s : State) (a : Ans) : Ans := if s.svp.opened then .refuse stBusy else a

/-- Work of an earlier packet of the session is under way, so a later one waits (R45). -/
def State.updWorks (s : State) : Bool := s.upd.busy.isSome || s.upd.verifying

/-- UPD_OPEN (R437). -/
def execUpdOpen (k : Nat) (s : State) : Host.Outcome State Fault Refusal :=
  runPacket 0x901 k (fun p s => s.svpHolds (
    if s.upd.state ≠ 0x60 then .refuse stState (wd s.upd.state)
    else
      let m := s.rdHost (p.a 4) (p.f 6 17 0)
      if s.openStatus m = stOk then .done (s.openSession m false) { lo := wd (mfBlocks m) }
      else .refuse (s.openStatus m) (openField m (s.openStatus m)))) s

/-- A block arrives: why it is refused, if it is (R437). -/
def State.blockStatus (s : State) (i : Nat) (data : List Byte) : Nat :=
  let m := s.sessManifest
  if mfBlocks m ≤ i ∨ data.length ≠ mfBlockLen m i then stRange
  else if sha512 data ≠ mfDigest m i then stAuth
  else stOk

/-- UPD_BLOCK (R437). -/
def execUpdBlock (k : Nat) (s : State) : Host.Outcome State Fault Refusal :=
  if s.updWorks then .next s
  else runPacket 0x902 k (fun p s => s.svpHolds (
    if s.upd.state ≠ 0x61 ∧ s.upd.state ≠ 0x62 then .refuse stState (wd s.upd.state)
    else
      let i := p.f 4 15 0
      let data := s.rdHost (p.a 5) (p.f 7 16 0)
      let st := s.blockStatus i data
      if st = stRange then .refuse stRange (if mfBlocks s.sessManifest ≤ i then det 4 0 else det 7 0)
      else if st = stAuth then .pend 0 0 0 fun s => (s.event 321).closeOp 0x902 0 stAuth {}
      else if (s.slotOf s.sessIdx).progress.contains i then
        .pend 0 0 0 fun s => s.updReceived.closeOp 0x902 0 stOk { d1 := 1 }
      else .pend 0 i 0 fun s => (s.updState 0x61).upUpd fun x => { x with busy := some (i, data) })) s

/-- UPD_BLOCK_PROGRAMMED: the block is in the flash and its progress bit programmed, or the read-back failed (R437). -/
def State.blockProgrammed (s : State) (ok : Bool) : State :=
  match s.upd.busy with
  | none => s
  | some (i, data) =>
    let s := s.upUpd fun x => { x with busy := none }
    if ok then
      let s := s.upSlotOf s.sessIdx fun x =>
        { x with blocks := Tab.set x.blocks i data, progress := if x.progress.contains i then x.progress else i :: x.progress }
      (s.updReceived.updEnd 0x902 4 stOk {}).svpAborts
    else
      let s := s.upSlotOf s.sessIdx fun x => { x with blocks := Tab.erase x.blocks i }
      ((s.fault fltMemUncorr 1 255 0 0).updEnd 0x902 4 stFault { fault := fltMemUncorr }).svpAborts

/-- UPD_BLOCK_PROGRAMMED (R437). -/
def execUpdBlockProgrammed (ok : Bool) (s : State) : Host.Outcome State Fault Refusal := .next (s.blockProgrammed ok)

/-- UPD_VERIFY (R437). -/
def execUpdVerify (k : Nat) (s : State) : Host.Outcome State Fault Refusal :=
  if s.updWorks then .next s
  else runPacket 0x903 k (fun _ s => s.svpHolds (
    if s.upd.state ≠ 0x63 then .refuse stState (wd s.upd.state)
    else .pend 0 0 0 fun s => s.upUpd fun x => { x with verifying := true })) s

/-- UPD_VERIFY_COMPLETE: the image's digest and the manifest are checked (R437, R435). -/
def State.verifyDone (s : State) : State :=
  if ¬ s.upd.verifying then s
  else
    let m := s.sessManifest
    let s := s.upUpd fun x => { x with verifying := false }
    if sha512 (s.slotImage s.sessIdx) = slice m 64 64 ∧ s.mfSigned m ∧ s.mfFresh m then
      ((s.updState 0x64).updEnd 0x903 5 stOk {}).svpAborts
    else (s.updEnd 0x903 5 stAuth {}).updIdle.svpAborts

/-- UPD_VERIFY_COMPLETE (R437). -/
def execUpdVerifyComplete (s : State) : Host.Outcome State Fault Refusal := .next s.verifyDone

/-- UPD_ABORT (R437). -/
def execUpdAbort (k : Nat) (s : State) : Host.Outcome State Fault Refusal :=
  if s.updWorks then .next s
  else runPacket 0x905 k (fun _ s => s.svpHolds (
    if s.upd.state < 0x61 ∨ 0x64 < s.upd.state then .refuse stState (wd s.upd.state)
    else .done s.updAbort {})) s

/-- UPD_QUERY (R437). -/
def execUpdQuery (k : Nat) (s : State) : Host.Outcome State Fault Refusal :=
  runPacket 0x906 k (fun _ s => s.svpHolds (
    let n := if s.upd.state = 0x60 then 0 else mfBlocks s.sessManifest
    let miss := if s.upd.state = 0x60 then [] else s.updMissing
    .done s { d0 := wd s.upd.state, d1 := wd n, lo := wd (n - miss.length)
              hi := match miss with | [] => 0xFFFFFFFF | i :: _ => wd i })) s

/-! ### Activation (R26, R438) -/

/-- A session for Plinth, which refuses activation unless it is in STOPPED with both outputs in stop (R26). -/
def State.plnShut (s : State) : Bool := s.upd.target == 1 && !(s.plinth.mode == mStop && s.plinth.stopped)

/-- Why an activation is refused in the present state. -/
def State.activateRefusal (s : State) : Option Refuse :=
  if s.upd.state ≠ 0x64 then some (stState, wd s.upd.state, 0)
  else if s.plnShut then some (stState, wd s.plinth.mode, 0)
  else none

/-- UPD_ACTIVATE (R438). -/
def execUpdActivate (k : Nat) (s : State) : Host.Outcome State Fault Refusal :=
  if s.updWorks then .next s
  else runPacket 0x904 k (fun p s => s.svpHolds (
    match s.activateRefusal with
    | some r => .ofRefuse r
    | none =>
      if p.hdr.expert then
        if timeNs p.params 4 < s.hal.nowNs + 1000000 then .refuse stRange (det 4 0)
        else .pend 0 0 0 fun s => (s.updState 0x65).upUpd fun x => { x with atNs := some (timeNs p.params 4) }
      else .pend 0 0 0 fun s => (s.updState 0x65).upUpd fun x => { x with staging := true })) s

/-- UPD_ACTIVATE_INSTANT: the stated instant arrives and the staging read begins (R438). -/
def execUpdActivateInstant (s : State) : Host.Outcome State Fault Refusal :=
  .next (match s.upd.atNs with
    | none => s
    | some t => (s.passTo t).upUpd fun x => { x with atNs := none, staging := true })

/-- Plinth left STOPPED while its activation was under way: Plinth refuses it, and the session stays VERIFIED (R26; DEDUCED,
log 150). -/
def State.activateOff (s : State) : State :=
  ((s.updEnd 0x904 6 stState { d0 := wd s.plinth.mode }).upUpd fun x => { x with staging := false }).updState 0x64

/-- UPD_STAGING_COMPLETE: the staged image is checked and the store is to name its slot active (R438). -/
def State.stagingDone (s : State) : State :=
  if ¬ s.upd.staging then s
  else
    let m := s.sessManifest
    if sha512 (s.slotImage s.sessIdx) ≠ slice m 64 64 then (s.updEnd 0x904 6 stAuth {}).updIdle
    else if s.plnShut then s.activateOff
    else
      let n := s.storeWaits
      let slot := s.store.cur.sessSlot
      let s := s.storePut fun r =>
        if r.sessTarget = 1 then { r with slotP := slot }
        else { r with slotC := slot, tries := 1, failA := r.failA && slot != 0, failB := r.failB && slot != 1 }
      s.upUpd fun x => { x with staging := false, acting := n }

/-- UPD_STAGING_COMPLETE (R438). -/
def execUpdStagingComplete (s : State) : Host.Outcome State Fault Refusal := .next s.stagingDone

/-- State format of the firmware that runs: its slot's manifest gives it, or the part was delivered with it. -/
def State.runFormat (s : State) : Word :=
  let m := (s.slotOf (slotIdx 0 s.sec.bootSlot)).manifest
  if m.isEmpty then Config.factoryState (slotIdx 0 s.sec.bootSlot) else wordAt m 20

/-- A compute image is confirmed: the fuses rise to its security version, the store takes its version (R435). -/
def State.confirm (s : State) (m : List Byte) : State :=
  let v := wordAt m 16
  let s := s.upSec fun x => { x with svnC := max x.svnC (fld (wordAt m 12) 7 0), verC := v }
  s.storePut fun r => { r with tries := 0, runC := v, hiC := if r.hiC.toNat < v.toNat then v else r.hiC }

/-- The store takes the version of the Plinth image that runs (R435, R441), where it does not hold it already. Before the
core reset is released the record is the one boot would find (R442). -/
def State.plnConfirm (s : State) (v : Word) : State :=
  let s := if s.cpw.coreHeld ∧ s.store.writing.isNone then s.storeLoad else s
  if s.store.cur.runP = v ∧ v.toNat ≤ s.store.cur.hiP.toNat then s
  else s.storePut fun r => { r with runP := v, hiP := if r.hiP.toNat < v.toNat then v else r.hiP }

/-- PLINTH_BOOT: Plinth's ROM verifies the image that the bridge delivers (R432). As the image reaches INIT it is confirmed: the
fuses rise to its security version, and the store takes its version (R435, R441). -/
def execPlinthBoot (manifest image key : List Byte) (s : State) : Host.Outcome State Fault Refusal :=
  .next (if ¬ s.plinth.awaiting ∨ s.cpw.reef = 4 then s
    else
      let slot := fld (wordAt manifest 0) 6 5
      let svn := fld (wordAt manifest 12) 7 0
      let good := match s.fwKey slot with
        | none => false
        | some k => sha512 key == sha512 k && manifestOk manifest key 1 s.sec.svnP &&
            image.length == (wordAt manifest 8).toNat && sha512 image == slice manifest 64 64
      if good then
        let s := s.upPlinth fun x => { x with awaiting := false, booted := true }
        let v := wordAt manifest 16
        let s := s.upSec fun x => { x with verP := v, svnP := max x.svnP svn, imgP := sha512 image }
        s.plnConfirm v
      else s.upPlinth fun x => { x with awaiting := false })

/-- PLINTH_BOOT_TIMEOUT: nothing delivered within 500 ms leaves Plinth in INIT, outputs in stop (R432). -/
def execPlinthBootTimeout (s : State) : Host.Outcome State Fault Refusal :=
  .next (if s.plinth.awaiting then (s.passPln 500000000).upPlinth fun x => { x with awaiting := false } else s)

/-- The store names the new slot: the activation takes effect (R438). -/
def State.activated (s : State) : State :=
  let m := s.sessManifest
  let t := s.store.cur.sessTarget
  if t = 1 ∧ s.plnShut then (s.storePut fun r => { r with slotP := 1 - r.slotP }).activateOff
  else if t = 1 then
    (s.updEnd 0x904 6 stOk { lo := 2 }).updIdle.plnReset
  else if bit (wordAt m 0) 7 ∧ wordAt m 20 = s.runFormat then
    let img := s.slotImage s.sessIdx
    let s := s.upSec fun x => { x with imgC := sha512 img, bootSlot := s.store.cur.sessSlot }
    ((s.confirm m).updEnd 0x904 6 stOk { lo := 0 }).updIdle
  else (s.updEnd 0x904 6 stOk { lo := 1 }).updIdle

/-- A store write is over: an activation that waited for it proceeds. -/
def State.updStored (s : State) : State :=
  if s.upd.acting = 0 then s
  else if s.upd.acting = 1 then (s.upUpd fun x => { x with acting := 0 }).activated
  else s.upUpd fun x => { x with acting := x.acting - 1 }

/-! ### Life cycle and debug (R426, R427, R159) -/

/-- The owner keys in force. -/
def State.ownerKeys (s : State) : List (Nat × List Byte) := if s.sec.revoked then [] else s.sec.ownerKeys

/-- A block signed by an owner key. -/
def State.ownerSig (s : State) (what : Nat) (blk : List Word) (body : List Byte) : Option (Nat × Nat) :=
  sigCheck s.ownerKeys s.store.cur.owner blk what body

/-- A block signed by the Celoaza root key, under the counter of the slot it names. -/
def State.rootSig (s : State) (blk : List Word) (body : List Byte) : Option (Nat × Nat) :=
  match Tab.find s.sec.fwKeys 0 with
  | none => none
  | some k => sigCheck [(fld (wat blk 0) 5 4, k)] s.store.cur.owner blk 5 body

/-- The authorisation of a transition (R426): none where it fails; the counter it records where it has one. -/
def State.lcAuth (s : State) (dest : Nat) (blk : List Word) : Option (Option (Nat × Nat)) :=
  let body := wordBytes (wd dest)
  let cur := s.sec.code
  if cur = 0 ∧ dest = 1 then some none
  else if cur = 1 ∧ dest = 2 then (s.rootSig blk body).map some
  else if dest = 6 then ((s.ownerSig 5 blk body).orElse fun _ => s.rootSig blk body).map some
  else (s.ownerSig 5 blk body).map some

/-- The transition is listed for its route (R426). -/
def lcListed (cur dest : Nat) (svp : Bool) : Bool :=
  (svp && ((cur == 0 && dest == 1) || (cur == 1 && dest == 2))) || (cur == 2 && dest == 3) ||
    (!svp && ((cur == 3 && dest == 4) || (cur == 4 && dest == 3))) || ((cur == 3 || cur == 4) && dest == 5) ||
    (cur != 6 && dest == 6)

/-- An authorised transition: fuses and effect (R426). A transition to or from FIELD_DEBUG changes no fuse. -/
def State.lcEffect (s : State) (dest : Nat) : State :=
  if dest = 4 then s.upSec fun x => { x with debug := true }
  else if s.sec.debug ∧ dest = 3 then s.dbgEnd.upSec fun x => { x with debug := false }
  else
    let s := s.upSec fun x => { x with lc := dest }
    if dest = 5 then
      let s := s.upSec fun x => { x with seedGone := true, revoked := true, keyrev := 15 }
      { s with store := { lost := s.store.lost, bank0 := none }, plinth := { s.plinth with counters := [] } }
    else s

/-- Whether a transition is followed by a reset of the compute die. -/
def State.lcResets (s : State) (dest : Nat) : Bool := !(dest == 4 || (s.sec.debug && dest == 3))

/-- The compute die is to be reset 1 ms from now; packets taken from now on are discarded (R426, R468). -/
def State.resetSoon (s : State) : State :=
  { s with cpw := { s.cpw with resetDue := true, resetAt := s.hal.nowNs }, discard := true }

/-- A counter of an owner slot is recorded. -/
def State.ownerCount (s : State) (c : Option (Nat × Nat)) : State :=
  match c with
  | none => s
  | some (slot, ctr) => s.storePut fun r => { r with owner := Tab.set r.owner slot ctr }

/-- LC_TRANSITION (R426, R427). -/
def execLcTransition (k : Nat) (s : State) : Host.Outcome State Fault Refusal :=
  runPacket 0x910 k (fun p s =>
    let dest := p.f 4 2 0
    match s.lcAuth dest ((p.params.drop 1).take 20) with
    | none => .refuse stAuth
    | some c =>
      if ¬ lcListed s.sec.code dest false then .refuse stState (wd s.sec.code)
      else .pend 0 0 0 fun s =>
        let r := s.lcResets dest
        let s := ((s.ownerCount c).lcEffect dest).closeOp 0x910 0 stOk {}
        if r then s.resetSoon else s) s

/-- DBG_SESSION (R427, R159). A hold belongs to the open session and to one engine: set with no session open it is refused
with ST_STATE, and beside a hold of another engine with ST_BUSY; R159 and R427 give no status for either (DESIGN CHOICE,
log 164). -/
def execDbgSession (k : Nat) (s : State) : Host.Outcome State Fault Refusal :=
  runPacket 0x911 k (fun p s =>
    let op := p.f 4 1 0
    let e := p.f 4 6 4
    match s.ownerSig 6 ((p.params.drop 1).take 20) (wordBytes (p.w 4)) with
    | none => .refuse stAuth
    | some c =>
      if ¬ s.sec.debug then .refuse stState (wd s.sec.code)
      else
        let s := s.ownerCount (some c)
        refuseIf (op == 2 && !s.sec.session) stState (wd s.sec.code) <|
        refuseIf (op == 2 && engNos.any fun d => d != e && (s.engine d).resHold) stBusy 0 <|
        .done (if op = 0 then
            (if s.sec.session then s else (s.upSec fun x => { x with session := true }).event 322)
          else if op = 1 then s.dbgEnd
          else if op = 2 then s.upEngine e fun x => { x with resHold := true, resSince := s.hal.nowNs }
          else s.holdRelease e) {}) s

/-- A write of SEC_LOCK: BOOT locks the tables (R425, R443). -/
def State.secLock (s : State) (m : Nat) (v : Word) : State :=
  if m = 48 ∧ bit v 0 then s.upSec fun x => { x with locked := true } else s

/-- SEC_LOCK_WRITE: BOOT locks the tables (R425). -/
def execSecLockWrite (m : Fin 64) (v : Word) (s : State) : Host.Outcome State Fault Refusal :=
  .next (s.checked m 0x2500004 true fun s => s.secLock m v)

/-! ### Attestation (R429) -/

/-- The report over a nonce, without its signature. -/
def State.report (s : State) (nonce : List Byte) : List Byte :=
  let x := s.sec
  let blk (o : Nat) : List Byte := match Tab.find s.plinth.sigs o with
    | none => List.replicate 80 0
    | some ws => bytesOf ws
  wordBytes (wd (1 + 2 ^ 4 * x.code + bitAt x.debug 7 + bitAt s.store.lost 8 + bitAt x.fallback 9)) ++ wordBytes x.verC ++
    wordBytes x.verP ++ wordBytes (wd (x.svnC + 2 ^ 8 * x.svnP)) ++ nonce ++ identityKey ++ slice x.imgC 0 64 ++
    slice x.imgP 0 64 ++ sha512 (blk 1 ++ blk 2 ++ blk 3 ++ blk 4) ++ List.replicate 16 0 ++ bytesOf s.hal.words ++
    List.replicate 4 0

/-- SEC_ATTEST (R429). -/
def execSecAttest (k : Nat) (s : State) : Host.Outcome State Fault Refusal :=
  runPacket 0x900 k (fun p s =>
    if s.sec.lc = 0 ∨ s.sec.lc = 5 ∨ s.sec.lc = 6 then .refuse stState (wd s.sec.code)
    else
      let r := s.report (bytesOf (p.params.take 8))
      .done (s.wrHost (p.a 12) (r ++ edSign identitySeed r)) {}) s

/-! ### The service port (R439, R440) -/

/-- Types answered in the present state: in SCRAPPED only HELLO; while no compute image could be booted, HELLO and the
update frames (R426, R431). -/
def State.svpOpen (s : State) (typ : Nat) : Bool :=
  if s.sec.lc = 6 then typ == 1 else if s.sec.noImage then decide (typ ≤ 7) else true

/-- Run a tool frame: a bad one is discarded without an answer, and none comes in while the port is looped back (R458). -/
def State.svpFrame (s : State) (typ : Nat) (f : SvpFrame) (g : State → State) : State :=
  if f.ok ∧ s.svpOpen typ ∧ ¬ s.looped 4 0 then g (s.upSvp fun x => { x with frameAt := s.hal.nowNs }) else s

/-- SVP_HELLO: STATUS (R439). The order of its fields is the spec's, their widths the model's (log 30). -/
def execSvpHello (f : SvpFrame) (s : State) : Host.Outcome State Fault Refusal :=
  .next (s.svpFrame 1 f fun s =>
    let key := if s.sec.lc = 0 ∨ s.sec.lc = 5 ∨ s.sec.lc = 6 then List.replicate 32 0 else identityKey
    s.out 3 0x83 (natBytes 1 s.sec.code ++ key ++ wordBytes s.sec.verC ++ wordBytes s.sec.verP ++ natBytes 1 s.upd.state))

/-- SVP_MANIFEST (R439). -/
def execSvpManifest (f : SvpFrame) (s : State) : Host.Outcome State Fault Refusal :=
  .next (s.svpFrame 2 f fun s =>
    let off := leNat (slice f.payload 0 4)
    if f.payload.length < 4 ∨ 4100 < f.payload.length ∨ 131264 < off + (f.payload.length - 4) then s.svpAnswer f.seq stRange
    else (s.upSvp fun x => { x with manifest := Tab.set x.manifest off (f.payload.drop 4) }).svpAnswer f.seq stOk)

/-- The manifest assembled from its pieces: to the end of the last, zeros where no piece lies. -/
def assemble (l : List (Nat × List Byte)) : List Byte :=
  let n := l.foldl (fun n p => max n (p.1 + p.2.length)) 0
  l.foldl (fun b p => b.take p.1 ++ p.2 ++ b.drop (p.1 + p.2.length)) (List.replicate n 0)

/-- The packets of a host session that FORCE aborts (R440). -/
def State.busyOpens (s : State) : State :=
  (s.opens.filter fun o => 0x901 ≤ o.hdr.opcode ∧ o.hdr.opcode ≤ 0x905).foldl (fun s o => s.close o stBusy {}) s

/-- SVP_OPEN (R439, R440). -/
def execSvpOpen (f : SvpFrame) (s : State) : Host.Outcome State Fault Refusal :=
  .next (s.svpFrame 3 f fun s =>
    if s.svp.opened then s.svpAnswer f.seq stState
    else if s.upd.state ≠ 0x60 ∧ f.flags % 2 = 0 then s.svpAnswer f.seq stBusy
    else
      let m := assemble s.svp.manifest
      let s := if s.upd.state = 0x60 then s
        else
          let keep := s.svp.manifest
          (s.busyOpens.updAbort).upSvp fun x => { x with manifest := keep }
      let st := s.openStatus m
      if st = stOk then ((s.openSession m true).upSvp fun x => { x with opened := true }).svpAnswer f.seq stOk
      else s.svpAnswer f.seq st)

/-- The chunks of block `i`, joined; none while one is missing. -/
def State.svpBlock (s : State) (i : Nat) : Option (List Byte) :=
  let n := cdiv (mfBlockLen s.sessManifest i) 4096
  let cs := (List.range n).map fun c => Tab.find s.svp.chunks (16 * i + c)
  if cs.all Option.isSome then some (cs.flatMap fun c => c.getD []) else none

/-- SVP_DATA: a chunk; the block is checked as UPD_BLOCK once its last chunk is in (R439). -/
def execSvpData (f : SvpFrame) (s : State) : Host.Outcome State Fault Refusal :=
  .next (s.svpFrame 4 f fun s =>
    let w := wordAt f.payload 0
    let i := fld w 15 0
    if ¬ s.svp.opened ∨ s.upd.state ≠ 0x61 then s.svpAnswer f.seq stState
    else if f.payload.length < 4 ∨ 4100 < f.payload.length ∨ fld w 31 20 ≠ 0 then s.svpAnswer f.seq stFormat
    else if mfBlocks s.sessManifest ≤ i then s.svpAnswer f.seq stRange
    else if (s.slotOf s.sessIdx).progress.contains i then s.svpAnswer f.seq stOk
    else if s.upd.busy.isSome then s.svpAnswer f.seq stBusy
    else
      let s := s.upSvp fun x => { x with chunks := Tab.set x.chunks (16 * i + fld w 19 16) (f.payload.drop 4) }
      match s.svpBlock i with
      | none => s.svpAnswer f.seq stOk
      | some data =>
        let s := s.upSvp fun x => { x with chunks := x.chunks.filter fun c => c.1 / 16 ≠ i }
        let st := s.blockStatus i data
        if st = stOk then
          (s.upUpd fun x => { x with busy := some (i, data) }).upSvp fun x => { x with pendSeq := x.pendSeq ++ [(4, f.seq)] }
        else (if st = stAuth then s.event 321 else s).svpAnswer f.seq st)

/-- A session frame that starts work answered later: legal in one state of an open service-port session. -/
def State.svpWork (s : State) (f : SvpFrame) (typ code : Nat) (g : State → State) : State :=
  if ¬ s.svp.opened ∨ s.upd.state ≠ code ∨ s.updWorks then s.svpAnswer f.seq stState
  else (g s).upSvp fun x => { x with pendSeq := x.pendSeq ++ [(typ, f.seq)] }

/-- SVP_VERIFY (R439). -/
def execSvpVerify (f : SvpFrame) (s : State) : Host.Outcome State Fault Refusal :=
  .next (s.svpFrame 5 f fun s => s.svpWork f 5 0x63 fun s => s.upUpd fun x => { x with verifying := true })

/-- SVP_ACTIVATE (R438, R439). -/
def execSvpActivate (f : SvpFrame) (s : State) : Host.Outcome State Fault Refusal :=
  .next (s.svpFrame 6 f fun s =>
    if s.dev = devShutdown ∨ s.activateRefusal.isSome then s.svpAnswer f.seq stState
    else s.svpWork f 6 0x64 fun s => (s.updState 0x65).upUpd fun x => { x with staging := true })

/-- SVP_ABORT: as UPD_ABORT, after any block in progress (R45, R437, R439). -/
def execSvpAbort (f : SvpFrame) (s : State) : Host.Outcome State Fault Refusal :=
  .next (s.svpFrame 7 f fun s =>
    if ¬ s.svp.opened ∨ s.upd.state < 0x61 ∨ 0x64 < s.upd.state then s.svpAnswer f.seq stState
    else if s.updWorks then s.upSvp fun x => { x with pendSeq := x.pendSeq ++ [(7, f.seq)] }
    else s.updAbort.svpAnswer f.seq stOk)

/-- SVP_LC (R426, R439). -/
def execSvpLc (f : SvpFrame) (s : State) : Host.Outcome State Fault Refusal :=
  .next (s.svpFrame 8 f fun s =>
    let w := wordAt f.payload 0
    let dest := fld w 2 0
    if f.payload.length ≠ 84 ∨ fld w 31 3 ≠ 0 ∨ dest = 7 then s.svpAnswer f.seq stFormat
    else
      match s.lcAuth dest (wordsOf (f.payload.drop 4)) with
      | none => s.svpAnswer f.seq stAuth
      | some c =>
        if ¬ lcListed s.sec.code dest true then s.svpAnswer f.seq stState
        else (((s.ownerCount c).lcEffect dest).svpAnswer f.seq stOk).resetSoon)

/-- SVP_PROVISION: a key is fused (R439). Classes are taken as 0 Celoaza firmware, 1 SEC owner, 2 safety, and a slot
already fused is refused (log 30). -/
def execSvpProvision (f : SvpFrame) (s : State) : Host.Outcome State Fault Refusal :=
  .next (s.svpFrame 9 f fun s =>
    let cls := (f.payload.getD 0 0).toNat
    let slot := (f.payload.getD 1 0).toNat
    let key := slice f.payload 4 32
    let old := if cls = 0 then s.sec.fwKeys else if cls = 1 then s.sec.ownerKeys else s.sec.safetyKeys
    if f.payload.length ≠ 36 ∨ 2 < cls ∨ slice f.payload 2 2 ≠ [0, 0] then s.svpAnswer f.seq stFormat
    else if 3 < slot then s.svpAnswer f.seq stRange
    else if (if cls = 0 then s.sec.lc ≠ 1 else s.sec.lc ≠ 2) ∨ (Tab.find old slot).isSome then s.svpAnswer f.seq stState
    else
      (s.upSec fun x =>
        { x with fwKeys := if cls = 0 then Tab.set x.fwKeys slot key else x.fwKeys
                 ownerKeys := if cls = 1 then Tab.set x.ownerKeys slot key else x.ownerKeys
                 safetyKeys := if cls = 2 then Tab.set x.safetyKeys slot key else x.safetyKeys }).svpAnswer f.seq stOk)

/-- SVP_SESSION_TIMEOUT: 5 s after the last valid frame the session ends and its image is discarded (R439). -/
def execSvpSessionTimeout (s : State) : Host.Outcome State Fault Refusal :=
  .next (if s.svp.opened then (s.passTo (s.svp.frameAt + 5000000000)).updAbort.upSvp fun x => { x with pendSeq := [] } else s)

end Sys2Proof.Machine
end

