-- ==== Sys2Proof/Machine/Ecc.lean ====
section
/-! DEFINITION. Errors of the protected memories: corrections, uncorrectable words and bursts, marks of granules
(R150, R151, R173 to R178, R191). -/

namespace Sys2Proof.Machine

/-- Master number of engine `e` (R423). -/
def mEngine (e : Nat) : Nat := 20 + e
/-- Master number of stream mover `m`. -/
def mMover (m : Nat) : Nat := 28 + m
/-- Master number of the front end. -/
def mFe : Nat := 44

/-- Channel index of a PSM address, device-wide (R169). -/
def psmChan (a : Nat) : Nat := a / 4096 % 96
/-- Stack of a PSM address. -/
def psmStack (a : Nat) : Nat := psmChan a % 6
/-- First byte of the burst that holds an address. -/
def burstOf (a : Nat) : Nat := a / 64 * 64

/-- An entry of the PSM error log: the next place is overwritten, an unread entry there is lost (R191). -/
def State.psmLog (s : State) (typ a m c : Nat) : State :=
  (s.upPsmc fun p =>
    { p with log := Tab.set p.log p.logNext { addr := burstOf a, typ := typ, master := m, ctx := if c < 64 then c else 63
                                              time := s.hal.ns32 }
             logLost := if p.logUnread.contains p.logNext then min (p.logLost + 1) 0xFFFF else p.logLost
             logUnread := if p.logUnread.contains p.logNext then p.logUnread else p.logNext :: p.logUnread
             logNext := (p.logNext + 1) % 16 }).event 256

/-- Increase the counter of a stack. -/
def bump (l : List (Nat × Word)) (k : Nat) : List (Nat × Word) := Tab.set l k (Tab.get 0 l k + 1)

/-- The granule entries of the store follow those of the controller: those marked or retired. -/
def State.saveGranules (s : State) : State :=
  s.storePut fun r => { r with granules := s.psmc.granules.filter fun p => p.2.marked || p.2.retired }

/-- A granule is marked (R178). -/
def State.markGranule (s : State) (g : Nat) (unc : Bool) : State :=
  let x : Granule := Tab.get {} s.psmc.granules g
  if x.retired ∨ (x.marked ∧ (¬ unc ∨ x.unc)) then s
  else
    let s := s.upPsmc fun p => { p with granules := Tab.set p.granules g { x with marked := true, unc := x.unc || unc } }
    ((if x.marked then s else s.event 258)).saveGranules

/-- A row-level correction in a granule (R178). -/
def State.rowHit (s : State) (g : Nat) : State :=
  let x : Granule := Tab.get {} s.psmc.granules g
  let s := s.upPsmc fun p => { p with granules := Tab.set p.granules g { x with rows := x.rows + 1 } }
  if s.psmc.threshold ≠ 0 ∧ s.psmc.threshold ≤ x.rows + 1 then s.markGranule g false else s

/-- A read by master `m` for context `c` meets an error: it is counted and logged (R150, R151, R173, R178). `patrol`
marks a patrol read. -/
def State.eccOne (s : State) (m c : Nat) (patrol : Bool) (x : MemErr) : State :=
  let a := x.addr
  if a < psmSize then
    match x.kind with
    | .symbol => (s.upPsmc fun p => { p with cntSym := bump p.cntSym (psmStack a) }).psmLog 0 a m c
    | .row => ((s.upPsmc fun p => { p with cntRow := bump p.cntRow (psmStack a) }).rowHit (a / 4096)).psmLog 1 a m c
    | .uncorr =>
      let s := s.upPsmc fun p =>
        { p with cntUnc := bump p.cntUnc (psmStack a)
                 uncorr := if p.uncorr.contains (burstOf a) then p.uncorr else burstOf a :: p.uncorr }
      let s := s.psmLog (if patrol then 4 else 2) a m c
      if patrol then s.markGranule (a / 4096) true else s
    | .lineSymbol => s.upCommons fun x => { x with cntCorr := x.cntCorr + 1 }
    | .lineUncorr => s.upCommons fun x => { x with cntUncorr := x.cntUncorr + 1 }
  else if commonsBase ≤ a ∧ a < commonsBase + s.commons.x * 2 ^ 20 then
    match x.kind with
    | .uncorr => (s.upCommons fun x => { x with cntUncorr := x.cntUncorr + 1 }).upPsmc fun p =>
        { p with spmUncorr := if p.spmUncorr.contains (burstOf a) then p.spmUncorr else burstOf a :: p.spmUncorr }
    | _ => s.upCommons fun x => { x with cntCorr := x.cntCorr + 1 }
  else if spmBase 0 ≤ a ∧ a < spmBase 8 then
    let e := (a - spmBase 0) / 0x1000000
    match x.kind with
    | .uncorr => (s.upEngine e fun y => { y with spmUncorr := y.spmUncorr + 1 }).upPsmc fun p =>
        { p with spmUncorr := if p.spmUncorr.contains (burstOf a) then p.spmUncorr else burstOf a :: p.spmUncorr }
    | _ => s.upEngine e fun y => { y with spmCorr := y.spmCorr + 1 }
  else s

/-- The burst or word that holds an address meets a range. -/
def burstIn (lo n a : Nat) : Bool := decide (burstOf a < lo + n ∧ lo < burstOf a + 64)

/-- A read of `n` bytes from a physical address meets the errors that lie in it; the answer gives the first place that
stays uncorrectable, if there is one. A place that stood uncorrectable before this read is counted and logged again
(R167, R168, R191). -/
def State.eccRead (s : State) (m c : Nat) (errs : List MemErr) (a n : Nat) : State × Option Nat :=
  let met := errs.filter fun x => burstIn a n x.addr
  let s := met.foldl (fun s x => s.eccOne m c false x) s
  match (s.psmc.uncorr ++ s.psmc.spmUncorr).find? fun b => burstIn a n b with
  | none => (s, none)
  | some b => (if met.any fun x => x.kind == .uncorr && burstOf x.addr == b then s else s.eccOne m c false { addr := b, kind := .uncorr }, some b)

/-- Several ranges, in order. -/
def State.eccReads (s : State) (m c : Nat) (errs : List MemErr) : List (Nat × Nat) → State × Option Nat
  | [] => (s, none)
  | (a, n) :: t =>
    match s.eccRead m c errs a n with
    | (s, some b) => (s, some b)
    | (s, none) => s.eccReads m c errs t

/-- A write that covers only part of an uncorrectable burst of PSM fails as a read does (R175). -/
def State.eccPartial (s : State) (a n : Nat) : Option Nat :=
  s.psmc.uncorr.find? fun b => burstIn a n b && !decide (n = 0 ∨ (a ≤ b ∧ b + 64 ≤ a + n))

/-- One of several pieces of a write does so. -/
def State.eccPartials (s : State) (l : List (Nat × Nat)) : Option Nat := l.findSome? fun p => s.eccPartial p.1 p.2

/-- A write makes good the bursts it covers, and every scratchpad or Commons word it touches (R151, R175). -/
def State.eccWrite (s : State) (a n : Nat) : State :=
  if s.psmc.uncorr.isEmpty ∧ s.psmc.spmUncorr.isEmpty then s
  else s.upPsmc fun p =>
    { p with uncorr := p.uncorr.filter fun b => !decide (a ≤ b ∧ b + 64 ≤ a + n)
             spmUncorr := p.spmUncorr.filter fun b => !burstIn a n b }

/-- Write bytes of the device physical space, making good what they cover. -/
def State.put (s : State) (a : Nat) (bs : List Byte) : State := (s.wr a bs).eccWrite a bs.length

/-- Zero a range, as a scrubber does. -/
def State.scrub (s : State) (a n : Nat) : State := (s.zero a n).eccWrite a n

end Sys2Proof.Machine
end

