-- ==== Sys2Proof/Machine/Mem.lean ====
section
/-! DEFINITION. Address translation, the placing of allocations, and the memory packets (R169 to R192). -/

namespace Sys2Proof.Machine

/-! ### Translation (R184 to R187) -/

/-- The granule numbers of the stacks of a set (granule `g` lies in stack `g mod 6`, R169). -/
def stacksOf (mask : Nat) : List Nat := bitsOf 6 mask

/-- The physical address of byte `off` of a run: contiguous, or over the granules of its stack set (R180). -/
def Run.at (r : Run) (off : Nat) : Nat :=
  if r.stackSet = 63 then r.pa + off
  else
    let l := stacksOf r.stackSet
    let i := off / 4096
    r.pa + 4096 * (6 * (i / l.length) + l.getD (i % l.length) 0) + off % 4096

/-- The run that maps an address. -/
def runFor (l : List Run) (va : Nat) : Option Run := l.find? fun r => decide (r.va ≤ va ∧ va < r.va + r.len)

/-- The page runs of a context: those put in by INSTALL first, then its allocations and mappings. -/
def Ctx.runs (c : Ctx) : List Run := c.installs ++ (c.maps.filter fun m => !m.gone).flatMap (·.runs)

/-- Page sizes by code (R180). -/
def pageBytes (k : Nat) : Nat := if k = 0 then 4096 else if k = 1 then 65536 else 2097152

/-- What a translation comes to. -/
inductive Xl where
  /-- A physical address. -/
  | pa (a : Nat)
  /-- A fault at a virtual address; `prot` where the page is mapped and read-only. -/
  | miss (va : Nat) (prot : Bool)
  /-- The access table refuses it (R424). -/
  | denied (a : Nat)
deriving DecidableEq, Repr, Inhabited

/-- Translate `n` bytes that lie in one page for master `m` (`none` for firmware's own accesses). -/
def State.xlate (s : State) (m : Option Nat) (c va n : Nat) (write : Bool) : Xl :=
  match runFor (s.ctx c).runs va with
  | none => .miss va false
  | some r =>
    if write ∧ ¬ r.write then .miss va true
    else
      let a := r.at (va - r.va)
      match m with
      | some k => if s.allowed k 0 a n write then .pa a else .denied a
      | none => .pa a

/-- The pieces of a virtual range, none across a 4 KiB boundary. -/
def pagesOf (va n : Nat) : List (Nat × Nat) :=
  (List.range (cdiv (va % 4096 + n) 4096)).map fun i =>
    let a := if i = 0 then va else (va / 4096 + i) * 4096
    (a, min (va + n) ((va / 4096 + i + 1) * 4096) - a)

/-- The physical pieces of a virtual range, or the first fault in it. -/
def State.xlates (s : State) (m : Option Nat) (c : Nat) (write : Bool) : List (Nat × Nat) → Except Xl (List (Nat × Nat))
  | [] => .ok []
  | (va, n) :: t =>
    match s.xlate m c va n write with
    | .pa a =>
      match s.xlates m c write t with
      | .ok l => .ok ((a, n) :: l)
      | .error x => .error x
    | x => .error x

/-- Read virtual bytes. -/
def State.vrd (s : State) (m : Option Nat) (c va n : Nat) : Except Xl (List Byte) :=
  match s.xlates m c false (pagesOf va n) with
  | .ok l => .ok (l.flatMap fun p => s.rd p.1 p.2)
  | .error x => .error x

/-- Write bytes to physical pieces. -/
def State.putPieces (s : State) : List (Nat × Nat) → List Byte → State
  | [], _ => s
  | (a, n) :: t, bs => (s.put a (bs.take n)).putPieces t (bs.drop n)

/-- Write virtual bytes; nothing is written where a page of them faults. -/
def State.vwr (s : State) (m : Option Nat) (c va : Nat) (bs : List Byte) : Except Xl State :=
  match s.xlates m c true (pagesOf va bs.length) with
  | .ok l => .ok (s.putPieces l bs)
  | .error x => .error x

/-- Every page of a range is mapped (and writable, if asked). -/
def State.vmapped (s : State) (c va n : Nat) (write : Bool) : Bool :=
  match s.xlates none c write (pagesOf va n) with
  | .ok _ => true
  | .error _ => false

/-! ### Tables, TLBs and the walk cache (R184, R185, R192) -/

/-- Bytes that an entry of a table of level `k` covers: 512 GiB, 1 GiB, 2 MiB, 4 KiB. -/
def levelBytes (k : Nat) : Nat := 2 ^ (48 - 9 * k)

/-- A leaf entry of 64 bits (R184): valid, page, write, pin, host, nocache, static, frame and owner. -/
def leafEntry (c : Nat) (static : Bool) (r : Run) (va : Nat) : BitVec 64 :=
  let a := r.at (va / pageBytes r.page * pageBytes r.page - r.va)
  BitVec.ofNat 64 (1 + 2 * r.page + bitAt r.write 3 + bitAt r.pin 4 + bitAt (decide (hostBase ≤ a)) 5 + bitAt r.nocache 6 +
    bitAt (static || r.stat) 7 + a / 4096 * 4096 + 2 ^ 56 * c)

/-- The level at which the leaves of a run stand: 2 MiB at 3, the others at 4. -/
def Run.level (r : Run) : Nat := if r.page = 2 then 3 else 4

/-- The entry of the table of level `k` of a context, 1 to 4, that covers an address: none where it is invalid, else whether it
is a leaf. -/
def State.levelAt (s : State) (c k va : Nat) : Option Bool :=
  match runFor (s.ctx c).runs va with
  | some r => if r.level < k then none else some (r.level == k)
  | none =>
    if (s.ctx c).runs.any fun r =>
        decide (k < r.level ∧ r.va < (va / levelBytes k + 1) * levelBytes k ∧ va / levelBytes k * levelBytes k < r.va + r.len) then
      some false
    else none

/-- That entry's 64 bits (R184): zero where it is invalid, a leaf, or a pointer to the table of the next level. -/
def State.entryAt (s : State) (c k va : Nat) : BitVec 64 :=
  match s.levelAt c k va, runFor (s.ctx c).runs va with
  | some true, some r => leafEntry c (s.ctxTT c) r va
  | some false, _ => BitVec.ofNat 64 (1 + 2 * 3 + Config.tableFrame c (k + 1) (va / levelBytes k) % 2 ^ 36 * 4096 + 2 ^ 56 * c)
  | _, _ => 0

/-- Entries of the TLB of a master: 2,048 of an engine, 64 of a stream mover, and other masters have none (R185). -/
def tlbSize (m : Nat) : Nat := if 20 ≤ m ∧ m < 28 then 2048 else if 28 ≤ m ∧ m < 44 then 64 else 0

/-- An entry covers an address of a context. -/
def XlTag.covers (x : XlTag) (c va : Nat) : Bool := x.ctx == c && decide (x.lo ≤ va ∧ va < x.lo + x.len)

/-- A TLB holds the page of an address. -/
def State.tlbHit (s : State) (m c va : Nat) : Bool := (Tab.get [] s.xlt.tlbs m).any fun p => p.2.covers c va

/-- Put an entry into a store of `n` places; the place is a free value, since the spec gives neither how the entries are
found nor which of them goes (R185, log 31). -/
def putTag (n : Nat) (d : Word) (x : XlTag) (l : List (Nat × XlTag)) : List (Nat × XlTag) := Tab.set l (d.toNat % n) x

/-- The entries of a walk for an address, from level `k` of the remaining `n` on, go into the walk cache. -/
def State.cacheWalk (s : State) (c va : Nat) : Nat → Nat → State
  | 0, _ => s
  | n + 1, k =>
    match s.levelAt c k va with
    | none => s
    | some leaf =>
      let t : XlTag := { ctx := c, lo := va / levelBytes k * levelBytes k, len := levelBytes k, leaf := leaf }
      let s := if s.xlt.walkCache.any fun p => p.2 == t then s
        else
          let d := s.draw
          d.2.upXlt fun y => { y with walkCache := putTag 4096 d.1 t y.walkCache }
      if leaf then s else s.cacheWalk c va n (k + 1)

/-- Bytes of PSM that firmware keeps for itself (log 12): the command store of R73, then its other structures. -/
def storeBytes : Nat := 0x40000000

/-- First granule that allocations use: the command store and firmware's tables lie below (log 12). -/
def fwGranules : Nat := 0x80000

/-- Reads of firmware-owned structures outside the command store meet their errors; one that is uncorrectable makes the
device FAULTED (R175, R365). -/
def State.fwErrs (s : State) (m c : Nat) (errs : List MemErr) : State :=
  let met := errs.filter fun x => decide (storeBytes ≤ x.addr ∧ x.addr < 4096 * fwGranules)
  let s := met.foldl (fun s x => s.eccOne m c false x) s
  if met.any fun x => x.kind == .uncorr then s.fault fltMemUncorr 5 255 0 0 else s

/-- A walk of the tables of a context for an access of master `m`. -/
def State.walk (s : State) (m c va : Nat) (errs : List MemErr) : State :=
  let s := (s.upXlt fun x => { x with cntWalk := x.cntWalk + 1 }).fwErrs m c errs
  let s := s.cacheWalk c va 4 1
  match runFor (s.ctx c).runs va with
  | none => s
  | some r =>
    let d := s.draw
    let t : XlTag := { ctx := c, lo := va / pageBytes r.page * pageBytes r.page, len := pageBytes r.page }
    d.2.upXlt fun x => { x with tlbs := Tab.set x.tlbs m (putTag (tlbSize m) d.1 t (Tab.get [] x.tlbs m)) }

/-- An engine or a stream mover looks up the pages of an access in its TLB, in order, until one faults; a miss walks the
tables and is counted. A TT context is never walked (R185, R186, R192). -/
def State.walks (s : State) (m c : Nat) (errs : List MemErr) (write : Bool) : List (Nat × Nat) → State
  | [] => s
  | (va, _) :: t =>
    if s.ctxTT c ∨ tlbSize m = 0 then s
    else
      let s := if s.tlbHit m c va then s else s.walk m c va errs
      match runFor (s.ctx c).runs va with
      | none => s
      | some r => if write ∧ ¬ r.write then s else s.walks m c errs write t

/-- The entries of a range leave every TLB and the walk cache: the leaves that meet it, and the pointers within it (R181). -/
def State.forget (s : State) (c lo hi : Nat) : State :=
  let keep := fun (p : Nat × XlTag) => !(p.2.ctx == c &&
    (if p.2.leaf then decide (p.2.lo < hi ∧ lo < p.2.lo + p.2.len) else decide (lo ≤ p.2.lo ∧ p.2.lo + p.2.len ≤ hi)))
  s.upXlt fun x => { x with tlbs := x.tlbs.map fun q => (q.1, q.2.filter keep), walkCache := x.walkCache.filter keep }

/-! ### Prefetchers (R165, R166, R168) -/

/-- The demand read from `va` follows the pattern of a profile, after the latest one of the route (R165, R166; log 83). -/
def Ahead.follows (a : Ahead) (f : Prefetch) (va : Nat) : Bool :=
  a.seen && (if f.mode = 2 then !f.strides.isEmpty && decide ((va : Int) = a.last + (f.strides.getD (a.place % f.strides.length) 0).toInt)
    else va == a.next)

/-- Prefetch reads of a running prefetcher after a demand read: they change nothing but its counters. How many bursts are
asked for, up to the profile's distance within the mapped region, and how many are dropped is open (R166, log 83). -/
def State.prefetch (s : State) (c : Nat) (f : Prefetch) (va : Nat) : State :=
  let room := match (s.ctx c).maps.find? fun m => !m.gone && decide (m.va ≤ va ∧ va < m.va + m.len) with
    | some m => (min (va + 4096 * f.distance) (m.va + m.len) - va) / 64
    | none => 0
  let i := s.draw
  let x := i.2.draw
  let m := x.2.draw
  let n := i.1.toNat % (room + 1)
  let dx := x.1.toNat % (n + 1)
  m.2.upCommons fun y =>
    { y with pfIssued := y.pfIssued + wd n, pfDropXlt := y.pfDropXlt + wd dx, pfDropMem := y.pfDropMem + wd (m.1.toNat % (n - dx + 1)) }

/-- The prefetcher of a route sees a demand read of `n` bytes: two consecutive ones that follow the pattern start it, and one
that does not stops it (R166). -/
def State.demand (s : State) (c route va n : Nat) : State :=
  let x := s.ctx c
  let f : Prefetch := Tab.get {} x.profiles (((Tab.find x.routes route).map (·.profile)).getD 0)
  let a : Ahead := Tab.get {} x.aheads route
  let ok := f.mode != 0 && a.follows f va
  let b : Ahead := { last := va, next := va + n, seen := true, fits := if ok then min 2 (a.fits + 1) else 0
                     place := if ok then a.place + 1 else 0 }
  let s := s.upCtx c fun y => { y with aheads := Tab.set y.aheads route b }
  if b.fits = 2 then s.prefetch c f b.next else s

/-- The demand reads of a route, in order. -/
def State.demands (s : State) (c route : Nat) (l : List (Nat × Nat)) : State := l.foldl (fun s p => s.demand c route p.1 p.2) s

/-- A fault notice: the context enters FAULT_WAIT, and the notice goes to the ring of the packet that started the work
(R187). The identifier is the lowest the context does not hold. -/
def State.notice (s : State) (c : Nat) (hdr : Hdr) (f : XltFault) : State :=
  let x := s.ctx c
  let id := ((List.range 64).find? fun i => x.faults.all fun g => g.id ≠ i).getD 0
  let f := { f with id := id, hdr := hdr, since := s.hal.nowNs }
  let s := s.setCtx c { x with faults := x.faults ++ [f] }
  let s := (s.upXlt fun y => { y with cntFault := y.cntFault + 1 }).event 260
  let s := s.upAp hdr.ap fun a => { a with statXlt := a.statXlt + 1 }
  let d0 := wd (id + bitAt f.write 8 + bitAt f.prot 9 + bitAt f.save 10)
  let d1 := wd (f.unit % 16 + bitAt f.mover 4)
  let s := s.fault fltXltMiss 0 c f.unit d1
  s.pushReply hdr.ring
    (s.mkReply hdr stPending { d0 := d0, d1 := d1, lo := wd f.va, hi := wd (f.va / 2 ^ 32), fault := fltXltMiss } false false)

/-! ### Placing allocations (R22, R180, R182; log 12 and 13) -/

/-- Insert an interval in order of its start. -/
def insIv (x : Nat × Nat) : List (Nat × Nat) → List (Nat × Nat)
  | [] => [x]
  | y :: t => if x.1 ≤ y.1 then x :: y :: t else y :: insIv x t

/-- The gaps that busy intervals, in order, leave in [lo, hi). -/
def gapsOf (hi : Nat) : Nat → List (Nat × Nat) → List (Nat × Nat)
  | lo, [] => if lo < hi then [(lo, hi)] else []
  | lo, (a, b) :: t => if lo < a then (lo, min a hi) :: gapsOf hi (max lo b) t else gapsOf hi (max lo b) t

/-- Round up to a multiple. -/
def alignUp (a k : Nat) : Nat := cdiv a k * k

/-- Busy PSM granules for an allocation of some stacks, in order: those in use, and the retired ones it may not take
(R179). -/
def State.psmBusy (s : State) (mask : Nat) (tt : Bool) : List (Nat × Nat) :=
  let used := (s.psmUse.filter fun u => (u.mask &&& mask) != 0).map fun u => (u.lo, u.hi)
  let dead := (s.psmc.granules.filter fun p => p.2.retired && (tt || p.2.unc)).map fun p => (p.1, p.1 + 1)
  (used ++ dead).foldr insIv []

/-- Gaps of PSM. -/
def State.psmGaps (s : State) (mask : Nat) (tt : Bool) : List (Nat × Nat) :=
  gapsOf 25165824 fwGranules (s.psmBusy mask tt)

/-- Take `n` pages of `pg` granules from gaps, lowest first: starts and counts, and how many pages found no room. -/
def takePages (pg : Nat) : Nat → List (Nat × Nat) → List (Nat × Nat) × Nat
  | n, [] => ([], n)
  | n, (a, b) :: t =>
    let a' := alignUp a pg
    let k := min n ((b - a') / pg)
    if n = 0 then ([], 0)
    else if b ≤ a' ∨ k = 0 then takePages pg n t
    else ((a', k) :: (takePages pg (n - k) t).1, (takePages pg (n - k) t).2)

/-- Take `n` granules of the stacks of a set from gaps, in rows of six granules. -/
def takeRows (m : Nat) : Nat → List (Nat × Nat) → List (Nat × Nat) × Nat
  | n, [] => ([], n)
  | n, (a, b) :: t =>
    let a' := alignUp a 6
    let k := min n ((b - a') / 6 * m)
    if n = 0 then ([], 0)
    else if b ≤ a' ∨ k = 0 then takeRows m n t
    else ((a', k) :: (takeRows m (n - k) t).1, (takeRows m (n - k) t).2)

/-- Take PSM for `n` pages of `pg` granules: the pieces as (first granule, granules), or none where it does not fit. -/
def State.takePsm (s : State) (tt : Bool) (mask pg n owner : Nat) : Option (List (Nat × Nat) × State) :=
  if mask = 63 then
    match takePages pg n (s.psmGaps 63 tt) with
    | (l, 0) =>
      let l := l.map fun p => (p.1, p.2 * pg)
      some (l, { s with psmUse := s.psmUse ++ l.map fun p => { lo := p.1, hi := p.1 + p.2, owner := owner } })
    | _ => none
  else
    let m := (stacksOf mask).length
    match takeRows m n (s.psmGaps mask tt) with
    | (l, 0) => some (l, { s with psmUse := s.psmUse ++ l.map fun p =>
        { lo := p.1, hi := p.1 + 6 * cdiv p.2 m, mask := mask, owner := owner } })
    | _ => none

/-- Give back the PSM of a piece that begins at a granule. -/
def State.givePsm (s : State) (g mask : Nat) : State :=
  { s with psmUse := s.psmUse.filter fun u => ¬ (u.lo = g ∧ u.mask = mask) }

/-- Free 4 KiB granules of PSM. -/
def State.psmFree (s : State) : Nat := sumN ((s.psmGaps 63 false).map fun p => p.2 - p.1)

/-- Entries of the static map a partition uses (R186). -/
def State.staticUsed (s : State) (p : Nat) : Nat :=
  if (s.part p).tt then
    sumN ((s.ctxs.filter fun x => x.2.present && x.2.part == p).map fun x =>
      sumN (x.2.maps.map fun m => sumN (m.runs.map fun r => cdiv r.len (pageBytes r.page))))
  else 0

/-- First device-virtual address firmware gives out, and the end of the space. -/
def vaFirst : Nat := 0x100000000
/-- End of the 48-bit space. -/
def vaEnd : Nat := 2 ^ 48

/-- Gaps of a context's virtual space. -/
def State.vaGaps (s : State) (c : Nat) : List (Nat × Nat) :=
  let x := s.ctx c
  gapsOf vaEnd vaFirst (((x.maps.map fun m => (m.va, m.va + m.len)) ++ x.installs.map fun r => (r.va, r.va + r.len)).foldr insIv [])

/-- The lowest address at or above `lo` that is `off` modulo `al`. -/
def alignAt (lo al off : Nat) : Nat := lo + (off % al + al - lo % al) % al

/-- The lowest free virtual range of `len` bytes with an offset modulo an alignment. -/
def State.vaTake (s : State) (c len al off : Nat) : Option Nat :=
  (s.vaGaps c).findSome? fun g => let a := alignAt g.1 al off; if a + len ≤ g.2 then some a else none

/-- The highest free range, for a save area (R374). -/
def State.vaTakeTop (s : State) (c len al : Nat) : Option Nat :=
  (s.vaGaps c).reverse.findSome? fun g =>
    let a := (g.2 - len) / al * al
    if len ≤ g.2 ∧ g.1 ≤ a then some a else none

/-- Runs for pieces of PSM laid one after the other from an address. -/
def layRuns (mask page : Nat) (w pin : Bool) : Nat → List (Nat × Nat) → List Run
  | _, [] => []
  | va, (g, n) :: t =>
    { va := va, pa := 4096 * g, len := 4096 * n, page := page, stackSet := mask, write := w, pin := pin } ::
      layRuns mask page w pin (va + 4096 * n) t

/-- Parts of a basic allocation: pages of 2 MiB, 64 KiB and 4 KiB (R180). -/
def basicParts (len : Nat) : List (Nat × Nat) :=
  [(2, len / 2097152), (1, len % 2097152 / 65536), (0, len % 65536 / 4096)]

/-- Place the parts of an allocation in PSM: the runs from `va` on, or none where they do not fit. -/
def State.placeParts (s : State) (tt : Bool) (mask owner : Nat) (w pin : Bool) : Nat → List (Nat × Nat) → Option (List Run × State)
  | _, [] => some ([], s)
  | va, (pg, n) :: t =>
    match s.takePsm tt mask (pageBytes pg / 4096) n owner with
    | none => none
    | some (l, s) =>
      match s.placeParts tt mask owner w pin (va + n * pageBytes pg) t with
      | none => none
      | some (r, s) => some (layRuns mask pg w pin va l ++ r, s)

/-- First fit in the explicit Commons (R164). -/
def State.takeCommons (s : State) (part len al : Nat) : Option (Nat × State) :=
  let x := if s.commons.changing then min s.commons.x s.commons.newX else s.commons.x
  let quota := (s.part part).quota
  let mine := sumN ((s.commons.used.filter fun u => u.2.2.1 == part).map fun u => u.2.1)
  if quota ≠ 0 ∧ quota * 2 ^ 20 < mine + len then none
  else
    let gaps := gapsOf (commonsBase + x * 2 ^ 20) commonsBase ((s.commons.used.map fun u => (u.1, u.1 + u.2.1)).foldr insIv [])
    match gaps.findSome? fun g => let a := alignUp g.1 al; if a + len ≤ g.2 then some a else none with
    | none => none
    | some a => some (a, s.upCommons fun y => { y with used := y.used ++ [(a, len, part, false)] })

/-- Add a mapping to a context. -/
def State.addMap (s : State) (c : Nat) (m : Mapping) : State := s.upCtx c fun x => { x with maps := x.maps ++ [m] }

/-- Place bytes in host memory, the level below PSM (R22); where firmware's host memory lies is open (log 32). -/
def State.placeHost (s : State) (va len : Nat) (w : Bool) : List Run × State :=
  let d := s.draw
  let e := d.2.draw
  let a := hostBase + (fld d.1 18 0 * 2 ^ 28 + fld e.1 15 0 * 2 ^ 12)
  ([{ va := va, pa := a, len := len, write := w }], e.2.zero a len)

/-- The final reply that gives a virtual address. -/
def vaReply (va : Nat) : RF := { lo := wd va, hi := wd (va / 2 ^ 32) }

/-- States in which memory, cleat, sequence and stream opcodes are legal (R63). -/
def ctxOpen : List Nat := [0x20, 0x21]

/-- MEM_ALLOC (R180). -/
def memAlloc (p : Packet) (s : State) : Ans :=
  let c := p.hdr.ctx
  let x := s.ctx c
  let tt := s.ctxTT c
  let w := p.f 5 0 0 = 1
  needState (s.ctxCode c) ctxOpen <|
    if p.hdr.expert ∧ p.f 6 1 0 = 1 then
      let pg := pageBytes (p.f 6 17 16)
      let al := max 65536 pg
      let len := alignUp ((p.w 4).toNat * 4096) al
      if 48 * 2 ^ 20 < len ∨ (tt ∧ 8192 < s.staticUsed x.part + len / pg) then .refuse stNospace
      else
        match s.takeCommons x.part len al, s.vaTake c len al 0 with
        | some (a, s), some va =>
          .done (s.addMap c { va := va, len := len, commons := true, write := w, runs :=
            [{ va := va, pa := a, len := len, page := p.f 6 17 16, write := w, pin := tt || p.f 6 20 20 = 1 }] }) (vaReply va)
        | _, _ => .refuse stNospace
    else
      let pg := pageBytes (p.f 6 17 16)
      let len := if p.hdr.expert then alignUp ((p.w 4).toNat * 4096) pg else (p.w 4).toNat * 4096
      let parts := if p.hdr.expert then [(p.f 6 17 16, len / pg)] else basicParts len
      let al := if p.hdr.expert then pg else if 2097152 ≤ len then 2097152 else if 65536 ≤ len then 65536 else 4096
      let mask := if p.hdr.expert then p.f 6 13 8 else 63
      let pin := tt || (p.hdr.expert && p.f 6 20 20 = 1)
      if tt ∧ 8192 < s.staticUsed x.part + sumN (parts.map (·.2)) then .refuse stNospace
      else
        match s.vaTake c len al 0 with
        | none => .refuse stNospace
        | some va =>
          match s.placeParts tt mask (c + 1) w pin va parts with
          | some (runs, s) => .done (s.addMap c { va := va, len := len, write := w, runs := runs }) (vaReply va)
          | none =>
            if p.hdr.expert ∨ tt then .refuse stNospace
            else
              let (runs, s) := s.placeHost va len w
              .done (s.addMap c { va := va, len := len, write := w, runs := runs }) (vaReply va)

/-- The pages of a range: those of the first size for the largest part that is aligned to it, then the next sizes for the rest,
and 4 KiB pages for what remains (R180, R182): first byte, end, page code. -/
def coverPages : List Nat → Nat → Nat → List (Nat × Nat × Nat)
  | [], lo, hi => if lo < hi then [(lo, hi, 0)] else []
  | k :: t, lo, hi =>
    let l := alignUp lo (pageBytes k)
    let h := hi / pageBytes k * pageBytes k
    if l < h then coverPages t lo l ++ (l, h, k) :: coverPages t h hi else coverPages t lo hi

/-- MEM_MAP_HOST (R182). -/
def memMapHost (p : Packet) (s : State) : Ans :=
  let c := p.hdr.ctx
  let bus := p.a 4
  let pg := if p.hdr.expert then p.f 7 1 0 else 0
  let len := alignUp ((p.w 6).toNat * 4096) (pageBytes pg)
  let m := fun va => ({ va := va, len := len, host := true, runs :=
    (if p.hdr.expert then [(va, va + len, pg)] else coverPages [2, 1] va (va + len)).map fun q =>
      { va := q.1, pa := hostBase + bus + (q.1 - va), len := q.2.1 - q.1, page := q.2.2 } } : Mapping)
  needState (s.ctxCode c) ctxOpen <|
    if s.ctxTT c then .refuse stNospace
    else if p.hdr.expert then
      let va := (p.w 8).toNat + 2 ^ 32 * p.f 9 15 0
      let x := s.ctx c
      if vaEnd < va + len ∨ x.maps.any (fun q => decide (q.va < va + len ∧ va < q.va + q.len)) ∨
          x.installs.any (fun q => decide (q.va < va + len ∧ va < q.va + q.len)) then .refuse stRange (det 8 0)
      else .done (s.addMap c (m va)) (vaReply va)
    else
      match s.vaTake c len 2097152 bus with
      | some va => .done (s.addMap c (m va)) (vaReply va)
      | none => .refuse stNospace

/-! ### Ending allocations and mappings (R181) -/

/-- A transfer names a range of its context. -/
def Transfer.names (t : Transfer) (lo hi : Nat) : Bool :=
  (t.fill.isNone && decide (t.src < hi ∧ lo < t.src + t.len)) || (!t.mailbox && decide (t.dst < hi ∧ lo < t.dst + t.len))

/-- A swap of a sequence that is under way moves pages from or to a range. -/
def Seq.names (q : Seq) (lo hi : Nat) : Bool :=
  q.present && (q.preempt || q.state == 0x32 || q.state == 0x34) && decide (q.image < hi ∧ lo < q.image + q.imagePages * q.page)

/-- A job, a transfer or a swap of a context names a range. -/
def State.rangeBusy (s : State) (c lo hi : Nat) : Bool :=
  (s.ctxJobs c).any (fun p => p.2.names lo hi) || (s.transfers.any fun t => t.hdr.ctx == c && t.names lo hi) ||
    s.kvSeqs.any fun q => q.2.ctx == c && q.2.names lo hi

/-- The key of an open MEM_FREE or MEM_UNMAP. -/
def freeKey (c va : Nat) : Nat := c + 64 * va

/-- Physical pieces of a run. -/
def Run.pieces (r : Run) : List (Nat × Nat) :=
  if r.stackSet = 63 then [(r.pa, r.len)] else (List.range (r.len / 4096)).map fun i => (r.at (4096 * i), 4096)

/-- Pages put in by INSTALL go with the range they stand in or point into. -/
def Ctx.dropInstalls (x : Ctx) (m : Mapping) : Ctx :=
  { x with installs := x.installs.filter fun r =>
      ¬ ((m.va ≤ r.va ∧ r.va < m.va + m.len) ∨
        m.runs.any fun q => q.pieces.any fun w => decide (w.1 ≤ r.pa ∧ r.pa < w.1 + w.2)) }

/-- Drop a mapping from the tables of its context. -/
def State.dropMap (s : State) (c : Nat) (m : Mapping) : State :=
  (s.forget c m.va (m.va + m.len)).upCtx c fun x => { x.dropInstalls m with maps := x.maps.filter fun q => q.va ≠ m.va }

/-- A range that is being ended and that nothing names any longer: its translations become invalid, and the end of a host
mapping is replied to; an allocation still waits for its scrub. -/
def State.settleMap (s : State) (c : Nat) (m : Mapping) : State :=
  if ¬ m.freeing ∨ m.gone ∨ s.rangeBusy c m.va (m.va + m.len) then s
  else if m.host then (s.dropMap c m).closeOp 0x203 (freeKey c m.va) stOk {}
  else
    ((s.forget c m.va (m.va + m.len)).upCtx c fun x => { x.dropInstalls m with
      maps := x.maps.map fun q => if q.va = m.va then { q with gone := true } else q }).upCommons fun y =>
        { y with used := y.used.map fun u => if m.commons ∧ m.runs.any (fun r => r.pa = u.1) then (u.1, u.2.1, u.2.2.1, true) else u }

/-- Every range of a context that is being ended. -/
def State.settleFrees (s : State) (c : Nat) : State := (s.ctx c).maps.foldl (fun s m => s.settleMap c m) s

/-- Zero what a mapping held and give it back. -/
def State.releaseMap (s : State) (c : Nat) (m : Mapping) : State :=
  let s := m.runs.foldl (fun s r =>
    let s := r.pieces.foldl (fun s w => if w.1 < hostBase then s.scrub w.1 w.2 else s) s
    s.givePsm (r.pa / 4096) r.stackSet) s
  (s.dropMap c m).upCommons fun y =>
    { y with used := y.used.filter fun u => ¬ (m.commons ∧ m.runs.any fun r => r.pa = u.1) }

/-- A list of a plan that is loaded names a range of its context: the state code of the first such slot (R181). -/
def State.planNames (s : State) (c lo hi : Nat) : Option Nat :=
  (planNos.find? fun i => let p := s.plan i; p.state != 0x50 && p.ctx == c &&
    p.lists.any fun l => l.2.any fun cmd => match vaRange cmd with
      | some r => decide (r.lo < hi ∧ lo < r.hi)
      | none => false).map fun i => (s.plan i).state

/-- A stream of a context that is not CLOSED has its output cleat or input ring in a range. -/
def State.streamIn (s : State) (c lo hi : Nat) : Option Nat :=
  ((List.range 32).find? fun i => let x := s.stream i; x.state != 0x40 && x.ctx == c &&
    (decide (lo ≤ x.outVa ∧ x.outVa < hi) || (!x.ringFw && decide (lo ≤ x.ringVa ∧ x.ringVa < hi)))).map
      fun i => (s.stream i).state

/-- MEM_FREE and MEM_UNMAP (R181). -/
def memEnd (host : Bool) (p : Packet) (s : State) : Ans :=
  let c := p.hdr.ctx
  let va := p.a 4
  needState (s.ctxCode c) ctxOpen <|
    match (s.ctx c).maps.find? fun m => m.va == va && m.host == host && !m.freeing && !m.save with
    | none => .refuse stRange (det 4 0)
    | some m =>
      match s.planNames c va (va + m.len), s.streamIn c va (va + m.len) with
      | some st, _ => .refuse stState (wd st)
      | none, some st => .refuse stState (wd st)
      | none, none => .pend (freeKey c va) 0 0 fun s =>
        (s.upCtx c fun x => { x with maps := x.maps.map fun q => if q.va = va then { q with freeing := true } else q }).settleFrees c

/-! ### Transfers (R183, R189) -/

/-- A mover is bound to a MOVER point of a plan that runs. -/
def State.moverBound (s : State) (m : Nat) : Bool :=
  planNos.any fun i => (s.plan i).runs && (s.plan i).points.any fun q => fld (wat q 1) 2 0 == 2 && fld (wat q 2) 3 0 == m

/-- A transfer, a save, a restore or a swap stands at a mover. -/
def State.moverHas (s : State) (m : Nat) : Bool :=
  s.transfers.any (fun t => t.mover = m) ||
    engNos.any (fun e => slotNos.any fun k => ((s.engine e).slot k).mover == some m) ||
    s.kvSeqs.any fun q => q.2.present && q.2.movers.contains m

/-- The mover of a basic transfer: the lowest-numbered free one, else the lowest allowed one (log 33). -/
def State.pickMover (s : State) : Nat :=
  let ok := (List.range 16).filter fun m => !s.moverBound m && !s.tst.movers.getLsbD m
  ((ok.find? fun m => !s.moverHas m).orElse fun _ => ok.head?).getD 0

/-- One range of a transfer (R183): faulty where it begins in an allocation or mapping and leaves it, leaves the address
space, or in a TT context begins outside the static map. -/
def State.rangeBad (s : State) (c va n : Nat) : Bool :=
  match (s.ctx c).maps.find? fun m => !m.gone && decide (m.va ≤ va ∧ va < m.va + m.len) with
  | some m => decide (m.va + m.len < va + n)
  | none => s.ctxTT c || decide (vaEnd < va + n)

/-- MEM_COPY and MEM_FILL (R183). -/
def memMove (fill : Bool) (p : Packet) (s : State) : Ans :=
  let c := p.hdr.ctx
  let src := if fill then 0 else (p.w 4).toNat + 2 ^ 32 * p.f 5 15 0
  let dst := if fill then (p.w 4).toNat + 2 ^ 32 * p.f 5 15 0 else (p.w 6).toNat + 2 ^ 32 * p.f 7 15 0
  let lw := if fill then 6 else 8
  let len := (p.w lw).toNat + 2 ^ 32 * p.f (lw + 1) 15 0
  let mv := if fill then p.f 9 3 0 else p.f 10 3 0
  needState (s.ctxCode c) ctxOpen <|
    refuseIf (!fill && decide (src < dst + len ∧ dst < src + len)) stRange (det lw 0) <|
    refuseIf (p.hdr.expert && s.tst.movers.getLsbD mv) stState (wd (s.ctxCode c)) <|
    refuseIf (!fill && s.rangeBad c src len) stRange (det 4 0) <|
    refuseIf (s.rangeBad c dst len) stRange (det (if fill then 4 else 6) 0) <|
    refuseIf (p.hdr.expert && s.moverBound mv) stBusy 0 <|
    .pend s.xferNo 0 0 fun s =>
      { s with xferNo := s.xferNo + 1
               transfers := s.transfers ++ [{ id := s.xferNo, hdr := p.hdr, src := src, dst := dst, len := len
                                              fill := if fill then some (p.w 8) else none
                                              mover := if p.hdr.expert then mv else s.pickMover }] }

/-- Pieces of a transfer from byte `o` on, none across a page of its source or destination. -/
def xferPieces (src dst len : Nat) : Nat → Nat → List (Nat × Nat)
  | 0, _ => []
  | n + 1, o =>
    if len ≤ o then []
    else
      let k := min (len - o) (min (4096 - (src + o) % 4096) (4096 - (dst + o) % 4096))
      (o, k) :: xferPieces src dst len n (o + k)

/-- How a transfer fares. -/
inductive XEnd where
  /-- It is complete. -/
  | fin
  /-- A translation fault after `o` bytes. -/
  | miss (o va : Nat) (write prot : Bool)
  /-- It stops with a fault code. -/
  | stop (code : Nat)
deriving DecidableEq, Repr, Inhabited

/-- Bytes of a fill pattern from offset `o` on. -/
def fillBytes (w : Word) (o n : Nat) : List Byte := (List.range n).map fun i => (wordBytes w).getD ((o + i) % 4) 0

/-- The transfer leaves its mover. -/
def State.dropXfer (s : State) (t : Transfer) : State :=
  { s with transfers := s.transfers.filter fun u => u.id ≠ t.id }

/-- A transfer of a packet ends: its record where a fault stopped it, its signal, its final reply (R53, R183). -/
def State.endXfer (s : State) (t : Transfer) (code : Nat) (canc : Bool) : State :=
  let s := s.dropXfer t
  let s := if code ≠ 0 then (s.fault code 1 t.hdr.ctx t.mover 0).event (129 + 2 * t.mover)
    else if canc then s else s.event (128 + 2 * t.mover)
  let s := s.closeOp t.hdr.opcode t.id (if code ≠ 0 ∨ canc then stFault else stOk) { fault := code, canc := canc }
  s.settleFrees t.hdr.ctx

/-- Change a transfer. -/
def State.upXfer (s : State) (id : Nat) (g : Transfer → Transfer) : State :=
  { s with transfers := s.transfers.map fun t => if t.id = id then g t else t }

/-- MEM_ALLOC. -/
def execMemAlloc (k : Nat) (s : State) : Host.Outcome State Fault Refusal := runPacket 0x200 k memAlloc s
/-- MEM_FREE. -/
def execMemFree (k : Nat) (s : State) : Host.Outcome State Fault Refusal := runPacket 0x201 k (memEnd false) s
/-- MEM_MAP_HOST. -/
def execMemMapHost (k : Nat) (s : State) : Host.Outcome State Fault Refusal := runPacket 0x202 k memMapHost s
/-- MEM_UNMAP. -/
def execMemUnmap (k : Nat) (s : State) : Host.Outcome State Fault Refusal := runPacket 0x203 k (memEnd true) s
/-- MEM_COPY. -/
def execMemCopy (k : Nat) (s : State) : Host.Outcome State Fault Refusal := runPacket 0x204 k (memMove false) s
/-- MEM_FILL. -/
def execMemFill (k : Nat) (s : State) : Host.Outcome State Fault Refusal := runPacket 0x205 k (memMove true) s

/-- The scrub of a freed range ends: of MEM_FREE, or of the ring of a closed stream (R181, R164, R278). -/
def State.memScrubbed (s : State) (c va : Nat) : State :=
  match (s.ctx c).maps.find? fun m => m.va == va && m.gone with
  | some m => ((s.releaseMap c m).closeOp 0x201 (freeKey c va) stOk {}).closeOp 0x501 (freeKey c va) stOk {}
  | none => s
/-- MEM_SCRUB_COMPLETE. -/
def execMemScrubComplete (ctx : Fin 64) (va : Nat) (s : State) : Host.Outcome State Fault Refusal :=
  .next (s.memScrubbed ctx.val va)

end Sys2Proof.Machine
end

