-- ==== Sys2Proof/Machine/Cleat.lean ====
section
/-! DEFINITION. Cleats, their scrubbing, the Commons split and prefetch profiles (R147 to R168). -/

namespace Sys2Proof.Machine

/-! ### Where a cleat's words lie (R147, R148) -/

/-- The bank groups of a bank set. -/
def groupsOf (banks : BitVec 16) : List Nat := bitsOf 16 banks.toNat
/-- Rows a cleat of `size` words takes in `g` groups. -/
def rowsOf (size g : Nat) : Nat := cdiv size (16 * g)
/-- Rows of a cleat. -/
def Cleat.rows (c : Cleat) : Nat := rowsOf c.size (groupsOf c.banks).length
/-- Words of its region (R167). -/
def Cleat.region (c : Cleat) : Nat := 16 * (groupsOf c.banks).length * c.rows
/-- Counts as occupied for allocation (R152). -/
def Cleat.occ (c : Cleat) : Bool := c.state == 1 || c.state == 3

/-- Scratchpad word of logical word `o` of a cleat. -/
def Cleat.wordAt (c : Cleat) (o : Nat) : Nat :=
  let gs := groupsOf c.banks
  let k := 16 * gs.length
  let i := o % k
  256 * (c.baseRow + o / k) + 16 * gs.getD (i / 16) 0 + i % 16

/-- Physical pieces of `n` logical bytes from offset `off` of a cleat of engine `e`. -/
def Cleat.pieces (c : Cleat) (e off n : Nat) : List (Nat × Nat) :=
  if c.banks = 0xFFFF then [(spmBase e + 16384 * c.baseRow + off, n)]
  else (List.range (cdiv (off % 64 + n) 64)).map fun i =>
    let a := if i = 0 then off else (off / 64 + i) * 64
    (spmBase e + 64 * c.wordAt (a / 64) + a % 64, min (off + n) ((off / 64 + i + 1) * 64) - a)

/-- Physical pieces of the whole region. -/
def Cleat.regionPieces (c : Cleat) (e : Nat) : List (Nat × Nat) :=
  if c.banks = 0xFFFF then [(spmBase e + 16384 * c.baseRow, 16384 * c.rows)]
  else (List.range c.rows).flatMap fun r => (groupsOf c.banks).map fun g =>
    (spmBase e + 64 * (256 * (c.baseRow + r) + 16 * g), 1024)

/-- Entry `h` of the cleat table of engine `e`. -/
def State.cleat (s : State) (e h : Nat) : Cleat := Tab.get {} (s.engine e).cleats h
/-- Write it; a FREE entry is not listed. -/
def State.setCleat (s : State) (e h : Nat) (c : Cleat) : State :=
  s.upEngine e fun x => { x with cleats := if c.state = 0 then Tab.erase x.cleats h else Tab.set x.cleats h c }

/-- Read logical bytes of a cleat. -/
def State.clRd (s : State) (e h off n : Nat) : List Byte := ((s.cleat e h).pieces e off n).flatMap fun p => s.rd p.1 p.2
/-- Write logical bytes of a cleat. -/
def State.clWr (s : State) (e h off : Nat) (bs : List Byte) : State := s.putPieces ((s.cleat e h).pieces e off bs.length) bs

/-- Zero the region of a cleat. -/
def State.scrubRegion (s : State) (e : Nat) (c : Cleat) : State :=
  (c.regionPieces e).foldl (fun s p => s.scrub p.1 p.2) s

/-- A context owns a cleat (R73, R156). -/
def State.owns (s : State) (c e h : Nat) : Bool :=
  let x := s.cleat e h
  (x.state == 1 || x.state == 2) && x.owner == c && !x.released

/-- The handles of an engine. -/
def handleNos : List Nat := List.range 128

/-! ### Allocation (R153 to R155) -/

/-- Regions that are occupied: LIVE, in SCRUB, or vacated and held; those a scrub will free are left out where `sc`, and a
held one waits for no scrub (R152, R154, R159). -/
def Engine.occupied (x : Engine) (sc : Bool) : List Cleat :=
  ((x.cleats ++ x.vacated).map (·.2)).filter fun c => c.state == 1 || (c.state == 3 && (!sc || c.hold))

/-- Rows `r0` to `r0 + n - 1` are free in every bank of a set. -/
def rowsFree (l : List Cleat) (banks : BitVec 16) (r0 n : Nat) : Bool :=
  decide (r0 + n ≤ 768) && l.all fun c => (c.banks &&& banks) == 0 || decide (c.baseRow + c.rows ≤ r0 ∨ r0 + n ≤ c.baseRow)

/-- The lowest row at which `n` rows are free. -/
def lowestRow (l : List Cleat) (banks : BitVec 16) (n : Nat) : Option Nat :=
  let ok := (0 :: l.map fun c => c.baseRow + c.rows).filter fun r => rowsFree l banks r n
  ok.foldl (fun a r => match a with
    | none => some r
    | some b => some (min b r)) none

/-- The aligned sets of `g` consecutive groups, lowest first. -/
def groupSets (g : Nat) : List (BitVec 16) :=
  (List.range (16 / g)).map fun i => BitVec.ofNat 16 ((2 ^ g - 1) * 2 ^ (g * i))

/-- The region the rule of R154 finds for `size` words: bank set and base row. -/
def fitRegion (l : List Cleat) (size : Nat) : Option (BitVec 16 × Nat) :=
  [16, 8, 4, 2, 1].findSome? fun g => (groupSets g).findSome? fun b =>
    (lowestRow l b (rowsOf size g)).map fun r => (b, r)

/-- What item `i` of the scrubber's queue scrubs: a cleat, or a vacated region. -/
def Engine.inScrub (x : Engine) (i : Nat) : Cleat := Tab.get {} (if i < 128 then x.cleats else x.vacated) i

/-- The scrubs of an engine that are to end by themselves: those not held. -/
def Engine.scrubs (x : Engine) : List Nat := x.scrubQ.filter fun i => !(x.inScrub i).hold

/-- The lowest FREE entry; those in SCRUB count as FREE where `sc`. -/
def Engine.freeEntry (x : Engine) (sc : Bool) : Option Nat :=
  handleNos.find? fun h => let c : Cleat := Tab.get {} x.cleats h; c.state == 0 || (sc && c.state == 3 && !c.hold)

/-- Free words of a scratchpad (EN_SPM_FREE, R167). -/
def Engine.spmFree (x : Engine) : Nat := spmWords - sumN ((x.occupied false).map Cleat.region)

/-- A free resident slot of an engine. -/
def Engine.freeSlot (x : Engine) : Option Nat := slotNos.find? fun k => (x.slot k).ctx.isNone && (x.slot k).restoring.isNone

/-- Engines of the context's mask that belong to its partition (R376). -/
def State.candidates (s : State) (c : Nat) : List Nat :=
  engNos.filter fun e => (s.ctx c).mask.getLsbD e && (s.part (s.ctx c).part).mask.getLsbD e && !s.tst.engines.getLsbD e

/-- The better of two engines by a list of measures, larger first; the earlier stays on a tie. -/
def better : List Nat → List Nat → Bool
  | a :: s, b :: t => if a = b then better s t else decide (b < a)
  | _, _ => false

/-- The engine of a list with the best measures, the lowest-numbered on a tie. -/
def bestBy (m : Nat → List Nat) : List Nat → Option Nat
  | [] => none
  | e :: t => match bestBy m t with
    | some f => if better (m f) (m e) then some f else some e
    | none => some e

/-- Affinity placement of a context's first cleat (R376). -/
def State.firstPlace (s : State) (c : Nat) : Option Nat :=
  bestBy (fun e =>
    let x := s.engine e
    [if x.freeSlot.isSome then 1 else 0, x.spmFree, 4 - (slotNos.filter fun k => (x.slot k).ctx.isSome).length]) (s.candidates c)

/-- The engine that holds the context's most recently allocated LIVE or SPILLED cleat. -/
def State.lastEngine (s : State) (c : Nat) : Option Nat :=
  let l := engNos.flatMap fun e => ((s.engine e).cleats.filter fun p => (p.2.state == 1 || p.2.state == 2) && p.2.owner == c && !p.2.released).map
    fun p => (e, p.2.born)
  (l.foldl (fun a p => match a with
    | none => some p
    | some b => if b.2 < p.2 then some p else some b) none).map (·.1)

/-- The number after the largest order of allocation in use. -/
def State.nextBorn (s : State) : Nat :=
  (engNos.flatMap fun e => (s.engine e).cleats.map fun p => p.2.born + 1).foldl max 0

/-- Allocate entry `h`. -/
def State.takeCleat (s : State) (c e h size : Nat) (b : BitVec 16) (r : Nat) : State :=
  s.setCleat e h { state := 1, owner := c, banks := b, baseRow := r, size := size, born := s.nextBorn }

/-- The final reply of CLEAT_ALLOC. The spec gives the base word [17:0] and the bank set [31:16] of result_hi, which meet in
[17:16]: those two bits are the OR of both (R153; log 44). -/
def cleatReply (e h : Nat) (b : BitVec 16) (r : Nat) : RF := { lo := wd (h + 256 * e), hi := wd (256 * r) ||| wd (2 ^ 16 * b.toNat) }

/-- The basic rule of R154 on engine `e`. -/
def State.basicCleat (s : State) (c e size : Nat) : Ans :=
  let x := s.engine e
  match fitRegion (x.occupied false) size, x.freeEntry false with
  | some (b, r), some h => .done (s.takeCleat c e h size b r) (cleatReply e h b r)
  | _, _ =>
    if (fitRegion (x.occupied true) size).isSome ∧ (x.freeEntry true).isSome ∧ !x.scrubs.isEmpty then .wait e x.scrubs
    else .refuse stNospace

/-- A basic CLEAT_ALLOC of an engine waits ahead of a packet (R154). -/
def State.waitsOn (s : State) (p : Packet) (e : Nat) : Bool :=
  s.taken.any fun q => q.waiting && q.eng == e && decide (q.hdr.no < p.hdr.no)

/-- A basic CLEAT_ALLOC of a context waits ahead of a packet. -/
def State.waitsFor (s : State) (p : Packet) (c : Nat) : Bool :=
  s.taken.any fun q => q.waiting && q.hdr.ctx == c && decide (q.hdr.no < p.hdr.no)

/-- CLEAT_ALLOC (R153 to R155). -/
def cleatAlloc (p : Packet) (s : State) : Ans :=
  let c := p.hdr.ctx
  let size := p.f 4 19 0
  needState (s.ctxCode c) ctxOpen <|
    if p.hdr.expert then
      let e := p.f 5 2 0
      let b := BitVec.ofNat 16 (p.f 5 31 16)
      let n := rowsOf size (groupsOf b).length
      let base := p.f 6 17 0
      if s.waitsOn p e then .hold
      else
        refuseIf (!(s.part (s.ctx c).part).mask.getLsbD e) stRange (det 5 0) <|
        refuseIf (decide (spmWords < base + 256 * n)) stRange (det 6 0) <|
          match (s.engine e).freeEntry false with
          | none => .refuse stNospace
          | some h =>
            if rowsFree ((s.engine e).occupied false) b (base / 256) n then
              .done (s.takeCleat c e h size b (base / 256)) (cleatReply e h b (base / 256))
            else .refuse stNospace
    else
      match (s.lastEngine c).orElse fun _ => s.firstPlace c with
      | none => .refuse stNospace
      | some e => if s.waitsOn p e then .hold else s.basicCleat c e size

/-- CLEAT_ALLOC. -/
def execCleatAlloc (k : Nat) (s : State) : Host.Outcome State Fault Refusal := runPacket 0x210 k cleatAlloc s

/-- A waiting CLEAT_ALLOC of engine `e` is applied again once every scrub it waited for has ended; a hold of one of them ends
the wait for it (R154, R159). -/
def State.cleatRetry (s : State) (e : Nat) : State :=
  match s.taken.findIdx? fun q => q.waiting && q.eng == e with
  | none => s
  | some i =>
    match s.taken[i]? with
    | none => s
    | some p =>
      if p.scrubs.any (s.engine e).scrubs.contains then s
      else
      let s' := { s with taken := s.taken.eraseIdx i }
      match (s'.objection p).orElse fun _ => s'.bar p with
      | some r => s'.answer p (.ofRefuse r)
      | none =>
        match needState (s'.ctxCode p.hdr.ctx) ctxOpen (s'.basicCleat p.hdr.ctx e (p.f 4 19 0)) with
        | .wait _ l => { s with taken := s.taken.set i { p with scrubs := l } }
        | a => s'.answer p a

/-- CLEAT_ALLOC_RETRY. -/
def execCleatAllocRetry (e : Fin 8) (s : State) : Host.Outcome State Fault Refusal := .next (s.cleatRetry e.val)

/-! ### Release and scrub (R156 to R159) -/

/-- A job on an engine names a handle as its context's. -/
def State.handleBusy (s : State) (c e h : Nat) : Bool :=
  (s.ctxJobs c).any fun p => p.1 == e && p.2.cmds.any fun cmd => (handles cmd).any fun q => q.2 == h

/-- A cleat enters SCRUB; one whose banks have been vacated becomes FREE (R152, R157, R159). -/
def State.toScrub (s : State) (e h : Nat) : State :=
  let c := s.cleat e h
  if c.state = 2 then (s.setCleat e h {}).closeOp 0x211 (128 * e + h) stOk {}
  else if c.state = 1 then
    (s.setCleat e h { c with state := 3, released := false, hold := (s.engine e).resHold }).upEngine e fun x =>
      { x with scrubQ := x.scrubQ ++ [h] }
  else s

/-- A job of a context that is being destroyed still stands on an engine (R157). -/
def State.dying (s : State) (c e : Nat) : Bool := (s.ctx c).scrubbing && (s.ctxJobs c).any fun p => p.1 == e

/-- Released cleats that no job names any longer enter SCRUB; those of a destroyed context, and its slot, once nothing of
it runs on the engine (R156, R157, R385). -/
def State.settleCleats (s : State) (e : Nat) : State :=
  let s := ((s.engine e).cleats.filter fun p => p.2.released).foldl (fun s p =>
    if s.handleBusy p.2.owner e p.1 || s.dying p.2.owner e then s else s.toScrub e p.1) s
  slotNos.foldl (fun s k =>
    match ((s.engine e).slot k).ctx with
    | none => s
    | some c =>
      if (s.ctx c).scrubbing ∧ ¬ s.dying c e then
        s.upEngine e fun x =>
          { x.setSlot k {} with qs := Tab.erase x.qs k, remotes := x.remotes.filter fun r => r.ctx ≠ c }
      else s) s

/-- A list of a loaded plan of the context names a cleat: the slot's state (R156). -/
def State.planNamesCleat (s : State) (c e h : Nat) : Option Nat :=
  (planNos.find? fun i => let p := s.plan i; p.state != 0x50 && p.ctx == c &&
    p.lists.any fun l => fld (wat (p.points.getD l.1 []) 2) 2 0 == e &&
      l.2.any fun cmd => (handles cmd).any fun q => q.2 == h).map fun i => (s.plan i).state

/-- CLEAT_RELEASE (R156). -/
def cleatRelease (p : Packet) (s : State) : Ans :=
  let c := p.hdr.ctx
  let h := p.f 4 6 0
  let e := p.f 4 10 8
  if s.waitsOn p e then .hold
  else
    refuseIf (!s.owns c e h) stAuth 0 <|
    needState (s.ctxCode c) ctxOpen <|
      match s.planNamesCleat c e h with
      | some st => .refuse stState (wd st)
      | none => .pend (128 * e + h) 0 0 fun s => (s.setCleat e h { s.cleat e h with released := true }).settleCleats e

/-- CLEAT_RELEASE. -/
def execCleatRelease (k : Nat) (s : State) : Host.Outcome State Fault Refusal := runPacket 0x211 k cleatRelease s

/-- Item `h` of an engine's scrubber leaves its queue; no CLEAT_ALLOC waits for it any longer. -/
def State.leaveScrub (s : State) (e h : Nat) : State :=
  let s := s.upEngine e fun x => { x with scrubQ := x.scrubQ.filter (· ≠ h), vacated := Tab.erase x.vacated h }
  { s with taken := s.taken.map fun p => if p.waiting ∧ p.eng = e then { p with scrubs := p.scrubs.filter (· ≠ h) } else p }

/-- The scrubber finishes the first region that is not held (R158). -/
def State.scrubbed (s : State) (e : Nat) : State :=
  match (s.engine e).scrubs.head? with
  | none => s
  | some h =>
    let s := s.scrubRegion e ((s.engine e).inScrub h)
    let s := if h < 128 then s.setCleat e h {} else s
    ((s.leaveScrub e h).event (64 + 8 * e + 5)).closeOp 0x211 (128 * e + h) stOk {}

/-- CLEAT_SCRUB_COMPLETE. -/
def execCleatScrubComplete (e : Fin 8) (s : State) : Host.Outcome State Fault Refusal := .next (s.scrubbed e.val)

/-- The banks of a cleat have been vacated: the region is scrubbed, or held where the engine's residue is held (R157, R159). -/
def State.vacate (s : State) (e : Nat) (c : Cleat) : State :=
  if (s.engine e).resHold then
    s.upEngine e fun x =>
      let n := (x.vacated.map fun p => p.1 + 1).foldl max 128
      { x with vacated := Tab.set x.vacated n { c with state := 3, hold := true }, scrubQ := x.scrubQ ++ [n] }
  else s.scrubRegion e c

/-- RESIDUE_HOLD_EXPIRY: time passes to ten seconds after the hold was set, and it ends (R159). -/
def execResidueHoldExpiry (e : Fin 8) (s : State) : Host.Outcome State Fault Refusal :=
  .next (if (s.engine e.val).resHold then (s.passTo ((s.engine e.val).resSince + 10000000000)).holdRelease e.val else s)

/-! ### Commons (R161 to R164) -/

/-- COMMONS_SPLIT (R163). A second one while one is being applied meets a held resource (log 34). A basic one whose X is below
the sum of the quotas that stand is accepted and leaves them as they are: R163 ties their sum to X in expert form alone
(DESIGN CHOICE, log 163). -/
def commonsSplit (p : Packet) (s : State) : Ans :=
  let x := p.f 4 6 0
  if s.commons.changing then .refuse stBusy
  else if s.commons.used.any fun u => decide (commonsBase + x * 2 ^ 20 < u.1 + u.2.1) then .refuse stBusy
  else .pend 0 0 0 fun s => s.upCommons fun y => { y with changing := true, newX := x }

/-- COMMONS_SPLIT. -/
def execCommonsSplit (k : Nat) (s : State) : Host.Outcome State Fault Refusal := runPacket 0x230 k commonsSplit s

/-- The new split is set (R163). -/
def State.splitDone (s : State) : State :=
  if s.commons.changing then
    let x := s.commons.x
    let n := s.commons.newX
    let s := if x < n then s.scrub (commonsBase + x * 2 ^ 20) ((n - x) * 2 ^ 20) else s
    let s := s.upCommons fun y => { y with x := n, changing := false }
    match s.openOf 0x230 0 with
    | none => s
    | some o =>
      let s := if o.hdr.expert then
          [0, 1, 2, 3].foldl (fun s i => s.upPart i fun q => { q with quota := fld (wat o.params (1 + i)) 6 0 }) s
        else s
      s.close o stOk {}
  else s

/-- COMMONS_SPLIT_COMPLETE. -/
def execCommonsSplitComplete (s : State) : Host.Outcome State Fault Refusal := .next s.splitDone

/-- PREFETCH_CFG (R165). -/
def prefetchCfg (p : Packet) (s : State) : Ans :=
  let c := p.hdr.ctx
  needState (s.ctxCode c) ctxOpen <|
    let f : Prefetch := { mode := p.f 4 5 4, distance := p.f 4 15 8, strides := if p.hdr.expert then p.params.drop 2 else [] }
    .done (s.upCtx c fun x => { x with profiles := Tab.set x.profiles (p.f 4 3 0) f }) {}

/-- PREFETCH_CFG. -/
def execPrefetchCfg (k : Nat) (s : State) : Host.Outcome State Fault Refusal := runPacket 0x231 k prefetchCfg s

end Sys2Proof.Machine
end

