-- ==== Sys2Proof/Machine/Save.lean ====
section
/-! DEFINITION. Save areas and the cleat images in them (R374, R381, R382). -/

namespace Sys2Proof.Machine

/-- Bytes of a section. -/
def secBytes : Nat := 15466496
/-- Offset of the hold set. -/
def secHold : Nat := 262144
/-- Offset of the cleat images. -/
def secImages : Nat := 2883584

/-- First device-virtual byte of the section of engine `g` in a context's save area (R381). -/
def Ctx.section (c : Ctx) (g : Nat) : Nat :=
  c.saveVa + ((List.range g).filter fun e => c.mask0.getLsbD e).length * secBytes

/-- The image of a cleat of a saved group: its address. -/
def State.imageOf (s : State) (c g h : Nat) : Option Nat :=
  ((s.ctx c).saved.find? fun x => x.engine == g).bind fun x =>
    (x.images.find? fun im => im.handle == h).map fun im => (s.ctx c).section g + im.off

/-- Logical bytes of a cleat, wherever they stand: in the scratchpad, or in its image. -/
def State.anyRd (s : State) (c e h off n : Nat) : List Byte :=
  if (s.cleat e h).state = 2 then
    match s.imageOf c e h with
    | some va => (match s.vrd none c (va + off) n with
      | .ok bs => bs
      | .error _ => slice [] 0 n)
    | none => slice [] 0 n
  else s.clRd e h off n

/-- Firmware writes logical bytes of a cleat, wherever they stand; the CRC it keeps of an image follows. -/
def State.anyWr (s : State) (c e h off : Nat) (bs : List Byte) : State :=
  if (s.cleat e h).state = 2 then
    match s.imageOf c e h with
    | none => s
    | some va =>
      match s.vwr none c (va + off) bs with
      | .error _ => s
      | .ok s =>
        match s.vrd none c va (64 * (s.cleat e h).size) with
        | .error _ => s
        | .ok all => s.upCtx c fun x =>
          { x with saved := x.saved.map fun y =>
              if y.engine = e then { y with images := y.images.map fun im => if im.handle = h then { im with crc := crc32c all } else im }
              else y }
  else s.clWr e h off bs

end Sys2Proof.Machine
end

