-- ==== Sys2Proof/Machine/Math.lean ====
section
/-! DEFINITION. The functions of R118: each returns the exact mathematical value of an FP32 input, rounded once. The
value is bracketed by two rationals that are closer to each other than any binary32 result needs, and both round to the
same word. -/

namespace Sys2Proof.Machine

/-- One, in fixed point with 192 fraction bits. -/
def fx1 : Nat := 2 ^ 192
/-- The natural logarithm of 2, floor of its 192-bit fixed-point value. -/
def fxLn2 : Nat := 0xb17217f7d1cf79abc9e3b39803f2f6af40f343267298b62d
/-- The square root of 8/π, floor of its 192-bit fixed-point value. -/
def fxGelu : Nat := 0x19884533d436508d0fcb3c500bab8e2ff4e0a7cc1449c1b63
/-- Half the width of a bracket. -/
def fxTol : Nat := 2 ^ 24

/-- Terms of the exponential series from number `i` on. -/
def expTerms (r : Int) : Nat → Nat → Int → Int → Int
  | 0, _, _, acc => acc
  | f + 1, i, t, acc => let t' := t * r / ((fx1 * i : Nat) : Int); expTerms r f (i + 1) t' (acc + t')

/-- exp of a fixed-point number: a significand with 192 fraction bits and a power of two. -/
def expFx (x : Int) : Nat × Int :=
  let k := (2 * x + fxLn2) / (2 * (fxLn2 : Int))
  ((expTerms (x - k * fxLn2) 60 1 fx1 fx1).toNat, k)

/-- Round a value by the lower end of its bracket; the upper end rounds to the same word. -/
def roundIv (mode : Nat) (neg : Bool) (lo : Nat × Nat) (e : Int) : Word := wd (fFP32.round mode neg lo.1 lo.2 e)

/-- A value too small for FP32, or one just off a limit: rounded as a magnitude `num / den`. -/
def roundTo (mode : Nat) (neg : Bool) (num den : Nat) (e : Int) : Word := wd (fFP32.round mode neg num den e)

/-- The magnitude `m * 2^e` is at least `2^k`. -/
def atLeast (m : Nat) (e k : Int) : Bool := decide (m ≠ 0 ∧ k ≤ floorLog m 1 + e)

/-- The fixed-point value of `m * 2^e`, for `e` at least -149. -/
def fxOf (m : Nat) (e : Int) : Nat := m * 2 ^ (e + 192).toNat

/-- Powers of two `p` and `q` with `E * 2^(k-192) = E * p / q`. -/
def scaleOf (k : Int) : Nat × Nat := (2 ^ (k - 192).toNat, 2 ^ (192 - k).toNat)

/-- EXP. -/
def fExp (mode : Nat) (w : Word) : Word :=
  match fv w with
  | .nan => fNan
  | .inf neg => if neg then 0 else 0x7F800000
  | .fin neg m e =>
    if m = 0 then fOne
    else if atLeast m e 8 then roundTo mode false 1 1 (if neg then -400 else 400)
    else
      let (s, k) := expFx (if neg then -(fxOf m e : Int) else fxOf m e)
      roundIv mode false (s - fxTol, 1) (k - 192)

/-- `num / (1 + exp y)` for a fixed-point `y`, rounded with a power of two. -/
def overOnePlus (mode : Nat) (neg : Bool) (num : Nat) (e : Int) (y : Int) : Word :=
  let (s, k) := expFx y
  let (p, q) := scaleOf k
  roundIv mode neg (num * q, q + (s + fxTol) * p) e

/-- SIGMOID. -/
def fSigmoid (mode : Nat) (w : Word) : Word :=
  match fv w with
  | .nan => fNan
  | .inf neg => if neg then 0 else fOne
  | .fin neg m e =>
    if m = 0 then 0x3F000000
    else if atLeast m e 8 then
      if neg then roundTo mode false 1 1 (-360) else roundTo mode false (2 ^ 100 - 1) 1 (-100)
    else overOnePlus mode false 1 0 (if neg then (fxOf m e : Int) else -(fxOf m e : Int))

/-- TANH. -/
def fTanh (mode : Nat) (w : Word) : Word :=
  match fv w with
  | .nan => fNan
  | .inf neg => wd (fFP32.code neg 0x3F800000)
  | .fin neg m e =>
    if m = 0 then w
    else if atLeast m e 6 then roundTo mode neg (2 ^ 100 - 1) 1 (-100)
    else if ¬ atLeast m e (-40) then roundTo mode neg (m * 2 ^ 100 - 1) 1 (e - 100)
    else
      let (s, k) := expFx (2 * (fxOf m e : Int))
      let (p, q) := scaleOf k
      roundIv mode neg ((s - fxTol) * p - q, (s - fxTol) * p + q) 0

/-- SILU. Its value at -∞ is open (log 36). -/
def fSilu (mode : Nat) (w : Word) : Word :=
  match fv w with
  | .nan => fNan
  | .inf neg => if neg then Config.actAtNegInf 0 else 0x7F800000
  | .fin neg m e =>
    if m = 0 then w
    else if atLeast m e 8 then
      if neg then roundTo mode true 1 1 (-360) else roundTo mode false (m * 2 ^ 100 - 1) 1 (e - 100)
    else overOnePlus mode neg m e (if neg then (fxOf m e : Int) else -(fxOf m e : Int))

/-- GELU, tanh form: `x / (1 + exp (-2u))`. Its value at -∞ is open (log 36). -/
def fGelu (mode : Nat) (w : Word) : Word :=
  match fv w with
  | .nan => fNan
  | .inf neg => if neg then Config.actAtNegInf 1 else 0x7F800000
  | .fin neg m e =>
    if m = 0 then w
    else if atLeast m e 4 then
      if neg then roundTo mode true 1 1 (-360) else roundTo mode false (m * 2 ^ 100 - 1) 1 (e - 100)
    else
      let s := (-e).toNat
      let mm := m * 2 ^ e.toNat
      let u : Nat := fxGelu * mm * (200000 * 2 ^ (2 * s) + 8943 * mm ^ 2) / (200000 * 2 ^ (3 * s))
      overOnePlus mode neg m e (if neg then (u : Int) else -(u : Int))

/-- The integer square root of a number below 2^(2n), bit by bit. -/
def isqrt (t : Nat) : Nat → Nat → Nat
  | 0, a => a
  | n + 1, a => let b := a + 2 ^ n; isqrt t n (if b * b ≤ t then b else a)

/-- RSQRT. -/
def fRsqrt (mode : Nat) (w : Word) : Word :=
  match fv w with
  | .nan => fNan
  | .inf neg => if neg then fNan else 0
  | .fin neg m e =>
    if m = 0 then wd (fFP32.code neg 0x7F800000)
    else if neg then fNan
    else
      let (m, e) := if e % 2 = 0 then (m, e) else (2 * m, e - 1)
      let a := isqrt (2 ^ 256 / m) 129 0
      if a * a * m = 2 ^ 256 then roundTo mode false a 1 (-128 - e / 2)
      else roundTo mode false (2 * a + 1) 1 (-129 - e / 2)

/-- RECIP. -/
def fRecip (mode : Nat) (w : Word) : Word := fDiv mode fOne w

/-- RELU (R118). -/
def fRelu (w : Word) : Word := if fIsNan w then fNan else if fLt 0 w then w else 0

/-- An epilogue activation (R82). -/
def actOf (mode act : Nat) (w : Word) : Word :=
  if act = 1 then fRelu w else if act = 2 then fGelu mode w else if act = 3 then fSilu mode w else w

end Sys2Proof.Machine
end

