-- ==== Sys2Proof/Machine/Elem.lean ====
section
/-! DEFINITION. Elements of the operand formats, the exact sums of the spar array and their raw records (R101 to R116). -/

namespace Sys2Proof.Machine

/-! ### Elements -/

/-- The float format of a code. -/
def fmtOf (f : Nat) : FFmt :=
  if f = 2 then fFP4 else if f = 6 then fE4M3 else if f = 7 then fE5M2 else if f = 9 then fFP16 else if f = 10 then fBF16
  else fFP32

/-- An integer as a value; zero is +0. -/
def FV.ofInt (i : Int) : FV := .fin (decide (i < 0)) i.natAbs 0

/-- The value of an element's code; an E4X escape decodes as its plain INT4 code, callers look for it first. -/
def decEl (f c : Nat) : FV :=
  if f = 1 ∨ f = 3 then .ofInt (sext 4 c)
  else if f = 4 then .ofInt (sext 8 c)
  else if f = 5 then .fin false c 0
  else if f = 8 then .ofInt (sext 16 c)
  else (fmtOf f).dec c

/-- Saturate a rounded value to an integer format of the VU. -/
def satInt (lo hi : Int) (mode : Nat) (x : FV) : Int :=
  match x with
  | .nan => 0
  | .inf neg => if neg then lo else hi
  | _ => match x.toInt mode with
    | some i => if i < lo then lo else if hi < i then hi else i
    | none => 0

/-- The code of a value in an output format, rounded once (R109). -/
def encEl (f mode : Nat) (x : FV) : Nat :=
  if f = 5 then (satInt 0 255 mode x).toNat
  else if f = 8 then ((satInt (-32768) 32767 mode x) % 65536).toNat
  else (fmtOf f).ofFV mode x

/-- A code with the payload and the sign of a NaN dropped (R106). -/
def canonCode (f c : Nat) : Nat := if (decEl f c).isNan then encEl f 0 .nan else c

/-- An FP32 word with the payload and the sign of a NaN dropped (R106). -/
def canonWord (w : Word) : Word := if fIsNan w then fNan else w

/-- The codes of `n` elements packed in bytes (R102). -/
def codesOf (f n : Nat) (bs : List Byte) : List Nat :=
  if fmtBits f = 4 then (bs.flatMap fun b => [b.toNat % 16, b.toNat / 16]).take n
  else (chunks (fmtBits f / 8) n bs).map leNat

/-- Pairs of nibbles as bytes; a last single one leaves [7:4] zero. -/
def nibbles : List Nat → List Byte
  | [] => []
  | [a] => [BitVec.ofNat 8 a]
  | a :: b :: t => BitVec.ofNat 8 (a + 16 * b) :: nibbles t

/-- Codes packed in bytes. -/
def packCodes (f : Nat) (l : List Nat) : List Byte :=
  if fmtBits f = 4 then nibbles l else l.flatMap fun c => natBytes (fmtBits f / 8) c

/-- A value as an FP32 word: exact for every format of the VU. -/
def toWord (x : FV) : Word := toF 0 x

/-- The largest absolute value of a row as written, FP32 (R82, R119). -/
def rowAbsMax (f : Nat) (l : List Nat) : Word := l.foldl (fun a c => fMax a (fAbs (toWord (decEl f c)))) 0

/-- A scale that R103 allows: positive, finite and normal BF16. -/
def scaleOk (c : Nat) : Bool := decide (0x0080 ≤ c ∧ c < 0x7F80)

/-! ### Exact sums (R111 to R114) -/

/-- A factor of a product: its value, and its integer in units of the format's least significant bit. -/
structure Fac where
  /-- The value. -/
  v : FV
  /-- Its integer multiple of 2^L; 0 for a NaN or an infinity. -/
  i : Int
deriving Inhabited

/-- A value in units of 2^l. -/
def FV.units (x : FV) (l : Int) : Int :=
  match x with
  | .fin neg m e => sig neg m e l
  | _ => 0

/-- The factor of an element. -/
def facOf (f c : Nat) : Fac := let v := decEl f c; { v := v, i := v.units (fmtL f) }

/-- A factor of exactly zero. -/
def Fac.zero : Fac := { v := .fin false 0 0, i := 0 }

/-- Set the flags of a value that is no number (R113). -/
def HoldRec.flags (r : HoldRec) (x : FV) : HoldRec :=
  match x with
  | .nan => { r with nan := true }
  | .inf neg => { r with pinf := r.pinf || !neg, ninf := r.ninf || neg }
  | _ => r

/-- Add a product to the register (or, with `esc`, to the escape lane), in units multiplied by `unit`; products with a NaN
or an infinity set flags. Each product counts once (R112, R113). -/
def HoldRec.add (r : HoldRec) (esc : Bool) (unit : Int) (a b : Fac) : HoldRec :=
  let r := { r with terms := r.terms + 1 }
  if a.v.isFin && b.v.isFin then
    if esc then { r with esc := r.esc + a.i * b.i * unit } else { r with reg := r.reg + a.i * b.i * unit }
  else r.flags (a.v.mul b.v)

/-- Add the parts of another record (R116). -/
def HoldRec.plus (r q : HoldRec) : HoldRec :=
  { reg := r.reg + q.reg, esc := r.esc + q.esc, terms := r.terms + q.terms, nan := r.nan || q.nan,
    pinf := r.pinf || q.pinf, ninf := r.ninf || q.ninf }

/-- A signed fixed-point value: an integer and the exponent of its unit. -/
abbrev Fix := Int × Int

/-- Sum of two fixed-point values. -/
def Fix.add (a b : Fix) : Fix := let e := min a.2 b.2; (a.1 * 2 ^ (a.2 - e).toNat + b.1 * 2 ^ (b.2 - e).toNat, e)

/-- A scale's value as an integer and an exponent; 1 for no scale. -/
def scaleFix (c : Option Nat) : Fix :=
  match c with
  | none => (1, 0)
  | some c => match fBF16.dec c with
    | .fin _ m e => ((m : Int), e)
    | _ => (1, 0)

/-- The value of a sum before rounding (R113, R114): `s * t * M + s * E + bias`, with the units of the register and of the
escape lane. -/
def HoldRec.value (r : HoldRec) (mode : Nat) (ureg uesc : Int) (s t : Fix) (bias : Option FV) : FV :=
  let r := match bias with
    | some b => r.flags b
    | none => r
  if r.nan || (r.pinf && r.ninf) then .nan
  else if r.pinf then .inf false
  else if r.ninf then .inf true
  else
    let v : Fix := Fix.add (s.1 * t.1 * r.reg, s.2 + t.2 + ureg) (s.1 * r.esc, s.2 + uesc)
    let v := match bias with
      | some (.fin neg m e) => Fix.add v (if neg then -(m : Int) else m, e)
      | _ => v
    FV.ofSum mode v.1 v.2

/-- Finish a sum: one rounding to the output format, or to FP32, the activation and the output format (R83, R114). -/
def finish (mode act f : Nat) (x : FV) : Nat :=
  if act = 0 then encEl f mode x else encEl f mode (fv (actOf mode act (toF mode x)))

/-! ### Raw records (R115, R116, R196) -/

/-- Residue modulo 127. -/
def res127 (i : Int) : Nat := (i % 127).toNat

/-- 64-bit words of the register. -/
def regWords (a b : Nat) (px : Bool) : Nat := cdiv (accW a b px) 64
/-- 64-bit words of the escape lane. -/
def escWords (a b : Nat) (px : Bool) : Nat := if b = 3 then cdiv (accWe a px) 64 else 0

/-- The bytes of a raw record for formats A and B. -/
def HoldRec.bytes (r : HoldRec) (a b : Nat) (px : Bool) : List Byte :=
  let n := 8 * regWords a b px
  let k := 8 * escWords a b px
  natBytes 8 (r.terms + 2 ^ 32 * a + 2 ^ 36 * b + bitAt r.nan 40 + bitAt r.pinf 41 + bitAt r.ninf 42 +
      2 ^ 48 * ((res127 r.reg + res127 r.esc) % 127)) ++
    natBytes n (r.reg % 2 ^ (8 * n)).toNat ++ natBytes k (r.esc % 2 ^ (8 * k)).toNat

/-- A signed value of whole bytes. -/
def signedLe (bs : List Byte) : Int := if bs.isEmpty then 0 else sext (8 * bs.length) (leNat bs)

/-- What loading a raw record comes to. -/
inductive Loaded where
  /-- The record. -/
  | ok (r : HoldRec)
  /-- It breaks R116: FLT_OPERAND, or FLT_RESIDUE. -/
  | bad (code : Nat)

/-- Load a raw record for formats A and B (R116). -/
def loadRec (a b : Nat) (px : Bool) (bs : List Byte) : Loaded :=
  let h := leNat (bs.take 8)
  let n := 8 * regWords a b px
  let reg := signedLe (slice bs 8 n)
  let esc := if escWords a b px = 0 then 0 else signedLe (slice bs (8 + n) (8 * escWords a b px))
  if h / 2 ^ 32 % 16 ≠ a ∨ h / 2 ^ 36 % 16 ≠ b ∨ h % 2 ^ 32 = 0xFFFFFFFF ∨ h / 2 ^ 43 % 32 ≠ 0 ∨ h / 2 ^ 55 ≠ 0 then
    .bad 0x0104
  else if (res127 reg + res127 esc) % 127 ≠ h / 2 ^ 48 % 128 then .bad 0x0102
  else .ok { reg := reg, esc := esc, terms := h % 2 ^ 32, nan := h.testBit 40, pinf := h.testBit 41, ninf := h.testBit 42 }

/-- The most products a sum may count (R112). -/
def maxTerms : Nat := 0xFFFFFFFE

end Sys2Proof.Machine
end

