-- ==== Sys2Proof/Machine/ListCheck.lean ====
section
/-! DEFINITION. The check of a command list as firmware copies it (R73 to R89, R95, R101, R107, R108, R128 to R132, R139,
R193 to R207, R213, R234): the first refusal found, with the word, the low bit and the command (log 35). -/

namespace Sys2Proof.Machine

/-- One check of a command: it fails, the status, the word and the low bit. -/
abbrev Chk := Bool × Nat × Nat × Nat

/-- A check that refuses with ST_FORMAT. -/
def kF (bad : Bool) (w lo : Nat) : Chk := (bad, stFormat, w, lo)
/-- A check that refuses with ST_RANGE. -/
def kR (bad : Bool) (w lo : Nat) : Chk := (bad, stRange, w, lo)
/-- A field's range. -/
def kFld (c : List Word) (w hi lo mn mx : Nat) : Chk := kR (decide (cf c w hi lo < mn ∨ mx < cf c w hi lo)) w lo

/-- The first failing check. -/
def firstChk (l : List Chk) : Option (Nat × Word) := (l.find? (·.1)).map fun k => (k.2.1, det k.2.2.1 k.2.2.2)

/-! ### Reserved bits -/

/-- Used bits of a TOW. -/
def towMask : Nat := 0x1FFFFFFF
/-- All bits. -/
def allMask : Nat := 0xFFFFFFFF
/-- A mask where a condition holds, else nothing. -/
def mIf (b : Bool) (m : Nat) : Nat := if b then m else 0

/-- The bits a command uses in each of its words; the others are reserved (R74 to R89). None where the opcode is
undefined. -/
def usedMask (c : List Word) : Option (List Nat) :=
  let op := cOp c
  let k := cf c 0 17 16
  let ck := cf c 0 18 16
  if op = opNop then some [0]
  else if op = opFSig then some [0x10000, 0xF, allMask]
  else if op = opFWait then some [0, 0xF, allMask]
  else if op = opLWait then
    let ab := cb c 0 16
    some [0x10000, allMask, mIf ab allMask, mIf ab 0xFFFF]
  else if op = opLoad ∨ op = opStore then
    let np := !cb c 0 16
    some [0x10000, towMask, allMask, 0x7FFFF, 0x1FFFFF, 0xFFFF, allMask, 0xFFFF, allMask, mIf np 0x3FFFF, mIf np 0x3FFFF]
  else if op = opFill then some [0, towMask, 0x3FFFF, allMask]
  else if op = opMat then
    some [0x3F0000, towMask, towMask, if cf c 14 1 0 = 0 then towMask else 0x1E000000, allMask, allMask, 0x3FFFF, 0x3FFFF, 0x3FFFF,
      mIf (fmtScaled (tF c 1)) towMask, mIf (cb c 0 17) towMask, mIf (cb c 0 18) towMask, mIf (cb c 0 19) towMask,
      mIf (cb c 0 16) towMask, 3]
  else if op = opConv then
    some [0x7F0000, towMask, mIf (decide (ck ≤ 1)) towMask, towMask, 0x7FFF7FFF, allMask, 0xFFFFFF,
      if 4 ≤ ck then 0x7FFF7FFF else allMask, allMask, 0x3FFF, allMask, 0x3FFFF, 0x3FFFF, mIf (cb c 0 19) towMask,
      mIf (cb c 0 20) towMask, mIf (fmtScaled (tF c 1)) towMask]
  else if op = opAttn then
    some [0x70000, towMask, towMask, towMask, mIf (cb c 0 16) towMask, 0x07FF3FFF, 0x1FFFFFF, allMask, 0x3FFFFF,
      mIf (fmtScaled (tF c 1)) towMask]
  else if op = opKv then
    let cp := cb c 0 16
    some [if cp then 0xF0000 else 0x30000, mIf cp towMask, towMask, 0x3FFFFF, mIf cp 0x3FFFF]
  else if op = opVec then
    let fn := cf c 0 23 16
    some [0xFF0000, towMask, mIf (!vecUnary fn) towMask, towMask, allMask, 0x3FFFF, 0x3FFFF, 0x3FFFF, allMask, 0x7F,
      mIf (cb c 9 4) towMask, mIf (fn == 0x30 || fn == 0x31) towMask]
  else if op = opXf then
    some [0x30000, towMask, mIf (k == 2) towMask, towMask, 0x1FFF1FFF, allMask, 0x3FFFF, 0x3FFFF]
  else if op = opChis then
    some [0xF0000, mIf (k != 0) towMask, towMask, mIf (k != 1) towMask, towMask, 0xFFFFF, 0x1FFFFFFF, allMask, allMask, 0x7FFF7FFF]
  else none

/-- The low bit of the reserved field that holds bit `b`. -/
def resLow (res : Nat) (cuts : List Nat) : Nat → Nat
  | 0 => 0
  | b + 1 => if res.testBit b && !cuts.contains (b + 1) then resLow res cuts b else b + 1

/-- The check of one word's reserved bits. -/
def chkWord (c : List Word) (used i : Nat) : Chk :=
  let u := if i = 0 then used ||| (if cSig c then 0x3FFF else 0x3FF) else used
  match (List.range 32).find? fun b => bit (wat c i) b && !u.testBit b with
  | none => kF false i 0
  | some b => kF true i (resLow (allMask - u) (if i = 0 then [10, 14, 16, 24] else []) b)

/-- The checks of every reserved bit. -/
def chkReserved (c : List Word) : List Chk :=
  match usedMask c with
  | none => [kF true 0 0]
  | some l => (List.range 16).map fun i => chkWord c (l.getD i 0) i

/-! ### Formats, codes and ranges -/

/-- Format of a TOW outside a list. -/
def kFmt (c : List Word) (w : Nat) (l : List Nat) : Chk := kF (!l.contains (tF c w)) w 25
/-- Format of a TOW that a flag brings into use. -/
def kFmtIf (b : Bool) (c : List Word) (w : Nat) (l : List Nat) : Chk := kF (b && !l.contains (tF c w)) w 25
/-- A code of four values in a field of four bits. -/
def kCode (c : List Word) (w hi lo : Nat) : Chk := kF (decide (3 < cf c w hi lo)) w lo

/-- Formats of operand A (R101). -/
def fmtsA : List Nat := [1, 2, 4, 5, 6, 7, 8, 9, 10]
/-- Output formats (R108). -/
def fmtsOut : List Nat := [6, 7, 8, 9, 10, 11, 15]
/-- VU formats. -/
def fmtsVu : List Nat := [5, 6, 7, 8, 9, 10, 11]
/-- KV formats (R219). -/
def fmtsKv : List Nat := [4, 6, 7, 9, 10]

/-- Checks of a MATMUL (R82, R83, R95, R101, R107, R108, R128, R139, R234). -/
def chkMat (c : List Word) : List Chk :=
  let acc := cf c 0 21 20
  let o := cf c 14 1 0
  let raw := tF c 3 == 15 && o == 0
  [kCode c 5 23 20, kCode c 5 31 28, kF (o == 3) 14 0,
   kFmt c 1 fmtsA, kF (!fmtPair (tF c 1) (tF c 2)) 2 25, kFmt c 3 (if o = 0 then fmtsOut else fmtsKv),
   kF (raw && cb c 0 17) 0 17, kF (raw && cb c 0 18) 0 18, kF (raw && cf c 5 31 28 != 0) 5 28,
   kF (o != 0 && (acc == 1 || acc == 2)) 0 20,
   kF (cb c 0 16 && !(decide (0 < tF c 2 ∧ tF c 2 ≤ 7))) 0 16,
   kF (fmtScaled (tF c 2) != cb c 5 27) 5 27,
   kFmtIf (fmtScaled (tF c 1)) c 9 [10], kFmtIf (cb c 0 17) c 10 [11], kFmtIf (cb c 0 18) c 11 [11],
   kFmtIf (cb c 0 19) c 12 [15], kFmtIf (cb c 0 16) c 13 [0],
   kFld c 4 15 0 1 65534, kFld c 4 31 16 1 65534, kFld c 5 19 0 1 1048574,
   kR (acc != 0 && decide (128 < cf c 4 15 0)) 4 0, kR (acc != 0 && decide (256 < cf c 4 31 16)) 4 16]

/-- Checks of a CONV (R85, R193 to R207). -/
def chkConv (c : List Word) : List Chk :=
  let g := geo c
  let win := decide (g.kind ≤ 1)
  let rs := decide (4 ≤ g.kind)
  let raw := tF c 3 == 15
  [kF (decide (5 < g.kind)) 0 16, kF (cf c 0 22 21 == 3) 0 21, kCode c 9 5 2, kCode c 9 13 10,
   kFmt c 1 fmtsA, kF (win && !fmtPair (tF c 1) (tF c 2)) 2 25, kFmt c 3 fmtsOut,
   kF (raw && cb c 0 19) 0 19, kF (raw && cb c 0 20) 0 20, kF (raw && cf c 9 13 10 != 0) 9 10,
   kF (win && fmtScaled (tF c 2) != cb c 9 9) 9 9,
   kFmtIf (cb c 0 19) c 13 [11], kFmtIf (cb c 0 20) c 14 [11], kFmtIf (fmtScaled (tF c 1)) c 15 [10],
   kF (cf c 9 1 0 == 1 && fmtScaled (tF c 1)) 9 0,
   kF (!win && cb c 0 19) 0 19, kF (!win && raw) 3 25, kF (!win && g.co != g.ci) 5 16,
   kF (rs && g.kh != 1) 6 0, kF (rs && g.kw != 1) 6 8, kF (rs && g.sh != 1) 6 16, kF (rs && g.sw != 1) 6 20,
   kF (rs && cf c 8 7 0 != 0) 8 0, kF (rs && cf c 8 15 8 != 0) 8 8, kF (rs && cf c 8 23 16 != 0) 8 16, kF (rs && cf c 8 31 24 != 0) 8 24,
   kF (rs && g.pad != 0) 9 0, kF (!win && cb c 9 9) 9 9, kF (cf c 0 22 21 == 2 && !freqOk c) 0 21,
   kFld c 4 14 0 1 16384, kFld c 4 30 16 1 16384, kFld c 5 15 0 1 65534, kFld c 5 31 16 1 65534,
   kFld c 6 7 0 1 254, kFld c 6 15 8 1 254, kFld c 6 19 16 1 14, kFld c 6 23 20 1 14,
   kFld c 7 15 0 1 (if rs then 16384 else 65534), kFld c 7 31 16 1 (if rs then 16384 else 65534),
   kFld c 8 7 0 0 254, kFld c 8 15 8 0 254, kFld c 8 23 16 0 254, kFld c 8 31 24 0 254,
   kR (g.kind == 1 && g.co % g.ci != 0) 5 16,
   kR (decide (g.ho < 1 ∨ 16384 < g.ho)) 4 0, kR (decide (g.wo < 1 ∨ 16384 < g.wo)) 4 16,
   kR (decide (cf c 11 17 0 < cdiv (rowBytes (tF c 1) (g.w * g.ci)) 64)) 11 0,
   kR (decide (cf c 12 17 0 < cdiv (outBytes (tF c 3) (g.wo * g.co) (recBytes (tF c 1) (tF c 2) (fmtScaled (tF c 1)))) 64)) 12 0]

/-- Checks of an ATTENTION (R86, R237, R238). -/
def chkAttn (c : List Word) : List Chk :=
  let qh := cf c 6 7 0
  let kvh := cf c 6 15 8
  [kCode c 8 21 18, kFmt c 1 fmtsA, kFmt c 2 [9, 10, 11], kFmt c 3 [0], kFmtIf (cb c 0 16) c 4 [0],
   kFmtIf (fmtScaled (tF c 1)) c 9 [10],
   kFld c 5 8 0 1 256, kFld c 5 13 9 1 (if cb c 0 16 then 16 else 8), kFld c 5 23 16 0 254,
   kFld c 6 7 0 1 254, kFld c 6 15 8 1 254, kR (qh % kvh != 0) 6 8, kFld c 6 24 16 1 256, kFld c 8 17 0 0 131072]

/-- Checks of a KV_APPEND (R86, R235). -/
def chkKv (c : List Word) : List Chk :=
  let cp := cb c 0 16
  [kF (cp && decide (1 < cf c 0 19 18)) 0 18, kFmtIf cp c 1 [6, 7, 9, 10, 11], kFmt c 2 [0],
   kFld c 3 7 0 0 254, kFld c 3 16 8 1 256, kFld c 3 21 17 1 16]

/-- A normal FP32 number above 0 and at most 1 (R129). -/
def clipOk (w : Word) : Bool := decide (0x00800000 ≤ w.toNat ∧ w.toNat ≤ 0x3F800000)

/-- Checks of a VECTOR (R87, R101, R108, R129, R132). -/
def chkVec (c : List Word) : List Chk :=
  let fn := cf c 0 23 16
  let q := fn == 0x30
  let d := fn == 0x31
  [kF (!vecKnown fn) 0 16, kCode c 9 3 0,
   kFmt c 1 (if q then [9, 10, 11] else if d then [1, 2, 4] else fmtsVu),
   kFmtIf (!vecUnary fn) c 2 fmtsVu,
   kFmt c 3 (if q then [1, 2, 4] else if d then [9, 10, 11] else fmtsVu),
   kFmtIf (cb c 9 4) c 10 [11], kFmtIf (q || d) c 11 [10], kF (q && cf c 9 6 5 != 0) 9 5,
   kFld c 4 15 0 1 65534, kFld c 4 31 16 1 65534, kR (q && !clipOk (cw c 8)) 8 0,
   kR (fn == 0x3A && decide ((cw c 8).toNat < 1 ∨ 4096 < (cw c 8).toNat)) 8 0]

/-- A size of the transform unit. -/
def fftSize (n : Nat) : Bool := [8, 16, 32, 64, 128, 256, 512, 1024, 2048, 4096].contains n

/-- Checks of a TRANSFORM (R88, R101). -/
def chkXf (c : List Word) : List Chk :=
  let cm := cf c 0 17 16 == 2
  [kF (cf c 0 17 16 == 3) 0 16, kFmt c 1 [11], kFmtIf cm c 2 [11], kFmt c 3 [11],
   kR (!fftSize (cf c 4 12 0)) 4 0, kR (!fftSize (cf c 4 28 16)) 4 16, kFld c 5 15 0 1 65534,
   kR (cm && decide (cf c 5 31 16 < 1 ∨ 65534 < cf c 5 31 16)) 5 16]

/-- Checks of a CHISEL (R89, R213). -/
def chkChis (c : List Word) : List Chk :=
  [kF (cf c 0 17 16 == 3) 0 16, kFmtIf (cf c 0 17 16 != 0) c 1 [9, 10, 11], kFmt c 2 [0], kFmtIf (cf c 0 17 16 != 1) c 3 [0], kFmt c 4 [0],
   kFld c 5 19 0 1 1048574, kFld c 6 15 0 1 65534, kFld c 6 28 16 1 4096,
   kR (!(fLe 0 (cw c 7) && fLe (cw c 7) fOne)) 7 0, kR (fIsNan (cw c 8)) 8 0,
   kFld c 9 14 0 0 32766, kFld c 9 30 16 0 32766]

/-- Checks of a LOAD or STORE (R79). -/
def chkMove (c : List Word) : List Chk :=
  [kFmt c 1 [0], kFld c 4 20 0 1 1048576, kFld c 5 15 0 1 65534, kR (cw c 6 == 0xFFFFFFFF) 6 0, kFld c 7 15 0 1 65534,
   kR (cw c 8 == 0xFFFFFFFF) 8 0]

/-- Checks of a command's own fields by opcode. -/
def chkFields (c : List Word) : List Chk :=
  let op := cOp c
  let top := cw c 2 == 0xFFFFFFFF
  if op = opFSig then [kR (top || (!cb c 0 16 && cw c 2 == 0)) 2 0]
  else if op = opFWait then [kR (top || cw c 2 == 0) 2 0]
  else if op = opLWait then
    [kR (if cb c 0 16 then decide (999999999 < (cw c 1).toNat) else cw c 1 == 0xFFFFFFFF) 1 0]
  else if op = opLoad ∨ op = opStore then chkMove c
  else if op = opFill then [kFmt c 1 [0], kFld c 2 17 0 1 196608]
  else if op = opMat then chkMat c
  else if op = opConv then chkConv c
  else if op = opAttn then chkAttn c
  else if op = opKv then chkKv c
  else if op = opVec then chkVec c
  else if op = opXf then chkXf c
  else if op = opChis then chkChis c
  else []

/-- The offsets of a command's TOWs (R75). -/
def chkOffsets (c : List Word) : List Chk := (operands c).map fun o => kR (decide (196607 < tO c o.w)) o.w 7

/-- Two operands of a command share a word: for a row of the first, the first row of the second that ends past its start
begins before its end. -/
def Opnd.shares (c : List Word) (a b : Opnd) : Bool :=
  let a0 := tO c a.w + a.skip
  let b0 := tO c b.w + b.skip
  let la := cdiv a.bytes 64
  let lb := cdiv b.bytes 64
  tH c a.w == tH c b.w && decide (0 < la ∧ 0 < lb) && (List.range a.rows).any fun r =>
    let x := a0 + r * a.stride
    let k := if x < b0 + lb then 0 else if b.stride = 0 then b.rows else (x - b0 - lb) / b.stride + 1
    decide (k < b.rows ∧ b0 + k * b.stride < x + la)

/-- Output words of a CONV, TRANSFORM or CHISEL that are words it reads (R200). -/
def chkInPlace (c : List Word) : List Chk :=
  let op := cOp c
  if op = opConv ∨ op = opXf ∨ op = opChis then
    let rs := operands c
    (rs.filter (·.wr)).map fun r => kF (rs.any fun q => !q.wr && r.shares c q) r.w 0
  else []

/-- What a command's own words come to: reserved bits and formats, then ranges. -/
def chkWords (c : List Word) : Option (Nat × Word) :=
  let l := chkReserved c ++ chkFields c
  (firstChk (l.filter fun k => k.2.1 == stFormat)).orElse fun _ =>
    (firstChk ((l ++ chkOffsets c).filter fun k => k.2.1 == stRange)).orElse fun _ => firstChk (chkInPlace c)

/-! ### Chains within a list -/

/-- What the check carries from one command to the next: the shape held by a HOLD, and what the last arming may still
serve. -/
structure Chain where
  /-- M and N, and C, of the chain in hold. -/
  hold : Option (Word × Word) := none
  /-- The arming has not served a keys MATMUL. -/
  keys : Bool := false
  /-- The arming has not served a values MATMUL. -/
  vals : Bool := false
deriving DecidableEq, Repr, Inhabited

/-- A command's place in the chains of its list (R83, R84, R234). -/
def Chain.next (h : Chain) (c : List Word) : Chain × Option (Nat × Word) :=
  if cOp c = opMat then
    let acc := cf c 0 21 20
    let o := cf c 14 1 0
    let me := (cw c 4, cw c 3)
    if 2 ≤ acc ∧ h.hold ≠ some me then (h, some (stFormat, det 0 20))
    else if (o = 1 ∧ ¬ h.keys) ∨ (o = 2 ∧ ¬ h.vals) then (h, some (stFormat, det 14 0))
    else ({ hold := if acc = 1 ∨ acc = 2 then some me else none, keys := h.keys && o != 1, vals := h.vals && o != 2 }, none)
  else if cOp c = opConv then ({ h with hold := none }, none)
  else if cOp c = opKv ∧ ¬ cb c 0 16 then ({ h with keys := true, vals := true }, none)
  else (h, none)

/-! ### The list -/

/-- The byte ranges of device memory that a LOAD or STORE touches, row by row. -/
def moveRows (c : List Word) : List Nat :=
  (List.range (cf c 7 15 0)).flatMap fun p => (List.range (cf c 5 15 0)).map fun r =>
    cVa c 2 + p * (64 * (cw c 8).toNat) + r * (cw c 6).toNat

/-- The SPU slot a command names. -/
def spuSlot (c : List Word) : Option (Nat × Nat × Nat) :=
  if cOp c = opMat ∧ cb c 5 27 then some (cf c 5 26 24, 5, 24)
  else if cOp c = opConv ∧ cb c 9 9 then some (cf c 9 8 6, 9, 6)
  else none

/-- How a list is submitted: by which context, over which bindings, and to which engine if it names one. -/
structure ListFor where
  /-- Context. -/
  ctx : Nat
  /-- Every route slot is bound for the job (R98). -/
  allRoutes : Bool := false
  /-- Route slots of the context, an armature's entries included. -/
  routes : List (Nat × RouteBind)
  /-- SPU slots of the context, an armature's entries included. -/
  scales : List (Nat × ScaleBind)
  /-- Engine of the step cleat (R228). -/
  eng : Option Nat := none
  /-- May hold no KV_APPEND and no MATMUL to the pages (R243). -/
  noKv : Bool := false

/-- The bindings of the context as they stand. -/
def State.listFor (s : State) (c : Nat) : ListFor := { ctx := c, routes := (s.ctx c).routes, scales := (s.ctx c).scales }

/-- The engines on which a context owns a handle. -/
def State.enginesOf (s : State) (c h : Nat) : List Nat := engNos.filter fun e => s.owns c e h

/-- Ownership and bindings of one command (R73). -/
def State.chkNames (s : State) (f : ListFor) (c : List Word) : Option (Nat × Word) :=
  match (handles c).find? fun h => (s.enginesOf f.ctx h.2).isEmpty with
  | some h => some (stAuth, det h.1 0)
  | none =>
    let r := cf c 3 18 16
    if (cOp c = opLoad ∨ cOp c = opStore) ∧ r ≠ 0 ∧ ¬ f.allRoutes ∧ (Tab.find f.routes r).isNone then some (stState, det 3 16)
    else
      match spuSlot c with
      | some (k, w, lo) => if (Tab.find f.scales k).isNone then some (stState, det w lo) else none
      | none =>
        if f.noKv ∧ (cOp c = opKv ∨ (cOp c = opMat ∧ cf c 14 1 0 ≠ 0)) then some (stFormat, det 0 0) else none

/-- Operands and addresses of one command on its engine (R73, R186). -/
def State.chkPlace (s : State) (f : ListFor) (e : Nat) (c : List Word) : Option (Nat × Word) :=
  (firstChk ((operands c).map fun o => kR (decide ((s.cleat e (tH c o.w)).size < tO c o.w + o.span)) o.w 7)).orElse fun _ =>
    if (cOp c = opLoad ∨ cOp c = opStore) ∧ s.ctxTT f.ctx ∧
        ¬ (moveRows c).all (fun a => s.vmapped f.ctx a (cf c 4 20 0) (cOp c == opStore)) then some (stRange, det 2 0)
    else none

/-- The first refusal of a list's commands by a test, with the index. -/
def firstCmd (g : List Word → Option (Nat × Word)) : Nat → List (List Word) → Option Refuse
  | _, [] => none
  | i, c :: t =>
    match g c with
    | some (st, d) => some (st, d, wd i)
    | none => firstCmd g (i + 1) t

/-- The first refusal by the chains. -/
def firstChain : Chain → Nat → List (List Word) → Option Refuse
  | _, _, [] => none
  | h, i, c :: t =>
    match h.next c with
    | (_, some (st, d)) => some (st, d, wd i)
    | (h, none) => firstChain h (i + 1) t

/-- The engines that own every handle of a list, or the place of the first handle that leaves none. -/
def State.narrow (s : State) (c : Nat) : List Nat → Nat → List (List Word) → Except Refuse (List Nat)
  | es, _, [] => .ok es
  | es, i, cmd :: t =>
    let step := fun (a : Except Refuse (List Nat)) (h : Nat × Nat) => match a with
      | .error r => .error r
      | .ok l =>
        let l' := l.filter fun e => s.owns c e h.2
        if l'.isEmpty then .error (stFormat, det h.1 0, wd i) else .ok l'
    match (handles cmd).foldl step (.ok es) with
    | .error r => .error r
    | .ok l => s.narrow c l (i + 1) t

/-- The engine of a list (R73): the one with the context's most recent cleat among those that hold every handle, else
the lowest. A list that names no handle, of a context that holds no cleat, takes the lowest engine of the context's mask and
partition: R73's own words would let every engine qualify (DESIGN CHOICE, log 153). -/
def State.listEngine (s : State) (f : ListFor) (cmds : List (List Word)) : Except Refuse Nat :=
  let first := match f.eng with
    | some e => [e]
    | none => engNos
  match s.narrow f.ctx first 0 cmds with
  | .error r => .error r
  | .ok l =>
    match f.eng with
    | some e => .ok e
    | none =>
      let ok := if cmds.all fun c => (handles c).isEmpty then s.candidates f.ctx else l
      match s.lastEngine f.ctx with
      | some e => .ok (if l.contains e then e else ok.headD 0)
      | none => .ok (ok.headD 0)

/-- Check a copied list: the engine it runs on, or the refusal. -/
def State.checkList (s : State) (f : ListFor) (cmds : List (List Word)) : Except Refuse Nat :=
  match firstCmd (fun c => (chkWords c).orElse fun _ => s.chkNames f c) 0 cmds with
  | some r => .error r
  | none =>
    match firstChain {} 0 cmds with
    | some r => .error r
    | none =>
      match s.listEngine f cmds with
      | .error r => .error r
      | .ok e =>
        match firstCmd (s.chkPlace f e) 0 cmds with
        | some r => .error r
        | none => if 2 ^ 30 < s.cmdUse + 64 * cmds.length then .error (stNospace, 0, 0) else .ok e

/-- Read `n` commands of a list; none where a page of it is not mapped. -/
def State.readList (s : State) (c va n : Nat) : Option (List (List Word)) :=
  match s.vrd none c va (64 * n) with
  | .ok bs => some (chunks 16 n (wordsOf bs))
  | .error _ => none

/-- Fence counters a list names (R312). -/
def listFences (cmds : List (List Word)) : List Nat :=
  cmds.flatMap fun c => (if cSig c then [cSigf c] else []) ++ (if cOp c = opFSig ∨ cOp c = opFWait then [cf c 1 3 0] else [])

/-- A plan of the context that runs masks one of these counters: its slot's state (R312). -/
def State.maskedFence (s : State) (c : Nat) (fs : List Nat) : Option Nat :=
  (planNos.find? fun i => let p := s.plan i; p.runs && p.ctx == c && fs.any p.fences.getLsbD).map fun i => (s.plan i).state

/-- The command store takes or gives back the bytes of lists (R73). -/
def State.storeCmds (s : State) (n : Nat) : State := { s with cmdUse := s.cmdUse + 64 * n }
/-- Give back. -/
def State.freeCmds (s : State) (n : Nat) : State := { s with cmdUse := s.cmdUse - 64 * n }

end Sys2Proof.Machine
end

