-- ==== Sys2Proof/Machine/Ready.lean ====
section
/-! DEFINITION. When a command may issue (R69, R70, R72, R90), and where the launch points of plans lie (R311). -/

namespace Sys2Proof.Machine

/-- Halyard time in whole ns. -/
def State.now (s : State) : Nat := s.hal.nowNs

/-! ### Launch points -/

/-- Kind of a launch point. -/
def ptKind (p : List Word) : Nat := fld (wat p 1) 2 0
/-- div. -/
def ptDiv (p : List Word) : Nat := fld (wat p 1) 11 4
/-- rem. -/
def ptRem (p : List Word) : Nat := fld (wat p 1) 19 12
/-- Offset. -/
def ptOfs (p : List Word) : Nat := (wat p 0).toNat
/-- It launches in the period of count `c`. -/
def ptIn (p : List Word) (c : Nat) : Bool := c % max 1 (ptDiv p) == ptRem p
/-- Engine of a LIST or SELFTEST point. -/
def ptEngine (p : List Word) : Nat := fld (wat p 2) 2 0

/-- The first launch of a point of a running plan at or after an instant (R311, R313). -/
def Plan.nextAt (p : Plan) (pt : List Word) (t : Nat) : Option Nat :=
  let base := if p.state = 0x52 then p.start else p.periodNs
  let c := if p.state = 0x52 then 0 else p.count
  ((List.range (if p.state = 0x54 then 1 else 256)).find? fun j =>
    ptIn pt ((c + j) % 2 ^ 32) && decide (t ≤ base + j * p.period + ptOfs pt)).map fun j => base + j * p.period + ptOfs pt

/-- The period instant of a period count of a plan, Halyard ns. -/
def Plan.startOf (p : Plan) (c : Nat) : Nat := p.periodNs - (p.count + 2 ^ 32 - c) % 2 ^ 32 * p.period

/-- The smaller of two optional instants. -/
def optMin (a b : Option Nat) : Option Nat :=
  match a, b with
  | some x, some y => some (min x y)
  | some x, none => some x
  | none, y => y

/-- The first launch of running plans on engine `e` at or after an instant, of points of some kinds. -/
def State.nextLaunch (s : State) (e : Nat) (kinds : List Nat) (t : Nat) : Option Nat :=
  planNos.foldl (fun a i =>
    let p := s.plan i
    if p.runs then
      p.points.foldl (fun a pt =>
        if kinds.contains (ptKind pt) ∧ ptEngine pt = e then optMin a (p.nextAt pt t) else a) a
    else a) none

/-! ### Issue -/

/-- The device side of a LOAD or STORE of context `c` lies in host memory, in whole or in part (R182). -/
def State.fromHost (s : State) (c : Nat) (cmd : List Word) : Bool :=
  match vaRange cmd with
  | none => false
  | some r => (s.ctx c).runs.any fun m => decide (hostBase ≤ m.pa ∧ m.va < r.hi ∧ r.lo < m.va + m.len)

/-- Longest duration of a command of context `c`, ns, under R96 and R239: its cycles and its transfer. -/
def State.cmdNs (s : State) (c : Nat) (cmd : List Word) : Nat :=
  let bytes := cf cmd 4 20 0 * cf cmd 5 15 0 * cf cmd 7 15 0
  let far := if s.fromHost c cmd then 1200 else 140
  cdiv (cmdCycles cmd * 4) 5 +
    (if cOp cmd = opLoad then cdiv bytes 768 + far else if cOp cmd = opStore then cdiv bytes 384 + far
     else if cOp cmd = opAttn then cdiv (attnUnits (s.ctx c).buckets cmd) durNs else 0)

/-- A translation fault of queue `q` of engine `e` is outstanding. -/
def State.qFault (s : State) (c e : Nat) : Bool :=
  (s.ctx c).faults.any fun f => !f.save && !f.mover && f.unit == e

/-- A command is stalled: a translation fault or a preemption stopped it. -/
def Job.stalled (j : Job) (i : Nat) : Bool := (Tab.find j.prog i).isSome

/-- An engine of a DP partition issues nothing: the DP scale is 0, as at Reef 3 (R469, R470). -/
def State.dpHalted (s : State) (e : Nat) : Bool :=
  (s.cpw.k == 0 || s.cpw.reef == 3) && match s.partOf e with
    | some p => !(s.part p).tt
    | none => false

/-- The queue may issue at all: its context holds the slot and nothing stops its issue. -/
def State.qOpen (s : State) (e q : Nat) : Bool :=
  if q = 4 then (match (s.engine e).tq with
    | j :: _ => j.begun
    | [] => false)
  else
    let k := (s.engine e).slot q
    match k.ctx with
    | none => false
    | some c => !k.draining && !k.saving && !(s.ctx c).suspended && !(s.ctx c).scrubbing && (s.engine e).slice != 2 &&
        !((s.engine e).slice == 1 && (s.engine e).sliceDp) && !(s.engine e).test && !s.dpHalted e && !s.qFault c e

/-- Some queue of an engine has a command in flight in a unit. -/
def State.unitBusy (s : State) (e u : Nat) : Bool :=
  qNos.any fun q => match s.queue e q with
    | j :: _ => j.flight.any fun i => (unitsOf (j.cmds.getD i [])).contains u && !j.stalled i
    | [] => false

/-- Every unit of a command is free (R90). -/
def State.unitsFree (s : State) (e : Nat) (c : List Word) : Bool := (unitsOf c).all fun u => !s.unitBusy e u

/-- Bytes of a row that a KV_APPEND of a job copies: the pages' format, FP32 for INT8 (R235). -/
def State.kvRow (s : State) (j : Job) : Nat :=
  match j.step with
  | some n =>
    let x := s.step n
    let q := s.seq ((x.entries.headD {}).seq)
    if x.present then rowBytes (if q.fmt = 4 then 11 else q.fmt) (q.kvh * q.hdim) else 0
  | none => 0

/-- The conditions of R90 that look at the queue alone; `kv` are the bytes of a copied row. -/
def Job.may (kv : Nat) (j : Job) (i : Nat) : Bool :=
  let c := j.cmds.getD i []
  let before := List.range i
  decide (i < j.cmds.length) && !j.cancel && !j.flight.contains i && !j.done.contains i &&
    ((!cBar c && cOp c != opFSig) || before.all j.done.contains) &&
    before.all (fun p => j.done.contains p ||
      (let d := j.cmds.getD p []
       cOp d != opFWait && cOp d != opLWait && !hazard kv c d)) &&
    decide (j.flight.length < 16)

/-- R70: on an engine of a TT partition a context queue waits where a launch point falls before the command's worst-case
end plus 2 µs. -/
def State.ttGap (s : State) (e q ctx : Nat) (c : List Word) : Bool :=
  q == 4 || !(match s.partOf e with
    | some p => (s.part p).tt
    | none => false) ||
    match s.nextLaunch e [1, 5] (s.now + 1) with
    | none => true
    | some t => decide (s.now + s.cmdNs ctx c + 2000 ≤ t)

/-- Command `i` of the running job of a queue may issue for the first time, other queues apart (R70, R90). -/
def State.fresh (s : State) (e q i : Nat) : Bool :=
  s.qOpen e q && match s.queue e q with
    | [] => false
    | j :: _ => j.may (s.kvRow j) i && (let c := j.cmds.getD i []; s.unitsFree e c && s.ttGap e q j.ctx c)

/-- Command `i` was stopped by a translation fault that has been answered, or by a preemption that has ended, and takes
its units again (R187, R380). -/
def State.resumes (s : State) (e q i : Nat) : Bool :=
  s.qOpen e q && match s.queue e q with
    | [] => false
    | j :: _ => j.flight.contains i && j.stalled i && s.unitsFree e (j.cmds.getD i [])

/-- Command `i` may issue or go on, other queues apart. -/
def State.ready (s : State) (e q i : Nat) : Bool := s.fresh e q i || s.resumes e q i

/-- Rank of a queue for a unit (R72): TQ, then by class. -/
def State.qRank (s : State) (e q : Nat) : Nat :=
  if q = 4 then 0
  else match ((s.engine e).slot q).ctx with
    | some c => 1 + (s.ctx c).cls
    | none => 4

/-- A queue has a command ready whose first unit is `u`, and that meets a test. -/
def State.wants (s : State) (e q u : Nat) (p : List Word → Bool) : Bool :=
  match s.queue e q with
  | [] => false
  | j :: _ => (List.range j.cmds.length).any fun i =>
      unitOf (j.cmds.getD i []) == u && p (j.cmds.getD i []) && s.ready e q i

/-- Unit `u` takes queue `p` before queue `q` (R72): TQ, then by class, then round robin from the queue after the one of the
class that it served last. -/
def State.ahead (s : State) (e u p q : Nat) : Bool :=
  let r := s.qRank e p
  let last := Tab.get 3 (s.engine e).served (8 * u + r)
  decide (r < s.qRank e q) || (r == s.qRank e q && decide ((p + 3 - last) % 4 < (q + 3 - last) % 4))

/-- Queue `q` comes first among those with a command ready whose first unit is `u`. -/
def State.leads (s : State) (e q u : Nat) : Bool :=
  s.wants e q u (fun _ => true) && qNos.all fun p => p == q || !s.wants e p u (fun _ => true) || !s.ahead e u p q

/-- Command `i` issues now (R72): it is ready, its queue comes first for its first unit, and for none of its units does
another queue with a command ready come first. Where a command needs several units, the order is settled at the first one,
then between the first queues of each (log 37). -/
def State.mayIssue (s : State) (e q i : Nat) : Bool :=
  s.ready e q i && match s.queue e q with
    | [] => false
    | j :: _ =>
      let c := j.cmds.getD i []
      let u := unitOf c
      u == 0 || (s.leads e q u && [1, 2, 3, 4, 5, 8].all fun v => v == u || qNos.all fun p => p == q ||
        !s.wants e p v (fun d => (unitsOf d).any fun w => (unitsOf c).contains w && s.ahead e w p q) || !s.leads e p v)

/-- The units of a command note that they served its queue (R72). -/
def State.noteServed (s : State) (e q : Nat) (c : List Word) : State :=
  if q = 4 then s
  else s.upEngine e fun x => { x with served := (unitsOf c).foldl (fun l u => Tab.set l (8 * u + s.qRank e q) q) x.served }

/-- Some command of a queue may issue, its unit's other queues apart. -/
def State.anyReady (s : State) (e q : Nat) : Bool :=
  match s.queue e q with
  | [] => false
  | j :: _ => (List.range j.cmds.length).any fun i => s.fresh e q i

end Sys2Proof.Machine
end

