-- ==== Sys2Proof/Machine/Sched.lean ====
section
/-! DEFINITION. The scheduler: standing, placement and the choice of victims (R375 to R378, R383, R390). -/

namespace Sys2Proof.Machine

/-- The saved group of a context on engine `g`. -/
def State.savedOn (s : State) (c g : Nat) : Option Saved := (s.ctx c).saved.find? fun x => x.engine == g && x.present

/-- Reads of a saved group that the peer still owes (R386). -/
def State.owed (s : State) (c g : Nat) : Bool := (s.engine g).remotes.any fun r => r.ctx == c && r.redirect && !r.landed

/-- Handles and entries of a context's group on an engine, in ascending handle. -/
def State.group' (s : State) (c g : Nat) : List (Nat × Cleat) :=
  (s.engine g).cleats.filter fun p => (p.2.state == 1 || p.2.state == 2) && p.2.owner == c

/-- Why a resident queue issues nothing (R375): it is empty, its head waits on a fence or an instant, a translation fault
of its context is outstanding from the engine, or it waits on remote reads alone. -/
def State.blockReason (s : State) (e k c : Nat) : Bool :=
  match s.queue e k with
  | [] => true
  | j :: _ =>
    s.qFault c e ||
      (match (List.range j.cmds.length).find? fun i => !j.done.contains i with
       | none => false
       | some i => j.flight.contains i &&
          (cOp (j.cmds.getD i []) == opFWait || cOp (j.cmds.getD i []) == opLWait ||
            (s.engine e).remotes.any fun r => r.ctx == c && r.idx == i))

/-- A resident context is blocked. -/
def State.blocked (s : State) (e k c : Nat) : Bool := !s.anyReady e k && s.blockReason e k c

/-- The blocked-since instants of engine `e` follow the standing of its contexts (R375). -/
def State.markEngine (s : State) (e : Nat) : State :=
  slotNos.foldl (fun s k =>
    match ((s.engine e).slot k).ctx with
    | none => s
    | some c =>
      let b := s.blocked e k c
      s.upSlot e k fun x => { x with blockedSince := if b then some (x.blockedSince.getD s.now) else none }) s

/-- A group waits for a slot: its context has a job for it, holds no slot there, and may run (R375, R386). -/
def State.groupWaits (s : State) (c g : Nat) : Bool :=
  let x := s.ctx c
  x.present && !x.scrubbing && !x.suspended && !x.pinned && !s.ctxTT c && !(s.jobsOf c g).isEmpty &&
    (s.slotFor c g).isNone && !s.qFault c g && (!s.tst.engines.getLsbD g || (s.savedOn c g).isSome) && !s.owed c g &&
    !engNos.any fun e => slotNos.any fun k => ((s.engine e).slot k).restoring == some c

/-- A context has a group that waits. -/
def State.ctxWaits (s : State) (c : Nat) : Bool := engNos.any fun g => s.groupWaits c g

/-- The instants since which contexts wait for a slot. -/
def State.markWaits (s : State) : State :=
  ctxNos.foldl (fun s c =>
    let x := s.ctx c
    if ¬ x.present then s
    else
      let w := if s.ctxWaits c then some (x.waitSince.getD s.now) else none
      if w = x.waitSince then s else s.setCtx c { x with waitSince := w }) s

/-- The waiting groups in the order served (R377): class, longest waiting, lowest context number, lowest engine. -/
def State.waiting (s : State) : List (Nat × Nat) :=
  let l := ctxNos.filter fun c => s.ctxWaits c
  let ins := fun (c : Nat) (acc : List Nat) =>
    let key := fun (d : Nat) => ((s.ctx d).cls, (s.ctx d).waitSince.getD s.now, d)
    let lt := fun (a b : Nat × Nat × Nat) => decide (a.1 < b.1 ∨ (a.1 = b.1 ∧ (a.2.1 < b.2.1 ∨ (a.2.1 = b.2.1 ∧ a.2.2 < b.2.2))))
    (acc.takeWhile fun d => lt (key d) (key c)) ++ c :: acc.dropWhile fun d => lt (key d) (key c)
  (l.foldr ins []).flatMap fun c => (engNos.filter fun g => s.groupWaits c g).map fun g => (c, g)

/-- The places of a group on an engine, one after the other under R154: handle, bank set and base row; none where they do
not fit. -/
def placeGroup : List Cleat → List (Nat × Cleat) → Option (List (Nat × Cleat))
  | _, [] => some []
  | occ, (h, c) :: t =>
    match fitRegion occ c.size with
    | none => none
    | some (b, r) =>
      let c' := { c with state := 1, banks := b, baseRow := r }
      (placeGroup (c' :: occ) t).map fun l => (h, c') :: l

/-- The group of context `c`, SPILLED on `g`, can stand on engine `e`: every handle is FREE there (R375). Its own entries
on `g` count as free; a context with jobs of its own on `e` stays where it is (log 38). -/
def State.handlesFree (s : State) (c g e : Nat) : Bool :=
  e == g || ((s.jobsOf c e).isEmpty && (s.savedOn c e).isNone &&
    (s.group' c g).all fun p => (s.cleat e p.1).state == 0)

/-- Words of LIVE cleats of a context on an engine. -/
def State.liveWords (s : State) (c e : Nat) : Nat :=
  sumN (((s.engine e).cleats.filter fun p => p.2.state == 1 && p.2.owner == c).map fun p => p.2.size)

/-- Engines for a waiting group, best first (R376). -/
def State.placements (s : State) (c g : Nat) : List Nat :=
  match s.savedOn c g with
  | none => [g]
  | some _ =>
    let m := fun e => [s.liveWords c e, if (s.engine e).freeSlot.isSome then 1 else 0, (s.engine e).spmFree]
    let rec sort : Nat → List Nat → List Nat
      | 0, _ => []
      | n + 1, l => match bestBy m l with
        | none => []
        | some e => e :: sort n (l.filter (· ≠ e))
    sort 8 ((s.candidates c).filter fun e => s.handlesFree c g e)

/-- A mover is free for a save, a restore or a swap: bound neither to a running plan nor to a route of a running job, and
not in use or fenced (R245, R383). -/
def State.moverFree (s : State) (m : Nat) : Bool :=
  !s.moverBound m && !s.moverHas m && !s.tst.movers.getLsbD m &&
    !engNos.any fun e => qNos.any fun q => match s.queue e q with
      | j :: _ => j.started && j.route.any fun r => r.2.mover == m
      | [] => false

/-- The mover of a save or a restore: the lowest-numbered free one (R383). -/
def State.switchMover (s : State) : Option Nat := (List.range 16).find? s.moverFree

/-- A save of slot `k` of engine `e` begins: its issue stops (R379, R380, R390). -/
def State.startSave (s : State) (e k : Nat) (susp : Bool) : State :=
  match ((s.engine e).slot k).ctx with
  | none => s
  | some c =>
    let s := s.upSlot e k fun x => { x with draining := true, susp := susp }
    let s := s.upJob e k fun j => if j.started then { j with preFrom := some (j.preFrom.getD s.now) } else j
    let s := s.upCtx c fun x =>
      { x with saved := x.saved.filter (fun y => y.engine ≠ e) ++ [{ engine := e, since := s.now, counted := !susp }] }
    if susp then s
    else
      let cl := (s.ctx c).client
      (s.upClient cl fun y => { y with preempts := y.preempts + 1 }).upAp cl fun a => { a with statPreempt := a.statPreempt + 1 }

/-- A switch is under way on an engine. -/
def Engine.switching (x : Engine) : Bool := slotNos.any fun k => (x.slot k).draining || (x.slot k).saving || (x.slot k).restoring.isSome

/-- Slot and context of the contexts on an engine that may be taken out. -/
def State.evictable (s : State) (e : Nat) : List (Nat × Nat) :=
  slotNos.filterMap fun k => match ((s.engine e).slot k).ctx with
    | some c => if (s.ctx c).pinned ∨ (s.ctx c).cls = 0 then none else some (k, c)
    | none => none

/-- The entry of a list with the smallest key, the earliest on a tie. -/
def leastBy {α : Type} (key : α → Nat) (l : List α) : Option α :=
  l.foldl (fun a x => match a with
    | none => some x
    | some y => if key x < key y then some x else some y) none

/-- The victim for context `c` on engine `e` (R377). -/
def State.victim (s : State) (c e : Nat) : Option Nat :=
  let l := s.evictable e
  let x := s.ctx c
  let sl := fun (p : Nat × Nat) => (s.engine e).slot p.1
  let ns := (s.client x.client).slice * 1000000
  let b := l.filter fun p => (sl p).blockedSince.isSome && (decide ((sl p).since + 1000000 ≤ s.now) || (s.queue e p.1).isEmpty)
  match leastBy (fun p => ((sl p).blockedSince.getD 0) * 64 + p.2) b with
  | some p => some p.1
  | none =>
    match (if x.cls = 1 then leastBy (fun p => (sl p).since) (l.filter fun p => (s.ctx p.2).cls == 2) else none) with
    | some p => some p.1
    | none =>
      if s.now < (x.waitSince.getD s.now) + ns then none
      else (leastBy (fun p => (sl p).since) (l.filter fun p => decide (x.cls ≤ (s.ctx p.2).cls ∧ (sl p).since + ns ≤ s.now))).map (·.1)

/-- The waiting part of a job's time ends at its first issue; a context takes a slot. -/
def State.takeSlot (s : State) (e k c : Nat) : State :=
  s.upSlot e k fun _ => { ctx := some c, since := s.now }

/-- What serving a waiting group on one engine comes to. -/
inductive Serve where
  /-- It is done, or waits for a switch that is under way. -/
  | stop (s : State)
  /-- The engine yields no victim. -/
  | next

/-- Serve the group of context `c` on engine `e` (R377). Where it fits once the scrubs under way have ended, it waits for
them: a victim's save includes the scrub of what it vacates (R380). -/
def State.serveOn (s : State) (c g e : Nat) : Serve :=
  let x := s.engine e
  let occ := x.occupied false
  match s.savedOn c g with
  | none =>
    match x.freeSlot with
    | some k => .stop (s.takeSlot e k c)
    | none =>
      if x.switching then .stop s
      else match s.victim c e with
        | some k => .stop (s.startSave e k false)
        | none => .next
  | some _ =>
    let fits := (placeGroup occ (s.group' c g)).isSome
    match x.freeSlot with
    | some k =>
      if fits then
        match s.switchMover with
        | none => .stop s
        | some m => .stop (s.upSlot e k fun y => { y with restoring := some c, mover := some m, group := g })
      else if x.switching ∨ (placeGroup (x.occupied true) (s.group' c g)).isSome then .stop s
      else match s.victim c e with
        | some k => .stop (s.startSave e k false)
        | none => .next
    | none =>
      if x.switching then .stop s
      else match s.victim c e with
        | some k => .stop (s.startSave e k false)
        | none => .next

/-- Every context resident on an engine is pinned or SAFETY, and there is one (R378). -/
def State.immovable (s : State) (e : Nat) : Bool :=
  (s.evictable e).isEmpty && slotNos.any fun k => ((s.engine e).slot k).ctx.isSome

/-- Serve one waiting group. -/
def State.serve (s : State) (c g : Nat) : List Nat → State
  | [] =>
    if s.placements c g ≠ [] ∧ (s.placements c g).all s.immovable then
      (s.upClient (s.ctx c).client fun y => { y with starve := y.starve + 1 }).event 289
    else s
  | e :: t =>
    match s.serveOn c g e with
    | .stop s => s
    | .next => s.serve c g t

/-- SCH evaluates placement (R377), after the standings are brought up to date. -/
def State.schedule (s : State) : State :=
  let s := (engNos.foldl State.markEngine s).markWaits
  let s := s.waiting.foldl (fun s p => if s.groupWaits p.1 p.2 then s.serve p.1 p.2 (s.placements p.1 p.2) else s) s
  (engNos.foldl State.markEngine s).markWaits

/-- The next multiple of a period on Halyard's ns, strictly after its reading; the phase is the model's choice (DESIGN
CHOICE, log 177). -/
def State.tickAt (s : State) (period : Nat) : Nat := (s.hal.nowNs / period + 1) * period

/-- SCH_PLACEMENT_TIMER: every 1 ms of Halyard time (R377). -/
def execSchPlacementTimer (s : State) : Host.Outcome State Fault Refusal := .next (s.passTo (s.tickAt 1000000)).schedule

end Sys2Proof.Machine
end

