-- ==== Sys2Proof/Machine/Job.lean ====
section
/-! DEFINITION. The life of a job: issue, completion, signals, stops and ends (R78, R90 to R94, R97, R99, R138, R187,
R189, R316 to R319). -/

namespace Sys2Proof.Machine

/-! ### Fence counters (R91, R399) -/

/-- Counter `k` of a context. -/
def State.fence (s : State) (c k : Nat) : Word := Tab.get 0 (s.ctx c).fences k
/-- Write it. -/
def State.putFence (s : State) (c k : Nat) (v : Word) : State := s.upCtx c fun x => { x with fences := Tab.set x.fences k v }

/-- The peer of a context in SPLIT. -/
def State.peerOf (s : State) (c : Nat) : Option Nat :=
  if s.twin.state = 0x94 then (s.twin.pairs.find? fun p => p.1 == c).map (·.2) else none

/-- A signal to F8 to F15 of a paired context goes to the peer too (R399): a Shroud frame with the peer context, the
counter, set and the value. -/
def State.mirror (s : State) (c k : Nat) (set : Bool) (v : Word) : State :=
  match s.peerOf c with
  | some p => if 8 ≤ k then s.out 5 p (natBytes 2 (k + bitAt set 8) ++ wordBytes v) else s
  | none => s

/-- The value a signal leaves, and whether the addition was held at 0xFFFF_FFFE (R91). -/
def fenceNext (old : Word) (set : Bool) (v : Word) : Word × Bool :=
  if set then (v, false)
  else if 0xFFFFFFFE < old.toNat + v.toNat then (0xFFFFFFFE, true) else (old + v, false)

/-- A local signal. -/
def State.signal (s : State) (c k : Nat) (set : Bool) (v : Word) : State × Bool :=
  let n := fenceNext (s.fence c k) set v
  ((s.putFence c k n.1).mirror c k set v, n.2)

/-! ### The end of a job -/

/-- The 16 words of a JOB_STATS record (R99). -/
def JobStats.words (x : JobStats) : List Word :=
  [x.done, x.taps, wd x.cycles, wd (x.cycles / 2 ^ 32), wd x.spar, wd (x.spar / 2 ^ 32), x.late, x.lwLate, x.fenceSat,
   x.relaxed, 0, 0, 0, 0, 0, 0]

/-- A list launched by a plan ends: the plan's counters, its completion notice, its digest (R316 to R319). A list that
ends after a monitor that watches it has expired is not counted as late (R316). -/
def State.listEnded (s : State) (e : Nat) (pl : Nat × Nat × Nat) (ok : Bool) : State :=
  let p := s.plan pl.1
  let pt := p.points.getD pl.2.1 []
  let now := s.now
  let start := p.startOf pl.2.2
  let w := Tab.get 0 p.allow pl.2.1
  let watched := p.points.any fun m => ptKind m == 6 && fld (wat m 2) 7 6 != 0 && fld (wat m 2) 17 8 == pl.2.1 && ptIn m pl.2.2 &&
    decide (start + ptOfs m + (wat m 3).toNat ≤ s.pnow)
  let late := ok && decide (start + ptOfs pt + w < now) && !watched
  let s := s.upPlan pl.1 fun p =>
    { p with ends := { point := pl.2.1, count := pl.2.2, ok := ok } :: p.ends.filter fun x => decide (pl.2.2 ≤ x.count + 1)
             cntLate := if late then p.cntLate + 1 else p.cntLate
             slackMin := if ok then (match s.nextLaunch e [1, 5] now with
                | some t => if t - now < p.slackMin.toNat then wd (t - now) else p.slackMin
                | none => p.slackMin) else p.slackMin }
  if ¬ ok then s
  else
    let s := { s with monitors := s.monitors.map fun m =>
      if m.2.armed && m.2.slot == pl.1 && m.2.count == pl.2.2 && m.2.watch == 1 && m.2.wpoint == pl.2.1 && decide (s.pnow < m.2.expiry)
      then (m.1, { m.2 with satisfied := true, armed := false }) else m }
    if bit (wat pt 2) 3 then
      let r := wat pt 6
      let d := crc32c (s.clRd e (fld r 6 0) (64 * fld r 24 7) (64 * fld (wat pt 7) 17 0))
      s.upPlan pl.1 fun p => { p with digests := p.digests ++ [(fld (wat pt 2) 9 4, pl.2.2, pl.2.1, d)] }
    else s

/-- A job of a step ends: the step notes its list, its failure, and in race mode the first list to complete; the other
jobs of the group are then to be cancelled (R240, R242, R243). -/
def State.stepNote (s : State) (n listNo : Nat) (ok canc : Bool) (code : Nat) (d1 : Word) : State :=
  let x := s.step n
  let first := ok && x.race && !x.failed && x.left.length == x.engines.length
  s.setStep n { x with
    left := x.left.filter (· ≠ listNo)
    winner := if first then listNo else x.winner
    failed := x.failed || (!ok && (!x.race || x.left.length == x.engines.length))
    cancelled := if !ok && !x.failed then canc else x.cancelled
    fault := if !ok && !x.failed then code else x.fault
    detail := if !ok && !x.failed then d1 else x.detail }

/-- A job belongs to a race of which no list has completed (R124, R243). -/
def State.raceOpen (s : State) (j : Job) : Bool :=
  match j.step with
  | some n => let x := s.step n; x.race && !x.failed && x.left.length == x.engines.length
  | none => false

/-- Translation faults of a context's queue on an engine whose command is gone are no longer outstanding. -/
def State.dropFaults (s : State) (c e : Nat) : State :=
  if (s.ctx c).faults.isEmpty then s
  else
    let kept := fun (i : Nat) => (s.jobsOf c e).head?.any fun j => j.stalled i
    s.upCtx c fun x => { x with faults := x.faults.filter fun f => f.save || f.mover || f.unit != e || kept f.idx }

/-- The job at the head of a queue leaves it: its place in the command store, what the queue kept, its record, its final
reply, its signal, the client's run time (R48, R53, R97, R390). -/
def State.dropJob (s : State) (e q : Nat) (st code : Nat) (canc : Bool) (d1 : Word) : State :=
  match s.queue e q with
  | [] => s
  | j :: t =>
    let ok := st == stOk
    let s := (s.setQueue e q t).dropFaults j.ctx e
    let s := s.upQs e q fun _ => {}
    let s := if j.plan.isNone then s.freeCmds j.cmds.length else s
    let cl := (s.ctx j.ctx).client
    let s := if j.started ∧ q < 4 then s.upClient cl fun y => { y with runNs := y.runNs + (s.now - j.firstNs - j.preNs) } else s
    let won := ok && s.raceOpen j
    let st' := if won then { j.stats with relaxed := j.stats.relaxed + 1 } else j.stats
    let s := s.upCtx j.ctx fun x =>
      { x with relaxedCnt := if won then x.relaxedCnt + 1 else x.relaxedCnt
               done := if j.plan.isSome then x.done
                       else ({ tag := j.tag, stopped := !ok, stats := st'.words } :: x.done).take 64 }
    let s := s.event (64 + 8 * e + if ok || canc then 0 else 1)
    let s := match j.plan with
      | some pl => s.listEnded e pl ok
      | none => s
    match j.step with
    | some n => s.stepNote n j.listNo ok canc code d1
    | none =>
      match s.opens.find? fun o => o.hdr.no == j.hdr.no && j.plan.isNone with
      | some o => s.close o st { lo := j.tag, d1 := d1, fault := code, canc := canc }
      | none => s

/-- A command that keeps a cancelled or drained job going: in flight, not stalled, and no wait. -/
def Job.active (j : Job) : Bool :=
  j.flight.any fun i => !j.stalled i && cOp (j.cmds.getD i []) != opFWait && cOp (j.cmds.getD i []) != opLWait

/-- A cancelled job at the head of a queue ends once nothing of it runs (R94). -/
def State.endCancelled (s : State) (e q : Nat) : State :=
  match s.queue e q with
  | j :: _ => if j.cancel ∧ ¬ j.active then s.dropJob e q stFault 0 true 0 else s
  | [] => s

/-- Mark the jobs of a step's group as cancelled; those that have not started leave their queue. -/
def State.cancelGroup (s : State) (n : Nat) : State :=
  engNos.foldl (fun s e => ctxNos.foldl (fun s c =>
    if (s.jobsOf c e).any (fun j => j.step == some n) then
      s.setJobs c e ((s.jobsOf c e).map fun j => if j.step = some n then { j with cancel := true } else j)
    else s) s) s

/-- Nothing of a context runs on an engine: it holds no slot there, or the slot is being copied out (R380). -/
def State.atRest (s : State) (c e : Nat) : Bool :=
  match s.slotFor c e with
  | none => true
  | some k => ((s.engine e).slot k).saving

/-- Remove the jobs of a context's queue on an engine that are cancelled and have nothing running: those behind the head,
and the head where it is not resident or at rest. -/
def State.sweep (s : State) (c e : Nat) : State :=
  let gone := (s.jobsOf c e).filter fun j => j.cancel && (!j.active || s.atRest c e)
  gone.foldl (fun s j =>
    let s := (s.setJobs c e ((s.jobsOf c e).filter fun k => ¬ (k.hdr.no = j.hdr.no ∧ k.listNo = j.listNo))).dropFaults c e
    let s := s.freeCmds j.cmds.length
    let cl := (s.ctx c).client
    let s := if j.started then s.upClient cl fun y =>
        { y with runNs := y.runNs + (s.now - j.firstNs - j.preNs - (match j.preFrom with
          | some t => s.now - t
          | none => 0)) } else s
    let s := s.upCtx c fun x => { x with done := ({ tag := j.tag, stopped := true, stats := j.stats.words } :: x.done).take 64 }
    let s := s.event (64 + 8 * e)
    match j.step with
    | some n => s.stepNote n j.listNo false true 0 0
    | none =>
      match s.opens.find? fun o => o.hdr.no == j.hdr.no with
      | some o => s.close o stFault { lo := j.tag, canc := true }
      | none => s) s

/-- What a queue keeps belongs to the job that ran. -/
def State.clearQs (s : State) (e q : Nat) : State := s.upQs e q fun _ => {}

/-- Groups that must be cancelled: a job of the step stopped or was cancelled, or in race mode one list completed. -/
def State.settleSteps (s : State) : State :=
  (s.steps.filter fun p => p.2.present && (p.2.failed || (p.2.race && decide (p.2.left.length < p.2.engines.length)))).foldl
    (fun s p => engNos.foldl (fun s e => s.sweep p.2.ctx e) (s.cancelGroup p.1)) s

/-- After jobs have ended: cleats and memory that waited, groups of steps, the scheduler. -/
def State.afterJobs (s : State) (c e : Nat) : State := (((s.settleSteps.settleFrees c).settleCleats e)).schedule

/-! ### Completion and signals (R78, R92) -/

/-- The command-completed counter of a queue. -/
def State.countCmd (s : State) (e q : Nat) : State := s.upEngine e fun x => { x with cntCmd := bump x.cntCmd q }

/-- Command `i` of the running job completes: its counters, its SIG; the job ends after its last command. -/
def State.completeOne (s : State) (e q i : Nat) : State :=
  match s.queue e q with
  | [] => s
  | j :: _ =>
    let c := j.cmds.getD i []
    let s := s.countCmd e q
    let r := if cSig c then s.signal j.ctx (cSigf c) false 1 else (s, false)
    let s := r.1.upJob e q fun j =>
      { j with flight := j.flight.filter (· ≠ i), done := i :: j.done
               stats := { j.stats with done := j.stats.done + 1, fenceSat := if r.2 then j.stats.fenceSat + 1 else j.stats.fenceSat
                                       cycles := 5 * (s.hal.hclk - j.firstClk) } }
    if j.done.length + 1 = j.cmds.length then (s.dropJob e q stOk 0 false 0).afterJobs j.ctx e
    else
      match s.queue e q with
      | k :: _ => if k.cancel ∧ ¬ k.active then (s.endCancelled e q).afterJobs j.ctx e else s
      | [] => s

/-- A FENCE_WAIT of a context in flight on a resident queue or TQ whose target is reached. -/
def State.satisfied (s : State) (c : Nat) : Option (Nat × Nat × Nat) :=
  engNos.findSome? fun e => qNos.findSome? fun q =>
    match s.queue e q with
    | [] => none
    | j :: _ =>
      if j.ctx = c ∧ ¬ (q < 4 ∧ (((s.engine e).slot q).draining ∨ ((s.engine e).slot q).saving)) then
        (j.flight.find? fun i =>
          let d := j.cmds.getD i []
          cOp d == opFWait && decide ((cw d 2).toNat ≤ (s.fence c (cf d 1 3 0)).toNat)).map fun i => (e, q, i)
      else none

/-- FENCE_WAIT packets of a context whose target is reached get their final reply. -/
def State.wakePackets (s : State) (c : Nat) : State :=
  (s.opens.filter fun o => o.hdr.opcode == 0x311 && o.hdr.ctx == c && decide (o.val2 ≤ (s.fence c o.val).toNat)).foldl
    (fun s o => s.close o stOk {}) s

/-- Waits of a context that a change of its counters satisfies complete, and so do those that their own signals satisfy;
at most one wait stands in each of the forty queues. -/
def State.wake : Nat → Nat → State → State
  | 0, c, s => s.wakePackets c
  | n + 1, c, s =>
    let s := s.wakePackets c
    match s.satisfied c with
    | some (e, q, i) => State.wake n c (s.completeOne e q i)
    | none => s

/-- Complete a command and wake what its signal satisfies. -/
def State.complete (s : State) (e q i : Nat) : State :=
  match s.queue e q with
  | [] => s
  | j :: _ => ((s.completeOne e q i).wake 200 j.ctx).schedule

/-- COMMAND_COMPLETE: a command in flight completes once its writes are visible (R92). Waits complete by their own rules,
a stalled command and one that waits on remote reads not yet. -/
def State.completed (s : State) (e q i : Nat) : State :=
  match s.queue e q with
  | [] => s
  | j :: _ =>
    let op := cOp (j.cmds.getD i [])
    let halted := decide (q < 4) && ((s.engine e).slice == 2 || ((s.engine e).slot q).saving)
    if ¬ halted ∧ j.flight.contains i ∧ ¬ j.stalled i ∧ op ≠ opFWait ∧ op ≠ opLWait ∧
        ¬ (s.engine e).remotes.any (fun r => r.ctx == j.ctx && r.idx == i) then s.complete e q i
    else s

/-- COMMAND_COMPLETE. -/
def execCommandComplete (e : Fin 8) (q : Fin 5) (i : Nat) (s : State) : Host.Outcome State Fault Refusal :=
  .next (s.completed e.val q.val i)

/-! ### Stops (R93) -/

/-- Rows of a command's written operands that keep what they held. -/
inductive Keep where
  /-- All of them: nothing was written. -/
  | all
  /-- The rows of a TOW's word, by number. -/
  | rows (l : List (Nat × Nat))
  /-- Such rows, and ranges of bytes: cleat, first, how many. -/
  | bytes (l : List (Nat × Nat)) (b : List (Nat × Nat × Nat))

/-- A row of an operand is kept. -/
def Keep.has (k : Keep) (w r : Nat) : Bool :=
  match k with
  | .all => true
  | .rows l => l.contains (w, r)
  | .bytes l _ => l.contains (w, r)

/-- The byte ranges that are kept. -/
def Keep.ranges (k : Keep) : List (Nat × Nat × Nat) :=
  match k with
  | .bytes _ b => b
  | _ => []

/-- The rows of a step that an append was writing to a layer's keys (0) or values (1) hold free bytes (R93). -/
def State.dirtyKv (s : State) (x : Step) (layer which : Nat) : State :=
  x.entries.foldl (fun s e =>
    let q := s.seq e.seq
    (List.range e.rows).foldl (fun s i =>
      let p := e.firstPos + i
      match q.pageAt layer p with
      | none => s
      | some g =>
        let pa := s.pagePa g.entry
        let b := s.drawBytes q.rowB
        let s := b.2.put (pa + q.rowOff which (p % 64)) b.1
        if q.fmt = 4 then
          let b := s.drawBytes (2 * q.kvh)
          b.2.put (pa + q.sclOff which (p % 64)) b.1
        else s) s) s

/-- The layer, and keys or values, that a command appends to: a KV_APPEND with COPY, or a MATMUL to the pages `armed`. -/
def appendsTo (armed : Option (List Word)) (cmd : List Word) : Option (Nat × Nat) :=
  if cOp cmd = opKv ∧ cb cmd 0 16 then some (cf cmd 3 7 0, cf cmd 0 19 18)
  else if cOp cmd = opMat ∧ cf cmd 14 1 0 ≠ 0 then
    armed.map fun kv => (cf kv 3 7 0, cf cmd 14 1 0 - 1)
  else none

/-- Fill words that a stopped command was writing with free bytes, wherever its cleats stand (R93, log 20). -/
def State.dirty (s : State) (e : Nat) (armed : Option (List Word)) (j : Job) (cmd : List Word) (keep : Keep) : State :=
  let c := j.ctx
  let old := keep.ranges.map fun r => (r.1, r.2.1, s.anyRd c e r.1 r.2.1 r.2.2)
  let s := (writtenRows cmd).foldl (fun s r =>
    if keep.has r.1 r.2.1 then s
    else
      let b := s.drawBytes (64 * cdiv r.2.2.2 64)
      b.2.anyWr c e (tH cmd r.1) (64 * (tO cmd r.1 + r.2.2.1)) b.1) s
  let s := old.foldl (fun s r => s.anyWr c e r.1 r.2.1 r.2.2) s
  let s := match keep, appendsTo armed cmd, j.step with
    | .all, _, _ => s
    | _, some (l, w), some n => if (s.step n).present then s.dirtyKv (s.step n) l w else s
    | _, _, _ => s
  if cOp cmd = opStore then
    (moveRows cmd).foldl (fun s va =>
      (pagesOf va (cf cmd 4 20 0)).foldl (fun s p =>
        if keep.has 2 0 then s
        else
          let b := s.drawBytes p.2
          match b.2.vwr (some (mEngine e)) c p.1 b.1 with
          | .ok s => s
          | .error _ => s) s) s
  else s

/-- What a fault that stops a job says beside its code: detail1 of the reply, the arguments of the record, and the unit
where it is not the engine (R366). -/
structure Wreck where
  /-- detail1. -/
  d1 : Word := 0
  /-- arg0. -/
  a0 : Word := 0
  /-- arg1. -/
  a1 : Word := 0
  /-- arg2. -/
  a2 : Word := 0
  /-- Unit. -/
  unit : Option Nat := none
deriving DecidableEq, Repr, Inhabited

/-- Where an uncorrectable word of a scratchpad or of the explicit Commons lies (R151): the engine or the slice is the
record's unit, and arg0, which is the reply's detail1 (R366), holds the word's number at [19:0] and the handle of its cleat
at [26:20]; that layout is the model's (DESIGN CHOICE, log 154). -/
def State.wreck (s : State) (a : Nat) : Wreck :=
  if spmBase 0 ≤ a ∧ a < spmBase 8 then
    let e := (a - spmBase 0) / 0x1000000
    let w := (a - spmBase e) / 64
    let h := ((s.engine e).cleats.find? fun p => p.2.occ && (p.2.regionPieces e).any fun r => burstIn r.1 r.2 a).map (·.1)
    let d := wd (w + 2 ^ 20 * h.getD 0)
    { d1 := d, a0 := d, unit := some e }
  else if commonsBase ≤ a ∧ a < spmBase 0 then
    let w := (a - commonsBase) / 64
    { d1 := wd w, a0 := wd w, unit := some (w % 64) }
  else {}

/-- The job at the head of a queue stops with a fault: every command in flight stops and the words they were writing hold
unspecified data, except the rows that command `i` keeps (R93). FLT_TT_OVERRUN is of class D, the others of class J (R365). -/
def State.stopJob (s : State) (e q i : Nat) (code : Nat) (w : Wreck) (keep : Keep) : State :=
  match s.queue e q with
  | [] => s
  | j :: _ =>
    let armed := ((s.engine e).qs' q).armed
    let s := j.flight.foldl (fun s k => s.dirty e armed j (j.cmds.getD k []) (if k = i then keep else .rows [])) s
    let s := s.fault code (if code = fltTtOverrun then 2 else 1) j.ctx (w.unit.getD e) w.a0 w.a1 w.a2
    let s := s.upEngine e fun x => { x with remotes := x.remotes.filter fun r => ¬ (r.ctx = j.ctx ∧ ¬ r.redirect) }
    (s.dropJob e q stFault code false w.d1).afterJobs j.ctx e

/-! ### Issue -/

/-- What a command's effect is reckoned from. -/
structure Cx where
  /-- Engine. -/
  e : Nat
  /-- Queue. -/
  q : Nat
  /-- Index. -/
  i : Nat
  /-- Context. -/
  c : Nat
  /-- The command. -/
  cmd : List Word
  /-- Its job. -/
  job : Job
  /-- What the hardware meets. -/
  env : Env
  /-- Bytes it moved before a translation fault. -/
  from' : Nat := 0

/-- What the effect of a command comes to. -/
inductive Res where
  /-- It is made. -/
  | ok (s : State)
  /-- A translation fault at an address, after a number of bytes. -/
  | miss (s : State) (va : Nat) (write prot : Bool) (done : Nat)
  /-- It waits for a free tag of its engine's remote reads, after a number of bytes; the row comes again. -/
  | part (s : State) (done : Nat)
  /-- The job stops: fault, what else it says, rows kept. -/
  | stop (s : State) (code : Nat) (w : Wreck) (keep : Keep)

/-- Stop with detail1 0. -/
def Res.fault (s : State) (code : Nat) (keep : Keep := .all) : Res := .stop s code {} keep

/-- Stop at a place that is uncorrectable (R151, R175). -/
def Res.uncorr (s : State) (a : Nat) : Res := .stop s fltMemUncorr (s.wreck a) (.rows [])

/-- Go on with the state a step leaves. -/
def Res.andThen (r : Res) (g : State → Res) : Res :=
  match r with
  | .ok s => g s
  | r => r

/-- A translation that failed, as the result of a command (R93, R186, R187, R424). -/
def xlRes (s : State) (x : Cx) (write : Bool) (done : Nat) (f : Xl) : Res :=
  match f with
  | .miss va prot =>
    if s.ctxTT x.c then Res.fault (s.upXlt fun y => { y with cntStaticMiss := y.cntStaticMiss + 1 }) fltXltMiss (.rows [])
    else .miss s va write prot done
  | .denied a => Res.fault (s.violation (mEngine x.e) 0 a write) fltXltMiss (.rows [])
  | .pa _ => Res.fault s fltXltMiss (.rows [])

/-- Physical pieces of the operands a command reads. -/
def State.readPieces (s : State) (e : Nat) (cmd : List Word) : List (Nat × Nat) :=
  ((operands cmd).filter fun o => !o.wr).flatMap fun o => (List.range o.rows).flatMap fun r =>
    (s.cleat e (tH cmd o.w)).pieces e (64 * (tO cmd o.w + o.skip + r * o.stride)) o.bytes

/-- Before a job's first command: its SPU positions, its instants, its client's waiting time (R77, R138, R390). -/
def State.startJob (s : State) (e q : Nat) : State :=
  match s.queue e q with
  | [] => s
  | j :: _ =>
    if j.started then s
    else
      let cl := (s.ctx j.ctx).client
      let s := if q < 4 then s.upClient cl fun y => { y with waitNs := y.waitNs + (s.now - j.taken) } else s
      let s := s.upQs e q fun _ =>
        { spu := (s.ctx j.ctx).scales.map fun p => (p.1, ({ addr := p.2.va, bsn := p.2.first } : SpuPos)) }
      s.upJob e q fun j => { j with started := true, firstNs := s.now, firstClk := s.hal.hclk
                                    launchNs := if q < 4 then s.now else j.launchNs }

/-- The statistics that come with a command's run (R99, R125, R171). -/
def State.runStats (s : State) (x : Cx) : State :=
  let late := if s.ctxTT x.c then x.env.late else 0
  let rel := if (s.ctx x.c).relaxed then x.env.relaxed else 0
  let s := s.upEngine x.e fun y => { y with cntReadLate := y.cntReadLate + wd late }
  let s := if late = 0 then s else s.event (64 + 8 * x.e + 3)
  let s := if rel = 0 then s else s.upCtx x.c fun y => { y with relaxedCnt := y.relaxedCnt + wd rel }
  s.upJob x.e x.q fun j =>
    { j with stats := { j.stats with late := j.stats.late + wd late, relaxed := j.stats.relaxed + wd rel
                                     spar := j.stats.spar + x.env.spar } }

/-- Settle what a command's effect came to. -/
def State.settle (x : Cx) : Res → State
  | .ok s =>
    (s.upJob x.e x.q fun j => { j with prog := Tab.erase j.prog x.i }).schedule
  | .miss s va w pr done =>
    let s := s.upJob x.e x.q fun j => { j with prog := Tab.set j.prog x.i done }
    (s.notice x.c x.job.hdr { va := va, write := w, prot := pr, unit := x.e, job := x.q, idx := x.i }).schedule
  | .part s done => (s.upJob x.e x.q fun j => { j with prog := Tab.set j.prog x.i done }).schedule
  | .stop s code w keep => s.stopJob x.e x.q x.i code w keep

/-- The running job of a queue. -/
def State.head (s : State) (e q : Nat) : Job := (s.queue e q).headD {}

/-- Command `i` of the running job of a queue. -/
def State.cmdAt (s : State) (e q i : Nat) : List Word := (s.head e q).cmds.getD i []

/-- The job has started, the units of its command note its queue, and the command is in flight. -/
def State.inFlight (s : State) (e q i : Nat) : State :=
  ((s.noteServed e q (s.cmdAt e q i)).startJob e q).upJob e q fun j =>
    { j with flight := if j.flight.contains i then j.flight else i :: j.flight }

/-- What a command's effect is reckoned from. -/
def State.cx (s : State) (e q i : Nat) (env : Env) : Cx :=
  let j := (s.inFlight e q i).head e q
  { e := e, q := q, i := i, c := j.ctx, cmd := s.cmdAt e q i, job := j, env := env, from' := Tab.get 0 j.prog i }

/-- The read of a command from the command store meets its errors; the place of one that is uncorrectable (R73, R175). -/
def State.fetchErrs (s : State) (m c : Nat) (errs : List MemErr) : State × Option Nat :=
  let met := errs.filter fun x => decide (x.addr < storeBytes)
  (met.foldl (fun s x => s.eccOne m c false x) s, (met.find? fun x => x.kind == .uncorr).map fun x => burstOf x.addr)

/-- The state in which the command's operands are read: the statistics of its run are counted, and the errors that its
reads meet, of the command and then of the operands. An answer with a place is one that stays uncorrectable. -/
def State.begun (s : State) (e q i : Nat) (env : Env) : State × Option Nat :=
  let t := (s.inFlight e q i).runStats (s.cx e q i env)
  match t.fetchErrs (mEngine e) (s.cx e q i env).c env.errs with
  | (t, some a) => (t, some a)
  | (t, none) => t.eccReads (mEngine e) (s.cx e q i env).c env.errs (t.readPieces e (s.cmdAt e q i))

/-- A command issues, or goes on after a translation fault was answered or a preemption ended, and has its effect. -/
def State.issue (s : State) (op e q i : Nat) (env : Env) (body : Cx → State → Res) : State :=
  if cOp (s.cmdAt e q i) = op ∧ s.mayIssue e q i then
    match s.begun e q i env with
    | (t, some a) => State.settle (s.cx e q i env) (Res.uncorr t a)
    | (t, none) => State.settle (s.cx e q i env) (body (s.cx e q i env) t)
  else s

/-- The next state of a list command's row. -/
def runCommand (op : Nat) (e : Fin 8) (q : Fin 5) (i : Nat) (env : Env) (body : Cx → State → Res) (s : State) :
    Host.Outcome State Fault Refusal := .next (s.issue op e.val q.val i env body)

/-! ### Synchronisation commands (R77, R78) -/

/-- CMD_NOP. -/
def execCmdNop (e : Fin 8) (q : Fin 5) (i : Nat) (s : State) : Host.Outcome State Fault Refusal :=
  runCommand opNop e q i {} (fun _ s => .ok s) s

/-- FENCE_SIGNAL's effect. -/
def fenceSignalBody (x : Cx) (s : State) : Res :=
  let r := s.signal x.c (cf x.cmd 1 3 0) (cb x.cmd 0 16) (cw x.cmd 2)
  let s := if r.2 then r.1.upJob x.e x.q fun j => { j with stats := { j.stats with fenceSat := j.stats.fenceSat + 1 } } else r.1
  .ok (s.wake 200 x.c)

/-- CMD_FENCE_SIGNAL. -/
def execCmdFenceSignal (e : Fin 8) (q : Fin 5) (i : Nat) (s : State) : Host.Outcome State Fault Refusal :=
  runCommand opFSig e q i {} fenceSignalBody s

/-- CMD_FENCE_WAIT: it waits in flight, and completes at once where its target is reached. -/
def execCmdFenceWait (e : Fin 8) (q : Fin 5) (i : Nat) (s : State) : Host.Outcome State Fault Refusal :=
  runCommand opFWait e q i {} (fun x s => .ok (s.wake 200 x.c)) s

/-- The instant of a LAUNCH_WAIT, Halyard ns. -/
def launchInstant (c : List Word) (j : Job) : Nat :=
  if cb c 0 16 then ((cw c 2).toNat + 2 ^ 32 * cf c 3 15 0) * 1000000000 + (cw c 1).toNat else j.launchNs + (cw c 1).toNat

/-- A LAUNCH_WAIT issues; one whose instant has passed completes at once and is counted (R78). -/
def launchWaitBody (x : Cx) (s : State) : Res :=
  if launchInstant x.cmd x.job < s.now then
    let s := s.upEngine x.e fun y => { y with cntLwLate := y.cntLwLate + 1 }
    let s := s.upJob x.e x.q fun j => { j with stats := { j.stats with lwLate := j.stats.lwLate + 1 } }
    .ok (s.complete x.e x.q x.i)
  else if launchInstant x.cmd x.job = s.now then .ok (s.complete x.e x.q x.i)
  else .ok s

/-- LAUNCH_WAIT. -/
def execLaunchWait (e : Fin 8) (q : Fin 5) (i : Nat) (s : State) : Host.Outcome State Fault Refusal :=
  runCommand opLWait e q i {} launchWaitBody s

/-- A LAUNCH_WAIT in flight reaches its instant: time passes to it, and it completes (R78), while launches are made (R287). -/
def State.launchReached (s : State) (e q i : Nat) : State :=
  match s.queue e q with
  | [] => s
  | j :: _ =>
    let c := j.cmds.getD i []
    if cOp c = opLWait ∧ j.flight.contains i ∧ s.qOpen e q ∧ s.launches then
      let s := s.passTo (launchInstant c j)
      if launchInstant c j ≤ s.now then s.complete e q i else s
    else s

/-- LAUNCH_WAIT_EXPIRY. -/
def execLaunchWaitExpiry (e : Fin 8) (q : Fin 5) (i : Nat) (s : State) : Host.Outcome State Fault Refusal :=
  .next (s.launchReached e.val q.val i)

end Sys2Proof.Machine
end

