-- ==== Sys2Proof/Machine/Move.lean ====
section
/-! DEFINITION. LOAD, STORE and FILL (R79 to R81), with the remote window of SPLIT (R398). -/

namespace Sys2Proof.Machine

/-- An address of the remote window of a context (R398): its peer context. -/
def State.remoteFor (s : State) (c va : Nat) : Option Nat := if va.testBit 46 then s.peerOf c else none

/-- A piece of a LOAD or STORE: bytes of the command before it, address, byte offset in the cleat, bytes. -/
structure MovePiece where
  /-- Bytes of the command that come before it. -/
  at' : Nat
  /-- Device-virtual address. -/
  va : Nat
  /-- Byte offset in the cleat. -/
  off : Nat
  /-- Bytes. -/
  n : Nat
  /-- It ends its row. -/
  last : Bool
deriving DecidableEq, Repr, Inhabited

/-- Byte offset in the cleat of row `i` in command order, planes outermost (R80). -/
def moveOff (c : List Word) (i : Nat) : Nat :=
  let rows := cf c 5 15 0
  if cb c 0 16 then 64 * tO c 1 + i * cf c 4 20 0
  else 64 * (tO c 1 + i / rows * cf c 10 17 0 + i % rows * cf c 9 17 0)

/-- The pieces of a LOAD or STORE in command order, none across a page of 4 KiB. -/
def movePieces (c : List Word) : List MovePiece :=
  let rb := cf c 4 20 0
  ((List.range (moveRows c).length).zip (moveRows c)).flatMap fun r =>
    (pagesOf r.2 rb).map fun p =>
      { at' := r.1 * rb + (p.1 - r.2), va := p.1, off := moveOff c r.1 + (p.1 - r.2), n := p.2
        last := p.1 - r.2 + p.2 == rb }

/-- The lowest tag of an engine that no remote read uses. -/
def Engine.freeTag (x : Engine) : Option Nat := (List.range 64).find? fun t => x.remotes.all fun r => r.tag ≠ t

/-- Ask the peer for bytes (R398): a Shroud frame with the address in the peer context, the length and the tag. -/
def State.remoteAsk (s : State) (peer va n tag : Nat) : State :=
  s.out 5 peer (natBytes 8 (va - 2 ^ 46) ++ natBytes 4 n ++ natBytes 1 tag)

/-- Post a write to the peer (R398). -/
def State.remotePost (s : State) (peer va : Nat) (bs : List Byte) : State :=
  s.out 5 peer (natBytes 8 (va - 2 ^ 46) ++ bs)

/-- LOAD writes zeros to the bytes of a row's last word beyond its end (R80). -/
def State.loadTail (s : State) (x : Cx) (p : MovePiece) : State :=
  let fin := p.off + p.n
  if p.last ∧ ¬ cb x.cmd 0 16 ∧ fin % 64 ≠ 0 then
    s.clWr x.e (tH x.cmd 1) fin (List.replicate (64 - fin % 64) 0)
  else s

/-- Move the pieces of a LOAD, in order, until one faults. -/
def loadRun (x : Cx) : List MovePiece → State → Res
  | [], s => .ok s
  | p :: t, s =>
    if p.at' < x.from' then loadRun x t s
    else
      match s.remoteFor x.c p.va with
      | some peer =>
        match (s.engine x.e).freeTag with
        | none => .part s p.at'
        | some tag =>
          let s := s.upEngine x.e fun y =>
            { y with remotes := y.remotes ++
              [{ tag := tag, ctx := x.c, h := tH x.cmd 1, off := p.off, len := p.n, idx := x.i }] }
          loadRun x t ((s.remoteAsk peer p.va p.n tag).loadTail x p)
      | none =>
        match s.xlate (some (mEngine x.e)) x.c p.va p.n false with
        | .pa a =>
          match s.eccRead (mEngine x.e) x.c x.env.errs a p.n with
          | (s, some b) => .uncorr s b
          | (s, none) => loadRun x t ((s.clWr x.e (tH x.cmd 1) p.off (s.rd a p.n)).loadTail x p)
        | f => xlRes s x false p.at' f

/-- Move the pieces of a STORE, in order, until one faults. A piece that covers part of an uncorrectable burst fails as a
read does (R175). -/
def storeRun (x : Cx) : List MovePiece → State → Res
  | [], s => .ok s
  | p :: t, s =>
    if p.at' < x.from' then storeRun x t s
    else
      let bs := s.clRd x.e (tH x.cmd 1) p.off p.n
      match s.remoteFor x.c p.va with
      | some peer => storeRun x t (s.remotePost peer p.va bs)
      | none =>
        match s.xlate (some (mEngine x.e)) x.c p.va p.n true with
        | .pa a =>
          match s.eccPartial a p.n with
          | some b => .uncorr s b
          | none => storeRun x t (s.put a bs)
        | f => xlRes s x true p.at' f

/-- The pieces of a LOAD or STORE that are still to move and do not cross the Shroud link: address and bytes. -/
def State.movePages (s : State) (x : Cx) : List (Nat × Nat) :=
  ((movePieces x.cmd).filter fun p => !decide (p.at' < x.from') && (s.remoteFor x.c p.va).isNone).map fun p => (p.va, p.n)

/-- LOAD (R79, R80, R166): each row is a demand read of its route, seen when the command first issues. -/
def loadBody (x : Cx) (s : State) : Res :=
  let s := s.walks (mEngine x.e) x.c x.env.errs false (s.movePages x)
  let s := if x.job.stalled x.i then s else s.demands x.c (cf x.cmd 3 18 16) ((moveRows x.cmd).map fun va => (va, cf x.cmd 4 20 0))
  loadRun x (movePieces x.cmd) s

/-- LOAD. -/
def execLoad (e : Fin 8) (q : Fin 5) (i : Nat) (env : Env) (s : State) : Host.Outcome State Fault Refusal :=
  runCommand opLoad e q i env loadBody s

/-- STORE (R79, R80). -/
def storeBody (x : Cx) (s : State) : Res :=
  storeRun x (movePieces x.cmd) (s.walks (mEngine x.e) x.c x.env.errs true (s.movePages x))

/-- STORE. -/
def execStore (e : Fin 8) (q : Fin 5) (i : Nat) (env : Env) (s : State) : Host.Outcome State Fault Refusal :=
  runCommand opStore e q i env storeBody s

/-- FILL (R81). -/
def fillBody (x : Cx) (s : State) : Res :=
  .ok (s.clWr x.e (tH x.cmd 1) (64 * tO x.cmd 1) (fillBytes (cw x.cmd 3) 0 (64 * cf x.cmd 2 17 0)))

/-- FILL. -/
def execFill (e : Fin 8) (q : Fin 5) (i : Nat) (env : Env) (s : State) : Host.Outcome State Fault Refusal :=
  runCommand opFill e q i env fillBody s

end Sys2Proof.Machine
end

