-- ==== Sys2Proof/Machine/Jpeg.lean ====
section
/-! DEFINITION. The decoding of a still's scans: Huffman codes, baseline and progressive coefficients, the inverse transform and
the samples (R268, R270). The formats are those of the standard that R268 cites. -/

namespace Sys2Proof.Machine

/-- A Huffman table: how many codes there are of each of 16 lengths, and their symbols in code order. -/
structure Huff where
  counts : List Nat := []
  syms : List Nat := []
  deriving DecidableEq, Repr

/-- A component of the frame: its name, sampling factors and table number, the quantisation table in force at its first scan,
how many blocks stand in a row of its store, and its blocks, each 64 coefficients in zig-zag order. -/
structure JComp where
  id : Nat
  h : Nat
  v : Nat
  tq : Nat
  quant : List Nat := []
  wide : Nat := 0
  blocks : List (List Int) := []
  deriving DecidableEq, Repr

/-- The decoder between two markers. -/
structure JDec where
  quants : List (List Nat) := List.replicate 16 []
  dcs : List Huff := List.replicate 16 {}
  acs : List Huff := List.replicate 16 {}
  restart : Nat := 0
  progressive : Bool := false
  width : Nat := 0
  height : Nat := 0
  comps : List JComp := []
  deriving DecidableEq, Repr

/-- What a scan's header says: for each of its components the index in the frame and the two Huffman tables; the band of
coefficients and the bit positions. -/
structure JScan where
  parts : List (Nat × Huff × Huff)
  ss : Nat
  se : Nat
  ah : Nat
  al : Nat
  progressive : Bool
  deriving DecidableEq, Repr

/-- The state of entropy decoding: bits to come, how many bands still end at once, the DC predictions. -/
structure JBits where
  bits : List Bool
  eob : Nat := 0
  preds : List Int := []
  deriving DecidableEq, Repr

/-! ### Bits and codes -/

/-- The bits of entropy data, highest first. -/
def jBitsOf (l : List Nat) : List Bool := l.flatMap fun b => (List.range 8).map fun i => b.testBit (7 - i)

/-- A number of `n` bits taken off the front. -/
def jTake (n : Nat) (bits : List Bool) : Option (Nat × List Bool) :=
  if bits.length < n then none
  else some ((bits.take n).foldl (fun a b => 2 * a + b.toNat) 0, bits.drop n)

/-- The signed value that `n` bits code: those with a leading zero are negative. -/
def jExtend (n v : Nat) : Int := if 2 * v < 2 ^ n then (v : Int) - (2 ^ n - 1 : Nat) else v

/-- Read a code. `code` is what was read, `first` the lowest code of this length, `at'` the place of its symbol. -/
def Huff.walk (syms : List Nat) : List Nat → Nat → Nat → Nat → List Bool → Option (Nat × List Bool)
  | n :: counts, code, first, at', b :: bits =>
    let code := code + b.toNat
    if code < first + n then some (syms.getD (at' + code - first) 0, bits)
    else Huff.walk syms counts (2 * code) (2 * (first + n)) (at' + n) bits
  | _, _, _, _, _ => none

/-- The symbol at the front of the bits; none where the bits end or are no code of the table. -/
def Huff.read (t : Huff) (bits : List Bool) : Option (Nat × List Bool) := Huff.walk t.syms t.counts 0 0 0 bits

/-! ### Blocks -/

/-- The coefficients of a band in a first pass: `n` of them are left, `p` is the weight of the lowest bit sent. The values, the
bits left, and in how many further blocks the band ends at once. `fuel` bounds the codes. -/
def acFirst (t : Huff) (prog : Bool) (p : Int) : Nat → Nat → List Bool → Option (List Int × List Bool × Nat)
  | _, 0, bits => some ([], bits, 0)
  | 0, _, _ => none
  | fuel + 1, n, bits => do
    let (rs, bits) ← t.read bits
    let r := rs / 16
    let k := rs % 16
    if k = 0 ∧ r ≠ 15 then
      if r ≠ 0 ∧ ¬ prog then none
      else
        let (v, bits) ← jTake r bits
        some (List.replicate n 0, bits, 2 ^ r + v - 1)
    else if n ≤ r then none
    else
      let (v, bits) ← jTake k bits
      let (l, bits, e) ← acFirst t prog p fuel (n - r - 1) bits
      some (List.replicate r 0 ++ (if k = 0 then 0 else jExtend k v * p) :: l, bits, e)

/-- A coefficient already sent takes one more bit. -/
def jRefine (b : Bool) (p c : Int) : Int := if ¬ b then c else if c < 0 then c - p else c + p

/-- Pass over the coefficients of a band, refining those already sent, up to the one after `r` that are still zero: the
coefficients passed, those from it on, and the bits left. -/
def acSkip (p : Int) : List Int → Nat → List Bool → Option (List Int × List Int × List Bool)
  | [], _, bits => some ([], [], bits)
  | c :: l, r, bits =>
    if c ≠ 0 then
      match bits with
      | [] => none
      | b :: bits => (acSkip p l r bits).map fun t => (jRefine b p c :: t.1, t.2)
    else if r = 0 then some ([], c :: l, bits)
    else (acSkip p l (r - 1) bits).map fun t => (c :: t.1, t.2)

/-- The coefficients of a band in a later pass; like `acFirst`. -/
def acLater (t : Huff) (p : Int) : Nat → List Int → List Bool → Option (List Int × List Bool × Nat)
  | _, [], bits => some ([], bits, 0)
  | 0, _, _ => none
  | fuel + 1, band, bits => do
    let (rs, bits) ← t.read bits
    let r := rs / 16
    let k := rs % 16
    if k = 0 ∧ r ≠ 15 then
      let (v, bits) ← jTake r bits
      let (l, _, bits) ← acSkip p band 64 bits
      some (l, bits, 2 ^ r + v - 1)
    else if 1 < k then none
    else
      let (b, bits) ← jTake k bits
      let (l, rest, bits) ← acSkip p band r bits
      match rest with
      | [] => none
      | _ :: rest =>
        let (l', bits, e) ← acLater t p fuel rest bits
        some (l ++ (if k = 0 then 0 else if b = 1 then p else -p) :: l', bits, e)

/-- The DC coefficient of a block of component `c`. -/
def JScan.dc (sc : JScan) (c : Nat) (t : Huff) (old : Int) (j : JBits) : Option (Int × JBits) :=
  if sc.ah = 0 then do
    let (k, bits) ← t.read j.bits
    let (v, bits) ← jTake k bits
    let d := j.preds.getD c 0 + jExtend k v
    some (d * (2 ^ sc.al : Nat), { j with bits := bits, preds := j.preds.set c d })
  else do
    let (v, bits) ← jTake 1 j.bits
    some (old + (v * 2 ^ sc.al : Nat), { j with bits := bits })

/-- The band of a block above its DC coefficient. -/
def JScan.ac (sc : JScan) (t : Huff) (band : List Int) (j : JBits) : Option (List Int × JBits) :=
  let p : Int := (2 ^ sc.al : Nat)
  if j.eob ≠ 0 then
    if sc.ah = 0 then some (band, { j with eob := j.eob - 1 })
    else (acSkip p band 64 j.bits).map fun x => (x.1, { j with bits := x.2.2, eob := j.eob - 1 })
  else
    (if sc.ah = 0 then acFirst t sc.progressive p 64 band.length j.bits else acLater t p 64 band j.bits).map fun x =>
      (x.1, { j with bits := x.2.1, eob := x.2.2 })

/-- One block of component `c` in a scan. -/
def JScan.block (sc : JScan) (c : Nat) (dt at' : Huff) (b : List Int) (j : JBits) : Option (List Int × JBits) := do
  let (b, j) ← if sc.ss = 0 then (sc.dc c dt (b.getD 0 0) j).map fun x => (b.set 0 x.1, x.2) else some (b, j)
  let lo := max 1 sc.ss
  if sc.se < lo then some (b, j)
  else
    let (l, j) ← sc.ac at' ((b.drop lo).take (sc.se + 1 - lo)) j
    some (b.take lo ++ l ++ b.drop (sc.se + 1), j)

/-! ### Scans -/

/-- The blocks of an MCU, one after another; each is the place of its part in the scan and its place in the component. -/
def JScan.mcu (sc : JScan) : List (Nat × Nat) → List JComp → JBits → Option (List JComp × JBits)
  | [], cs, j => some (cs, j)
  | (k, i) :: l, cs, j => do
    let (c, dt, at') ← sc.parts[k]?
    let x ← cs[c]?
    let (b, j) ← sc.block c dt at' (x.blocks.getD i []) j
    sc.mcu l (cs.set c { x with blocks := x.blocks.set i b }) j

/-- The MCUs of a restart interval; each interval begins afresh. -/
def JScan.interval (sc : JScan) (mcus : List (List (Nat × Nat))) (cs : List JComp) (bits : List Bool) : Option (List JComp) :=
  (mcus.foldlM (fun (t : List JComp × JBits) m => sc.mcu m t.1 t.2)
    (cs, { bits := bits, preds := List.replicate cs.length 0 })).map (·.1)

/-- The MCUs of a scan over its stretches of entropy data; none where the data ends before the last MCU (R270). -/
def JScan.intervals (sc : JScan) (restart : Nat) : List (List Nat) → List (List (Nat × Nat)) → List JComp → Option (List JComp)
  | _, [], cs => some cs
  | [], _ :: _, _ => none
  | d :: data, mcus, cs => do
    let n := if restart = 0 then mcus.length else restart
    let cs ← sc.interval (mcus.take n) cs (jBitsOf d)
    sc.intervals restart data (mcus.drop n) cs

/-- The entropy data at the front, cut at restart markers, which count from 0 to 7 in turn, and what follows. -/
def jEntropy : List Nat → Nat → List (List Nat) × List Nat
  | [], _ => ([[]], [])
  | 0xFF :: 0 :: l, k =>
    let t := jEntropy l k
    ((0xFF :: t.1.headD []) :: t.1.tail, t.2)
  | 0xFF :: m :: l, k =>
    if m = 0xD0 + k % 8 then
      let t := jEntropy l (k + 1)
      ([] :: t.1, t.2)
    else ([[]], 0xFF :: m :: l)
  | b :: l, k =>
    let t := jEntropy l k
    ((b :: t.1.headD []) :: t.1.tail, t.2)

/-- The greatest sampling factors of the frame. -/
def JDec.factors (d : JDec) : Nat × Nat := (d.comps.foldl (fun a c => max a c.h) 1, d.comps.foldl (fun a c => max a c.v) 1)

/-- The MCUs of a scan: of one component every block that its samples need, of several the interleaved blocks. -/
def JDec.mcus (d : JDec) (parts : List Nat) : List (List (Nat × Nat)) :=
  let f := d.factors
  match parts with
  | [c] =>
    match d.comps[c]? with
    | none => []
    | some x =>
      let nx := cdiv (cdiv (d.width * x.h) f.1) 8
      let ny := cdiv (cdiv (d.height * x.v) f.2) 8
      (List.range ny).flatMap fun y => (List.range nx).map fun i => [(0, y * x.wide + i)]
  | _ =>
    let nx := cdiv d.width (8 * f.1)
    let ny := cdiv d.height (8 * f.2)
    (List.range ny).flatMap fun my => (List.range nx).map fun mx =>
      (List.zip (List.range parts.length) parts).flatMap fun p =>
        match d.comps[p.2]? with
        | none => []
        | some x => (List.range x.v).flatMap fun v => (List.range x.h).map fun h => (p.1, (my * x.v + v) * x.wide + mx * x.h + h)

/-! ### Marker segments -/

/-- Two bytes, the higher first. -/
def jWord (l : List Nat) : Nat := 256 * l.getD 0 0 + l.getD 1 0

/-- The tables of a DQT segment. `fuel` bounds them. -/
def jDqt : Nat → List Nat → List (List Nat) → List (List Nat)
  | 0, _, qs => qs
  | _, [], qs => qs
  | fuel + 1, b :: l, qs =>
    if b < 16 then jDqt fuel (l.drop 64) (qs.set (b % 16) (l.take 64))
    else jDqt fuel (l.drop 128) (qs.set (b % 16) ((List.range 64).map fun i => jWord (l.drop (2 * i))))

/-- The tables of a DHT segment. `fuel` bounds them. -/
def jDht : Nat → List Nat → JDec → JDec
  | 0, _, d => d
  | _, [], d => d
  | fuel + 1, b :: l, d =>
    let n := (l.take 16).foldl (· + ·) 0
    let t : Huff := { counts := l.take 16, syms := (l.drop 16).take n }
    jDht fuel (l.drop (16 + n)) (if b < 16 then { d with dcs := d.dcs.set (b % 16) t } else { d with acs := d.acs.set (b % 16) t })

/-- The frame that a SOF segment declares, its coefficients zero. -/
def JDec.frame (d : JDec) (prog : Bool) (l : List Nat) : JDec :=
  let g := fun k => l.getD k 0
  let cs : List JComp := (List.range (g 5)).map fun i =>
    { id := g (6 + 3 * i), h := g (7 + 3 * i) / 16, v := g (7 + 3 * i) % 16, tq := g (8 + 3 * i) }
  let d := { d with progressive := prog, height := jWord (l.drop 1), width := jWord (l.drop 3), comps := cs }
  let f := d.factors
  { d with comps := cs.map fun c =>
      let wide := cdiv d.width (8 * f.1) * c.h
      { c with wide := wide, blocks := List.replicate (wide * (cdiv d.height (8 * f.2) * c.v)) (List.replicate 64 0) } }

/-- What a SOS segment says; none where it names no component of the frame or a band that the process does not have. -/
def JDec.scan (d : JDec) (l : List Nat) : Option JScan :=
  let n := l.headD 0
  let g := fun k => l.getD (1 + 2 * n + k) 0
  let parts := (List.range n).filterMap fun i =>
    (d.comps.findIdx? fun c => c.id == l.getD (1 + 2 * i) 0).map fun c =>
      (c, d.dcs.getD (l.getD (2 + 2 * i) 0 / 16) {}, d.acs.getD (l.getD (2 + 2 * i) 0 % 16) {})
  let sc : JScan := { parts := parts, ss := g 0, se := g 1, ah := g 2 / 16, al := g 2 % 16, progressive := d.progressive }
  if n = 0 ∨ parts.length ≠ n then none
  else if ¬ d.progressive then if sc.ss = 0 ∧ sc.se = 63 ∧ g 2 = 0 then some sc else none
  else if sc.ss = 0 then if sc.se = 0 then some sc else none
  else if sc.ss ≤ sc.se ∧ sc.se < 64 ∧ n = 1 then some sc
  else none

/-- Whether every table that a scan uses has been defined. -/
def JDec.tabled (d : JDec) (sc : JScan) : Bool :=
  sc.parts.all fun p => !(d.quants.getD ((d.comps.map JComp.tq).getD p.1 0) []).isEmpty &&
    (sc.ss != 0 || sc.ah != 0 || !p.2.1.counts.isEmpty) && (sc.se == 0 || !p.2.2.counts.isEmpty)

/-- The frame's components with the quantisation tables of a scan's own components, where it is their first. -/
def JDec.quantised (d : JDec) (sc : JScan) : List JComp :=
  (List.zip (List.range d.comps.length) d.comps).map fun p =>
    if sc.parts.any (fun x => x.1 == p.1) && p.2.quant.isEmpty then { p.2 with quant := d.quants.getD p.2.tq [] } else p.2

/-- Go over the markers and scans after SOI up to EOI: the decoder at the end, or the cause of R270. `fuel` bounds the walk.
Data that ends where a marker is due ends the image (log 174). -/
def jRun : Nat → List Nat → JDec → Except Nat JDec
  | 0, _, d => .ok d
  | fuel + 1, 0xFF :: m :: l, d =>
    let n := jWord l
    let body := (l.drop 2).take (n - 2)
    let next := l.drop n
    if m = 0xFF then jRun fuel (0xFF :: l) d
    else if m = 0xD9 then .ok d
    else if m = 0xDB then jRun fuel next { d with quants := jDqt body.length body d.quants }
    else if m = 0xC4 then jRun fuel next (jDht body.length body d)
    else if m = 0xDD then jRun fuel next { d with restart := jWord body }
    else if (m = 0xC0 ∨ m = 0xC2) ∧ d.comps = [] then jRun fuel next (d.frame (m == 0xC2) body)
    else if m = 0xDA then
      match d.scan body with
      | none => .error 11
      | some sc =>
        if ¬ d.tabled sc then .error 14
        else
          let e := jEntropy next 0
          match sc.intervals d.restart e.1 (d.mcus (sc.parts.map (·.1))) (d.quantised sc) with
          | none => .error 13
          | some cs => jRun fuel e.2 { d with comps := cs }
    else if (0xE0 ≤ m ∧ m ≤ 0xEF) ∨ m = 0xFE then jRun fuel next d
    else if m ≤ 1 ∨ (0xC0 ≤ m ∧ m ≤ 0xD8) then .error 14
    else .error 11
  | _ + 1, [], d => .ok d
  | _ + 1, [_], d => .ok d
  | _ + 1, _ :: _ :: _, _ => .error 14

/-! ### Samples -/

/-- The place in zig-zag order of each coefficient, row by row. -/
def zigzag : List Nat :=
  [0, 1, 5, 6, 14, 15, 27, 28, 2, 4, 7, 13, 16, 26, 29, 42, 3, 8, 12, 17, 25, 30, 41, 43, 9, 11, 18, 24, 31, 40, 44, 53,
    10, 19, 23, 32, 39, 45, 52, 54, 20, 22, 33, 38, 46, 51, 55, 60, 21, 34, 37, 47, 50, 56, 59, 61, 35, 36, 48, 49, 57, 58, 62, 63]

/-- Half the cosine of `k` sixteenths of pi for `k` from 1 to 7, and at 0 what stands there for the constant term. -/
def dctHalves : List Word :=
  [0x3EB504F3, 0x3EFB14BE, 0x3EEC835E, 0x3ED4DB31, 0x3EB504F3, 0x3E8E39DA, 0x3E43EF15, 0x3DC7C5C2]

/-- The weight of frequency `u` in sample `x`. -/
def dctWeight (x u : Nat) : Word :=
  let k := (2 * x + 1) * u % 32
  let k := if 16 < k then 32 - k else k
  if 8 < k then fNeg (wat dctHalves (16 - k)) else wat dctHalves k

/-- The inverse transform of eight coefficients, each product and each sum rounded (R268; the order, log 16). -/
def dct8 (l : List Word) : List Word :=
  (List.range 8).map fun x => (List.range 8).foldl (fun a u => fAdd 0 a (fMul 0 (dctWeight x u) (wat l u))) 0

/-- The 64 samples of a block: rows first and then columns, rounded to nearest, ties to even, and clamped (R268). -/
def jSamples (quant : List Nat) (b : List Int) : List Nat :=
  let f := fun v u =>
    let k := zigzag.getD (8 * v + u) 0
    fOfInt 0 (b.getD k 0 * (quant.getD k 0 : Nat))
  let rows := (List.range 8).map fun v => dct8 ((List.range 8).map (f v))
  let cols := (List.range 8).map fun x => dct8 (rows.map fun r => wat r x)
  (List.range 8).flatMap fun y => cols.map fun c => (max 0 (min 255 (((fv (wat c y)).toInt 0).getD 0 + 128))).toNat

/-- The sample of a component at a pixel, chroma by replication. -/
def JDec.sample (d : JDec) (c : JComp) (planes : List (List Nat)) (u v : Nat) : Byte :=
  let f := d.factors
  let x := u * c.h / f.1
  let y := v * c.v / f.2
  BitVec.ofNat 8 ((planes.getD (y / 8 * c.wide + x / 8) []).getD (8 * (y % 8) + x % 8) 0)

/-- The components of a still whose headers pass, pixel by pixel, or the cause that stops it. -/
def stillDecode (b : List Byte) : Except Nat (List Byte) :=
  match jRun b.length ((b.drop 2).map BitVec.toNat) {} with
  | .error e => .error e
  | .ok d =>
    let planes := d.comps.map fun c => (c, c.blocks.map (jSamples c.quant))
    .ok ((List.range d.height).flatMap fun v => (List.range d.width).flatMap fun u =>
      planes.map fun p => d.sample p.1 p.2 u v)

end Sys2Proof.Machine
end

