-- ==== Sys2Proof/Machine/FeStage.lean ====
section
/-! DEFINITION. What the stages of the front end make of a sample: geometry, the frozen-frame check, the depth tap, colour,
warp, normalisation and the headers of a still (R249, R258, R260, R263 to R272). -/

namespace Sys2Proof.Machine

/-! ### Geometry -/

/-- Bits of a pixel of a CSI-2 data type. -/
def dtBits (d : Nat) : Nat :=
  if d = 0x2A then 8 else if d = 0x2B then 10 else if d = 0x2C then 12 else if d = 0x2D then 14
  else if d = 0x1E then 16 else if d = 0x24 then 24 else 0
/-- A RAW data type. -/
def dtRaw (d : Nat) : Bool := decide (0x2A ≤ d ∧ d ≤ 0x2D)
/-- Bits of one component of the input (R256). -/
def Stream.depth (x : Stream) : Nat := if x.source = 0 ∧ dtRaw x.dtype then dtBits x.dtype else 8
/-- Bytes of a camera line (R250). -/
def Stream.lineBytes (x : Stream) : Nat := cdiv (x.width * dtBits x.dtype) 8
/-- Bytes of the ratline frame of one node as the ring holds it. -/
def Stream.frameBytes (x : Stream) : Nat := 28 + 16 * x.height
/-- Bytes of a sample in the input ring; the ring of a STILL stream holds packets (log 48). -/
def Stream.rawBytes (x : Stream) : Nat :=
  if x.source = 0 then x.lineBytes * x.height else if x.source = 1 then x.width * x.frameBytes else 0
/-- Channels of the output (R260, R263). -/
def Stream.channels (x : Stream) : Nat :=
  if x.source = 1 then 4 else if x.source = 0 ∧ dtRaw x.dtype ∧ x.cfg.cfa = 0 then 1 else 3
/-- Output width of an input width. -/
def Stream.outW (x : Stream) (w : Nat) : Nat := if x.cfg.warp then x.cfg.ow else w
/-- Output height of an input height. -/
def Stream.outH (x : Stream) (h : Nat) : Nat := if x.cfg.warp then x.cfg.oh else h
/-- Bytes of an element of a format of the front end. -/
def feBytes (f : Nat) : Nat := fmtBits f / 8
/-- Bytes a sample takes in a batch slot, at most. -/
def Stream.sampleBytes (x : Stream) : Nat := x.outW x.width * x.outH x.height * x.channels * feBytes x.format
/-- Node of column `k` of a RATLINE stream (R260). -/
def Stream.nodeAt (x : Stream) (k : Nat) : Nat := if x.cfg.nodes.isEmpty then k else x.cfg.nodes.getD k 64
/-- The column of a node. -/
def Stream.column (x : Stream) (node : Nat) : Option Nat := (List.range x.width).find? fun k => x.nodeAt k == node

/-! ### Raw pixels (CSI-2 packing, log 49) -/

/-- Pixel `i` of a RAW line. -/
def rawPix (dt : Nat) (l : List Byte) (i : Nat) : Nat :=
  let b := fun k => (l.getD k 0).toNat
  if dt = 0x2A then b i
  else if dt = 0x2B then 4 * b (5 * (i / 4) + i % 4) + b (5 * (i / 4) + 4) / 4 ^ (i % 4) % 4
  else if dt = 0x2C then 16 * b (3 * (i / 2) + i % 2) + b (3 * (i / 2) + 2) / 16 ^ (i % 2) % 16
  else
    let o := 7 * (i / 4)
    64 * b (o + i % 4) + (b (o + 4) + 256 * b (o + 5) + 65536 * b (o + 6)) / 64 ^ (i % 4) % 64

/-- Line `y` of a camera sample. -/
def Stream.line (x : Stream) (d : List Byte) (y : Nat) : List Byte := (d.drop (y * x.lineBytes)).take x.lineBytes

/-- Channel 0 of pixel (u, v) as received (R271). -/
def Stream.chan0 (x : Stream) (d : List Byte) (u v : Nat) : Nat :=
  let l := x.line d v
  if dtRaw x.dtype then rawPix x.dtype l u
  else if x.dtype = 0x1E then (l.getD (2 * u + 1) 0).toNat
  else (l.getD (3 * u + 2) 0).toNat

/-! ### Frozen-frame check (R271) -/

/-- The 32 × 32 grid of points of channel 0. -/
def Stream.points (x : Stream) (d : List Byte) : List Nat :=
  (List.range 32).flatMap fun j => (List.range 32).map fun i =>
    x.chan0 d ((2 * i + 1) * x.width / 64) ((2 * j + 1) * x.height / 64)

/-- Distance of two numbers. -/
def distN (a b : Nat) : Nat := max a b - min a b

/-- The counts after a sample whose repeat and static tests gave these answers, and the cause they come to; 0 where the
sample passes. -/
def Stream.count (x : Stream) (rep stat : Bool) : Stream × Nat :=
  let r := if rep then x.repeatCnt + 1 else 0
  let t := if stat then x.staticCnt + 1 else 0
  ({ x with repeatCnt := r, staticCnt := t },
    if x.cfg.repLimit ≠ 0 ∧ x.cfg.repLimit ≤ r then 16 else if x.cfg.staticLimit ≠ 0 ∧ x.cfg.staticLimit ≤ t then 17 else 0)

/-- The check of a camera sample. -/
def Stream.examine (x : Stream) (d : List Byte) : Stream × Nat :=
  let crc := crc32c d
  let ps := x.points d
  let diff := sumN (List.zipWith distN ps x.lastPts)
  let r := x.count (x.lastCrc == some crc) (!x.lastPts.isEmpty && decide (diff ≤ 1024 * x.cfg.staticMad))
  ({ r.1 with lastCrc := some crc, lastPts := ps }, r.2)

/-! ### Depth tap (R267) -/

/-- The 80 × 50 grid of least raw values, zeros left out. -/
def Stream.depthGrid (x : Stream) (d : List Byte) : List Nat :=
  let cw := x.width / 80
  let ch := x.height / 50
  (List.range 50).flatMap fun j => (List.range 80).map fun i =>
    let w := if i = 79 then x.width - 79 * cw else cw
    let h := if j = 49 then x.height - 49 * ch else ch
    let l := (List.range h).flatMap fun v => (List.range w).map fun u => x.chan0 d (i * cw + u) (j * ch + v)
    (l.filter (· != 0)).foldl (fun a p => if a = 0 then p else min a p) 0

/-! ### Colour (R263) -/

/-- Colour of a CFA pattern at (u, v): 0 R, 1 G, 2 B. -/
def cfaAt (cfa u v : Nat) : Nat :=
  let p := 2 * (v % 2) + u % 2
  if cfa = 1 then [0, 1, 1, 2].getD p 0
  else if cfa = 2 then [1, 0, 2, 1].getD p 0
  else if cfa = 3 then [1, 2, 0, 1].getD p 0
  else [2, 1, 1, 0].getD p 0

/-- White-balance gain of a channel; 1 where none is set. -/
def Stream.gain (x : Stream) (c : Nat) : Word := x.cfg.gain.getD c fOne

/-- A raw pixel after the black level and the gain of its channel. -/
def Stream.rawVal (x : Stream) (d : List Byte) (c u v : Nat) : Word :=
  fMul 0 (fOfInt 0 ((x.chan0 d u v - x.cfg.black : Nat) : Int)) (x.gain c)

/-- The neighbour of a coordinate on one axis: beyond an edge, the nearest row or column of the same colour (log 50). -/
def nearAt (n i : Nat) (k : Int) : Nat :=
  let j : Int := (i : Int) + k
  if n ≤ 1 then 0 else if j < 0 then 1 else if (n : Int) ≤ j then n - 2 else j.toNat

/-- Channel `c` of a demosaiced pixel. -/
def Stream.demosaic (x : Stream) (d : List Byte) (c u v : Nat) : Word :=
  if cfaAt x.cfg.cfa u v = c then x.rawVal d c u v
  else
    let l := ([-1, 0, 1] : List Int).flatMap fun j => ([-1, 0, 1] : List Int).filterMap fun i =>
      if cfaAt x.cfg.cfa (u + 1 + (i + 1).toNat) (v + 1 + (j + 1).toNat) = c then
        some (x.rawVal d c (nearAt x.width u i) (nearAt x.height v j))
      else none
    fDiv 0 ((l.drop 1).foldl (fAdd 0) (l.headD 0)) (fOfInt 0 l.length)

/-- The luma weights of red and blue in 1/10,000 of a matrix code: BT.601, or BT.709 (PRESUMED, log 96). -/
def yuvWeights (m : Nat) : Nat × Nat := if m < 2 then (2990, 1140) else (2126, 722)

/-- An exact sum of products. -/
def fvLin (l : List (Int × FV)) : FV := l.foldl (fun a p => a.add 0 ((FV.ofInt p.1).mul p.2)) (FV.ofInt 0)

/-- The exact value of R (0), G (1) or B (2) as terms over a common denominator, from luma and the colour differences: odd
codes have the limited range 16 to 235 and 16 to 240 (PRESUMED, log 96). -/
def yuvTerms (m c : Nat) (y cb cr : FV) : List (Int × FV) × Nat :=
  let p : Int := 10000
  let r : Int := (yuvWeights m).1
  let b : Int := (yuvWeights m).2
  let g := p - r - b
  let lim := m % 2 = 1
  let l : Int := if lim then 255 * 224 else 1
  let d : Int := if lim then 255 * 219 else 1
  let one := FV.ofInt 1
  let t := fun (k kb kr : Int) =>
    [(k * l, y), (-(k * l * if lim then 16 else 0), one), (kb * d, cb), (-(kb * d * 128), one), (kr * d, cr), (-(kr * d * 128), one)]
  let den := fun (k : Int) => (k * if lim then 219 * 224 else 1).toNat
  if c = 0 then (t p 0 (2 * (p - r)), den p)
  else if c = 1 then (t (p * g) (-(2 * b * (p - b))) (-(2 * r * (p - r))), den (p * g))
  else (t p (2 * (p - b)) 0, den p)

/-- A colour that a part computes, held to 2^-20 of the terms of its exact value: the order of the sums and the coefficients'
roundings are open (log 96). -/
def yuvBound (m c : Nat) (y cb cr : FV) (w : Word) : Word :=
  let t := yuvTerms m c y cb cr
  match fvLin t.1 with
  | .fin a k e =>
    let off := ((fv w).mul (FV.ofInt t.2)).add 0 (FV.fin a k e).neg
    let all := fvLin (t.1.map fun p => ((p.1.natAbs : Int), p.2.abs))
    if (fv w).isFin ∧ off.abs.le (all.mul (.fin false 1 (-20))) then w else wd (fFP32.round 0 a k t.2 e)
  | _ => w

/-- Luma and colour differences as red, green and blue (R263). -/
def yuvRgb (m : Nat) (y cb cr : Word) : List Word :=
  let l := Config.yuv m y cb cr
  [0, 1, 2].map fun c => yuvBound m c (fv y) (fv cb) (fv cr) (wat l c)

/-- The channels of a camera pixel. -/
def Stream.camera (x : Stream) (d : List Byte) (u v : Nat) : List Word :=
  if dtRaw x.dtype then
    if x.cfg.cfa = 0 then [x.rawVal d 0 u v] else [0, 1, 2].map fun c => x.demosaic d c u v
  else
    let l := x.line d v
    let g := fun (c k : Nat) => fMul 0 (fOfInt 0 ((l.getD k 0).toNat : Int)) (x.gain c)
    if x.dtype = 0x1E then
      let o := 4 * (u / 2)
      yuvRgb x.cfg.yuv (g 0 (2 * u + 1)) (g 1 o) (g 2 (o + 2))
    else [g 0 (3 * u + 2), g 1 (3 * u + 1), g 2 (3 * u)]

/-- The channels of a decoded still's pixel: `n` components of width `w`; a grey still has neutral chroma (log 51). -/
def Stream.still (x : Stream) (yuv n w : Nat) (d : List Byte) (u v : Nat) : List Word :=
  let o := n * (v * w + u)
  let g := fun (c : Nat) (b : Nat) => fMul 0 (fOfInt 0 (b : Int)) (x.gain c)
  let b := fun k => (d.getD (o + k) 0).toNat
  if n = 1 then yuvRgb yuv (g 0 (b 0)) (g 1 128) (g 2 128) else yuvRgb yuv (g 0 (b 0)) (g 1 (b 1)) (g 2 (b 2))

/-- The channels of a RATLINE sample: column `u`, record `v` (R258, R260). -/
def Stream.joint (x : Stream) (d : List Byte) (u v : Nat) : List Word :=
  let o := u * x.frameBytes + 24 + 16 * v
  [wordAt d (o + 4), wordAt d (o + 8), wordAt d (o + 12),
    wd (fFP32.round 0 (decide (sext 16 (leNat (slice d (o + 2) 2)) < 0)) (sext 16 (leNat (slice d (o + 2) 2))).natAbs 10 0)]

/-! ### Warp (R264) -/

/-- An FP32 value rounded down; none where it is not finite. -/
def fFloor (w : Word) : Option Int := (fv w).toInt 3

/-- The cell and the fraction of an output coordinate on one axis of the mesh. -/
def meshAt (u n o : Nat) : Nat × Word :=
  let f := if o = 1 then 0 else wd (fFP32.round 0 false (u * (n - 1)) (o - 1) 0)
  let i := min ((fFloor f).getD 0).toNat (n - 2)
  (i, fSub 0 f (fOfInt 0 i))

/-- `(1 - b) ((1 - a) p + a q) + b ((1 - a) r + a t)`, every operation rounded. -/
def blend4 (a b p q r t : Word) : Word :=
  let na := fSub 0 fOne a
  fAdd 0 (fMul 0 (fSub 0 fOne b) (fAdd 0 (fMul 0 na p) (fMul 0 a q))) (fMul 0 b (fAdd 0 (fMul 0 na r) (fMul 0 a t)))

/-- The source coordinate of output pixel (u, v). -/
def Stream.meshed (x : Stream) (u v : Nat) : Word × Word :=
  let p := meshAt u x.meshX x.cfg.ow
  let q := meshAt v x.meshY x.cfg.oh
  let at' := fun (k j i : Nat) => x.mesh.getD (2 * (j * x.meshX + i) + k) 0
  let f := fun k => blend4 p.2 q.2 (at' k q.1 p.1) (at' k q.1 (p.1 + 1)) (at' k (q.1 + 1) p.1) (at' k (q.1 + 1) (p.1 + 1))
  (f 0, f 1)

/-- A warped pixel of a source image of `w` by `h` pixels. -/
def Stream.warped (x : Stream) (w h : Nat) (src : Nat → Nat → List Word) (u v : Nat) : List Word :=
  let s := x.meshed u v
  let n := x.channels
  let tap := fun (a b : Int) => if 0 ≤ a ∧ a < w ∧ 0 ≤ b ∧ b < h then src a.toNat b.toNat else List.replicate n x.cfg.fill
  if x.cfg.nearest then
    match fFloor (fAdd 0 s.1 0x3F000000), fFloor (fAdd 0 s.2 0x3F000000) with
    | some a, some b => tap a b
    | _, _ => List.replicate n x.cfg.fill
  else
    match fFloor s.1, fFloor s.2 with
    | some a, some b =>
      let fa := fSub 0 s.1 (fOfInt 0 a)
      let fb := fSub 0 s.2 (fOfInt 0 b)
      let p := tap a b
      let q := tap (a + 1) b
      let r := tap a (b + 1)
      let t := tap (a + 1) (b + 1)
      (List.range n).map fun c => blend4 fa fb (p.getD c 0) (q.getD c 0) (r.getD c 0) (t.getD c 0)
    | _, _ => List.replicate n fNan

/-! ### Normalisation and output (R266) -/

/-- Channel `c` normalised. -/
def Stream.normal (x : Stream) (c : Nat) (w : Word) : Word :=
  if x.source = 1 ∧ (x.cfg.invstd.length ≤ c) then Config.ratNorm c w
  else fMul 0 (fSub 0 w (x.cfg.mean.getD c 0)) (x.cfg.invstd.getD c fOne)

/-- The code of an output element. -/
def Stream.code (x : Stream) (f c : Nat) (w : Word) : Nat := encEl f 0 (fv (if f = 5 then w else x.normal c w))

/-- The bytes of an output image of `w` by `h` pixels in a format and a layout. -/
def Stream.image (x : Stream) (f layout w h : Nat) (pix : Nat → Nat → List Word) : List Byte :=
  let n := x.channels
  packCodes f (if layout = 0 then
    (List.range h).flatMap fun v => (List.range w).flatMap fun u =>
      let p := pix u v
      (List.range n).map fun c => x.code f c (p.getD c 0)
  else (List.range n).flatMap fun c => (List.range h).flatMap fun v => (List.range w).map fun u => x.code f c ((pix u v).getD c 0))

/-- Stages 6 to 8 on a source image. -/
def Stream.stages (x : Stream) (f layout w h : Nat) (src : Nat → Nat → List Word) : List Byte :=
  if x.cfg.warp then x.image f layout x.cfg.ow x.cfg.oh (x.warped w h src) else x.image f layout w h src

/-- The output of a camera or RATLINE sample. -/
def Stream.output (x : Stream) (d : List Byte) : List Byte :=
  x.stages x.format x.layout x.width x.height (if x.source = 1 then x.joint d else x.camera d)

/-! ### Stills (R268, R270) -/

/-- The features of a SOF segment at a byte: supported, with width, height and components. -/
def jpegSof (b : List Byte) (m p : Nat) : Bool × Nat × Nat × Nat :=
  let g := fun k => (b.getD (p + k) 0).toNat
  let n := g 9
  let f := fun k => g (11 + 3 * k)
  ((m == 0xC0 || m == 0xC2) && g 4 == 8 && ((n == 1 && [0x11, 0x21, 0x22].contains (f 0)) ||
      (n == 3 && [0x11, 0x21, 0x22].contains (f 0) && f 1 == 0x11 && f 2 == 0x11)),
    beNat (slice b (p + 7) 2), beNat (slice b (p + 5) 2), n)

/-- Walk the markers up to the first scan: the frame header and whether every feature is supported, or none where the
markers are out of order. `n` bounds the walk. -/
def jpegWalk (b : List Byte) : Nat → Nat → Option (Nat × Nat × Nat) → Bool → Option ((Nat × Nat × Nat) × Bool)
  | 0, _, _, _ => none
  | n + 1, p, sof, ok =>
    if b.length < p + 4 ∨ b.getD p 0 ≠ 0xFF then none
    else
      let m := (b.getD (p + 1) 0).toNat
      let next := p + 2 + beNat (slice b (p + 2) 2)
      if m = 0xFF then jpegWalk b n (p + 1) sof ok
      else if m = 0xDA then sof.map fun x => (x, ok)
      else if m ≤ 1 ∨ (0xD0 ≤ m ∧ m ≤ 0xD9) then none
      else if m = 0xC4 ∨ m = 0xDB ∨ m = 0xDD ∨ (0xE0 ≤ m ∧ m ≤ 0xEF) ∨ m = 0xFE then jpegWalk b n next sof ok
      else if 0xC0 ≤ m ∧ m ≤ 0xCF ∧ m ≠ 0xC8 ∧ m ≠ 0xCC then
        if sof.isSome then none
        else
          let f := jpegSof b m p
          jpegWalk b n next (some f.2) (ok && f.1)
      else jpegWalk b n next sof false

/-- What decoding a still comes to: the cause, or width, height, components and component bytes, pixel by pixel. -/
def Stream.decodeStill (x : Stream) (b : List Byte) (f space : Nat) : Except Nat (Nat × Nat × Nat × List Byte) :=
  if slice b 0 2 ≠ [0xFF, 0xD8] then .error 14
  else
    match jpegWalk b b.length 2 none true with
    | none => .error 14
    | some ((w, h, n), ok) =>
      if ¬ ok then .error 11
      else if w = 0 ∨ h = 0 ∨ x.width < w ∨ x.height < h then .error 12
      else if space < w * h * x.channels * feBytes f then .error 12
      else (stillDecode b).map fun d => (w, h, n, d)

end Sys2Proof.Machine
end

