-- ==== Sys2Proof/Machine/FeBatch.lean ====
section
/-! DEFINITION. Sets, batches and quarantine of the front end (R259 to R262, R271 to R277). -/

namespace Sys2Proof.Machine

/-- The numbers of the streams. -/
def streamNos : List Nat := List.range 32

/-- The open members of a group in member order; members of one order stand by number (R256). -/
def State.members (s : State) (g : Nat) : List Nat :=
  (List.range 8).flatMap fun m => streamNos.filter fun i =>
    let x := s.stream i
    x.state != 0x40 && x.grouped && x.group == g && x.cfg.member == m

/-- Where batches are assembled: a fusion group, or a stream alone. -/
structure Bt where
  /-- A group, else a stream. -/
  grp : Bool
  /-- Its number. -/
  i : Nat
deriving DecidableEq, Repr, Inhabited

/-- Where the samples of a stream go. -/
def State.btOf (s : State) (n : Nat) : Bt :=
  if (s.stream n).grouped then { grp := true, i := (s.stream n).group } else { grp := false, i := n }
/-- The streams of a target in member order. -/
def State.btStreams (s : State) (b : Bt) : List Nat := if b.grp then s.members b.i else [b.i]
/-- The first of them, whose output cleat holds the slots. -/
def State.btLead (s : State) (b : Bt) : Nat := (s.btStreams b).headD 0
/-- Samples written into the batch in assembly. -/
def State.btAsm (s : State) (b : Bt) : List Desc := if b.grp then (s.group b.i).asm else (s.stream b.i).asm
/-- Samples or sets complete in it. -/
def State.btValid (s : State) (b : Bt) : Nat := if b.grp then (s.group b.i).valid else (s.stream b.i).asm.length
/-- It is full. -/
def State.btFull (s : State) (b : Bt) : Bool := decide ((s.stream (s.btLead b)).samples ≤ s.btValid b)
/-- Slot in assembly. -/
def State.btSlot (s : State) (b : Bt) : Nat := if b.grp then (s.group b.i).slotNo else (s.stream b.i).slotNo
/-- Batch number in assembly. -/
def State.btBatch (s : State) (b : Bt) : Nat := if b.grp then (s.group b.i).batchNo else (s.stream b.i).batchNo

/-- Bytes of the header and descriptors of a slot, up to the first sample (R272). -/
def slotHead (n : Nat) : Nat := alignUp (64 + 32 * n) 64
/-- Bytes of a slot for streams with these sample sizes. -/
def slotBytes (samples : Nat) (sizes : List Nat) : Nat :=
  slotHead (samples * sizes.length) + samples * sumN (sizes.map fun z => alignUp z 64)
/-- Sample sizes of a target. -/
def State.btSizes (s : State) (b : Bt) : List Nat := (s.btStreams b).map fun i => (s.stream i).sampleBytes
/-- First byte of slot `k` of a target. -/
def State.slotVa (s : State) (b : Bt) (k : Nat) : Nat :=
  let x := s.stream (s.btLead b)
  x.outVa + k * slotBytes x.samples (s.btSizes b)
/-- Offset in the slot of the data of sample or set `j`, member `k`. -/
def State.dataOfs (s : State) (b : Bt) (j k : Nat) : Nat :=
  let z := (s.btSizes b).map fun z => alignUp z 64
  slotHead ((s.stream (s.btLead b)).samples * z.length) + j * sumN z + sumN (z.take k)

/-- The front end writes bytes of a context; a page that the access table refuses is recorded (R424). -/
def State.feWr (s : State) (c va : Nat) (bs : List Byte) : State :=
  match s.vwr (some mFe) c va bs with
  | .ok s => s
  | .error (.denied a) => s.violation mFe 0 a true
  | .error _ => s

/-- The FE's check of a write to a batch slot of the stream `lead`: it lies in the entry of that stream's output cleat, in
base, size and owning context (R252). -/
def State.slotOk (s : State) (lead va n : Nat) : Bool :=
  let x := s.stream lead
  s.fe.cleats.any fun q => q.2.1 == x.outVa && q.2.2.2 == x.ctx && decide (x.outVa ≤ va ∧ va + n ≤ x.outVa + q.2.2.1)

/-- The front end writes bytes of a batch slot; a write that its cleat entry does not cover is not made (R252, log 169). -/
def State.slotWr (s : State) (lead va : Nat) (bs : List Byte) : State :=
  if s.slotOk lead va bs.length then s.feWr (s.stream lead).ctx va bs else s

/-- The time words of a stamp in units of 2^-16 ns. -/
def stampWords (t : Nat) : List Word := timeWords (t / 65536 / 1000000000) (t / 65536 % 1000000000) (t % 65536)

/-- The eight words of a sample descriptor (R272). -/
def Desc.words (d : Desc) : List Word :=
  [wd d.no] ++ stampWords d.stamp ++
    [wd d.off, wd (d.w + 2 ^ 16 * d.h), wd (d.fmt + 2 ^ 4 * (d.ch - 1) + bitAt d.rep 8 + bitAt d.tele 9), wd d.stream]

/-- The words of a slot header (R272). -/
def slotHeader (lead : Nat) (b : Bt) (batch valid members : Nat) (part : Bool) (commit : Word) : List Word :=
  [wd (1 + 2 ^ 4 * lead + bitAt b.grp 9 + if b.grp then 2 ^ 10 * b.i else 0), wd batch,
   wd (valid + 2 ^ 8 * members + bitAt part 16), commit] ++ List.replicate 12 0

/-- A sample of stream `n` is written as member `k` of the next sample or set; the slot is marked as being written before
its first byte (R273). -/
def State.putSample (s : State) (b : Bt) (n k : Nat) (d : Desc) (bs : List Byte) : State :=
  let lead := s.btLead b
  let base := s.slotVa b (s.btSlot b)
  let asm := s.btAsm b
  let off := s.dataOfs b (s.btValid b) k
  let d := { d with off := off, stream := n }
  let s := if asm.isEmpty then s.slotWr lead (base + 12) (wordBytes 0xFFFFFFFF) else s
  let s := (s.slotWr lead (base + off) bs).slotWr lead (base + 64 + 32 * asm.length) (bytesOf d.words)
  let s := s.upStream n fun y => { y with cntRepeat := if d.rep then y.cntRepeat + 1 else y.cntRepeat }
  if b.grp then s.upGroup b.i fun y => { y with asm := y.asm ++ [d] } else s.upStream b.i fun y => { y with asm := y.asm ++ [d] }

/-- The batch in assembly is written and signalled: batch and commit last (R273). -/
def State.commit (s : State) (b : Bt) : State :=
  let l := s.btStreams b
  let lead := s.btLead b
  let x := s.stream lead
  let v := s.btValid b
  let no := s.btBatch b
  let hdr := slotHeader lead b no v l.length (decide (v < x.samples)) (wd no)
  let s := s.slotWr lead (s.slotVa b (s.btSlot b)) (bytesOf hdr)
  let slot := (s.btSlot b + 1) % max 1 x.slots
  let next := (no + 1) % 0xFFFFFFFF
  let s := l.foldl (fun s i => s.upStream i fun y => { y with lastBatch := wd no, lastValid := v }) s
  let s := if b.grp then s.upGroup b.i fun y => { y with asm := [], valid := 0, slotNo := slot, batchNo := next }
    else s.upStream b.i fun y => { y with asm := [], slotNo := slot, batchNo := next }
  s.event (160 + 2 * lead)

/-- The batch in assembly is written before it is full, if it holds anything (R276, R279). -/
def State.cutBatch (s : State) (b : Bt) : State := if s.btValid b = 0 then s else s.commit b

/-! ### Quarantine (R276, R277) -/

/-- The running reply of a stream (R277). -/
def State.runningReply (s : State) (n st : Nat) (f : RF) : State :=
  (((s.closeOp 0x502 n st f).closeOp 0x504 n st f).closeOp 0x505 n st f)

/-- The fault of a cause (R278). -/
def causeFault (cause : Nat) : Nat :=
  if cause = 0 then fltMemUncorr else if cause = 16 ∨ cause = 17 then fltFrozenInput else fltCorruptInput

/-- A sample becomes corrupt input (R276). -/
def State.quarantine (s : State) (n : Nat) (sm : Sample) (cause : Nat) : State :=
  let x := s.stream n
  let code := causeFault cause
  let b := s.btOf n
  let valid := s.btValid b
  let d1 := wd (n + 2 ^ 8 * cause)
  let s := s.cutBatch b
  let s := s.upStream n fun y =>
    { y with state := 0x43, quar := some { sm with cause := cause }, cause := cause, cntQuar := y.cntQuar + 1 }
  let s := (s.event (161 + 2 * n)).fault code 1 x.ctx n d1
  let s := if x.grouped then s.upGroup x.group fun g => { g with halted := true } else s
  let s := s.runningReply n stPartial { d0 := wd valid, d1 := d1, lo := (s.stream n).lastBatch, hi := wd sm.no, fault := code }
  if x.source = 2 then
    match s.opens.find? fun o => o.hdr.no == sm.hdr.no with
    | some o => s.close o stFault { d1 := d1, lo := wat o.params 3, fault := code }
    | none => s
  else s

/-! ### Sets (R262) -/

/-- Insert a set by its instant. -/
def insSet (x : OpenSet) : List OpenSet → List OpenSet
  | [] => [x]
  | y :: t => if x.t < y.t then x :: y :: t else y :: insSet x t

/-- The sets of a target. -/
def State.setsOf (s : State) (b : Bt) : List OpenSet := if b.grp then (s.group b.i).sets else (s.stream b.i).sets
/-- Replace them. -/
def State.putSets (s : State) (b : Bt) (l : List OpenSet) : State :=
  if b.grp then s.upGroup b.i fun g => { g with sets := l } else s.upStream b.i fun x => { x with sets := l }
/-- Members a complete set holds: streams of a group, nodes of a RATLINE stream. -/
def State.setSize (s : State) (b : Bt) : Nat := if b.grp then (s.members b.i).length else (s.stream b.i).width
/-- A set is complete. -/
def State.setDone (s : State) (b : Bt) (k : OpenSet) : Bool := decide (s.setSize b ≤ k.got.length)
/-- A telltale holds the stages of one of its streams (R275). -/
def State.btTold (s : State) (b : Bt) : Bool := (s.btStreams b).any fun i => (s.stream i).tele.isSome
/-- The target passes nothing: a member of its group is quarantined, or a telltale holds a member's stages. -/
def State.btHeld (s : State) (b : Bt) : Bool :=
  (b.grp && (s.group b.i).halted) || s.btTold b || (!b.grp && (s.stream b.i).state != 0x42)

/-- The description of a sample of a stream as it is written. -/
def Stream.desc (x : Stream) (sm : Sample) (stamp : Nat) : Desc :=
  { no := sm.no, stamp := stamp, fmt := x.format, ch := x.channels, rep := sm.rep
    w := if x.source = 2 then x.outW sm.addr else x.outW x.width, h := if x.source = 2 then x.outH sm.lines else x.outH x.height }

/-- The bytes a sample comes to: those already made of a still, else what the stages make of it. -/
def Stream.bytesFor (x : Stream) (sm : Sample) : List Byte := if x.source = 2 then sm.data else x.output sm.data

/-- The sample instant (R261): the stamp less the offset; none before Halyard time 0. -/
def Stream.instant (x : Stream) (sm : Sample) : Option Nat :=
  let t : Int := (sm.stamp : Int) - x.cfg.offset * 65536
  if t < 0 then none else some t.toNat

/-- A complete set of a group is written, its members in order. -/
def State.passGroupSet (s : State) (g : Nat) (k : OpenSet) : State :=
  let b : Bt := { grp := true, i := g }
  let l := s.members g
  let s := (List.range l.length).foldl (fun s j =>
    let i := l.getD j 0
    match Tab.find k.got i with
    | some sm => s.putSample b i j ((s.stream i).desc sm (((s.stream i).instant sm).getD 0)) ((s.stream i).bytesFor sm)
    | none => s) s
  s.upGroup g fun y => { y with valid := y.valid + 1 }

/-- A complete set of a RATLINE stream is a sample: its repeat check, then its writing (R260, R271). -/
def State.passRatSet (s : State) (n : Nat) (k : OpenSet) : State :=
  let x := s.stream n
  let data := (List.range x.width).flatMap fun j => ((Tab.find k.got j).map fun sm => slice sm.data 0 x.frameBytes).getD []
  let (x', cause) := x.count (k.got.any fun p => p.2.rep) false
  let s := s.setStream n { x' with nextNo := (x.nextNo + 1) % 2 ^ 32 }
  let sm : Sample := { no := x.nextNo, stamp := k.t, data := data, done := true, rep := decide (x'.repeatCnt ≠ 0) }
  if cause ≠ 0 then s.quarantine n sm cause
  else s.putSample { grp := false, i := n } n 0 (x.desc sm k.t) (x.bytesFor sm)

/-- Complete sets pass in ascending order, until one is not complete or the batch is full (R262). -/
def State.passSets : Nat → Bt → State → State
  | 0, _, s => s
  | n + 1, b, s =>
    match s.setsOf b with
    | k :: t =>
      if s.setDone b k ∧ ¬ s.btHeld b ∧ ¬ s.btFull b then
        let s := s.putSets b t
        State.passSets n b (if b.grp then s.passGroupSet b.i k else s.passRatSet b.i k)
      else s
    | [] => s

/-- A set is dropped whole and counted (R262, R278). -/
def State.dropSet (s : State) (b : Bt) (t : Nat) : State :=
  let s := s.putSets b ((s.setsOf b).filter fun k => k.t ≠ t)
  (s.btStreams b).foldl (fun s i => s.upStream i fun x => { x with cntSet := x.cntSet + 1 }) s

/-- The set instant of a schedule nearest an instant (R255, R262). -/
def nearestSet (period phase t : Nat) : Nat :=
  let p := period * 65536
  let f := phase % period * 65536
  if t ≤ f then f
  else
    let a := f + (t - f) / p * p
    if t - a ≤ p - (t - a) then a else a + p

/-- The set of a list within a tolerance (in ns) of an instant. -/
def setNear (l : List OpenSet) (tol t : Nat) : Option OpenSet := l.find? fun k => decide (distN t k.t ≤ tol * 65536)

/-- What aligning a sample comes to. -/
inductive Aligned where
  /-- It stands in a set. -/
  | placed (s : State)
  /-- It fits none and is dropped. -/
  | dropped
  /-- Its set holds a sample of the member (cause 15). -/
  | twice

/-- Align a sample of member `m` with an instant; `first` where it is the group's first member (R262). -/
def State.align (s : State) (b : Bt) (cfg : StageCfg) (m : Nat) (first : Bool) (sm : Sample) (t : Nat) : Aligned :=
  let l := s.setsOf b
  match setNear l cfg.tol t with
  | some k =>
    if (Tab.find k.got m).isSome then .twice
    else .placed (s.putSets b (l.map fun q => if q.t = k.t then { q with got := Tab.set q.got m sm } else q))
  | none =>
    if cfg.period ≠ 0 then
      let a := nearestSet cfg.period cfg.phase t
      if distN t a ≤ cfg.tol * 65536 then .placed (s.putSets b (insSet { t := a, got := [(m, sm)] } l)) else .dropped
    else if first then .placed (s.putSets b (insSet { t := t, got := [(m, sm)] } l))
    else .dropped

/-- The depth tap sends a sample's grid over the bridge (R267). -/
def State.tapDepth (s : State) (n : Nat) (sm : Sample) : State :=
  let x := s.stream n
  if x.cfg.tap then s.out 7 1 (bytesOf (stampWords sm.stamp) ++ (x.depthGrid sm.data).flatMap (natBytes 2)) else s

/-- Stage 4 and those after it, for a sample of a camera or a still: alignment in a group, the depth tap, and the writing
(R248, R261, R262). -/
def State.deliver (s : State) (n : Nat) (sm : Sample) : State :=
  let x := s.stream n
  match x.instant sm with
  | none => s.upStream n fun y => { y with cntAlign := y.cntAlign + 1 }
  | some t =>
    let b := s.btOf n
    if x.grouped then
      match s.align b x.cfg n (s.btLead b == n) sm t with
      | .placed s => (s.tapDepth n sm).passSets 64 b
      | .dropped => s.upStream n fun y => { y with cntAlign := y.cntAlign + 1 }
      | .twice => s.quarantine n sm 15
    else (s.tapDepth n sm).putSample b n 0 (x.desc sm t) (x.bytesFor sm)

/-- Stage 4 for a ratline frame: its node's column of the set within the tolerance of its instant (R260, R262). -/
def State.deliverNode (s : State) (n : Nat) (sm : Sample) : State :=
  let x := s.stream n
  let k := (x.column sm.node).getD 0
  let b : Bt := { grp := false, i := n }
  match s.align b x.cfg k (k == 0) sm sm.stamp with
  | .placed s => s.passSets 64 b
  | .dropped => s.upStream n fun y => { y with cntAlign := y.cntAlign + 1 }
  | .twice => s.quarantine n sm 15

/-- No member of a group is QUARANTINED: it is released, and sets whose deadline has passed are dropped (R278). -/
def State.releaseGroup (s : State) (g : Nat) : State :=
  let b : Bt := { grp := true, i := g }
  if (s.members g).any fun i => (s.stream i).state = 0x43 then s
  else
    let s := s.upGroup g fun y => { y with halted := false }
    let dl := (s.stream (s.btLead b)).cfg.deadline
    let s := (s.setsOf b).foldl (fun s k =>
      if ¬ s.setDone b k ∧ k.t + dl * 65536 ≤ s.hal.stamp then s.dropSet b k.t else s) s
    s.passSets 64 b

end Sys2Proof.Machine
end

