-- ==== Sys2Proof/Machine/FeIn.lean ====
section
/-! DEFINITION. What arrives at the front end, and stage 3 (R248 to R251, R258, R259, R261, R268 to R275). -/

namespace Sys2Proof.Machine

/-! ### The input ring -/

/-- Stage 3 takes nothing from the ring of a stream at present: it is not RUNNING, stops, is held by a telltale or a still,
its group is halted, or its batch waits to be committed. -/
def State.takeHeld (s : State) (n : Nat) : Bool :=
  let x := s.stream n
  x.state != 0x42 || x.tele.isSome || x.cur.isSome || (x.grouped && (s.group x.group).halted) || s.btFull (s.btOf n)

/-- Entries a ring holds: a RATLINE sample takes a frame of each of its nodes. -/
def Stream.ringRoom (x : Stream) : Nat := if x.source = 1 then x.ring * x.width else x.ring

/-- A still that leaves the ring unread: its packet ends as cancelled. -/
def State.stillGone (s : State) (sm : Sample) : State :=
  if sm.hdr.opcode = 0x511 then s.cancelOpens fun o => o.hdr.no == sm.hdr.no && o.hdr.opcode == 0x511 else s

/-- A sample arrives at the ring (R274). -/
def State.pushRing (s : State) (n : Nat) (sm : Sample) : State :=
  let x := s.stream n
  if x.inq.length < x.ringRoom then s.upStream n fun y => { y with inq := y.inq ++ [sm] }
  else if x.safety then
    ((s.upStream n fun y => { y with cntDrop := y.cntDrop + 1 }).event (161 + 2 * n)).stillGone sm
  else
    let s := match x.inq with
      | o :: _ => s.stillGone o
      | [] => s
    s.upStream n fun y => { y with inq := y.inq.drop 1 ++ [sm], cntDrop := y.cntDrop + 1 }

/-! ### Camera packets (R249, R250) -/

/-- Streams bound to a port and virtual channel that receive: RUNNING or QUARANTINED. -/
def State.bound (s : State) (port vc : Nat) : List Nat :=
  streamNos.filter fun i =>
    let x := s.stream i
    x.source == 0 && x.port == port && x.vc == vc && (x.state == 0x42 || x.state == 0x43)

/-- A packet is discarded and counted. -/
def State.unbound (s : State) (port : Nat) : State := s.upCsi port fun p => { p with unbound := p.unbound + 1 }

/-- The sample in progress of a stream: the last of its ring while its Frame End has not come. -/
def Stream.open? (x : Stream) : Bool := x.frame && (match x.inq.getLast? with
  | some sm => !sm.done
  | none => false)

/-- Change the last sample of the ring. -/
def Stream.upLast (x : Stream) (g : Sample → Sample) : Stream :=
  { x with inq := x.inq.dropLast ++ (x.inq.getLast?.map g).toList }

/-- The head of the ring is corrupt and stage 3 is free: the stream stops at it (R276). -/
def State.stopAtHead (s : State) (n : Nat) : State :=
  match (s.stream n).inq with
  | sm :: t =>
    if sm.cause ≠ 0 ∧ (s.stream n).state = 0x42 ∧ (s.stream n).tele.isNone ∧ (s.stream n).cur.isNone ∧
        ¬ ((s.stream n).grouped ∧ (s.group (s.stream n).group).halted) then
      (s.upStream n fun y => { y with inq := t }).quarantine n sm sm.cause
    else s
  | [] => s

/-- The sample in progress becomes corrupt input; no frame is in progress any longer (R250). -/
def State.corrupt (s : State) (n cause : Nat) : State :=
  let x := s.stream n
  if x.open? then
    (s.setStream n { x.upLast (fun sm => { sm with done := true, cause := cause }) with frame := false }).stopAtHead n
  else s.upStream n fun y => { y with frame := false }

/-- CSI_FRAME_START for one stream (R250, R261). -/
def State.frameStart (s : State) (n : Nat) : State :=
  let x := s.stream n
  if x.frame then s.corrupt n 5
  else
    let sm : Sample := { no := x.nextNo, stamp := s.hal.stamp }
    (s.setStream n { x with frame := true, nextNo := (x.nextNo + 1) % 2 ^ 32 }).pushRing n sm

/-- What a packet's header error does on a port before the packet itself is looked at (R249, R250): one error is corrected
and counted; with more, every frame in progress of the port is corrupt and the packet is lost, which the answer says. -/
def State.csiHeader (s : State) (port ecc : Nat) : State × Bool :=
  if 2 ≤ ecc then
    ((streamNos.filter fun i =>
      let x := s.stream i
      x.source == 0 && x.port == port && (x.state == 0x42 || x.state == 0x43) && x.frame).foldl (fun s i => s.corrupt i 1) s, true)
  else (if ecc = 1 then s.upCsi port fun p => { p with ecc := p.ecc + 1 } else s, false)

/-- A packet whose header is whole, or was corrected, does what it does (R250), unless the port is looped back (R458). -/
def State.csiPacket (s : State) (port ecc : Nat) (act : State → State) : State :=
  if s.looped 0 port then s
  else match s.csiHeader port ecc with
  | (s, true) => s
  | (s, false) => act s

/-- CSI_FRAME_START. -/
def execCsiFrameStart (port : Fin 8) (vc : CsiHead) (s : State) : Host.Outcome State Fault Refusal :=
  .next (s.csiPacket port.val vc.ecc fun s =>
    let s := s.upCsi port fun p => { p with silent := false, fsAt := s.hal.nowNs }
    match s.bound port.val vc.vc.val with
    | [] => s.unbound port.val
    | l => l.foldl State.frameStart s)

/-- A line arrives at a stream whose frame is in progress. -/
def State.lineIn (s : State) (n : Nat) (data : List Byte) (crcOk : Bool) : State :=
  let x := s.stream n
  if ¬ crcOk then s.corrupt n 2
  else if data.length ≠ x.lineBytes then s.corrupt n 3
  else if x.open? then s.setStream n (x.upLast fun sm => { sm with data := sm.data ++ data, lines := sm.lines + 1 })
  else s

/-- What the payload of a long packet does (R249, R250). -/
def State.csiLong (s : State) (port vc dtype : Nat) (data : List Byte) (crcOk : Bool) : State :=
  let l := s.bound port vc
  if dtype = 0x12 then s.unbound port
  else
    match l.find? fun i => (s.stream i).dtype == dtype with
    | some i => if (s.stream i).frame then s.lineIn i data crcOk else s.unbound port
    | none =>
      let f := l.filter fun i => (s.stream i).frame
      if f.isEmpty then s.unbound port else f.foldl (fun s i => s.corrupt i 6) s

/-- CSI_LONG_PACKET. -/
def execCsiLongPacket (port : Fin 8) (vc : Fin 16) (dtype : Nat) (data : List Byte) (ecc : Nat) (crcOk : Bool) (s : State) :
    Host.Outcome State Fault Refusal := .next (s.csiPacket port.val ecc fun s => s.csiLong port.val vc.val dtype data crcOk)

/-- CSI_FRAME_END for one stream. -/
def State.frameEnd (s : State) (n : Nat) : State :=
  let x := s.stream n
  if ¬ x.frame then s
  else if ¬ x.open? then s.setStream n { x with frame := false }
  else if (x.inq.getLast?.map (·.lines)) ≠ some x.height then s.corrupt n 4
  else s.setStream n { x.upLast (fun sm => { sm with done := true }) with frame := false }

/-- CSI_FRAME_END (R250). -/
def execCsiFrameEnd (port : Fin 8) (vc : CsiHead) (s : State) : Host.Outcome State Fault Refusal :=
  .next (s.csiPacket port.val vc.ecc fun s =>
    match s.bound port.val vc.vc.val with
    | [] => s.unbound port.val
    | l => l.foldl State.frameEnd s)

/-- CSI_GENERIC_SHORT_PACKET: counted and ignored; Line Start (0x02) and Line End (0x03) are ignored alone (R249). -/
def execCsiGenericShortPacket (port : Fin 8) (vc : CsiHead) (dtype : Nat) (s : State) : Host.Outcome State Fault Refusal :=
  .next (s.csiPacket port.val vc.ecc fun s => if dtype = 2 ∨ dtype = 3 then s else s.unbound port.val)

/-- The frame period of the slowest stream that receives on a port (R250). -/
def State.slowest (s : State) (port : Nat) : Nat :=
  ((streamNos.map s.stream).filter fun y =>
    y.source == 0 && y.port == port && (y.state == 0x42 || y.state == 0x43)).foldl (fun a y => max a y.cfg.period) 0

/-- CSI_PORT_SILENCE: no Frame Start for four periods of the port's slowest stream: FLT_LINK as a warning, once for each
silence (R250). -/
def execCsiPortSilence (stream : Fin 32) (s : State) : Host.Outcome State Fault Refusal :=
  .next (let x := s.stream stream.val
    if x.source = 0 ∧ (x.state = 0x42 ∨ x.state = 0x43) ∧ ¬ (s.csi x.port).silent then
      ((s.passTo ((s.csi x.port).fsAt + 4 * s.slowest x.port)).upCsi x.port fun p => { p with silent := true }).fault fltLink 0 x.ctx stream.val 0
    else s)

/-- CSI_PHY_LOCK (R280). -/
def execCsiPhyLock (port : Fin 8) (up : Bool) (s : State) : Host.Outcome State Fault Refusal :=
  .next (s.upCsi port fun p => { p with up := up })

/-- The first set instant of a schedule whose lead-in lies after an instant, in ns. -/
def nextPulse (period phase lead now : Nat) : Nat :=
  let f := phase % period
  let t := now + lead + 1
  if t ≤ f then f else f + cdiv (t - f) period * period

/-- FSYNC_PULSE: a set instant less the member's lead arrives, while launches are made (R251, R287). -/
def execFsyncPulse (stream : Fin 32) (s : State) : Host.Outcome State Fault Refusal :=
  .next (let x := s.stream stream.val
    if x.fsync ∧ s.launches then
      let s := s.passTo (nextPulse x.cfg.period x.cfg.phase (4 * x.cfg.lead) s.hal.nowNs - 4 * x.cfg.lead)
      s.out 2 x.port (natBytes 2 x.cfg.width)
    else s)

/-! ### Ratline frames (R258, R259) -/

/-- The RATLINE stream that receives and whose node list holds a node. -/
def State.ratStream (s : State) (node : Nat) : Option Nat :=
  streamNos.find? fun i =>
    let x := s.stream i
    x.source == 1 && (x.state == 0x42 || x.state == 0x43) && (x.column node).isSome

/-- The cause of a ratline payload's first failure, 0 where it passes: the fields in table order, the crc, a record marked
invalid, too few records. A frame of a domain that is DISABLED has no instant in Halyard time. -/
def State.ratCause (s : State) (p : List Byte) (height : Nat) : Nat :=
  let b := fun k => (p.getD k 0).toNat
  let rec' := b 18
  let len := leNat (slice p 2 2)
  if b 0 % 16 ≠ 1 ∨ b 0 / 16 ≠ 1 ∨ 64 ≤ b 1 ∨ len ≠ 16 * rec' ∨ 999999999 < leNat (slice p 8 4) ∨ rec' < 1 ∨ 32 < rec' ∨
      2 ≤ b 19 ∨ leNat (slice p 20 4) ≠ 0 ∨ (s.domain (b 19 % 2)).state = 0x70 then 9
  else if crc32c (slice p 0 (24 + len)) ≠ wordAt p (24 + len) then 8
  else if (List.range rec').any fun k => 128 ≤ b (25 + 16 * k) then 9
  else if rec' < height then 9 else 0

/-- The sample instant of a ratline payload in Halyard time, units of 2^-16 ns. -/
def State.ratInstant (s : State) (p : List Byte) : Nat :=
  let t : Int := ((leNat (slice p 12 6) * 1000000000 + leNat (slice p 8 4)) * 65536 : Nat)
  (t - (s.domain ((p.getD 19 0).toNat % 2)).ofsAt s.hal.nowNs).toNat

/-- The compute die's copy of a ratline frame reaches the ring of its stream (R259). -/
def State.ratIn (s : State) (p : List Byte) (rx : Nat) : State :=
  let node := (p.getD 1 0).toNat % 64
  match s.ratStream node with
  | none => s.unbound 0
  | some n =>
    let x := s.stream n
    let cause := s.ratCause p x.height
    let seq := wordAt p 4
    let t := s.ratInstant p
    let gap := match Tab.find x.lastSeq node with
      | some q => q + 1 != seq
      | none => false
    let rep := match Tab.find x.lastInst node with
      | some q => decide (t ≤ q)
      | none => false
    let sm : Sample := { no := x.nextNo, stamp := t, data := slice p 0 (28 + leNat (slice p 2 2)), done := true
                         cause := cause, node := node, rep := rep, rx := rx }
    let x := if cause = 0 then
        { x with lastSeq := Tab.set x.lastSeq node seq, lastInst := Tab.set x.lastInst node t
                 cntGap := if gap then x.cntGap + 1 else x.cntGap }
      else x
    ((s.setStream n x).pushRing n sm).stopAtHead n

/-- A ratline sensor frame reaches Plinth, whatever the front end does (R14, R259). -/
def State.ratPlinth (s : State) (port : Nat) (p : List Byte) (rx : Nat) : State :=
  let f : RxFrame := { node := (p.getD 1 0).toNat % 64, inst := s.ratInstant p / 65536, port := port, bytes := p, stamp := rx }
  s.upTrim fun x => { x with rx := f :: x.rx }

/-- RATLINE_FRAME_RECEIVE (R14, R259): a frame with a bad FCS is discarded on both paths. -/
def execRatlineFrameReceive (port : Fin 4) (data : List Byte) (fcsOk : FrameTail) (s : State) :
    Host.Outcome State Fault Refusal :=
  .next (if s.looped 1 port ∨ ¬ fcsOk.fcsOk ∨ ¬ isRatline data 1 then s
    else
      let p := data.drop (ethPayload data).1
      let rx := s.rxStamp port.val fcsOk.phase.val
      let s := s.ratPlinth port.val p rx
      if s.halRuns then s.ratIn p rx else s)

/-! ### Stage 3 -/

/-- The physical pieces of a stream's ring. -/
def State.ringPieces (s : State) (n : Nat) : List (Nat × Nat) :=
  let x := s.stream n
  match s.xlates none x.ctx false (pagesOf x.ringVa (x.ring * x.rawBytes)) with
  | .ok l => l
  | .error _ => []

/-- The errors that the read of a sample from its ring meets, and whether one is not correctable (R278). -/
def State.ringErrs (s : State) (n : Nat) (errs : List MemErr) : State × Bool :=
  let l := s.ringPieces n
  let here := errs.filter fun x => l.any fun p => burstIn p.1 p.2 x.addr
  (here.foldl (fun s x => s.eccOne mFe (s.stream n).ctx false x) s, here.any fun x => x.kind == .uncorr)

/-- Stage 3 takes the sample at the head of the ring (R248, R271). -/
def State.takeOne (s : State) (n : Nat) (errs : List MemErr) : State :=
  let x := s.stream n
  match x.inq with
  | [] => s
  | sm :: t =>
    if ¬ sm.done then s
    else
      let s' := s.upStream n fun y => { y with inq := t }
      if sm.cause ≠ 0 then s'.quarantine n sm sm.cause
      else if x.source = 2 then
        if s.fe.jpegBusy.isSome then s
        else (s'.upStream n fun y => { y with cur := some { sm with stamp := s.hal.stamp } }).upFe fun f => { f with jpegBusy := some n }
      else
        match s'.ringErrs n errs with
        | (s, true) => s.quarantine n sm 0
        | (s, false) =>
          if x.source = 1 then s.deliverNode n sm
          else
            let (y, cause) := (s.stream n).examine sm.data
            let s := s.setStream n y
            if cause ≠ 0 then s.quarantine n sm cause
            else s.deliver n { sm with rep := decide (y.repeatCnt ≠ 0) }

/-- FE_SAMPLE_TAKE (R248). -/
def execFeSampleTake (stream : Fin 32) (errs : List MemErr) (s : State) : Host.Outcome State Fault Refusal :=
  .next (let n := stream.val
    if s.takeHeld n ∨ (s.stream n).stopping ≠ 0 then s else s.takeOne n errs)

/-- BATCH_COMMIT: a full batch is signalled, and the sets that waited for the next slot pass (R273); a telltale window of one
of its streams holds stage 9 (R275). -/
def execBatchCommit (group : Bool) (i : Nat) (s : State) : Host.Outcome State Fault Refusal :=
  .next (let b : Bt := { grp := group, i := i }
    if s.btValid b = 0 ∨ ¬ s.btFull b ∨ s.btTold b then s else (s.commit b).passSets 64 b)

/-- SET_DEADLINE_EXPIRY: the deadline of the earliest incomplete set arrives (R262). -/
def execSetDeadlineExpiry (group : Bool) (i : Nat) (s : State) : Host.Outcome State Fault Refusal :=
  .next (let b : Bt := { grp := group, i := i }
    if group ∧ (s.group i).halted then s
    else
      match (s.setsOf b).find? fun k => !s.setDone b k with
      | none => s
      | some k =>
        let s := s.passTo (cdiv (k.t + (s.stream (s.btLead b)).cfg.deadline * 65536) 65536)
        (s.dropSet b k.t).passSets 64 b)

/-! ### Stills (R269, R270) -/

/-- The compressed bytes of a still; none where they cannot be read. -/
def State.stillBytes (s : State) (n : Nat) (sm : Sample) : List Byte :=
  match s.vrd (some mFe) (s.stream n).ctx sm.addr (fld (wat sm.params 2) 23 0) with
  | .ok bs => bs
  | .error _ => []

/-- Decode a still: the cause it stops with, or the sample with its output. -/
def State.decodeFor (s : State) (n : Nat) (sm : Sample) : Except Nat Sample :=
  let x := s.stream n
  let ex := sm.hdr.expert
  let w11 := wat sm.params 7
  let f := if ex then fld w11 5 2 else x.format
  let lay := if ex then fld w11 6 6 else x.layout
  let yuv := if ex then fld w11 1 0 else x.cfg.yuv
  let space := if ex then 64 * (wat sm.params 6).toNat else x.sampleBytes
  match x.decodeStill (s.stillBytes n sm) f space with
  | .error c => .error c
  | .ok (w, h, k, d) => .ok { sm with data := x.stages f lay w h (x.still yuv k w d), addr := w, lines := h }

/-- A still that passed is written: in basic form as the next sample, in expert form to its own output cleat alone; its
packet is answered (R269). -/
def State.stillOut (s : State) (n : Nat) (sm : Sample) : State :=
  let s := if sm.hdr.expert then
      s.feWr (s.stream n).ctx ((wat sm.params 4).toNat + 2 ^ 32 * fld (wat sm.params 5) 15 0) sm.data
    else s.deliver n sm
  match s.opens.find? fun o => o.hdr.no == sm.hdr.no && o.hdr.opcode == 0x511 with
  | some o => s.close o stOk { lo := wat o.params 3 }
  | none => s

/-- JPEG_DECODE_COMPLETE (R269, R270): a telltale window holds the still until it ends (R275, R320). -/
def execJpegDecodeComplete (stream : Fin 32) (s : State) : Host.Outcome State Fault Refusal :=
  .next (let n := stream.val
    match (s.stream n).cur with
    | none => s
    | some sm =>
      if (s.stream n).tele.isSome then s
      else
        let s := (s.upStream n fun y => { y with cur := none }).upFe fun f => { f with jpegBusy := none }
        match s.decodeFor n sm with
        | .error c => s.quarantine n sm c
        | .ok sm => s.stillOut n sm)

end Sys2Proof.Machine
end

