-- ==== Sys2Proof/Machine/Fe.lean ====
section
/-! DEFINITION. The stream packets (R252 to R257, R265, R267, R269, R277 to R279). -/

namespace Sys2Proof.Machine

/-! ### Closing (R252, R278) -/

/-- The running reply of a stream that leaves RUNNING in order (R277). -/
def State.runEnds (s : State) (n : Nat) : State := s.runningReply n stOk { d0 := wd (s.stream n).lastValid }

/-- A ring that firmware placed is given up: its translations end, and its scrub runs (R181, R278). -/
def State.ringGone (s : State) (c va : Nat) : State :=
  s.upCtx c fun x => { x with maps := x.maps.map fun m => if m.va = va ∧ m.save then { m with gone := true } else m }

/-- A stream is closed (R278): its packets that wait end, its FE cleat entry is free, its group has one member fewer. -/
def State.closeStream (s : State) (n : Nat) : State :=
  let x := s.stream n
  if x.state = 0x40 then s
  else
    let s := if x.state = 0x42 then s.runEnds n else s
    let s := s.cancelOpens fun o => (o.hdr.opcode == 0x503 || o.hdr.opcode == 0x510 || o.hdr.opcode == 0x511) && o.key == n
    let s := s.upFe fun f =>
      { f with cleats := f.cleats.eraseP fun q => q.2.1 == x.outVa && q.2.2.2 == x.ctx
               jpegBusy := if f.jpegBusy = some n then none else f.jpegBusy }
    let s := if x.ringFw then s.ringGone x.ctx x.ringVa else s
    let s := s.setStream n
      { x with state := 0x40, grouped := false, inq := [], quar := none, cur := none, sets := [], asm := [], frame := false
               stopping := 0, tele := none, fsync := false, mesh := [], meshX := 0, meshY := 0, ringFw := false }
    if ¬ x.grouped then s
    else if (s.members x.group).isEmpty then s.upFe fun f => { f with groups := Tab.erase f.groups x.group }
    else
      (s.upGroup x.group fun g => { g with sets := g.sets.map fun k => { k with got := Tab.erase k.got n } }).releaseGroup x.group

/-- A stream packet: who owns the stream it names, the state of the context and of the stream (R63). -/
def streamPacket (p : Packet) (s : State) (legal : List Nat) (a : Ans) : Ans :=
  let x := s.stream (p.f 4 4 0)
  refuseIf (x.state != 0x40 && x.ctx != p.hdr.ctx) stAuth 0 <|
  needState (s.ctxCode p.hdr.ctx) ctxOpen <|
  needState x.state legal a

/-- STREAM_CLOSE: the final reply follows the scrub of a ring that firmware placed (R278). -/
def streamClose (p : Packet) (s : State) : Ans :=
  let n := p.f 4 4 0
  let x := s.stream n
  streamPacket p s [0x41, 0x43, 0x44] <|
    .pend (if x.ringFw then freeKey x.ctx x.ringVa else n) 0 0 fun s =>
      let s := s.closeStream n
      if x.ringFw then s else s.closeOp 0x501 n stOk {}

/-- STREAM_CLOSE. -/
def execStreamClose (k : Nat) (s : State) : Host.Outcome State Fault Refusal := runPacket 0x501 k streamClose s

/-! ### Opening (R253 to R256) -/

/-- A field of a list of descriptor words: word, low bit, faulty. -/
abbrev BadField := Nat × Nat × Bool

/-- A field that must be zero. -/
def mustZero (ws : List Word) (w hi lo : Nat) : BadField := (w, lo, fld (wat ws w) hi lo != 0)

/-- The fields of a stage descriptor that are malformed (R254, R255). -/
def descFmt (ws : List Word) (src dtype width f : Nat) (grouped : Bool) : List BadField :=
  let raw := src == 0 && dtRaw dtype
  let hasYuv := (src == 0 && dtype == 0x1E) || src == 2
  let rat := src == 1
  let warp := bit (wat ws 0) 5
  let z := mustZero ws
  let zIf := fun (c : Bool) (w hi lo : Nat) => (w, lo, c && fld (wat ws w) hi lo != 0)
  let node := fun k => fld (wat ws (20 + k / 4)) (8 * (k % 4) + 7) (8 * (k % 4))
  [zIf (!raw) 0 2 0, zIf (!hasYuv) 0 4 3, zIf rat 0 5 5, zIf (!warp || rat) 0 6 6,
   (0, 7, bit (wat ws 0) 7 && !(src == 0 && (dtype == 0x2C || dtype == 0x2D) && fld (wat ws 0) 2 0 == 0)),
   zIf (!grouped || rat) 0 10 8, z 0 31 11, zIf (!raw) 1 15 0, z 1 31 16, zIf rat 2 31 0, zIf rat 3 31 0, zIf rat 4 31 0,
   zIf (!warp) 5 14 0, z 5 15 15, zIf (!warp) 5 30 16, z 5 31 31, zIf (!warp) 6 31 0,
   zIf (src == 2) 13 31 0, zIf (src != 0) 14 31 0] ++
    ([0, 1, 2].flatMap fun i =>
      [(7 + i, 0, f == 5 && fld (wat ws (7 + i)) 30 0 != 0), (10 + i, 0, f == 5 && wat ws (10 + i) != fOne)]) ++
    ([15, 16, 17, 18, 19].map fun w => zIf (!grouped && !rat) w 31 0) ++ [zIf rat 19 31 0] ++
    (if rat then
      ((List.range 8).flatMap fun k =>
        let w := 20 + k / 4
        let lo := 8 * (k % 4)
        [zIf (decide (width ≤ k)) w (lo + 7) lo, z w (lo + 7) (lo + 6),
         (w, lo, decide (k < width) && (List.range k).any fun j => node j == node k)])
     else [z 20 31 0, z 21 31 0]) ++
    (List.range 10).map fun i => z (22 + i) 31 0

/-- The fields of a stage descriptor that lie outside their range, with the tolerance of R254. -/
def descRng (ws : List Word) (src width : Nat) (grouped : Bool) : List BadField :=
  let rat := src == 1
  let warp := bit (wat ws 0) 5
  let within := fun (c : Bool) (w hi lo mn mx : Nat) =>
    (w, lo, c && decide (fld (wat ws w) hi lo < mn ∨ mx < fld (wat ws w) hi lo))
  let grp := grouped || rat
  let period := (wat ws 17).toNat
  [(20, 0, rat && decide (8 < width)), (0, 0, decide (4 < fld (wat ws 0) 2 0))] ++ ([2, 3, 4].map fun w => (w, 0, !rat && !fpPos (wat ws w))) ++
    [within warp 5 14 0 1 16384, within warp 5 30 16 1 16384] ++ ([10, 11, 12].map fun w => (w, 0, !fIsFin (wat ws w))) ++
    [within grp 15 31 0 1 0xFFFFFFFE, within grp 16 31 0 1 0xFFFFFFFE,
     within (grp && period != 0) 17 31 0 125000 1000000000,
     (15, 0, grp && period != 0 && decide (period ≤ 2 * (wat ws 15).toNat)), within (grouped && !rat) 19 31 16 1 65535]

/-- The configuration a stage descriptor gives (R255). -/
def cfgOf (ws : List Word) (src width : Nat) : StageCfg :=
  let f := fun (w hi lo : Nat) => fld (wat ws w) hi lo
  { cfa := f 0 2 0, yuv := f 0 4 3, warp := bit (wat ws 0) 5, nearest := bit (wat ws 0) 6, tap := bit (wat ws 0) 7
    member := f 0 10 8, black := f 1 15 0, gain := if src = 1 then [] else (ws.drop 2).take 3, ow := f 5 14 0, oh := f 5 30 16
    fill := wat ws 6, mean := (ws.drop 7).take 3, invstd := (ws.drop 10).take 3, repLimit := f 13 7 0, staticLimit := f 13 15 8
    staticMad := f 13 31 16, offset := sext 32 (wat ws 14).toNat, tol := (wat ws 15).toNat, deadline := (wat ws 16).toNat
    period := (wat ws 17).toNat, phase := (wat ws 18).toNat, lead := f 19 15 0, width := f 19 31 16
    nodes := if src = 1 then (List.range width).map fun k => f (20 + k / 4) (8 * (k % 4) + 5) (8 * (k % 4)) else [] }

/-- The basic-form defaults (R256); RATLINE data has no stated depth, so its normalisation stays open. -/
def cfgBasic (x : Stream) : StageCfg :=
  { deadline := 1000000000 / max 1 x.rate
    invstd := if x.source = 1 then [] else List.replicate 3 (fDiv 0 fOne (fOfInt 0 ((2 ^ x.depth - 1 : Nat) : Int))) }

/-- The group fields that all members of a group share (R255). -/
def StageCfg.shared (c : StageCfg) : List Nat := [c.tol, c.deadline, c.period, c.phase, c.lead, c.width]

/-- The first faulty field of a list as a refusal. -/
def firstField (st : Nat) (l : List BadField) : Option Refuse := (l.find? fun x => x.2.2).map fun x => (st, det x.1 x.2.1, 0)

/-- Where an output cleat lies: outside every allocation (0), in host memory (1), in PSM or the Commons (2). -/
def State.cleatPlace (s : State) (c va n : Nat) : Nat :=
  match (s.ctx c).maps.find? fun m => !m.gone && !m.save && decide (m.va ≤ va ∧ va + n ≤ m.va + m.len) with
  | none => 0
  | some m => if m.host ∨ m.runs.any (fun r => decide (hostBase ≤ r.pa)) then 1 else 2

/-- The stream that STREAM_OPEN's own words describe. -/
def openWords (p : Packet) : Stream :=
  { state := 0x41, ctx := p.hdr.ctx, source := p.f 4 6 5, port := p.f 4 9 7, vc := p.f 4 13 10, dtype := p.f 4 19 14
    safety := bit (p.w 4) 20, samples := p.f 4 26 21, group := p.f 4 29 27, grouped := bit (p.w 4) 30, width := p.f 5 14 0
    height := p.f 5 30 16, format := p.f 6 3 0, layout := p.f 6 4 4, slots := p.f 6 11 8, ring := p.f 6 19 12
    burst := p.f 6 27 20, rate := p.f 7 13 0, outVa := p.va 8 }

/-- The counters of a stream number go on over a new stream (R280). -/
def Stream.keepCounters (x old : Stream) : Stream :=
  { x with cause := old.cause, lastBatch := old.lastBatch, cntDrop := old.cntDrop, cntAlign := old.cntAlign, cntSet := old.cntSet
           cntRepeat := old.cntRepeat, cntSkip := old.cntSkip, cntGap := old.cntGap, cntQuar := old.cntQuar }

/-- Firmware places an input ring: in pinned PSM at the lowest for a TT context (R22, R254). -/
def State.placeRing (s : State) (c len : Nat) : Option (Nat × State) :=
  let tt := s.ctxTT c
  let parts := basicParts len
  if tt ∧ 8192 < s.staticUsed (s.ctx c).part + sumN (parts.map (·.2)) then none
  else
    match s.vaTake c len 4096 0 with
    | none => none
    | some va =>
      match s.placeParts tt 63 (c + 1) true tt va parts with
      | some (runs, s) => some (va, s.addMap c { va := va, len := len, runs := runs, save := true })
      | none =>
        if tt then none
        else
          let (runs, s) := s.placeHost va len true
          some (va, s.addMap c { va := va, len := len, runs := runs, save := true })

/-- The stream takes its number, its entry of the FE cleat table and its place in a group; the entry of the group's first
member grows to the slots that the new member makes larger (R252, R272). -/
def State.enterStream (s : State) (n entry need : Nat) (x : Stream) (lead : Option Stream) : State :=
  let s := s.setStream n (x.keepCounters (s.stream n))
  let s := match lead with
    | none => s
    | some y => s.upFe fun f =>
      { f with cleats := f.cleats.map fun (q : Nat × Nat × Nat × Nat) => if q.2.1 = y.outVa ∧ q.2.2.2 = y.ctx then (q.1, q.2.1, max q.2.2.1 need, q.2.2.2) else q }
  s.upFe fun f => { f with cleats := Tab.set f.cleats entry (x.outVa, need, x.ctx) }

/-- The last steps of STREAM_OPEN: a free FE cleat entry, and the ring. -/
def openFinish (p : Packet) (n need : Nat) (x : Stream) (lead : Option Stream) (s : State) : Ans :=
  match (List.range 64).find? fun i => s.fe.cleats.all fun q => q.1 != i with
  | none => .refuse stNospace
  | some entry =>
    let bytes := x.ring * x.rawBytes
    let size := fun (s : State) => if x.source = 2 then s.draw else (wd bytes, s)
    if p.hdr.expert then
      let (d, s) := size s
      .done (s.enterStream n entry need { x with ringVa := p.va 12 } lead) { lo := wd need, hi := d }
    else
      match s.placeRing x.ctx (max 4096 (alignUp bytes 4096)) with
      | none => .refuse stNospace
      | some (va, s) =>
        let (d, s) := size s
        .done (s.enterStream n entry need { x with ringVa := va, ringFw := true } lead) { lo := wd need, hi := d }

/-- STREAM_OPEN once its descriptor is read: the checks of R254 in the order of R43. -/
def openChecked (p : Packet) (n : Nat) (cfg : StageCfg) (s : State) : Ans :=
  let x := { openWords p with cfg := cfg }
  let c := p.hdr.ctx
  let old := s.members x.group
  let mates := if x.grouped then old else []
  let lead := s.stream (old.headD 0)
  -- the first member's cleat holds the slots, whose size counts the members so far and this one
  let first := mates.isEmpty || decide (cfg.member < lead.cfg.member ∨ (cfg.member = lead.cfg.member ∧ n < old.headD 0))
  let holder := if first then x else lead
  let sizes := x.sampleBytes :: mates.map fun i => (s.stream i).sampleBytes
  let need := (holder.slots + 1) * slotBytes holder.samples sizes
  let dup := x.source == 0 && streamNos.any fun i =>
    let y := s.stream i
    y.state != 0x40 && y.source == 0 && y.port == x.port && y.vc == x.vc && y.dtype == x.dtype
  let place := s.cleatPlace c x.outVa need
  let grown := if first then place else s.cleatPlace lead.ctx lead.outVa need
  refuseIf dup stFormat (det 4 7) <|
  refuseIf (!mates.isEmpty && lead.cfg.shared != cfg.shared) stFormat (det 15 0) <|
  refuseIf (x.safety && decide (x.ring < x.burst + 1)) stRange (det 6 12) <|
  needState (s.ctxCode c) ctxOpen <|
  needState (s.stream n).state [0x40] <|
  refuseIf (x.source == 0 && s.tst.ports.getLsbD x.port) stState (wd 0x40) <|
  refuseIf (x.safety && !s.ctxTT c) stState (wd 0x40) <|
  refuseIf (decide (8 ≤ mates.length)) stState (wd 0x40) <|
  refuseIf (place == 0 || grown == 0) stRange (det 8 0) <|
  refuseIf (p.hdr.expert && !s.vmapped c (p.va 12) (x.ring * x.rawBytes) true) stRange (det 12 0) <|
  refuseIf (place == 1 || grown == 1) stNospace 0 <|
  openFinish p n need x (if first then none else some lead) s

/-- STREAM_OPEN (R253 to R256). -/
def streamOpen (p : Packet) (s : State) : Ans :=
  let n := p.f 4 4 0
  let x := openWords p
  let o := s.stream n
  refuseIf (o.state != 0x40 && o.ctx != p.hdr.ctx && (s.ctx o.ctx).client != p.hdr.ap) stAuth 0 <|
    if p.hdr.expert then
      match s.vrd none p.hdr.ctx (p.va 10) 128 with
      | .error _ => .refuse stRange (det 10 0)
      | .ok bs =>
        let ws := wordsOf bs
        match firstField stFormat (descFmt ws x.source x.dtype x.width x.format x.grouped),
            firstField stRange (descRng ws x.source x.width x.grouped) with
        | some r, _ => .ofRefuse r
        | none, some r => .ofRefuse r
        | none, none => openChecked p n (cfgOf ws x.source x.width) s
    else
      let cfg := if x.format = 5 then { cfgBasic x with invstd := List.replicate 3 fOne } else cfgBasic x
      openChecked p n cfg s

/-- STREAM_OPEN. -/
def execStreamOpen (k : Nat) (s : State) : Host.Outcome State Fault Refusal := runPacket 0x500 k streamOpen s

/-! ### Starting and stopping (R257, R267, R279) -/

/-- Pixels a second that a stream counts as (R257). -/
def Stream.pixelRate (x : Stream) : Nat := x.rate * max (x.width * x.height) (x.outW x.width * x.outH x.height)

/-- STREAM_START (R257, R265, R267). -/
def streamStart (p : Packet) (s : State) : Ans :=
  let n := p.f 4 4 0
  let x := s.stream n
  let run := streamNos.filter fun i => (s.stream i).state == 0x42
  streamPacket p s [0x41, 0x44] <|
  refuseIf (x.cfg.warp && x.meshX == 0) stState (wd x.state) <|
  refuseIf (decide (3200000000 < x.pixelRate + sumN (run.map fun i => (s.stream i).pixelRate))) stNospace 0 <|
  refuseIf (x.cfg.tap && run.any fun i => (s.stream i).cfg.tap) stBusy 0 <|
    .late n 0 0 fun s =>
      (if x.source = 0 ∧ ¬ run.any (fun i => (s.stream i).source == 0 && (s.stream i).port == x.port) then
        s.upCsi x.port fun c => { c with fsAt := s.hal.nowNs } else s).upStream n fun y =>
        { y with state := 0x42, frame := false, stopping := 0
                 fsync := y.fsync || (x.source == 0 && x.grouped && x.cfg.period != 0) }

/-- STREAM_START. -/
def execStreamStart (k : Nat) (s : State) : Host.Outcome State Fault Refusal := runPacket 0x502 k streamStart s

/-- A stream feeds an ARMED or ACTIVE plan: a SAMPLE or TELLTALE point names it, or the first member of its group (R63). -/
def State.feedsPlan (s : State) (n : Nat) : Bool :=
  let x := s.stream n
  let l := if x.grouped then [n, s.btLead (s.btOf n)] else [n]
  planNos.any fun i =>
    let q := s.plan i
    (q.state == 0x52 || q.state == 0x53) &&
      q.points.any fun w => (fld (wat w 1) 2 0 == 3 || fld (wat w 1) 2 0 == 4) && l.contains (fld (wat w 2) 4 0)

/-- STREAM_STOP (R279): stage 3 holds the sample at the head of the ring while its lines still arrive. -/
def streamStop (p : Packet) (s : State) : Ans :=
  let n := p.f 4 4 0
  let x := s.stream n
  streamPacket p s [0x42] <|
  refuseIf (s.feedsPlan n || x.stopping != 0) stState (wd x.state) <|
    .pend n 0 0 fun s => s.upStream n fun y =>
      { y with stopping := if y.source = 0 ∧ (y.inq.head?.any fun sm => !sm.done) ∧ y.cur.isNone ∧ y.tele.isNone then 2 else 1 }

/-- STREAM_STOP. -/
def execStreamStop (k : Nat) (s : State) : Host.Outcome State Fault Refusal := runPacket 0x503 k streamStop s

/-- The stream ends STOPPED: the batch in assembly is written, and a frame that has not arrived whole is not kept (R279). -/
def State.stopEnds (s : State) (n : Nat) : State :=
  let s := s.cutBatch (s.btOf n)
  let s := s.upStream n fun y => { y with state := 0x44, stopping := 0, frame := false, inq := y.inq.filter (·.done) }
  let v := wd (s.stream n).lastValid
  (s.runEnds n).closeOp 0x503 n stOk { d0 := v, lo := 0x44 }

/-- The stream proved corrupt as it stopped and ends QUARANTINED (R279). -/
def State.stopQuarantined (s : State) (n : Nat) : State :=
  let s := s.upStream n fun y => { y with stopping := 0 }
  s.closeOp 0x503 n stOk { d0 := wd (s.stream n).lastValid, lo := 0x43 }

/-- STREAM_STOP_COMPLETE (R279). -/
def execStreamStopComplete (stream : Fin 32) (s : State) : Host.Outcome State Fault Refusal :=
  .next (let n := stream.val
    let x := s.stream n
    if x.stopping = 0 then s
    else if x.state = 0x43 then s.stopQuarantined n
    else if x.cur.isSome then s
    else if x.stopping = 2 then
      match x.inq with
      | sm :: _ =>
        if ¬ sm.done then s
        else
          let s := if s.btFull (s.btOf n) then s.commit (s.btOf n) else s
          let s := s.takeOne n []
          if (s.stream n).state = 0x43 then s.stopQuarantined n else s.stopEnds n
      | [] => s.stopEnds n
    else s.stopEnds n)

/-! ### Resuming and skipping (R278) -/

/-- The refusal of a resume whose sample is still corrupt. -/
def stillCorrupt (s : State) (n cause : Nat) : Ans := .done s { d1 := wd (n + 2 ^ 8 * cause), fault := causeFault cause } stFault

/-- The stream runs again, and no frame is in progress until the next Frame Start (R250): one that has not arrived whole is
not kept. -/
def State.unquarantine (s : State) (n : Nat) : State :=
  let s := s.upStream n fun y => { y with state := 0x42, quar := none, frame := false, inq := y.inq.filter (·.done) }
  if (s.stream n).grouped then s.releaseGroup (s.stream n).group else s

/-- Another stream that carries the tap bit is RUNNING (R267). -/
def State.tapTaken (s : State) (n : Nat) : Bool :=
  (s.stream n).cfg.tap && streamNos.any fun i => i != n && (s.stream i).state == 0x42 && (s.stream i).cfg.tap

/-- The quarantined sample passes the checks again, or fails with a cause (R278, log 104). A still is fetched and decoded
anew; data that could not be read is read again; the fields and the crc of a ratline frame are judged by the domains of
now; a second sample looks for its place again. What a camera sent wrong, and a repeat, stays so. -/
def State.recheck (s : State) (n : Nat) (sm : Sample) : State × Except Nat Sample :=
  let x := s.stream n
  let pass : Sample := { sm with cause := 0 }
  if sm.cause = 15 then
    let t := if x.source = 1 then sm.stamp else (x.instant sm).getD 0
    let m := if x.source = 1 then (x.column sm.node).getD 0 else n
    if (setNear (s.setsOf (s.btOf n)) x.cfg.tol t).any fun k => (Tab.find k.got m).isSome then (s, .error 15) else (s, .ok pass)
  else if x.source = 2 then (s, s.decodeFor n pass)
  else if sm.cause = 0 then
    match s.eccReads mFe x.ctx [] (s.ringPieces n) with
    | (s, some _) => (s, .error 0)
    | (s, none) =>
      if x.source = 1 then (s, .ok pass)
      else
        let r := (s.stream n).examine sm.data
        (s.setStream n r.1, if r.2 ≠ 0 then .error r.2 else .ok { pass with rep := decide (r.1.repeatCnt ≠ 0) })
  else if x.source = 1 then
    let c := s.ratCause sm.data x.height
    (s, if c ≠ 0 then .error c else .ok { pass with stamp := s.ratInstant sm.data })
  else (s, .error sm.cause)

/-- A sample that passed continues (R278). -/
def State.goOn (s : State) (n : Nat) (sm : Sample) : State :=
  let k := (s.stream n).source
  if k = 2 then s.stillOut n sm else if k = 1 then s.deliverNode n sm else s.deliver n sm

/-- STREAM_RESUME: the quarantined sample is checked again; a telltale window holds it as it holds every sample (R275). -/
def streamResume (p : Packet) (s : State) : Ans :=
  let n := p.f 4 4 0
  let x := s.stream n
  streamPacket p s [0x43] <|
  refuseIf (s.tapTaken n) stBusy 0 <|
    if x.stopping ≠ 0 ∨ x.tele.isSome then .hold
    else
      match x.quar with
      | none => stillCorrupt s n x.cause
      | some sm =>
        match s.recheck n sm with
        | (s, .error c) => stillCorrupt (s.upStream n fun y => { y with cause := c, quar := some { sm with cause := c } }) n c
        | (_, .ok _) => .late n 0 0 fun s =>
          match s.recheck n sm with
          | (s, .ok sm) => (s.unquarantine n).goOn n sm
          | (s, .error _) => s

/-- STREAM_RESUME. -/
def execStreamResume (k : Nat) (s : State) : Host.Outcome State Fault Refusal := runPacket 0x504 k streamResume s

/-- STREAM_SKIP: the sample is discarded and its set dropped whole. -/
def streamSkip (p : Packet) (s : State) : Ans :=
  let n := p.f 4 4 0
  let x := s.stream n
  streamPacket p s [0x43] <|
  refuseIf (s.tapTaken n) stBusy 0 <|
    if x.stopping ≠ 0 then .hold
    else .late n 0 0 fun s =>
      let s := s.upStream n fun y => { y with cntSkip := y.cntSkip + 1 }
      let b := s.btOf n
      let t := (x.quar.bind fun sm => if x.source = 1 then some sm.stamp else x.instant sm).getD 0
      let s := if x.grouped ∨ x.source = 1 then
          match setNear (s.setsOf b) x.cfg.tol t with
          | some k => s.dropSet b k.t
          | none => s
        else s
      s.unquarantine n

/-- STREAM_SKIP. -/
def execStreamSkip (k : Nat) (s : State) : Host.Outcome State Fault Refusal := runPacket 0x505 k streamSkip s

/-! ### Meshes and stills (R265, R269) -/

/-- MESH_LOAD: the table is copied, so that later writes to it have no effect. -/
def meshLoad (p : Packet) (s : State) : Ans :=
  let n := p.f 4 4 0
  let x := s.stream n
  let nx := p.f 4 13 5
  let ny := p.f 4 22 14
  streamPacket p s [0x41, 0x44] <|
  refuseIf (!x.cfg.warp) stState (wd x.state) <|
    match s.vrd (some mFe) p.hdr.ctx (p.va 5) (8 * nx * ny) with
    | .error _ => .refuse stRange (det 5 0)
    | .ok bs =>
      let ws := wordsOf bs
      refuseIf (!ws.all fIsFin) stFormat (det 5 0) <|
        .pend n 0 0 fun s => s.upStream n fun y => { y with meshX := nx, meshY := ny, mesh := ws }

/-- MESH_LOAD. -/
def execMeshLoad (k : Nat) (s : State) : Host.Outcome State Fault Refusal := runPacket 0x510 k meshLoad s

/-- MESH_LOAD_COMPLETE (R265). -/
def execMeshLoadComplete (stream : Fin 32) (s : State) : Host.Outcome State Fault Refusal :=
  .next (s.closeOp 0x510 stream.val stOk {})

/-- The STILL stream of a context that takes its JPEG_DECODE packets: its lowest-numbered RUNNING one, else the lowest
(log 47). -/
def State.stillStream (s : State) (c : Nat) : Option Nat :=
  let l := streamNos.filter fun i => let x := s.stream i; x.source == 2 && x.state != 0x40 && x.ctx == c
  (l.find? fun i => (s.stream i).state == 0x42).orElse fun _ => l.head?

/-- JPEG_DECODE (R269): the still enters the input ring. -/
def jpegDecode (p : Packet) (s : State) : Ans :=
  let c := p.hdr.ctx
  needState (s.ctxCode c) ctxOpen <|
    match s.stillStream c with
    | none => .refuse stState (wd 0x40)
    | some n =>
      let x := s.stream n
      needState x.state [0x42] <|
      refuseIf (!s.vmapped c (p.va 4) (p.f 6 23 0) false) stRange (det 4 0) <|
      refuseIf (p.hdr.expert && !s.vmapped c (p.va 8) (64 * (p.w 10).toNat) true) stRange (det 8 0) <|
        .pend n 0 0 fun s =>
          (s.upStream n fun y => { y with nextNo := (y.nextNo + 1) % 2 ^ 32 }).pushRing n
            { no := x.nextNo, done := true, addr := p.va 4, hdr := p.hdr, params := p.params }

/-- JPEG_DECODE. -/
def execJpegDecode (k : Nat) (s : State) : Host.Outcome State Fault Refusal := runPacket 0x511 k jpegDecode s

end Sys2Proof.Machine
end

