-- ==== Sys2Proof/Machine/Kv.lean ====
section
/-! DEFINITION. Sequences, KV pages and their directory, and swapping (R219 to R227, R232, R244 to R247). -/

namespace Sys2Proof.Machine

/-! ### Directory entries (R225, R226) -/

/-- The lowest FREE entry that meets a test. -/
def State.kvFree (s : State) (p : DirEntry → Bool) : Option Nat :=
  (List.range (min 524288 (s.kvDir.length + 1))).find? fun i => (s.dir i).state == 0 && p (s.dir i)

/-- A page of `bytes` for a layer of a context: its entry, or none where an entry or PSM lacks. -/
def State.takePage (s : State) (c layer bytes : Nat) : Option (Nat × State) :=
  match s.kvFree (fun _ => true), s.takePsm false 63 (bytes / 4096) 1 0 with
  | some i, some ((g, _) :: _, t) =>
    some (i, t.setDir i { state := 1, owner := c, refs := 1, epoch := (s.dir i).epoch, layer := layer, frame := g })
  | _, _ => none

/-- Every holder of an entry follows it. -/
def State.holders (s : State) (i i' epoch : Nat) : State :=
  { s with kvSeqs := s.kvSeqs.map fun q => (q.1, { q.2 with pages := q.2.pages.map fun g =>
      if g.entry = i then { g with entry := i', epoch := epoch } else g }) }

/-- The epoch of a page in use rises by 1; where that would take it to 0xFF_FFFF, the page moves to a new entry and the
old one is RETIRED (R226). -/
def State.bumpPage (s : State) (i : Nat) : State :=
  let d := s.dir i
  if d.epoch + 1 < 0xFFFFFF then (s.setDir i { d with epoch := d.epoch + 1 }).holders i i (d.epoch + 1)
  else
    match s.kvFree (fun e => e.epoch == 0) with
    | some k => ((s.setDir k { d with epoch := 0 }).setDir i { state := 5, epoch := d.epoch }).holders i k 0
    | none => (s.setDir i { d with epoch := d.epoch + 1 }).holders i i (d.epoch + 1)

/-- A freed entry: FREE with its epoch raised, or RETIRED where the epoch is spent (R222, R226). -/
def freeEntry (d : DirEntry) (e : Nat) : DirEntry := { state := if e < 0xFFFFFF then 0 else 5, owner := d.owner, epoch := e }

/-- A sequence gives up a page: the last holder's page is scrubbed, a swapped one is free at once (R222). -/
def State.dropPage (s : State) (i : Nat) : State :=
  let d := s.dir i
  if 1 < d.refs then s.setDir i { d with refs := d.refs - 1 }
  else if d.state = 2 then s.setDir i (freeEntry d (d.epoch + 1))
  else s.setDir i { d with state := 4, refs := 0, rows := 0, epoch := d.epoch + 1 }

/-- Zero the frame of an entry and give it back. -/
def State.freeFrame (s : State) (i : Nat) : State :=
  let g := (s.dir i).frame
  match s.psmUse.find? fun u => u.lo == g && u.mask == 63 with
  | some u => (s.scrub (4096 * g) (4096 * (u.hi - u.lo))).givePsm g 63
  | none => s

/-- The last page of a closed sequence is scrubbed: SEQ_CLOSE is answered, or the swap that a fault ended (R222, R245, R246). -/
def State.seqClosed (s : State) (n : Nat) : State :=
  let f := (s.seq n).bad
  let s := s.closeOp 0x401 n stOk {}
  if f = 0 then s
  else ((s.upSeq n fun q => { q with bad := 0 }).closeOp 0x403 n stFault { fault := f }).closeOp 0x404 n stFault { fault := f }

/-- KV_PAGE_SCRUB_COMPLETE: the entry becomes FREE, and a sequence whose last page it was has closed (R222). -/
def State.pageScrubbed (s : State) (i : Nat) : State :=
  let d := s.dir i
  if d.state ≠ 4 then s
  else
    let s := (s.freeFrame i).setDir i (freeEntry d d.epoch)
    (s.kvSeqs.filter fun q => !q.2.present && q.2.pages.any fun g => g.entry == i).foldl (fun s q =>
      let l := q.2.pages.filter fun g => g.entry ≠ i
      let s := s.setSeq q.1 { q.2 with pages := l, closing := l.length }
      if l.isEmpty then s.seqClosed q.1 else s) s

/-- KV_PAGE_SCRUB_COMPLETE. -/
def execKvPageScrubComplete (idx : Nat) (s : State) : Host.Outcome State Fault Refusal := .next (s.pageScrubbed idx)

/-! ### Opening, sharing, closing (R219 to R223) -/

/-- The lowest sequence number that is free and not retired (R223). -/
def State.freeSeq (s : State) : Option Nat :=
  (List.range 4096).find? fun n => let q := s.seq n; !q.present && q.pages.isEmpty && decide (q.epoch ≤ 0xFFFFFFEF)

/-- Copy rows 0 to `n - 1` of a page, all else zero. -/
def State.copyRows (s : State) (q : Seq) (src dst n : Nat) : State :=
  let b := n * q.rowB
  let s0 := s
  let s := s.scrub dst q.page
  let s := (s.wr dst (s0.rd src b)).wr (dst + q.rowOff 1 0) (s0.rd (src + q.rowOff 1 0) b)
  if q.fmt = 4 then
    (s.wr (dst + q.sclOff 0 0) (s0.rd (src + q.sclOff 0 0) (2 * n * q.kvh))).wr (dst + q.sclOff 1 0)
      (s0.rd (src + q.sclOff 1 0) (2 * n * q.kvh))
  else s

/-- Share the pages of a source below a prefix: the pages of the new sequence, none where room lacks (R221). -/
def State.sharePages (s : State) (q : Seq) (c upto : Nat) : List SeqPage → Option (List SeqPage × State)
  | [] => some ([], s)
  | g :: t =>
    if (g.idx + 1) * 64 ≤ upto then
      match (s.setDir g.entry { s.dir g.entry with refs := (s.dir g.entry).refs + 1 }).sharePages q c upto t with
      | some (l, s) => some (g :: l, s)
      | none => none
    else if g.idx * 64 < upto then
      match s.takePage c g.layer q.page with
      | none => none
      | some (i, u) =>
        let u := u.copyRows q (u.pagePa g.entry) (u.pagePa i) (upto % 64)
        let u := u.setDir i { u.dir i with rows := upto % 64 }
        match u.sharePages q c upto t with
        | some (l, s) => some ({ g with entry := i, epoch := (s.dir i).epoch } :: l, s)
        | none => none
    else s.sharePages q c upto t

/-- The final reply of SEQ_OPEN and SEQ_FORK. -/
def seqReply (n len : Nat) : RF := { lo := wd n, hi := wd len }

/-- Open a sequence with a geometry on the lowest free number, sharing the head of a source (R219, R221, R223). -/
def State.openSeq (s : State) (geo : Seq) (c : Nat) (src : Option (Nat × Nat)) : Ans :=
  match s.freeSeq with
  | none => .refuse stNospace
  | some n =>
    let e := match Tab.find s.kvSeqs n with
      | some q => q.epoch + 1
      | none => 0
    let base : Seq := { present := true, ctx := c, state := 0x30, layers := geo.layers, kvh := geo.kvh, hdim := geo.hdim,
                        fmt := geo.fmt, epoch := e, pin := geo.pin }
    match src with
    | none => .done (s.setSeq n base) (seqReply n 0)
    | some (m, p) =>
      let q := s.seq m
      if q.pages.any fun g => decide ((g.idx + 1) * 64 ≤ p ∧ 4096 ≤ (s.dir g.entry).refs) then .refuse stNospace
      else
        match s.sharePages q c p q.pages with
        | none => .refuse stNospace
        | some (l, s) => .done (s.setSeq n { base with len := p, pages := l }) (seqReply n p)

/-- Checks of a source whose prefix is shared (R221, R223); `w` is the word that names it. -/
def State.sourceOk (s : State) (c m w : Nat) (a : Seq → Ans) : Ans :=
  let q := s.seq m
  if ¬ q.present then .refuse stRange (det w 0)
  else if q.ctx ≠ c then .refuse stAuth
  else needState q.state [0x30] (a q)

/-- SEQ_OPEN (R219). -/
def seqOpen (p : Packet) (s : State) : Ans :=
  let c := p.hdr.ctx
  let geo : Seq := { layers := p.f 4 7 0, kvh := p.f 4 15 8, hdim := p.f 4 24 16, fmt := p.f 4 28 25
                     pin := if p.hdr.expert ∧ p.f 5 3 3 = 1 then some (p.f 5 2 0) else none }
  ownThenState (s.ctxCode c) ctxOpen <|
    if p.hdr.expert ∧ p.f 7 17 0 ≠ 0 then
      s.sourceOk c (p.f 6 11 0) 6 fun q =>
        if q.len < p.f 7 17 0 then .refuse stRange (det 7 0)
        else if q.layers ≠ geo.layers ∨ q.kvh ≠ geo.kvh ∨ q.hdim ≠ geo.hdim ∨ q.fmt ≠ geo.fmt then .refuse stFormat (det 4 0)
        else s.openSeq geo c (some (p.f 6 11 0, p.f 7 17 0))
    else s.openSeq geo c none

/-- SEQ_OPEN. -/
def execSeqOpen (k : Nat) (s : State) : Host.Outcome State Fault Refusal := runPacket 0x400 k seqOpen s

/-- SEQ_FORK (R221). -/
def seqFork (p : Packet) (s : State) : Ans :=
  let c := p.hdr.ctx
  ownThenState (s.ctxCode c) ctxOpen <|
    s.sourceOk c (p.f 4 11 0) 4 fun q => s.openSeq { q with pin := none } c (some (p.f 4 11 0, q.len))

/-- SEQ_FORK. -/
def execSeqFork (k : Nat) (s : State) : Host.Outcome State Fault Refusal := runPacket 0x405 k seqFork s

/-- A sequence closes: its pages are given up, and those that are scrubbed for it are waited for (R222). -/
def State.closeSeq (s : State) (n : Nat) : State :=
  let q := s.seq n
  let s := q.pages.foldl (fun s g => s.dropPage g.entry) s
  -- frames held ready for a swap-in go back
  let s := { s with psmUse := s.psmUse.filter fun u => u.owner ≠ 1000 + n }
  let l := q.pages.filter fun g => (s.dir g.entry).state == 4
  s.setSeq n { epoch := q.epoch, ctx := q.ctx, pages := l, closing := l.length }

/-- SEQ_CLOSE (R222). -/
def seqClose (p : Packet) (s : State) : Ans :=
  let n := p.f 4 11 0
  let q := s.seq n
  ownThenState (s.ctxCode p.hdr.ctx) ctxOpen <|
    if ¬ q.present then .refuse stRange (det 4 0)
    else if q.ctx ≠ p.hdr.ctx then .refuse stAuth
    else needState q.state [0x30, 0x33] <|
      .pend n 0 0 fun s =>
        let s := s.closeSeq n
        if (s.seq n).pages.isEmpty then s.seqClosed n else s

/-- SEQ_CLOSE. -/
def execSeqClose (k : Nat) (s : State) : Host.Outcome State Fault Refusal := runPacket 0x401 k seqClose s

/-! ### Queries and buckets (R227, R232) -/

/-- Words 0 to 3 of a directory entry (R225). -/
def DirEntry.words (d : DirEntry) : List Word :=
  [wd (d.state + 8 * d.rows + 2 ^ 10 * d.owner + 2 ^ 16 * d.refs), wd (d.epoch + 2 ^ 24 * d.layer), wd d.frame, d.check]

/-- KV_DIR_QUERY (R227). -/
def kvDirQuery (p : Packet) (s : State) : Ans :=
  let mine := fun c => p.hdr.ap = 0 ∨ (s.ctx c).client = p.hdr.ap
  if p.f 4 19 19 = 0 then
    let d := s.dir (p.f 4 18 0)
    if d.state ≠ 0 ∧ d.state ≠ 5 ∧ ¬ mine d.owner then .refuse stAuth
    else .done s { lo := wat d.words 0, hi := wat d.words 1, d1 := wat d.words 2 }
  else
    let q := s.seq (p.f 4 11 0)
    if ¬ q.present then .refuse stRange (det 4 0)
    else if ¬ mine q.ctx then .refuse stAuth
    else
      let cnt := fun st => min 0xFFFF (q.pages.filter fun g => (s.dir g.entry).state == st).length
      .done s { lo := wd q.len, hi := wd q.epoch, d1 := wd (cnt 1 + 2 ^ 16 * cnt 2) }

/-- KV_DIR_QUERY. -/
def execKvDirQuery (k : Nat) (s : State) : Host.Outcome State Fault Refusal := runPacket 0x411 k kvDirQuery s

/-- KV_BUCKETS_SET (R232). -/
def kvBucketsSet (p : Packet) (s : State) : Ans :=
  let c := p.hdr.ctx
  needState (s.ctxCode c) ctxOpen <|
    .done (s.upCtx c fun x => { x with buckets := (List.range (p.f 4 3 0 - 1)).map fun i => p.f (5 + i) 17 0 }) {}

/-- KV_BUCKETS_SET. -/
def execKvBucketsSet (k : Nat) (s : State) : Host.Outcome State Fault Refusal := runPacket 0x410 k kvBucketsSet s

/-! ### Swapping (R244 to R246) -/

/-- A free mover or two, the lowest-numbered (R245). -/
def State.swapMovers (s : State) : List Nat := ((List.range 16).filter s.moverFree).take 2

/-- Pages of a sequence that leave PSM: those it holds alone. -/
def State.swapPages (s : State) (q : Seq) : List SeqPage :=
  (List.range 256).flatMap fun l => (q.pages.filter fun g => g.layer == l && decide ((s.dir g.entry).refs ≤ 1))

/-- Image ranges of a context's sequences. -/
def State.images (s : State) (c : Nat) : List (Nat × Nat) :=
  (s.kvSeqs.filter fun q => q.2.present && q.2.ctx == c && (q.2.preempt || q.2.state == 0x32 || q.2.state == 0x33 || q.2.state == 0x34)).map
    fun q => (q.2.image, q.2.image + q.2.imagePages * q.2.page)

/-- The first room of `len` bytes in the host mappings of a context that no other image takes (R244). -/
def State.imagePlace (s : State) (c len : Nat) : Option Nat :=
  let busy := (s.images c).foldr insIv []
  ((s.ctx c).maps.filter fun m => m.host && !m.freeing).findSome? fun m =>
    (gapsOf (m.va + m.len) m.va (busy.filter fun b => decide (b.1 < m.va + m.len ∧ m.va < b.2))).findSome? fun g =>
      let a := alignUp g.1 4096
      if a + len ≤ g.2 then some a else none

/-- A host mapping holds a range. -/
def State.inHostMap (s : State) (c va len : Nat) : Bool :=
  (s.ctx c).maps.any fun m => m.host && !m.freeing && decide (m.va ≤ va ∧ va + len ≤ m.va + m.len)

/-- The swap-out of a sequence begins: its state, its movers. -/
def State.startSwapOut (s : State) (n : Nat) : State :=
  let q := s.seq n
  s.setSeq n { q with state := 0x32, preempt := false, movers := s.swapMovers, imagePages := (s.swapPages q).length, swapIdx := 0, swapSlot := 0 }

/-- SEQ_PREEMPT (R244, R245). The sequence's epoch is to have room for the end of its step, for the swap-out and for the restore,
since it never passes 0xFFFF_FFFE (R223, R230; DEDUCED, log 167). -/
def seqPreempt (p : Packet) (s : State) : Ans :=
  let c := p.hdr.ctx
  let n := p.f 4 11 0
  let q := s.seq n
  let len := (s.swapPages q).length * q.page
  let va := if p.hdr.expert then some (p.a 5) else s.imagePlace c len
  ownThenState (s.ctxCode c) ctxOpen <|
    if ¬ q.present then .refuse stRange (det 4 0)
    else if q.ctx ≠ c then .refuse stAuth
    else if q.state = 0x31 ∧ q.preempt then .refuse stState (wd q.state)
    else needState q.state [0x30, 0x31] <|
      match va with
      | none => .refuse stNospace
      | some a =>
        if s.ctxTT c ∨ ¬ s.inHostMap c a len then .refuse stNospace
        else if 0xFFFFFFFE < q.epoch + (if q.state = 0x31 then 3 else 2) then .refuse stRange (det 4 0)
        else .pend n 0 0 fun s =>
          let s := s.setSeq n { s.seq n with image := a, imagePages := (s.swapPages q).length, preempt := true }
          if q.state = 0x30 then s.startSwapOut n else s

/-- SEQ_PREEMPT. -/
def execSeqPreempt (k : Nat) (s : State) : Host.Outcome State Fault Refusal := runPacket 0x403 k seqPreempt s

/-- Key of the fault of a swap, beside those of transfers. -/
def swapJob (n : Nat) : Nat := 2 ^ 32 + n

/-- A swap is held by a translation fault of its image. -/
def State.swapHeld (s : State) (n : Nat) : Bool := (s.ctx (s.seq n).ctx).faults.any fun f => f.mover && f.job == swapJob n

/-- A swap meets a translation fault: it waits for the answer (R189, R245). -/
def State.swapFault (s : State) (op n : Nat) (x : Xl) : State :=
  let q := s.seq n
  match x, s.openOf op n with
  | .miss va pr, some o =>
    s.notice q.ctx o.hdr { va := va, write := op == 0x403, prot := pr, mover := true, unit := q.movers.headD 0, job := swapJob n }
  | _, _ => s

/-- A sequence whose swap a fault ends closes; the packet of its swap is answered once its pages are scrubbed (R245, R246). -/
def State.swapBad (s : State) (n code unit : Nat) : State :=
  let q := s.seq n
  let s := ((s.closeSeq n).fault code 1 q.ctx unit 0).upSeq n fun y => { y with bad := code }
  if (s.seq n).pages.isEmpty then s.seqClosed n else s

/-- Pages of a sequence in the order of a swap: each layer ascending, each page ascending (R245). -/
def Seq.ordered (q : Seq) : List SeqPage := (List.range 256).flatMap fun l => q.pages.filter fun g => g.layer == l

/-- How the movement of pages ends. -/
inductive Swap where
  /-- Every page is dealt with. -/
  | fin
  /-- A translation fault of the image, at an address. -/
  | miss (va : Nat) (prot : Bool)
  /-- It stops with a fault. -/
  | bad (code : Nat)
deriving DecidableEq, Repr, Inhabited

/-- Move pages out, in order (R245): a page that another sequence holds stays; the sequence notes how far it has come. -/
def State.swapOutRun (s : State) (n : Nat) (errs : List MemErr) : List SeqPage → State × Swap
  | [] => (s, .fin)
  | g :: t =>
    let q := s.seq n
    let d := s.dir g.entry
    let next := fun (s : State) k => s.upSeq n fun q => { q with swapIdx := q.swapIdx + 1, swapSlot := q.swapSlot + k }
    if 1 < d.refs then (next s 0).swapOutRun n errs t
    else
      let slot := q.swapSlot
      let m := mMover (if slot % 2 = 0 then q.movers.headD 0 else q.movers.getD 1 (q.movers.headD 0))
      match s.eccRead m q.ctx errs (s.pagePa g.entry) q.page with
      | (s, some _) => (s, .bad fltMemUncorr)
      | (s, none) =>
        let bs := s.rd (s.pagePa g.entry) q.page
        let dst := pagesOf (q.image + slot * q.page) q.page
        let s := s.walks m q.ctx errs true dst
        match s.xlates (some m) q.ctx true dst with
        | .error (.miss va pr) => (s.setDir g.entry { d with state := 3 }, .miss va pr)
        | .error (.denied a) => (s.violation m 0 a true, .bad fltXltMiss)
        | .error (.pa _) => (s, .bad fltXltMiss)
        | .ok l =>
          let s := (s.putPieces l bs).freeFrame g.entry
          let s := s.setDir g.entry { d with state := 2, frame := slot, check := crc32c bs }
          let s := next (s.bumpPage g.entry) 1
          ({ s with kv := { s.kv with out := s.kv.out + 1 } } : State).swapOutRun n errs t

/-- The swap-out of a sequence runs to its end, or to a fault of its image, after which it goes on where it stands (R189,
R245). -/
def State.swapOut (s : State) (n : Nat) (errs : List MemErr) : State :=
  let q := s.seq n
  let unit := q.movers.headD 0
  if ¬ q.present ∨ q.state ≠ 0x32 ∨ s.swapHeld n then s
  else if q.movers.isEmpty then s.setSeq n { q with movers := s.swapMovers }
  else
    match s.swapOutRun n errs (q.ordered.drop q.swapIdx) with
    | (s, .miss va pr) => s.swapFault 0x403 n (.miss va pr)
    | (s, .bad code) => s.swapBad n code unit
    | (s, .fin) =>
      let q := s.seq n
      ((s.setSeq n { q with state := 0x33, epoch := q.epoch + 1, movers := [], imagePages := q.swapSlot }).closeOp 0x403 n stOk
        { lo := wd q.swapSlot, hi := wd (q.swapSlot * (q.page / 4096)) }).settleFrees q.ctx

/-- SWAP_OUT_COMPLETE. -/
def execSwapOutComplete (seq : SwapMet) (s : State) : Host.Outcome State Fault Refusal :=
  .next (s.swapOut seq.seq seq.errs).schedule

/-- Swapped pages of a sequence, in image order. -/
def State.swappedPages (s : State) (q : Seq) : List SeqPage :=
  (List.range 256).flatMap fun l => (q.pages.filter fun g => g.layer == l && (s.dir g.entry).state == 2)

/-- Hold frames ready for `k` pages. -/
def State.takeFrames (s : State) (bytes owner : Nat) : Nat → Option State
  | 0 => some s
  | k + 1 =>
    match s.takePsm false 63 (bytes / 4096) 1 owner with
    | none => none
    | some (_, s) => s.takeFrames bytes owner k

/-- SEQ_RESTORE (R246). -/
def seqRestore (p : Packet) (s : State) : Ans :=
  let c := p.hdr.ctx
  let n := p.f 4 11 0
  let q := s.seq n
  ownThenState (s.ctxCode c) ctxOpen <|
    if ¬ q.present then .refuse stRange (det 4 0)
    else if q.ctx ≠ c then .refuse stAuth
    else needState q.state [0x33] <|
      match s.takeFrames q.page (1000 + n) (s.swappedPages q).length with
      | none => .refuse stNospace
      | some _ => .pend n 0 0 fun s =>
        let s := (s.takeFrames q.page (1000 + n) (s.swappedPages q).length).getD s
        s.setSeq n { q with state := 0x34, movers := s.swapMovers }

/-- SEQ_RESTORE. -/
def execSeqRestore (k : Nat) (s : State) : Host.Outcome State Fault Refusal := runPacket 0x404 k seqRestore s

/-- Bring pages back, in image order (R246). -/
def State.swapInRun (s : State) (n : Nat) : List SeqPage → State × Swap
  | [] => (s, .fin)
  | g :: t =>
    let q := s.seq n
    let d := s.dir g.entry
    let m := mMover (if d.frame % 2 = 0 then q.movers.headD 0 else q.movers.getD 1 (q.movers.headD 0))
    let src := pagesOf (q.image + d.frame * q.page) q.page
    let s := s.walks m q.ctx [] false src
    match s.xlates (some m) q.ctx false src with
    | .error (.miss va pr) => (s, .miss va pr)
    | .error (.denied a) => (s.violation m 0 a false, .bad fltXltMiss)
    | .error (.pa _) => (s, .bad fltXltMiss)
    | .ok l =>
      let bs := l.flatMap fun p => s.rd p.1 p.2
      match s.psmUse.find? fun u => u.owner == 1000 + n with
      | none => (s, .bad fltMemUncorr)
      | some u =>
        if crc32c bs ≠ d.check then (s, .bad fltMemUncorr)
        else
          let s := { s with psmUse := s.psmUse.map fun (v : PsmUse) => if v.lo = u.lo ∧ v.mask = u.mask then { v with owner := 0 } else v }
          let s := s.put (4096 * u.lo) bs
          let s := (s.setDir g.entry { d with state := 1, frame := u.lo, check := 0 }).bumpPage g.entry
          ({ s with kv := { s.kv with back := s.kv.back + 1 } } : State).swapInRun n t

/-- The swap-in of a sequence runs to its end, or to a fault of its image (R246). -/
def State.swapIn (s : State) (n : Nat) : State :=
  let q := s.seq n
  let unit := q.movers.headD 0
  if ¬ q.present ∨ q.state ≠ 0x34 ∨ s.swapHeld n then s
  else if q.movers.isEmpty then s.setSeq n { q with movers := s.swapMovers }
  else
    match s.swapInRun n (s.swappedPages q) with
    | (s, .miss va pr) => s.swapFault 0x404 n (.miss va pr)
    | (s, .bad code) => s.swapBad n code unit
    | (s, .fin) =>
      let q := s.seq n
      ((s.setSeq n { q with state := 0x30, epoch := q.epoch + 1, movers := [], image := 0, imagePages := 0 }).closeOp 0x404 n stOk
        {}).settleFrees q.ctx

/-- SWAP_IN_COMPLETE. -/
def execSwapInComplete (seq : Nat) (s : State) : Host.Outcome State Fault Refusal := .next (s.swapIn seq).schedule

end Sys2Proof.Machine
end

