-- ==== Sys2Proof/Machine/SeqStep.lean ====
section
/-! DEFINITION. SEQ_STEP and the end of a step (R228 to R233, R240 to R243). -/

namespace Sys2Proof.Machine

/-! ### Routes of a job (R98) -/

/-- The stream mover firmware binds routes to: the highest-numbered one it may use (log 33). -/
def State.fwMover (s : State) : Nat :=
  (((List.range 16).filter fun m => !s.moverBound m && !s.tst.movers.getLsbD m).reverse).headD 15

/-- The route bindings of a job: those of the context, and firmware's own for slot 0, or for every slot in basic form. -/
def State.jobRoutes (s : State) (c : Nat) (basic : Bool) : List (Nat × RouteBind) :=
  (if basic then List.range 8 else [0]).foldl (fun l k =>
    if (Tab.find l k).isSome then l else Tab.set l k { bound := false, mover := s.fwMover, profile := 0 }) (s.ctx c).routes

/-! ### The packet -/

/-- Rows of each entry of a SEQ_STEP. -/
def stepRows (p : Packet) : Nat := if p.f 4 1 0 = 2 then p.f 4 10 6 else p.f 4 5 2
/-- Parents of the nodes, 64 bits; 0 outside VERIFY_TREE. -/
def stepParents (p : Packet) : Nat := if p.f 4 1 0 = 2 then p.a 13 else 0
/-- Parent of a node. -/
def parentOf (ps i : Nat) : Nat := ps / 16 ^ i % 16

/-- The first words of the list descriptors of a SEQ_STEP. -/
def stepLists (p : Packet) : List Nat :=
  9 :: if p.hdr.expert then (List.range (p.f 15 1 0)).map fun i => 16 + 4 * i else []

/-- Sequence of a candidate-table entry. -/
def candSeq (e : List Word) : Nat := fld (wat e 0) 11 0

/-- The index of the first entry that fails a test. -/
def firstEntry (t : List (List Word)) (bad : Nat → List Word → Bool) : Option Nat :=
  (List.range t.length).find? fun i => bad i (t.getD i [])

/-- The checks of the candidate table's own words (R230): the first that fails, with its entry. -/
def candBad (p : Packet) (t : List (List Word)) : Option Nat :=
  let rows := stepRows p
  let seqs := t.map candSeq
  (firstEntry t fun _ e => fld (wat e 0) 31 12 != 0 || ((e.take 16).drop 1).any (· != 0) ||
      ((e.drop (16 + rows)).any (· != 0)) || ((e.drop 16).take rows).any (· == 0xFFFFFFFF)).orElse fun _ =>
  (firstEntry t fun i e =>
    let before := (seqs.take i).contains (candSeq e)
    before && (p.f 4 1 0 != 1 || seqs.getD (i - 1) 4096 != candSeq e))

/-- The tree checks: a parent not below its node, or two children of a node with one token. -/
def treeBad (p : Packet) (t : List (List Word)) : Option Nat :=
  let ps := stepParents p
  let n := p.f 4 10 6
  if p.f 4 1 0 ≠ 2 then none
  else if parentOf ps 0 ≠ 0 ∨ (List.range n).any (fun i => i != 0 && decide (i ≤ parentOf ps i)) then some 0
  else firstEntry t fun _ e =>
    (List.range n).any fun i => (List.range i).any fun j =>
      j != 0 && parentOf ps i == parentOf ps j && wat e (16 + i) == wat e (16 + j)

/-- The sequences of a step with all their rows, in table order. -/
def seqRows (rows : Nat) (t : List (List Word)) : List (Nat × Nat) :=
  ((t.map candSeq).eraseDups).map fun n => (n, rows * (t.filter fun e => candSeq e == n).length)

/-- Words of a step cleat before its tokens (R233). -/
def stepT (e : Nat) : Nat := 2 + cdiv e 2

/-- A list of a step: its engine, the handle of its step cleat and its commands, or the refusal. -/
def State.stepList (s : State) (p : Packet) (n w : Nat) : Except Refuse (Nat × Nat × List (List Word)) :=
  let c := p.hdr.ctx
  let e := p.f (w + 3) 10 8
  let h := p.f (w + 3) 6 0
  match s.readList c ((p.w w).toNat + 2 ^ 32 * p.f (w + 1) 15 0) (p.f (w + 2) 19 0) with
  | none => .error (stRange, det w 0, 0)
  | some cmds =>
    if ¬ s.owns c e h then .error (stAuth, det (w + 3) 0, 0)
    else
      match s.checkList { s.listFor c with allRoutes := !p.hdr.expert, routes := s.jobRoutes c false, eng := some e
                                           noKv := p.f 4 20 20 == 1 && n != 0 } cmds with
      | .error r => .error r
      | .ok _ =>
        match s.maskedFence c (listFences cmds) with
        | some st => .error (stState, wd st, 0)
        | none => .ok (e, h, cmds)

/-- Every list of a step, each checked beside those before it in the command store. -/
def State.stepAll (s : State) (p : Packet) : Nat → List Nat → Except Refuse (List (Nat × Nat × List (List Word)))
  | _, [] => .ok []
  | n, w :: t =>
    match s.stepList p n w with
    | .error r => .error r
    | .ok l =>
      match (s.storeCmds l.2.2.length).stepAll p (n + 1) t with
      | .error r => .error r
      | .ok ls => if ls.any fun x => x.1 == l.1 then .error (stFormat, det (w + 3) 8, 0) else .ok (l :: ls)

/-- The pages that positions `a` to `b - 1` of a sequence need and do not have. -/
def Seq.newPages (q : Seq) (a b : Nat) : List (Nat × Nat) :=
  (List.range q.layers).flatMap fun l =>
    ((List.range (cdiv b 64 - a / 64)).map fun i => (l, a / 64 + i)).filter fun g => (q.pageAt g.1 (64 * g.2)).isNone

/-- Take pages for a sequence. -/
def State.growSeq (s : State) (n : Nat) : List (Nat × Nat) → Option State
  | [] => some s
  | (l, i) :: t =>
    let q := s.seq n
    match s.takePage q.ctx l q.page with
    | none => none
    | some (k, s) =>
      (s.setSeq n { q with pages := q.pages ++ [{ layer := l, idx := i, entry := k, epoch := (s.dir k).epoch }] }).growSeq n t

/-- Take the pages of every sequence of a step (R231). -/
def State.growAll (s : State) : List (Nat × Nat) → Option State
  | [] => some s
  | (n, r) :: t =>
    match s.growSeq n ((s.seq n).newPages (s.seq n).len ((s.seq n).len + r)) with
    | none => none
    | some s => s.growAll t

/-- The checks of a SEQ_STEP (R230): the table and the lists, or the refusal. -/
def State.stepCheck (s : State) (p : Packet) : Except Refuse (List (List Word) × List (Nat × Nat × List (List Word))) :=
  let c := p.hdr.ctx
  let n := p.f 4 19 11
  match s.vrd none c ((p.w 5).toNat + 2 ^ 32 * p.f 6 15 0) (128 * n) with
  | .error _ => .error (stRange, det 5 0, 0)
  | .ok bs =>
    let t := chunks 32 n (wordsOf bs)
    let seqs := (t.map candSeq).eraseDups
    match seqs.find? fun m => (s.seq m).present && (s.seq m).ctx != c with
    | some m => .error (stAuth, 0, wd m)
    | none =>
    match seqs.find? fun m => !(s.seq m).present || (s.seq m).state != 0x30 with
    | some m => .error (if (s.seq m).present then (stState, wd (s.seq m).state, wd m) else (stRange, det 5 0, wd m))
    | none =>
    let g := s.seq (seqs.headD 0)
    let geo := firstEntry t fun _ e => let q := s.seq (candSeq e)
      q.layers != g.layers || q.kvh != g.kvh || q.hdim != g.hdim || q.fmt != g.fmt
    match ((candBad p t).orElse fun _ => geo).orElse fun _ => treeBad p t with
    | some i => .error (stFormat, det 5 0, wd i)
    | none =>
    if p.f 4 20 20 = 1 ∧ ¬ (s.ctx c).relaxed then .error (stState, wd (s.ctxCode c), 0)
    else if p.f 4 20 20 = 1 ∧ (stepLists p).length = 1 then .error (stFormat, det 4 20, 0)
    else
    match s.stepAll p 0 (stepLists p) with
    | .error r => .error r
    | .ok ls =>
    let sr := seqRows (stepRows p) t
    match sr.find? fun x => decide (131072 < (s.seq x.1).len + x.2) with
    | some x => .error (stRange, det 5 0, wd x.1)
    | none =>
    match sr.find? fun x => decide (0xFFFFFFFA < (s.seq x.1).epoch) with
    | some x => .error (stRange, det 5 0, wd x.1)
    | none =>
    let total := stepRows p * n
    if ls.any fun l => decide ((s.cleat l.1 l.2.1).size < stepT n + 2 * cdiv total 16) then .error (stRange, det 12 0, 0)
    else if ¬ s.vmapped c ((p.w 7).toNat + 2 ^ 32 * p.f 8 15 0) (128 * n) true then .error (stRange, det 7 0, 0)
    else if (s.growAll sr).isNone ∨ ls.any (fun l => decide (32 ≤ (s.jobsOf c l.1).length)) then .error (stNospace, 0, 0)
    else .ok (t, ls)

/-- Entry `a` stands before entry `b` in step order (R232). -/
def StepEntry.before (all : List (Nat × Nat)) (a b : StepEntry) : Bool :=
  let fin' := fun (x : StepEntry) => x.base + ((all.find? fun y => y.1 == x.seq).map (·.2)).getD 0
  if a.bucket ≠ b.bucket then decide (a.bucket < b.bucket)
  else if fin' a ≠ fin' b then decide (fin' b < fin' a)
  else decide (a.seq < b.seq)

/-- Insert an entry behind those that do not stand after it. -/
def insEntry (all : List (Nat × Nat)) (x : StepEntry) : List StepEntry → List StepEntry
  | [] => [x]
  | y :: t => if x.before all y then x :: y :: t else y :: insEntry all x t

/-- Number the step rows. -/
def numberRows : Nat → List StepEntry → List StepEntry
  | _, [] => []
  | n, e :: t => { e with rowStart := n } :: numberRows (n + e.rows) t

/-- The entries of a step in step order, once its sequences are STEPPING (R232). -/
def State.stepEntries (s : State) (p : Packet) (t : List (List Word)) : List StepEntry :=
  let rows := stepRows p
  let all := seqRows rows t
  let b := (s.ctx p.hdr.ctx).buckets
  let es := (List.range t.length).map fun i =>
    let e := t.getD i []
    let n := candSeq e
    let q := s.seq n
    let tot := ((all.find? fun y => y.1 == n).map (·.2)).getD 0
    let prev := ((t.take i).filter fun f => candSeq f == n).length
    let k := (b.filter fun x => decide (x < q.len + tot)).length
    { seq := n, tokens := (e.drop 16).take rows, rows := rows, firstPos := q.len + rows * prev, base := q.len, epoch := q.epoch
      bucket := match q.pin with
        | some v => min v b.length
        | none => k
      tabIdx := i, last := decide (rows * (prev + 1) = tot) : StepEntry }
  numberRows 0 (es.foldl (fun l e => insEntry all e l) [])

/-- Row `i` of the tree mask: node `i` and its ancestors; `n` bounds the climb. -/
def maskRow (ps : Nat) : Nat → Nat → Nat
  | 0, i => 2 ^ i
  | n + 1, i => if i = 0 then 1 else 2 ^ i ||| maskRow ps n (parentOf ps i)

/-- Bytes of a step cleat up to its tokens (R233). -/
def Step.bytes (x : Step) : List Byte :=
  let n := x.entries.length
  let t := stepT n
  let cnt := fun k => (x.entries.filter fun e => e.bucket == k).length
  let first := fun k => (x.entries.filter fun e => decide (e.bucket < k)).length
  let head := natBytes 4 (n + 2 ^ 9 * x.kind + 2 ^ 11 * x.rows) ++ natBytes 4 x.total ++ natBytes 8 x.parents ++
    ((List.range 8).flatMap fun k => natBytes 2 (first k)) ++ ((List.range 8).flatMap fun k => natBytes 2 (cnt k)) ++
    natBytes 4 t ++ natBytes 4 (t + cdiv x.total 16) ++ natBytes 8 0
  let mask := (List.range 16).flatMap fun i => natBytes 2 (if x.kind = 2 ∧ i < x.rows then maskRow x.parents 16 i else 0)
  let tab := x.entries.flatMap fun e =>
    natBytes 4 (e.seq + 2 ^ 16 * e.bucket) ++ natBytes 4 e.epoch ++ natBytes 4 e.base ++
      natBytes 4 (e.rowStart + 2 ^ 16 * e.rows) ++ natBytes 4 e.firstPos ++ natBytes 12 0
  slice head 0 64 ++ slice mask 0 64 ++ slice tab 0 (64 * (t - 2)) ++
    slice (bytesOf (x.entries.flatMap (·.tokens))) 0 (64 * cdiv x.total 16)

/-- An accepted step begins (R231). -/
def State.stepBegin (s : State) (p : Packet) (t : List (List Word)) (ls : List (Nat × Nat × List (List Word))) : State :=
  let c := p.hdr.ctx
  let sr := seqRows (stepRows p) t
  let s := sr.foldl (fun s x => s.upSeq x.1 fun q => { q with epoch := q.epoch + 1, state := 0x31 }) s
  let s := (s.growAll sr).getD s
  let x : Step :=
    { present := true, hdr := p.hdr, ctx := c, kind := p.f 4 1 0, rows := stepRows p, parents := stepParents p
      race := p.f 4 20 20 == 1, results := (p.w 7).toNat + 2 ^ 32 * p.f 8 15 0, entries := s.stepEntries p t
      engines := ls.map fun l => (l.1, l.2.1), left := List.range ls.length, total := stepRows p * p.f 4 19 11 }
  let s := s.setStep p.hdr.no x
  let s := ls.foldl (fun s l => s.anyWr c l.1 l.2.1 0 x.bytes) s
  ((List.range ls.length).zip ls).foldl (fun s l =>
    let j : Job := { hdr := p.hdr, ctx := c, tag := p.hdr.sequence, cmds := l.2.2.2, step := some p.hdr.no, listNo := l.1
                     taken := s.now, route := s.jobRoutes c (!p.hdr.expert) }
    (s.setJobs c l.2.1 (s.jobsOf c l.2.1 ++ [j])).storeCmds l.2.2.2.length) s

/-- SEQ_STEP (R228 to R233). -/
def seqStep (p : Packet) (s : State) : Ans :=
  if s.waitsFor p p.hdr.ctx then .hold
  else
    ownThenState (s.ctxCode p.hdr.ctx) ctxOpen <|
      match s.stepCheck p with
      | .error r => .ofRefuse r
      | .ok (t, ls) => .pend p.hdr.no 0 0 fun s => (s.stepBegin p t ls).schedule

/-- SEQ_STEP. -/
def execSeqStep (k : Nat) (s : State) : Host.Outcome State Fault Refusal := runPacket 0x402 k seqStep s

/-! ### The end of a step (R240 to R243) -/

/-- The verdicts of a step: the tokens its winning list wrote. -/
def State.verdicts (s : State) (x : Step) : List Word :=
  let l := x.engines.getD x.winner (0, 0)
  wordsOf (s.anyRd x.ctx l.1 l.2 (64 * (stepT x.entries.length + cdiv x.total 16)) (4 * x.total))

/-- Drafts of a linear entry that the verdicts accept. -/
def acceptLinear (toks vs : List Word) : Nat → Nat → Nat
  | 0, a => a
  | n + 1, a => if a + 1 < toks.length ∧ wat vs a = wat toks (a + 1) then acceptLinear toks vs n (a + 1) else a

/-- The path of accepted nodes of a tree entry, from the root. -/
def acceptTree (ps : Nat) (toks vs : List Word) : Nat → Nat → List Nat
  | 0, n => [n]
  | f + 1, n =>
    match (List.range toks.length).find? fun c => c != 0 && parentOf ps c == n && wat toks c == wat vs n with
    | some c => n :: acceptTree ps toks vs f c
    | none => [n]

/-- What the end of a step finds for an entry: the accepted nodes or rows, in order, and the token that follows. -/
structure Verdict where
  /-- Nodes (or rows) from the root on. -/
  path : List Nat
  /-- The bonus token. -/
  bonus : Word
deriving DecidableEq, Repr, Inhabited

/-- The verdict of an entry. -/
def Step.verdict (x : Step) (vs : List Word) (e : StepEntry) : Verdict :=
  let v := (vs.drop e.rowStart).take e.rows
  let path := if x.kind = 0 then List.range (acceptLinear e.tokens v 8 0 + 1)
    else if x.kind = 2 then acceptTree x.parents e.tokens v 16 0
    else List.range e.rows
  { path := path, bonus := wat v (path.getLastD 0) }

/-- Move a token's keys, values and scales within a sequence, in every layer (R240). -/
def State.moveToken (s : State) (n a b : Nat) : State :=
  if a = b then s
  else
    let q := s.seq n
    (List.range q.layers).foldl (fun s l =>
      match q.pageAt l a, q.pageAt l b with
      | some g, some h =>
        let src := s.pagePa g.entry
        let dst := s.pagePa h.entry
        [0, 1].foldl (fun s w =>
          let s := s.put (dst + q.rowOff w (b % 64)) (s.rd (src + q.rowOff w (a % 64)) q.rowB)
          if q.fmt = 4 then s.put (dst + q.sclOff w (b % 64)) (s.rd (src + q.sclOff w (a % 64)) (2 * q.kvh)) else s) s
      | _, _ => s) s

/-- The page rule at the end of a step: pages that hold rewound positions are freed or take a new epoch, and the rows of
the step's pages are set (R240). -/
def State.settlePages (s : State) (n old new' rows : Nat) : State :=
  let q := s.seq n
  let mine := q.pages.filter fun g => decide (old / 64 ≤ g.idx ∧ 64 * g.idx < old + rows)
  mine.foldl (fun s g =>
    let g := ((s.seq n).pageAt g.layer (64 * g.idx)).getD g
    if new' ≤ 64 * g.idx then
      (s.dropPage g.entry).upSeq n fun q => { q with pages := q.pages.filter fun h => ¬ (h.layer = g.layer ∧ h.idx = g.idx) }
    else
      let s := s.setDir g.entry { s.dir g.entry with rows := min 64 (new' - 64 * g.idx) }
      if new' < min (64 * g.idx + 64) (old + rows) then s.bumpPage g.entry else s) s

/-- A sequence leaves its step with a new committed length (R240, R242, R245). -/
def State.leaveStep (s : State) (n new' rows : Nat) : State :=
  let old := (s.seq n).len
  let s := s.settlePages n old new' rows
  let s := { s with kv := { s.kv with rewound := s.kv.rewound + wd (old + rows - new') } }
  let s := s.upSeq n fun q => { q with len := new', epoch := q.epoch + 1, state := 0x30 }
  if (s.seq n).preempt then s.startSwapOut n else s

/-- Rows of each sequence of a step. -/
def Step.seqs (x : Step) : List (Nat × Nat) :=
  ((x.entries.map (·.seq)).eraseDups).map fun n => (n, sumN ((x.entries.filter fun e => e.seq == n).map (·.rows)))

/-- Nothing of a step is committed; the sequences of a destroyed context then close (R222, R242). -/
def State.rewindStep (s : State) (k : Nat) : State :=
  let dead := (s.ctx (s.step k).ctx).scrubbing
  let s := (s.step k).seqs.foldl (fun s q =>
    let s := s.leaveStep q.1 (s.seq q.1).len q.2
    if dead then s.closeSeq q.1 else s) s
  { s with steps := Tab.erase s.steps k }

/-- A result entry (R241). -/
def resultBytes (e : StepEntry) (len a : Nat) (toks : List Word) : List Byte :=
  slice (natBytes 4 (e.seq + 2 ^ 16 * toks.length) ++ natBytes 4 len ++ natBytes 4 a ++ natBytes 4 0 ++ bytesOf toks) 0 128

/-- An entry of a step is committed: its sequence, its result entry, the tokens posted (R240, R241). -/
def State.commitEntry (s : State) (x : Step) (vs : List Word) (e : StepEntry) : State :=
  let v := x.verdict vs e
  let ext := x.kind = 1
  let tot := ((x.seqs.find? fun q => q.1 == e.seq).map (·.2)).getD 0
  let len := e.base + if ext then tot else v.path.length
  let s := if x.kind = 2 then
      ((List.range v.path.length).zip v.path).foldl (fun s d => s.moveToken e.seq (e.base + d.2) (e.base + d.1)) s
    else s
  let s := if ¬ ext ∨ e.last then s.leaveStep e.seq len tot else s
  let toks := if ext then (if e.last then [v.bonus] else [])
    else ((v.path.drop 1).map fun i => wat e.tokens i) ++ [v.bonus]
  match s.vwr none x.ctx (x.results + 128 * e.tabIdx) (resultBytes e len (if ext then 0 else v.path.length - 1) toks) with
  | .ok s => s
  | .error _ => s

/-- Tokens an entry posts. -/
def Step.posted (x : Step) (vs : List Word) (e : StepEntry) : Nat :=
  if x.kind = 1 then (if e.last then 1 else 0) else (x.verdict vs e).path.length

/-- The end of a step: every list has completed, or none of the group's jobs is left after a failure (R240, R242). -/
def State.stepEnd (s : State) (k : Nat) : State :=
  let x := s.step k
  if ¬ x.present ∨ ¬ x.left.isEmpty then s
  else if x.failed then
    ((s.rewindStep k).closeOp 0x402 k stFault { d1 := x.detail, fault := x.fault, canc := x.cancelled }).schedule
  else
    let vs := s.verdicts x
    let ends := x.entries.filter fun e => x.kind != 1 || e.last
    if ends.any fun e => (x.verdict vs e).bonus == 0xFFFFFFFF then
      let s := s.fault fltOperand 1 x.ctx (x.engines.getD x.winner (0, 0)).1 0
      ((s.rewindStep k).closeOp 0x402 k stFault { fault := fltOperand }).schedule
    else
      let s := x.entries.foldl (fun s e => s.commitEntry x vs e) s
      let s := { s with steps := Tab.erase s.steps k }
      (s.closeOp 0x402 k stOk { lo := wd (sumN (x.entries.map (x.posted vs))), hi := wd x.entries.length }).schedule

/-- STEP_END. -/
def execStepEnd (step : Nat) (s : State) : Host.Outcome State Fault Refusal := .next (s.stepEnd step)

end Sys2Proof.Machine
end

