-- ==== Sys2Proof/Machine/Destroy.lean ====
section
/-! DEFINITION. The end of a context (R63, R157, R222, R252, R385): the same steps for CTX_DESTROY, FLR and link-down, a
save that fails and a fatal fault. -/

namespace Sys2Proof.Machine

/-- The numbers of the sequences of a context. -/
def State.ctxSeqs (s : State) (c : Nat) : List Nat := (s.kvSeqs.filter fun q => q.2.present && q.2.ctx == c).map (·.1)

/-- The jobs of a context on an engine end as cancelled once their commands in flight have come to rest (R94). -/
def State.cancelOn (s : State) (c e : Nat) : State :=
  let s := if (s.jobsOf c e).isEmpty then s
    else (s.setJobs c e ((s.jobsOf c e).map fun j => { j with cancel := true })).sweep c e
  if (s.engine e).tq.any fun j => j.ctx == c then
    (s.upEngine e fun x =>
      { x with tq := (x.tq.filter fun j => ¬ (j.ctx = c ∧ ¬ j.begun)).map fun j =>
          if j.ctx = c then { j with cancel := true } else j }).endCancelled e 4
  else s

/-- Packets of a context that wait end as cancelled: fence waits, suspensions and swaps (R97). -/
def destroyed (c : Nat) (o : OpenReq) : Bool := o.hdr.ctx == c && [0x311, 0x112, 0x403, 0x404].contains o.hdr.opcode

/-- Slots held for a restore of a context are given up (R385). -/
def State.dropRestores (s : State) (c : Nat) : State :=
  engNos.foldl (fun s e => slotNos.foldl (fun s k =>
    if ((s.engine e).slot k).restoring = some c then s.upSlot e k fun _ => {} else s) s) s

/-- A context goes to SCRUBBING: its streams and sequences close, its jobs and transfers end, its cleats and slots are
given up as its engines come to rest. -/
def State.destroyCtx (s : State) (c : Nat) : State :=
  if ¬ (s.ctx c).present ∨ (s.ctx c).scrubbing then s
  else
    let s := s.upCtx c fun x => { x with scrubbing := true, suspended := false, faults := [], waitSince := none }
    let s := (streamNos.filter fun n => (s.stream n).ctx == c).foldl State.closeStream s
    let s := s.cancelOpens (destroyed c)
    let s := (s.transfers.filter fun t => t.hdr.ctx == c).foldl (fun s t => s.endXfer t 0 true) s
    let s := (engNos.foldl (fun s e => s.cancelOn c e) s).settleSteps
    let s := (s.steps.filter fun p => p.2.ctx == c).foldl (fun s p => s.stepEnd p.1) s
    let s := ((s.ctxSeqs c).filter fun n => (s.seq n).state != 0x31).foldl State.closeSeq s
    let s := { s with engines := s.engines.map fun (p : Nat × Engine) => (p.1, { p.2 with cleats := p.2.cleats.map fun (q : Nat × Cleat) =>
      if q.2.owner = c ∧ (q.2.state = 1 ∨ q.2.state = 2) then (q.1, { q.2 with released := true }) else q }) }
    ((engNos.foldl State.settleCleats (s.dropRestores c))).schedule

/-- Something of a destroyed context is still to end: a job, a cleat, a sequence or a page of one. -/
def State.scrubWaits (s : State) (c : Nat) : Bool :=
  s.ctxHasJobs c || (s.steps.any fun p => p.2.ctx == c) || (s.kvSeqs.any fun q => q.2.ctx == c && (q.2.present || !q.2.pages.isEmpty)) ||
    s.engines.any fun p => p.2.cleats.any fun q => q.2.owner == c && q.2.state != 0

/-- Opens whose object went with the context. -/
def scrubbedOpen (c : Nat) (o : OpenReq) : Bool := o.hdr.ctx == c && o.hdr.opcode != 0x111

/-- CONTEXT_SCRUB_COMPLETE: memory is zeroed and given back, the number is free, and CTX_DESTROY is answered (R63). A device that
is FAULTED destroys its contexts one by one (R157): a first such row of one begins its end, and at what moment after the
fault that is the spec leaves open (DESIGN CHOICE, log 165). -/
def State.ctxScrubbed (s : State) (c : Nat) : State :=
  if s.dev = devFaulted ∧ ¬ (s.ctx c).scrubbing then s.destroyCtx c
  else if ¬ (s.ctx c).scrubbing ∨ s.scrubWaits c then s
  else
    let s := (s.ctx c).maps.foldl (fun s m => s.releaseMap c m) s
    let s := (s.opens.filter (scrubbedOpen c)).foldl (fun s o => s.close o stOk {}) s
    let o := s.opens.find? fun o => o.hdr.opcode == 0x111 && o.hdr.ctx == c
    let s := { s with ctxs := Tab.erase s.ctxs c }
    let s := s.upTwin fun x => { x with pairs := x.pairs.filter fun p => p.1 ≠ c }
    match o with
    | some o => s.close o stOk {}
    | none => s

end Sys2Proof.Machine
end

