-- ==== Sys2Proof/Machine/Ctx.lean ====
section
/-! DEFINITION. The context packets (R126, R371 to R374, R387 to R389). -/

namespace Sys2Proof.Machine

/-! ### Creation -/

/-- Contexts a client holds. -/
def State.heldBy (s : State) (cl : Nat) : Nat := (s.ctxs.filter fun x => x.2.present && x.2.client == cl).length

/-- Pinned slots of an engine. -/
def State.pinnedOn (s : State) (e : Nat) : Nat :=
  (slotNos.filter fun k => match ((s.engine e).slot k).ctx with
    | some c => (s.ctx c).pinned
    | none => false).length

/-- A pinned context can have a slot on an engine (R369, R372). -/
def State.pinRoom (s : State) (tt : Bool) (e : Nat) : Bool := (s.engine e).freeSlot.isSome && (tt || decide (s.pinnedOn e < 3))

/-- A pinned context takes the lowest free slot of an engine (R373). -/
def State.pinSlot (s : State) (c e : Nat) : State :=
  match (s.engine e).freeSlot with
  | some k => s.takeSlot e k c
  | none => s

/-- A save area: the runs that stand behind an address, or none where it cannot be allocated (R374). -/
def State.saveArea (s : State) (c va len : Nat) : Option State :=
  match s.placeParts false 63 (c + 1) true false va (basicParts len) with
  | some (runs, s) => some (s.addMap c { va := va, len := len, runs := runs, save := true })
  | none => none

/-- CTX_CREATE (R371 to R374). -/
def ctxCreate (p : Packet) (s : State) : Ans :=
  let pt := p.f 4 1 0
  let q := s.part pt
  let tt := q.present && q.tt
  let ex := p.hdr.expert
  let ap := p.hdr.ap
  let mask : BitVec 8 := if ex then BitVec.ofNat 8 (p.f 5 7 0) else q.mask
  let engs := engNos.filter fun e => mask.getLsbD e
  let pin := tt || (ex && p.f 5 8 8 == 1)
  let addr := if ex then (p.w 6).toNat + 2 ^ 32 * p.f 7 15 0 else 0
  let len := if tt then 0 else engs.length * secBytes
  refuseIf (ex && tt && addr != 0) stFormat (det 6 0) <|
  refuseIf (ex && q.present && (mask == 0 || (mask &&& q.mask) != mask)) stRange (det 5 0) <|
  refuseIf (addr != 0 && decide (vaEnd < addr + len)) stRange (det 6 0) <|
  refuseIf (!tt && ex && p.f 5 8 8 == 1 && ap != 0) stAuth 0 <|
  refuseIf (!q.present) stState (wd 0x10) <|
  refuseIf (p.hdr.cls == 0 && !tt) stState (wd 0x11) <|
    match ctxNos.find? fun c => !(s.ctx c).present with
    | none => .refuse stNospace
    | some c =>
      refuseIf (decide ((s.client ap).maxCtx ≤ s.heldBy ap)) stNospace 0 <|
      refuseIf (pin && !engs.all (s.pinRoom tt)) stNospace 0 <|
        let x : Ctx := { present := true, client := ap, cls := p.hdr.cls, part := pt, mask := mask, mask0 := mask, pinned := pin
                         hdr := p.hdr, saveLen := len }
        let s := s.setCtx c x
        let s' := if tt then some s
          else
            match (if addr ≠ 0 then some addr else s.vaTakeTop c len 65536) with
            | none => none
            | some va => (s.saveArea c va len).map fun s => s.upCtx c fun y => { y with saveVa := va }
        match s' with
        | none => .refuse stNospace
        | some s =>
          let s := if pin then engs.foldl (fun s e => s.pinSlot c e) s else s
          .done s.schedule { lo := wd c, hi := wd (len / 4096), d1 := wd ((s.ctx c).saveVa / 65536) }

/-- CTX_CREATE. -/
def execCtxCreate (k : Nat) (s : State) : Host.Outcome State Fault Refusal := runPacket 0x110 k ctxCreate s

/-! ### Destruction -/

/-- A plan slot in one of some states starts a list of a context. -/
def State.planOf (s : State) (c : Nat) (states : List Nat) : Option Nat :=
  (planNos.find? fun i => let p := s.plan i; states.contains p.state && p.ctx == c && p.points.any fun w => ptKind w == 1).map
    fun i => (s.plan i).state

/-- CTX_DESTROY (R63). -/
def ctxDestroy (p : Packet) (s : State) : Ans :=
  let c := p.hdr.ctx
  needState (s.ctxCode c) [0x20, 0x21, 0x22, 0x23] <|
    match (if (s.ctx c).cls = 0 then s.planOf c [0x52, 0x53] else none) with
    | some _ => .refuse stState (wd (s.ctxCode c))
    | none => .pend c 0 0 fun s => s.destroyCtx c

/-- CTX_DESTROY. -/
def execCtxDestroy (k : Nat) (s : State) : Host.Outcome State Fault Refusal := runPacket 0x111 k ctxDestroy s

/-! ### Suspension (R388) -/

/-- The last save or drain of a suspended context has ended. -/
def State.suspendDone (s : State) (c : Nat) : State :=
  let busy := engNos.any fun e => slotNos.any fun k =>
    let x := (s.engine e).slot k
    (x.ctx == some c && (x.draining || x.saving)) || x.restoring == some c
  if (s.ctx c).suspended ∧ ¬ busy then s.closeOp 0x112 c stOk {} else s

/-- Issue stops, and every resident group is to be saved; in a TT partition the queues drain alone. -/
def State.suspendOn (s : State) (c e : Nat) : State :=
  match s.slotFor c e with
  | none => s
  | some k =>
    let x := (s.engine e).slot k
    if s.ctxTT c then s.upSlot e k fun y => { y with draining := true, susp := true }
    else if x.draining ∨ x.saving then s.upSlot e k fun y => { y with susp := true }
    else s.startSave e k true

/-- CTX_SUSPEND. -/
def ctxSuspend (p : Packet) (s : State) : Ans :=
  let c := p.hdr.ctx
  needState (s.ctxCode c) ctxOpen <|
    refuseIf ((s.ctx c).cls == 0 && planNos.any fun i => (s.plan i).runs && (s.plan i).ctx == c) stState (wd (s.ctxCode c)) <|
      .pend c 0 0 fun s =>
        let s := s.upCtx c fun x => { x with suspended := true }
        ((engNos.foldl (fun s e => s.suspendOn c e) s).suspendDone c).schedule

/-- CTX_SUSPEND. -/
def execCtxSuspend (k : Nat) (s : State) : Host.Outcome State Fault Refusal := runPacket 0x112 k ctxSuspend s

/-- A pinned DP context takes a slot of an engine again; its group, where it was saved, is restored first (R388). -/
def State.retake (s : State) (c e : Nat) : State :=
  match (s.engine e).freeSlot with
  | none => s
  | some k =>
    if (s.savedOn c e).isSome then
      s.upSlot e k fun y => { y with restoring := some c, mover := s.switchMover, group := e }
    else s.takeSlot e k c

/-- CTX_RESUME: a suspension that is still under way ends first. -/
def ctxResume (p : Packet) (s : State) : Ans :=
  let c := p.hdr.ctx
  let x := s.ctx c
  let engs := engNos.filter fun e => x.mask.getLsbD e
  needState (s.ctxCode c) [0x23] <|
    if (s.openOf 0x112 c).isSome then .hold
    else if s.ctxTT c ∨ ¬ x.pinned then .done (s.upCtx c fun y => { y with suspended := false }).schedule {}
    else
      refuseIf (!engs.all fun e => s.pinRoom false e) stNospace 0 <|
        .done (engs.foldl (fun s e => s.retake c e) (s.upCtx c fun y => { y with suspended := false })).schedule {}

/-- CTX_RESUME. -/
def execCtxResume (k : Nat) (s : State) : Host.Outcome State Fault Refusal := runPacket 0x113 k ctxResume s

/-! ### Mode and queries -/

/-- CTX_MODE_SET (R126). -/
def ctxModeSet (p : Packet) (s : State) : Ans :=
  let c := p.hdr.ctx
  let x := s.ctx c
  refuseIf (p.f 4 0 0 == 1 && x.cls == 0) stRange (det 4 0) <|
  needState (s.ctxCode c) [0x20, 0x23] <|
  refuseIf (s.ctxCode c == 0x20 && s.ctxHasJobs c) stState (wd 0x20) <|
    .done (s.upCtx c fun y => { y with relaxed := p.f 4 0 0 == 1 }) { lo := x.relaxedCnt, hi := wd (bitAt x.relaxed 0) }

/-- CTX_MODE_SET. -/
def execCtxModeSet (k : Nat) (s : State) : Host.Outcome State Fault Refusal := runPacket 0x114 k ctxModeSet s

/-- CTX_QUERY (R389). -/
def ctxQuery (p : Packet) (s : State) : Ans :=
  let c := p.hdr.ctx
  let x := s.ctx c
  let rem := maskOf ((x.saved.filter (·.remote)).map (·.engine))
  .done s { d0 := wd (s.ctxCode c), lo := wd (s.ctxJobs c).length, hi := x.saves
            d1 := wd (maskOf (s.residentOn c) + bitAt x.pinned 8 + bitAt x.relaxed 9 + 2 ^ 10 * x.cls + 2 ^ 16 * rem) }

/-- CTX_QUERY. -/
def execCtxQuery (k : Nat) (s : State) : Host.Outcome State Fault Refusal := runPacket 0x115 k ctxQuery s

end Sys2Proof.Machine
end

