-- ==== Sys2Proof/Machine/Switch.lean ====
section
/-! DEFINITION. Saves and restores of contexts, and reads over the Shroud link that meet them (R379 to R386, R398). -/

namespace Sys2Proof.Machine

/-! ### Draining (R379, R386) -/

/-- Remote reads of a context on an engine that are to land in the scratchpad. -/
def State.readsDue (s : State) (c e : Nat) : Bool := (s.engine e).remotes.any fun r => r.ctx == c && !r.redirect

/-- A command that runs to completion before its queue may be saved (R379). -/
def noPreempt (c : List Word) : Bool := cOp c == opChis || cOp c == opNop || cOp c == opFSig

/-- The head of a queue still runs a command that cannot be preempted. -/
def State.mustFinish (s : State) (e k : Nat) : Bool :=
  match s.queue e k with
  | [] => false
  | j :: _ => j.flight.any fun i => !j.stalled i && noPreempt (j.cmds.getD i [])

/-- SAVE_DRAIN_COMPLETE: the queue is at rest; its copy begins as a mover is free (R380, R383). In a TT partition the drain
is the whole of a suspension (R388). -/
def State.saveDrained (s : State) (e k : Nat) : State :=
  let x := (s.engine e).slot k
  match x.ctx with
  | none => s
  | some c =>
    if ¬ x.draining ∨ s.mustFinish e k ∨ s.readsDue c e then s
    else if s.ctxTT c then ((s.upSlot e k fun y => { y with draining := false, susp := false }).suspendDone c).schedule
    else
      match s.switchMover with
      | none => s
      | some m => ((s.upSlot e k fun y => { y with draining := false, saving := true, mover := some m }).sweep c e).schedule

/-- SAVE_DRAIN_COMPLETE. -/
def execSaveDrainComplete (e : Fin 8) (slot : Fin 4) (s : State) : Host.Outcome State Fault Refusal :=
  .next (s.saveDrained e.val slot.val)

/-- REMOTE_DRAIN_TIMEOUT, 200 us after the save began: reads that have not landed will be redirected, and the save proceeds (R386). -/
def State.drainTimeout (s : State) (e k : Nat) : State :=
  let x := (s.engine e).slot k
  match x.ctx with
  | none => s
  | some c =>
    if ¬ x.draining ∨ ¬ s.readsDue c e then s
    else
      let s := s.passTo ((((s.ctx c).saved.find? fun z => z.engine == e).map (·.since)).getD 0 + 200000)
      let s := s.upEngine e fun y => { y with remotes := y.remotes.map fun r => if r.ctx = c then { r with redirect := true } else r }
      let s := s.upCtx c fun y => { y with saved := y.saved.map fun z => if z.engine = e then { z with remote := true } else z }
      ({ s with sch := { s.sch with remotes := s.sch.remotes + 1 } } : State).event 290

/-- REMOTE_DRAIN_TIMEOUT. -/
def execRemoteDrainTimeout (e : Fin 8) (slot : Fin 4) (s : State) : Host.Outcome State Fault Refusal :=
  .next (s.drainTimeout e.val slot.val)

/-! ### Saving (R380 to R382) -/

/-- Key of the fault of a save or a restore: its engine and slot. -/
def switchJob (e k : Nat) : Nat := 4 * e + k

/-- A save or a restore is held by a translation fault. -/
def State.switchHeld (s : State) (c e k : Nat) : Bool := (s.ctx c).faults.any fun f => f.save && f.job == switchJob e k

/-- A save or a restore meets a translation fault (R187, R189), or the access table. -/
def State.switchFault (s : State) (c e k m : Nat) (write : Bool) (x : Xl) : State :=
  match x with
  | .miss va pr =>
    s.notice c (s.ctx c).hdr { va := va, write := write, prot := pr, save := true, mover := true, unit := m, job := switchJob e k }
  | .denied a => ((s.violation (mMover m) 0 a write).fault fltXltMiss 1 c m 0).destroyCtx c
  | .pa _ => s

/-- Bytes of a record of a hold set. -/
def HoldSet.recB (h : HoldSet) : Nat := recBytes h.fmtA h.fmtB false

/-- Where the record of row `r` and column `j` stands in a section (R381). -/
def HoldSet.at' (h : HoldSet) (r j : Nat) : Nat := secHold + (256 * r + j) * h.recB

/-- The rows of a hold set as a section holds them: offset and bytes. -/
def HoldSet.rows (h : HoldSet) : List (Nat × List Byte) :=
  if ¬ h.held then []
  else (List.range h.m).map fun r => (h.at' r 0, ((h.recs.drop (r * h.n)).take h.n).flatMap fun x => x.bytes h.fmtA h.fmtB false)

/-- Offsets of the cleat images of a group in a section, in ascending handle (R381). -/
def imageOffs : Nat → List (Nat × Cleat) → List (Nat × Nat × Cleat)
  | _, [] => []
  | off, (h, c) :: t => (off, h, c) :: imageOffs (off + alignUp (64 * c.size) 4096) t

/-- LIVE cleats of a context on an engine. -/
def State.liveGroup (s : State) (c e : Nat) : List (Nat × Cleat) := (s.group' c e).filter fun p => p.2.state == 1

/-- How the writing of a section ends. -/
inductive Put where
  /-- Every piece is written. -/
  | fin
  /-- A translation fault, or a refusal of the access table. -/
  | miss (x : Xl)
  /-- A piece covers part of an uncorrectable burst (R175). -/
  | unc
deriving DecidableEq, Repr, Inhabited

/-- Bytes at a device-virtual address, none across a 4 KiB boundary. -/
def pagePieces (va : Nat) (bs : List Byte) : List (Nat × List Byte) :=
  (pagesOf va bs.length).map fun p => (p.1, slice bs (p.1 - va) p.2)

/-- Write pieces of a section, in order, and count them in `n`: those before a fault stay written (R189). -/
def State.putSection (s : State) (c m : Nat) : Nat → List (Nat × List Byte) → State × Nat × Put
  | n, [] => (s, n, .fin)
  | n, (va, bs) :: t =>
    match s.xlate (some (mMover m)) c va bs.length true with
    | .pa a => if (s.eccPartial a bs.length).isSome then (s, n, .unc) else (s.put a bs).putSection c m (n + 1) t
    | x => (s, n, .miss x)

/-- The KV entry that a queue of a context has armed, in its slot or in what was saved of it. -/
def State.armedOf (s : State) (c e : Nat) : Option (List Word) :=
  match s.slotFor c e with
  | some k => ((s.engine e).qs' k).armed
  | none => ((s.ctx c).saved.find? fun z => z.engine == e).bind fun z => z.q.armed

/-- A job of a context that is not resident, or that is being saved, stops with a fault: the words its commands in flight
were writing hold unspecified data, and it leaves its queue (R93, R386). -/
def State.stopAway (s : State) (c e code : Nat) : State :=
  match s.jobsOf c e with
  | [] => s
  | j :: t =>
    let armed := s.armedOf c e
    let s := j.flight.foldl (fun s k => s.dirty e armed j (j.cmds.getD k []) (.rows [])) s
    let s := ((s.setJobs c e t).freeCmds j.cmds.length).fault code 1 c e 0
    let s := s.upCtx c fun x =>
      { x with done := ({ tag := j.tag, stopped := true, stats := j.stats.words } :: x.done).take 64
               saved := x.saved.map fun z => if z.engine = e then { z with q := {} } else z }
    let s := match s.slotFor c e with
      | some k => (s.upQs e k fun _ => {}).upSlot e k fun y => { y with moved := 0 }
      | none => s
    let s := s.event (64 + 8 * e + 1)
    let s := match j.step with
      | some n => s.stepNote n j.listNo false false code 0
      | none => s.closeNo j.hdr.no stFault { lo := j.tag, fault := code }
    s.afterJobs c e

/-- CONTEXT_SAVE_COMPLETE: hold set and cleats are in the section, the vacated words are zero, the slot is free. `residue` names
the rows of the hold set whose residue does not compare: such a row is not written, and the job stops with FLT_RESIDUE
(R121). -/
def State.saveDone (s : State) (e k : Nat) (errs : List MemErr) (residue : List Nat) : State :=
  let x := (s.engine e).slot k
  match x.ctx with
  | none => s
  | some c =>
    let q := (s.engine e).qs' k
    if ¬ x.saving ∨ s.switchHeld c e k then s
    else if q.hold.held ∧ residue.any (· < q.hold.m) then s.stopAway c e fltResidue
    else
      let m := x.mover.getD 0
      let g := s.liveGroup c e
      match s.eccReads (mMover m) c errs (g.flatMap fun p => p.2.pieces e 0 (64 * p.2.size)) with
      | (s, some _) => (s.fault fltMemUncorr 1 c m 0).destroyCtx c
      | (s, none) =>
        let base := (s.ctx c).section e
        let ims := (imageOffs secImages g).map fun p => (p.1, p.2.1, s.clRd e p.2.1 0 (64 * p.2.2.size))
        let l := ((q.hold.rows ++ ims.map fun p => (p.1, p.2.2)).flatMap fun p => pagePieces (base + p.1) p.2).drop x.moved
        match (s.walks (mMover m) c errs true (l.map fun p => (p.1, p.2.length))).putSection c m x.moved l with
        | (s, n, .miss f) => (s.upSlot e k fun y => { y with moved := n }).switchFault c e k m true f
        | (s, _, .unc) => (s.fault fltMemUncorr 1 c m 0).destroyCtx c
        | (s, _, .fin) =>
          let s := g.foldl (fun s p => (s.vacate e p.2).setCleat e p.1 { p.2 with state := 2 }) s
          let images := ims.map fun p => ({ handle := p.2.1, off := p.1, crc := crc32c p.2.2 } : SaveImage)
          let s := s.upCtx c fun y =>
            { y with saves := y.saves + 1
                     saved := y.saved.map fun z => if z.engine = e then { z with present := true, images := images, q := q } else z }
          let s := s.upEngine e fun y => { y.setSlot k {} with qs := Tab.erase y.qs k }
          ((s.sweep c e).suspendDone c).schedule

/-- CONTEXT_SAVE_COMPLETE. -/
def execContextSaveComplete (e : Fin 8) (slot : Fin 4) (errs : SaveMet) (s : State) :
    Host.Outcome State Fault Refusal := .next (s.saveDone e.val slot.val errs.errs errs.residue)

/-! ### Restoring (R375, R380, R382, R386) -/

/-- Read ranges of a section. -/
def State.getSection (s : State) (c base m : Nat) : List (Nat × Nat) → Except Xl (List (List Byte))
  | [] => .ok []
  | (o, n) :: t =>
    match s.vrd (some (mMover m)) c (base + o) n with
    | .error x => .error x
    | .ok b =>
      match s.getSection c base m t with
      | .error x => .error x
      | .ok l => .ok (b :: l)

/-- Load the records of a hold set from the rows of a section; none where one fails the check of R116 or the residue
recorded for it (R382). -/
def HoldSet.reload (h : HoldSet) (rows : List (List Byte)) : Option (List HoldRec) :=
  let l := rows.flatMap fun bs => (List.range h.n).map fun j => loadRec h.fmtA h.fmtB false (slice bs (j * h.recB) h.recB)
  let ok := (List.range (h.m * h.n)).all fun i =>
    match l[i]? with
    | some (.ok r) => let q := h.recs.getD i {}; (res127 r.reg + res127 r.esc) % 127 == (res127 q.reg + res127 q.esc) % 127
    | _ => false
  if ok then some (l.filterMap fun x => match x with
    | .ok r => some r
    | .bad _ => none) else none

/-- The state of a context moves from the engine it was saved on to the one that takes it (R73, R375). -/
def State.followGroup (s : State) (c g e : Nat) (placed : List (Nat × Cleat)) : State :=
  let s := (s.group' c g).foldl (fun s p => s.setCleat g p.1 {}) s
  let s := placed.foldl (fun s p => s.setCleat e p.1 p.2) s
  if g = e then s
  else (s.setJobs c e (s.jobsOf c g)).setJobs c g []

/-- A failed restore ends the context (R382). -/
def State.restoreBad (s : State) (c m : Nat) : State := (s.fault fltMemUncorr 1 c m 0).destroyCtx c

/-- The restored context takes the slot, and its time preempted ends (R380, R390). -/
def State.restored (s : State) (e k c : Nat) (z : Saved) (q : QState) : State :=
  let s := s.upCtx c fun y => { y with saved := y.saved.filter fun w => w.engine ≠ z.engine }
  let s := (s.takeSlot e k c).upQs e k fun _ => q
  let s := s.upJob e k fun j =>
    match j.preFrom with
    | some t => { j with preNs := j.preNs + (s.now - t), preFrom := none }
    | none => j
  let s := if z.counted then s.upClient (s.ctx c).client fun y => { y with preemptedNs := y.preemptedNs + (s.now - z.since) } else s
  let s := ({ s with sch := { s.sch with switches := s.sch.switches + 1 } } : State).event 288
  if (s.ctx c).suspended then s.startSave e k true else s

/-- CONTEXT_RESTORE_COMPLETE. -/
def State.restoreDone (s : State) (e k : Nat) (errs : List MemErr) : State :=
  let x := (s.engine e).slot k
  match x.restoring with
  | none => s
  | some c =>
    match x.mover, s.savedOn c x.group with
    | none, _ => s.upSlot e k fun y => { y with mover := s.switchMover }
    | some _, none => s
    | some m, some z =>
      if s.switchHeld c e k then s
      else
        match placeGroup ((s.engine e).occupied false) (s.group' c x.group) with
        | none => s
        | some placed =>
          let base := (s.ctx c).section x.group
          let size := fun h => 64 * (s.cleat x.group h).size
          let h := z.q.hold
          let want := (z.images.map fun im => (im.off, size im.handle)) ++ (z.landed.map fun l => (4096 * l.1, l.2.2.2)) ++
            h.rows.map fun r => (r.1, r.2.length)
          let l := want.flatMap fun w => pagesOf (base + w.1) w.2
          let s := s.walks (mMover m) c errs false l
          match s.xlates (some (mMover m)) c false l, s.getSection c base m want with
          | .error f, _ => s.switchFault c e k m false f
          | .ok _, .error f => s.switchFault c e k m false f
          | .ok pieces, .ok bs =>
            match s.eccReads (mMover m) c errs pieces with
            | (s, some _) => s.restoreBad c m
            | (s, none) =>
              let n := z.images.length
              let good := (List.range n).all fun i => crc32c (bs.getD i []) == (z.images.getD i {}).crc
              match h.reload (bs.drop (n + z.landed.length)) with
              | none => s.restoreBad c m
              | some recs =>
                if ¬ good then s.restoreBad c m
                else
                  let s := s.followGroup c x.group e placed
                  let s := (List.range n).foldl (fun s i => s.clWr e (z.images.getD i {}).handle 0 (bs.getD i [])) s
                  let s := (List.range z.landed.length).foldl (fun s i =>
                    let l := z.landed.getD i (0, 0, 0, 0)
                    s.clWr e l.2.1 l.2.2.1 (bs.getD (n + i) [])) s
                  let q := if h.held then { z.q with hold := { h with recs := recs } } else z.q
                  (s.restored e k c z q).schedule

/-- CONTEXT_RESTORE_COMPLETE. -/
def execContextRestoreComplete (e : Fin 8) (slot : Fin 4) (errs : List MemErr) (s : State) : Host.Outcome State Fault Refusal :=
  .next (s.restoreDone e.val slot.val errs)

/-! ### Remote reads and accesses (R386, R398) -/

/-- The queue of an engine in which a context runs. -/
def State.queueOf (s : State) (c e : Nat) : Option Nat := s.slotFor c e

/-- The job whose remote read cannot be made good stops (R386, R398). -/
def State.stopRemote (s : State) (e : Nat) (r : Remote) (code : Nat) : State :=
  match s.queueOf r.ctx e with
  | some k => if ((s.engine e).slot k).saving then s.stopAway r.ctx e code else s.stopJob e k r.idx code {} (.rows [])
  | none => s.stopAway r.ctx e code

/-- REMOTE_READ_COMPLETION: the frames this part replayed for the read are counted (R395, R410), and the data goes into the scratchpad, or into the landing slot of a saved context; one for no read is discarded
and counted (R386). No data says that the peer's data is uncorrectable (R398). -/
def State.remoteRead (s : State) (e tag : Nat) (data : List Byte) (replays : Nat) : State :=
  let s := s.upTwin fun x => { x with cntReplay := x.cntReplay + wd replays }
  match (s.engine e).remotes.find? fun r => r.tag == tag with
  | none => s.upTwin fun x => { x with cntLate := x.cntLate + 1 }
  | some r =>
    let s := s.upEngine e fun x => { x with remotes := x.remotes.filter fun q => q.tag ≠ tag }
    if data.isEmpty then s.stopRemote e r fltMemUncorr
    else if r.redirect then
      let s := (s.upTwin fun x => { x with cntRedirect := x.cntRedirect + 1 }).event 418
      match s.xlates none r.ctx true (pagesOf ((s.ctx r.ctx).section e + 4096 * tag) r.len) with
      | .error _ => s
      | .ok l =>
        if (s.eccPartials l).isSome then s.stopRemote e r fltMemUncorr
        else ((s.putPieces l (slice data 0 r.len)).upCtx r.ctx fun y => { y with saved := y.saved.map fun z =>
          if z.engine = e then { z with landed := z.landed ++ [(tag, r.h, r.off, r.len)] } else z }).schedule
    else (s.clWr e r.h r.off (slice data 0 r.len)).schedule

/-- REMOTE_READ_COMPLETION. -/
def execRemoteReadCompletion (e : Fin 8) (tag : Fin 64) (data : LinkData) (s : State) : Host.Outcome State Fault Refusal :=
  .next (s.remoteRead e.val tag.val data.data data.replays)

/-- The fault key of an access from the peer. -/
def peerJob : Nat := 2 ^ 33

/-- REMOTE_ACCESS_REQUEST: a read or a posted write of the peer, translated and served in the peer's context here; a
translation fault is raised to this part's host, and the request comes again (R398). One that meets uncorrectable data is
answered without data (R175, R398). -/
def State.remoteAccess (s : State) (c va len : Nat) (data : Option (List Byte)) : State :=
  match s.peerOf c with
  | none => s
  | some peer =>
    if (s.ctx c).faults.any fun f => f.job == peerJob then s
    else
      let fault := fun (w : Bool) (x : Xl) => match x with
        | .miss v pr => s.notice c (s.ctx c).hdr { va := v, write := w, prot := pr, mover := true, job := peerJob }
        | _ => s
      match data with
      | some bs =>
        (match s.xlates none c true (pagesOf va bs.length) with
        | .ok l => if (s.eccPartials l).isSome then s.out 5 peer [] else s.putPieces l bs
        | .error x => fault true x)
      | none =>
        match s.xlates none c false (pagesOf va len) with
        | .error x => fault false x
        | .ok l =>
          match s.eccReads mFe c [] l with
          | (s, some _) => s.out 5 peer []
          | (s, none) => s.out 5 peer (l.flatMap fun p => s.rd p.1 p.2)

/-- REMOTE_ACCESS_REQUEST. -/
def execRemoteAccessRequest (ctx : Fin 64) (va len : Nat) (data : Option (List Byte)) (s : State) :
    Host.Outcome State Fault Refusal := .next (s.remoteAccess ctx.val va len data)

/-- MIRRORED_FENCE_SIGNAL: the peer's signal is applied here, and satisfies waiters (R399). -/
def execMirroredFenceSignal (ctx : Fin 64) (fence : Fin 16) (set : Bool) (v : Word) (s : State) :
    Host.Outcome State Fault Refusal :=
  .next (let c := ctx.val
    if (s.peerOf c).isNone ∨ fence.val < 8 then s
    else ((s.putFence c fence.val (fenceNext (s.fence c fence.val) set v).1).wake 200 c).schedule)

/-- A job waits on a mirrored fence of a paired context: a FENCE_WAIT on F8 to F15 in flight (R395). -/
def Job.waitsMirror (j : Job) : Bool :=
  j.flight.any fun i => cOp (j.cmds.getD i []) == opFWait && decide (8 ≤ cf (j.cmds.getD i []) 1 3 0)

/-- Jobs of a paired context that wait on a mirrored fence stop with FLT_LINK. -/
def State.stopMirrors (s : State) (c : Nat) : State :=
  engNos.foldl (fun s e =>
    match s.jobsOf c e with
    | j :: _ =>
      if j.waitsMirror then
        match s.queueOf c e with
        | some k => s.stopJob e k (j.flight.headD 0) fltLink {} .all
        | none => s.stopAway c e fltLink
      else s
    | [] => s) s

/-- Remote reads outstanding are abandoned: their jobs stop with FLT_LINK (R386, R395). -/
def State.abandonReads (s : State) : State :=
  engNos.foldl (fun s e =>
    ((s.engine e).remotes.map (·.ctx)).eraseDups.foldl (fun s c =>
      match (s.engine e).remotes.find? fun r => r.ctx == c with
      | none => s
      | some r =>
        let s := s.upEngine e fun x => { x with remotes := x.remotes.filter fun q => q.ctx ≠ c }
        s.stopRemote e r fltLink) s) s

/-- SHROUD_LINK_DOWN (R395): FLT_TWIN_LOST, LOST, and what waits on the link stops. -/
def State.shroudDown (s : State) : State :=
  if ¬ s.twin.up then s
  else
    let prs := if s.twin.state = twSplit then s.twin.pairs else []
    let s := (s.upTwin fun x => { x with up := false, lanes := 0, state := twLost }).fault fltTwinLost 0 255 0 0
    let s := s.event 416
    let s := s.abandonReads
    (prs.foldl (fun s p => s.stopMirrors p.1) s).schedule

/-- SHROUD_LINK_DOWN. -/
def execShroudLinkDown (s : State) : Host.Outcome State Fault Refusal := .next s.shroudDown

end Sys2Proof.Machine
end

