-- ==== Sys2Proof/Machine/Xlt.lean ====
section
/-! DEFINITION. Answers to translation faults, and the movement of stream-mover transfers (R183, R187 to R190, R317, R398,
R401). -/

namespace Sys2Proof.Machine

/-! ### Answers to translation faults (R188 to R190) -/

/-- A fault is no longer outstanding; a transfer it held may go on. -/
def State.answered (s : State) (c : Nat) (f : XltFault) : State :=
  let s := s.upCtx c fun x => { x with faults := x.faults.filter fun g => g.id ≠ f.id }
  if f.mover ∧ ¬ f.save ∧ f.job < 2 ^ 32 then s.upXfer f.job fun t => { t with stalled := false } else s

/-- A job of an engine stops because its fault was answered by ABORT. -/
def State.abortJob (s : State) (c : Nat) (f : XltFault) : State :=
  match s.slotFor c f.unit with
  | some k => if ((s.engine f.unit).slot k).saving then s.stopAway c f.unit fltXltMiss
    else s.stopJob f.unit k f.idx fltXltMiss {} (.rows [])
  | none => s.stopAway c f.unit fltXltMiss

/-- A swap whose fault was answered by ABORT: its sequence closes, and its packet is answered with the fault. -/
def State.abortSwap (s : State) (n unit : Nat) : State :=
  s.swapBad n fltXltMiss unit

/-- ABORT: the job or transfer stops with FLT_XLT_MISS; a save or restore ends its context (R188, R189). -/
def State.abortFault (s : State) (c : Nat) (f : XltFault) : State :=
  let s := s.answered c f
  if f.save then (s.fault fltXltMiss 1 c f.unit 0).destroyCtx c
  else if f.job = peerJob then (match s.peerOf c with
    | some p => s.out 5 p []
    | none => s).schedule
  else if f.mover ∧ 2 ^ 32 ≤ f.job then (s.abortSwap (f.job - 2 ^ 32) f.unit).schedule
  else if f.mover then
    match s.transfers.find? fun t => t.id == f.job with
    | some t => (s.endXfer t fltXltMiss false).schedule
    | none => s.schedule
  else s.abortJob c f

/-- The page of a fault. -/
def XltFault.page (f : XltFault) : Nat := f.va / 4096 * 4096

/-- The run that an INSTALL entry describes. -/
def entryRun (va : Nat) (lo hi : Word) : Run :=
  let pg := fld lo 2 1
  let e := w64 lo hi
  { va := va / pageBytes pg * pageBytes pg, pa := e / 4096 % 2 ^ 36 * 4096 / pageBytes pg * pageBytes pg, len := pageBytes pg, page := pg
    write := bit lo 3, pin := bit lo 4, nocache := bit lo 6, stat := bit lo 7 }

/-- An INSTALL entry is a leaf of its context, with a frame inside an allocation or a host mapping of it (R188). -/
def State.entryOk (s : State) (c : Nat) (lo hi : Word) : Bool :=
  let r := entryRun 0 lo hi
  let a := w64 lo hi / 4096 % 2 ^ 36 * 4096
  bit lo 0 && decide (fld lo 2 1 < 3) && fld hi 29 24 == c &&
    a == r.pa && bit lo 5 == decide (hostBase ≤ a) &&
    (s.ctx c).maps.any fun m => !m.gone && m.runs.any fun q => q.pieces.any fun w => decide (w.1 ≤ a ∧ a + r.len ≤ w.1 + w.2)

/-- XLT_FAULT_REPLY (R188). -/
def xltFaultReply (p : Packet) (s : State) : Ans :=
  let c := p.hdr.ctx
  let act := p.f 4 9 8
  ownThenState (s.ctxCode c) [0x22] <|
    match (s.ctx c).faults.find? fun f => f.id == p.f 4 7 0 with
    | none => .refuse stRange (det 4 0)
    | some f =>
      if act = 2 then .done (s.abortFault c f) {}
      else if act = 3 then
        refuseIf (!s.entryOk c (p.w 5) (p.w 6)) stAuth 0 <|
          let r := entryRun f.va (p.w 5) (p.w 6)
          .done (((s.forget c r.va (r.va + r.len)).upCtx c fun x => { x with installs := r :: x.installs }).answered c f).schedule {}
      else
        refuseIf f.prot stState (wd 0x22) <|
          if act = 1 then
            let m : Mapping := { va := f.page, len := 4096, host := true, runs := [{ va := f.page, pa := hostBase + p.a 5, len := 4096 }] }
            .done ((s.addMap c m).answered c f).schedule {}
          else
            match s.takePsm false 63 1 1 (c + 1) with
            | some ((g, _) :: _, s) =>
              let m : Mapping := { va := f.page, len := 4096, runs := [{ va := f.page, pa := 4096 * g, len := 4096 }] }
              .done (((s.scrub (4096 * g) 4096).addMap c m).answered c f).schedule {}
            | _ => .refuse stNospace

/-- XLT_FAULT_REPLY. -/
def execXltFaultReply (k : Nat) (s : State) : Host.Outcome State Fault Refusal := runPacket 0x220 k xltFaultReply s

/-- XLT_FAULT_TIMEOUT: a fault unanswered for the set time is answered as ABORT and counted (R190). -/
def State.faultTimeout (s : State) (c id : Nat) : State :=
  match (s.ctx c).faults.find? fun f => f.id == id with
  | none => s
  | some f =>
    if s.xlt.timeout = 0 then s
    else
      let s := s.passTo (f.since + s.xlt.timeout * 1000000)
      ((s.upXlt fun x => { x with cntTimeout := x.cntTimeout + 1 }).event 261).abortFault c f

/-- XLT_FAULT_TIMEOUT. -/
def execXltFaultTimeout (ctx : Fin 64) (id : Nat) (s : State) : Host.Outcome State Fault Refusal := .next (s.faultTimeout ctx.val id)

/-! ### Transfers (R183, R189, R317, R398) -/

/-- Bytes `o` to `o + n - 1` of a transfer's source, which lie in one page: of its fill pattern, of what the peer sent from the
byte it had reached on, or of memory. -/
def State.xferBytes (s : State) (t : Transfer) (errs : List MemErr) (rem : Option (List Byte)) (o n : Nat) :
    State × Except XEnd (List Byte) :=
  match t.fill, rem with
  | some w, _ => (s, .ok (fillBytes w o n))
  | none, some l => (s, .ok (slice l (o - t.done) n))
  | none, none =>
    let c := t.hdr.ctx
    let s := s.walks (mMover t.mover) c errs false [(t.src + o, n)]
    match s.xlate (some (mMover t.mover)) c (t.src + o) n false with
    | .miss va pr => (s, .error (.miss o va false pr))
    | .denied a => (s.violation (mMover t.mover) 0 a false, .error (.stop fltXltMiss))
    | .pa a =>
      match s.eccRead (mMover t.mover) c errs a n with
      | (s, some _) => (s, .error (.stop fltMemUncorr))
      | (s, none) => (s, .ok (s.rd a n))

/-- The whole source of a mailbox transfer. -/
def State.xferSource (s : State) (t : Transfer) (errs : List MemErr) : List (Nat × Nat) → State × Except XEnd (List Byte)
  | [] => (s, .ok [])
  | (o, n) :: rest =>
    match s.xferBytes t errs none o n with
    | (s, .error x) => (s, .error x)
    | (s, .ok bs) =>
      match s.xferSource t errs rest with
      | (s, .error x) => (s, .error x)
      | (s, .ok l) => (s, .ok (bs ++ l))

/-- Move the pieces of a transfer, in order, until one faults; a destination in the remote window is posted (R398). -/
def State.moveXfer (s : State) (t : Transfer) (errs : List MemErr) (rem : Option (List Byte)) : List (Nat × Nat) → State × XEnd
  | [] => (s, .fin)
  | (o, n) :: rest =>
    let c := t.hdr.ctx
    match s.xferBytes t errs rem o n with
    | (s, .error x) => (s, x)
    | (s, .ok bs) =>
      match s.remoteFor c (t.dst + o) with
      | some peer => (s.remotePost peer (t.dst + o) bs).moveXfer t errs rem rest
      | none =>
        let s := s.walks (mMover t.mover) c errs true [(t.dst + o, n)]
        match s.xlate (some (mMover t.mover)) c (t.dst + o) n true with
        | .miss va pr => (s, .miss o va true pr)
        | .denied b => (s.violation (mMover t.mover) 0 b true, .stop fltXltMiss)
        | .pa b => if (s.eccPartial b n).isSome then (s, .stop fltMemUncorr) else (s.put b bs).moveXfer t errs rem rest

/-- The prefix of a mailbox transfer; its byte count counts the prefix too (R317, R330; log 59). -/
def mailPrefix (slot count : Nat) (bs : List Byte) : List Word := [wd slot, wd count, wd (16 + bs.length), crc32c bs]

/-- A mailbox transfer crosses the bridge; in SHADOW its prefix goes to the peer too (R317, R401). -/
def State.sendMail (s : State) (slot count : Nat) (bs : List Byte) : State :=
  let p := mailPrefix slot count bs
  let s := s.out 7 0 (bytesOf p ++ bs)
  if s.twin.state = twShadow then
    ((s.upTwin fun x => { x with prefixes := Tab.set x.prefixes count p }).out 5 0 (bytesOf p)).prefixCompare count
  else s

/-- Move what is left of a transfer (R189). A source in the remote window arrives as the operand `remote`, from the byte the
transfer has reached on; it is short where the peer's data is uncorrectable (R398). -/
def State.runXfer (s : State) (t : Transfer) (errs : List MemErr) (remote : List Byte) : State × XEnd :=
  let l := xferPieces t.src t.dst t.len (t.len / 2048 + 2) t.done
  if t.mailbox then
    match s.xferSource t errs (xferPieces t.src t.src t.len (t.len / 2048 + 2) 0), t.plan with
    | (s, .error x), _ => (s, x)
    | (s, .ok bs), some pl => (s.sendMail pl.1 pl.2.2 bs, .fin)
    | (s, .ok _), none => (s, .fin)
  else
    match (if t.fill.isSome ∨ t.plan.isSome then none else s.remoteFor t.hdr.ctx t.src) with
    | some peer =>
      let s := s.remoteAsk peer (t.src + t.done) (t.len - t.done) 0
      if remote.length < t.len - t.done then (s, .stop fltMemUncorr) else s.moveXfer t errs (some remote) l
    | none => s.moveXfer t errs none l

/-- A mover takes its transfers one after the other: an earlier one stands at it, or it waits for a fault reply. -/
def State.xferWaits (s : State) (t : Transfer) : Bool :=
  t.stalled || (s.transfers.any fun u => u.mover == t.mover && decide (u.id < t.id))

/-- TRANSFER_COMPLETE. -/
def State.xferDone (s : State) (id : Nat) (errs : List MemErr) (remote : List Byte) : State :=
  match s.transfers.find? fun t => t.id == id with
  | none => s
  | some t =>
    let c := t.hdr.ctx
    if s.xferWaits t then s
    else
      match s.runXfer t errs remote with
      | (s, .fin) => (s.endXfer t 0 false).schedule
      | (s, .stop code) => (s.endXfer t code false).schedule
      | (s, .miss o va w pr) =>
        if s.ctxTT c then
          ((s.upXlt fun x => { x with cntStaticMiss := x.cntStaticMiss + 1 }).endXfer t fltXltMiss false).schedule
        else
          let s := s.notice c t.hdr { va := va, write := w, prot := pr, mover := true, unit := t.mover, job := t.id }
          (s.upXfer t.id fun u => { u with done := o, stalled := true }).schedule

/-- TRANSFER_COMPLETE. -/
def execTransferComplete (id : Nat) (errs : List MemErr) (remote : List Byte) (s : State) : Host.Outcome State Fault Refusal :=
  .next (s.xferDone id errs remote)

end Sys2Proof.Machine
end

