-- ==== Sys2Proof/Machine/JobPkt.lean ====
section
/-! DEFINITION. Job and fence packets (R73, R91, R94, R97 to R99, R312). -/

namespace Sys2Proof.Machine

/-! ### Armatures (R98) -/

/-- An entry of an armature descriptor: what is wrong with it, if anything, as status and detail0; a profile above 15 is
ST_FORMAT (R165). R98 and R135 give no refusal of a SCALE_STREAM address that is not 64-byte aligned: it is accepted, and the
blocks are read from that address on (DESIGN CHOICE, log 155). -/
def State.armBad (s : State) (c : Nat) (e : List Word) : Option (Nat × Word) :=
  let t := fld (wat e 0) 7 0
  let z := fun (w hi lo : Nat) => fld (wat e w) hi lo != 0
  if t = 1 then
    if z 0 15 11 || z 0 31 20 || z 1 31 8 || z 2 31 0 || z 3 31 0 || decide (15 < fld (wat e 1) 7 0) then some (stFormat, det 8 0)
    else if s.tst.movers.getLsbD (fld (wat e 0) 19 16) then some (stState, wd (s.ctxCode c))
    else none
  else if t = 2 then
    if z 0 31 11 || z 1 31 16 || z 3 31 28 then some (stFormat, det 8 0) else none
  else if t = 3 then
    if s.ctxTT c || z 0 31 8 || z 1 11 0 || z 2 31 16 || z 3 31 20 then some (stFormat, det 8 0)
    else if fld (wat e 3) 19 0 = 0 ∨ 1048574 < fld (wat e 3) 19 0 then some (stRange, det 8 0)
    else none
  else some (stFormat, det 8 0)

/-- The entries of the armature at an address, or the refusal. A descriptor whose entries field is 0 or whose version is not 1
is refused with ST_FORMAT, which R98's list of cases does not give (DESIGN CHOICE, log 156). -/
def State.armature (s : State) (c va : Nat) : Except Refuse (List (List Word)) :=
  match s.vrd none c va 16 with
  | .error _ => .error (stRange, det 8 0, 0)
  | .ok hb =>
    let h := wordsOf hb
    let n := fld (wat h 0) 15 0
    if n = 0 ∨ 1022 < n ∨ fld (wat h 0) 31 16 ≠ 1 ∨ wat h 1 ≠ 0 ∨ wat h 2 ≠ 0 ∨ wat h 3 ≠ 0 then .error (stFormat, det 8 0, 0)
    else
      match s.vrd none c (va + 16) (16 * n) with
      | .error _ => .error (stRange, det 8 0, 0)
      | .ok bs =>
        let es := chunks 4 n (wordsOf bs)
        match (List.range n).findSome? fun i => (s.armBad c (es.getD i [])).map fun r => (r.1, r.2, wd i) with
        | some r => .error r
        | none => .ok es

/-- Route slots as an armature leaves them. -/
def armRoutes (l : List (Nat × RouteBind)) (es : List (List Word)) : List (Nat × RouteBind) :=
  es.foldl (fun l e =>
    if fld (wat e 0) 7 0 = 1 then
      Tab.set l (fld (wat e 0) 10 8) { bound := true, mover := fld (wat e 0) 19 16, profile := fld (wat e 1) 7 0 }
    else l) l

/-- Scale-stream slots as an armature leaves them. -/
def armScales (l : List (Nat × ScaleBind)) (es : List (List Word)) : List (Nat × ScaleBind) :=
  es.foldl (fun l e =>
    if fld (wat e 0) 7 0 = 2 then
      Tab.set l (fld (wat e 0) 10 8)
        { stream := fld (wat e 1) 15 0, va := (wat e 2).toNat + 2 ^ 32 * fld (wat e 3) 15 0, first := fld (wat e 3) 27 16 }
    else l) l

/-! ### Jobs -/

/-- A checked job joins the queue of its context on its engine. -/
def State.queueJob (s : State) (p : Packet) (e : Nat) (cmds : List (List Word)) : State :=
  let c := p.hdr.ctx
  let j : Job := { hdr := p.hdr, ctx := c, tag := p.w 7, cmds := cmds, taken := s.now, route := s.jobRoutes c (!p.hdr.expert) }
  ((s.setJobs c e (s.jobsOf c e ++ [j])).storeCmds cmds.length).schedule

/-- JOB_SUBMIT (R73, R97, R98). A list of which a page is not mapped is refused with ST_RANGE naming word 4, its address; R73
names no status for it (DESIGN CHOICE, log 157). -/
def jobSubmit (p : Packet) (s : State) : Ans :=
  let c := p.hdr.ctx
  if s.waitsFor p c then .hold
  else
    ownThenState (s.ctxCode c) [0x20, 0x21, 0x22] <|
      match (if p.hdr.expert then s.armature c ((p.w 8).toNat + 2 ^ 32 * p.f 9 15 0) else .ok []) with
      | .error r => .ofRefuse r
      | .ok es =>
        let rt := armRoutes (s.ctx c).routes es
        let sc := armScales (s.ctx c).scales es
        match s.readList c ((p.w 4).toNat + 2 ^ 32 * p.f 5 15 0) (p.f 6 19 0) with
        | none => .refuse stRange (det 4 0)
        | some cmds =>
          match s.checkList { ctx := c, allRoutes := !p.hdr.expert, routes := rt, scales := sc } cmds with
          | .error r => .ofRefuse r
          | .ok e =>
            match s.maskedFence c (listFences cmds) with
            | some st => .refuse stState (wd st)
            | none =>
              refuseIf (decide (32 ≤ (s.jobsOf c e).length)) stNospace 0 <|
                .pend p.hdr.no 0 0 fun s => (s.upCtx c fun x => { x with routes := rt, scales := sc }).queueJob p e cmds

/-- JOB_SUBMIT. -/
def execJobSubmit (k : Nat) (s : State) : Host.Outcome State Fault Refusal := runPacket 0x300 k jobSubmit s

/-- The oldest unfinished job of a context with a tag: its engine and the job (R97). -/
def State.taggedJob (s : State) (c : Nat) (tag : Word) : Option (Nat × Job) :=
  let l := (engNos.flatMap fun e => (s.jobsOf c e).map fun j => (e, j)).filter fun p => p.2.tag == tag
  leastBy (fun p => p.2.hdr.no * 4 + p.2.listNo) l

/-- JOB_CANCEL: issue stops at once; the job ends when its commands in flight have (R94). -/
def jobCancel (p : Packet) (s : State) : Ans :=
  let c := p.hdr.ctx
  needState (s.ctxCode c) [0x20, 0x21, 0x22, 0x23] <|
    match s.taggedJob c (p.w 4) with
    | none => .refuse stRange (det 4 0)
    | some (e, j) =>
      let mark := fun (k : Job) => if k.hdr.no = j.hdr.no ∧ k.listNo = j.listNo then { k with cancel := true } else k
      let s := (s.setJobs c e ((s.jobsOf c e).map mark)).sweep c e
      .done (s.afterJobs c e) {}

/-- JOB_CANCEL. -/
def execJobCancel (k : Nat) (s : State) : Host.Outcome State Fault Refusal := runPacket 0x301 k jobCancel s

/-- State of a queued or running job (R97). -/
def State.jobState (s : State) (e : Nat) (j : Job) : Nat :=
  if ¬ j.started then 0 else if s.qFault j.ctx e then 2 else 1

/-- A job's state and its record (R97, R99): unfinished, else the most recent finished one with the tag. -/
def State.jobFacts (s : State) (c : Nat) (tag : Word) : Option (Nat × List Word) :=
  match s.taggedJob c tag with
  | some (e, j) => some (s.jobState e j, j.stats.words)
  | none => ((s.ctx c).done.find? fun d => d.tag == tag).map fun d => (if d.stopped then 4 else 3, d.stats)

/-- JOB_QUERY. -/
def jobQuery (p : Packet) (s : State) : Ans :=
  match s.jobFacts p.hdr.ctx (p.w 4) with
  | none => .refuse stRange (det 4 0)
  | some (st, ws) => .done s { lo := wd st, hi := wat ws 0 }

/-- JOB_QUERY. -/
def execJobQuery (k : Nat) (s : State) : Host.Outcome State Fault Refusal := runPacket 0x302 k jobQuery s

/-- JOB_STATS: the record goes to the host, then the reply. -/
def jobStats (p : Packet) (s : State) : Ans :=
  match s.jobFacts p.hdr.ctx (p.w 4) with
  | none => .refuse stRange (det 4 0)
  | some (_, ws) => .done (s.wrHost (p.a 5) (bytesOf ws)) { lo := wat ws 0 }

/-- JOB_STATS. -/
def execJobStats (k : Nat) (s : State) : Host.Outcome State Fault Refusal := runPacket 0x303 k jobStats s

/-! ### Fence packets -/

/-- FENCE_SIGNAL: legal in every context state except SCRUBBING, subject to R312. -/
def fenceSignal (p : Packet) (s : State) : Ans :=
  let c := p.hdr.ctx
  let k := p.f 4 3 0
  needState (s.ctxCode c) [0x20, 0x21, 0x22, 0x23] <|
    match s.maskedFence c [k] with
    | some st => .refuse stState (wd st)
    | none => .done (((s.signal c k (p.f 4 8 8 == 1) (p.w 5)).1.wake 200 c).schedule) {}

/-- FENCE_SIGNAL. -/
def execFenceSignal (k : Nat) (s : State) : Host.Outcome State Fault Refusal := runPacket 0x310 k fenceSignal s

/-- FENCE_WAIT: the final reply comes when the counter reaches the target. -/
def fenceWait (p : Packet) (s : State) : Ans :=
  let c := p.hdr.ctx
  let k := p.f 4 3 0
  needState (s.ctxCode c) [0x20, 0x21, 0x22, 0x23] <|
    match s.maskedFence c [k] with
    | some st => .refuse stState (wd st)
    | none => .pend k k (p.w 5).toNat fun s => s.wakePackets c

/-- FENCE_WAIT. -/
def execFenceWait (k : Nat) (s : State) : Host.Outcome State Fault Refusal := runPacket 0x311 k fenceWait s

end Sys2Proof.Machine
end

