-- ==== Sys2Proof/Machine/Vec.lean ====
section
/-! DEFINITION. VECTOR (R87, R117 to R119, R129 to R132). -/

namespace Sys2Proof.Machine

/-- The smaller, -0 below +0; NaN where either is one (as R119 orders the larger). -/
def fMin (a b : Word) : Word :=
  if fIsNan a ∨ fIsNan b then fNan
  else if fLt a b then a
  else if fLt b a then b
  else if bit a 31 then a else b

/-- Function code of a VECTOR. -/
def vFn (c : List Word) : Nat := cf c 0 23 16
/-- Rows. -/
def vRows (c : List Word) : Nat := cf c 4 15 0
/-- Columns. -/
def vCols (c : List Word) : Nat := cf c 4 31 16
/-- Round mode. -/
def vMode (c : List Word) : Nat := cf c 9 3 0

/-- Codes of `n` elements of the operand at word `w`, row `r` at the stride of word `st`. -/
def State.vecRow (s : State) (x : Cx) (w st r n : Nat) : List Nat :=
  let f := tF x.cmd w
  codesOf f n (s.clRd x.e (tH x.cmd w) (64 * (tO x.cmd w + r * st)) (rowBytes f n))

/-- Row `r` of A. -/
def State.vecA (s : State) (x : Cx) (r : Nat) : List Nat := s.vecRow x 1 (cf x.cmd 5 17 0) r (vCols x.cmd)

/-- Row `r` of B as FP32, one value for each column of A (BROW and BCOL repeat what there is). -/
def State.vecB (s : State) (x : Cx) (r : Nat) : List Word :=
  let r := if cb x.cmd 9 5 then 0 else r
  let n := if cb x.cmd 9 6 then 1 else vCols x.cmd
  let l := (s.vecRow x 2 (cf x.cmd 6 17 0) r n).map fun k => toWord (decEl (tF x.cmd 2) k)
  if cb x.cmd 9 6 then List.replicate (vCols x.cmd) (l.headD 0) else l

/-- Functions of one element and one of B. -/
def vecBin (fn mode : Nat) : Word → Word → Word :=
  if fn = 1 then fAdd mode else if fn = 2 then fSub mode else if fn = 3 then fMul mode else if fn = 4 then fMax else fMin

/-- Functions of one element. -/
def vecUn (fn mode : Nat) (imm w : Word) : Word :=
  if fn = 0x08 then fAdd mode w imm
  else if fn = 0x09 then fMul mode w imm
  else if fn = 0x10 then fRelu w
  else if fn = 0x11 then fGelu mode w
  else if fn = 0x12 then fSilu mode w
  else if fn = 0x13 then fExp mode w
  else if fn = 0x14 then fTanh mode w
  else if fn = 0x15 then fSigmoid mode w
  else if fn = 0x16 then fRsqrt mode w
  else fRecip mode w

/-- MAX_ROW and ABSMAX_ROW of a row (R119). -/
def vecRed (fn : Nat) (l : List Word) : Word :=
  if fn = 0x21 then (l.drop 1).foldl fMax (l.headD 0)
  else l.foldl (fun a w => fMax a (fAbs w)) 0

/-- A VECTOR with FP32 row sums, which a RELAXED context may split across engines (R119, R124). -/
def vecSums (c : List Word) : Bool := [0x20, 0x28, 0x29, 0x2A].contains (vFn c)

/-- The row sums of a command are split across engines: a choice of a RELAXED context, after which R119 does not bind them
and each is a free word (R124). -/
def State.splitSums (s : State) (x : Cx) : Bool := vecSums x.cmd && (s.ctx x.c).relaxed && decide (0 < x.env.relaxed)

/-- Sum number `k` of row `r`: by the canonical tree, or free where the sums are split. -/
def State.rowSum (s : State) (x : Cx) (r k : Nat) (l : List Word) : Word :=
  if s.splitSums x then canonWord (Config.freeWord (s.free + 2 * r + k)) else treeSum (vMode x.cmd) l

/-- The maximum and the sums of a row on which RMSNORM, LAYERNORM and SOFTMAX_ROW rest, in the order they are formed (R119).
RMSNORM has one sum, LAYERNORM two, SOFTMAX_ROW the row's maximum and a sum; what each element adds is open (log 77). -/
def State.normSums (s : State) (x : Cx) (r : Nat) (a : List Word) : List Word :=
  let w := vFn x.cmd - 0x28
  let sum := fun k before => s.rowSum x r k (a.map fun e => Config.normTerm w (vMode x.cmd) a.length e before)
  if w = 2 then
    let top := (a.drop 1).foldl fMax (a.headD 0)
    [top, sum 0 [top]]
  else
    let one := sum 0 []
    if w = 1 then [one, sum 1 [one]] else [one]

/-- The FP32 results of a row of the functions whose result is a row of FP32 values before the last conversion. LAYERNORM's
gain is row 0 of B and its bias the row at b_stride after it; R87 says only that B holds both (DESIGN CHOICE, log 158). -/
def State.vecVals (s : State) (x : Cx) (r : Nat) : List Word :=
  let c := x.cmd
  let fn := vFn c
  let m := vMode c
  let a := (s.vecA x r).map fun k => toWord (decEl (tF c 1) k)
  if fn = 0x28 ∨ fn = 0x29 ∨ fn = 0x2A then
    let g := fun row => (s.vecRow x 2 (cf c 6 17 0) row (vCols c)).map fun k => toWord (decEl (tF c 2) k)
    let gain := if fn = 0x2A then [] else g 0
    let bias := if fn = 0x29 then g 1 else []
    let sums := s.normSums x r a
    (List.range (vCols c)).map fun i =>
      Config.normOut (fn - 0x28) m (vCols c) [wat a i, cw c 8, wat gain i, wat bias i] sums
  else if fn = 0x20 then [s.rowSum x r 0 a]
  else if fn = 0x21 ∨ fn = 0x22 then [vecRed fn a]
  else if 1 ≤ fn ∧ fn ≤ 5 then List.zipWith (vecBin fn m) a (s.vecB x r)
  else a.map (vecUn fn m (cw c 8))

/-- Write the codes of row `r` of D, and its absolute maximum where STATS asks for it. -/
def State.vecPut (s : State) (x : Cx) (r : Nat) (l : List Nat) : State :=
  let c := x.cmd
  let f := tF c 3
  let s := s.clWr x.e (tH c 3) (64 * (tO c 3 + r * cf c 7 17 0)) (packCodes f l)
  if cb c 9 4 ∧ vFn c ≠ 0x30 then s.clWr x.e (tH c 10) (64 * tO c 10 + 4 * r) (wordBytes (rowAbsMax f l)) else s

/-! ### QUANT_ROW and DEQUANT (R129 to R132) -/

/-- Q of a code format. -/
def quantQ (f : Nat) : Nat := if f = 4 then 127 else if f = 1 then 7 else 6

/-- The scale of a row whose largest magnitude is `m` with clip ratio `clip` (R130), a BF16 code. -/
def quantScale (f : Nat) (clip m : Word) : Nat :=
  match fv clip, fv m with
  | .fin _ a d, .fin _ b e =>
    if b = 0 then 0x3F80 else max 0x0080 (fBF16.round 2 false (a * b) (quantQ f) (d + e))
  | _, _ => 0x3F80

/-- The code of `x / s` (R131). -/
def quantCode (f mode : Nat) (x : FV) (s : Nat) : Nat :=
  match x, fBF16.dec s with
  | .fin neg m e, .fin _ n d =>
    if m = 0 ∨ n = 0 then (if f = 2 ∧ mode = 3 then 8 else 0)
    else if f = 2 then fFP4.round mode neg m n (e - d)
    else
      let k := e - d
      let v := if 0 ≤ k then roundQuot mode neg (m * 2 ^ k.toNat) n else roundQuot mode neg m (n * 2 ^ (-k).toNat)
      let v : Int := (min v (quantQ f) : Nat)
      ((if neg then -v else v) % 2 ^ fmtBits f).toNat
  | _, _ => 0

/-- QUANT_ROW of one row. -/
def State.quantRow (s0 : State) (x : Cx) (s : State) (r : Nat) : State :=
  let c := x.cmd
  let f := tF c 3
  let xs := (s0.vecA x r).map (decEl (tF c 1))
  let m := xs.foldl (fun a v => fMax a (fAbs (toWord v))) 0
  let sc := quantScale f (cw c 8) m
  let s := s.vecPut x r (xs.map fun v => quantCode f (vMode c) v sc)
  let s := s.clWr x.e (tH c 11) (64 * tO c 11 + 2 * r) (natBytes 2 sc)
  if cb c 9 4 then s.clWr x.e (tH c 10) (64 * tO c 10 + 4 * r) (wordBytes m) else s

/-- QUANT_ROW. A row with a NaN or an infinity is not written, nor its scale, and the job stops. -/
def quantBody (x : Cx) (s : State) : Res :=
  let c := x.cmd
  let bad := (List.range (vRows c)).filter fun r => (s.vecA x r).any fun k => !(decEl (tF c 1) k).isFin
  if bad.isEmpty then .ok ((List.range (vRows c)).foldl (s.quantRow x) s)
  else .fault s fltOperand (.bytes (bad.map fun r => (3, r)) (bad.map fun r => (tH c 11, 64 * tO c 11 + 2 * r, 2)))

/-- The scale of row `r` at scl. -/
def State.sclOf (s : State) (x : Cx) (r : Nat) : Nat :=
  leNat (s.clRd x.e (tH x.cmd 11) (64 * tO x.cmd 11 + 2 * r) 2)

/-- DEQUANT (R132, R104). -/
def dequantBody (x : Cx) (s : State) : Res :=
  let c := x.cmd
  let bad := (List.range (vRows c)).filter fun r => !scaleOk (s.sclOf x r)
  if bad.isEmpty then
    .ok ((List.range (vRows c)).foldl (fun t r =>
      let sc := fBF16.dec (s.sclOf x r)
      t.vecPut x r ((s.vecA x r).map fun k => encEl (tF c 3) (vMode c) ((decEl (tF c 1) k).mul sc))) s)
  else .fault s fltOperand (.rows (bad.map fun r => (3, r)))

/-! ### GATHER_ROW and TOPK_ROW -/

/-- A value that is a whole number from 0 up. -/
def wholeOf (v : FV) : Option Nat :=
  match v with
  | .fin neg m e =>
    if neg ∧ m ≠ 0 then none
    else if 0 ≤ e then some (m * 2 ^ e.toNat)
    else if m % 2 ^ (-e).toNat = 0 then some (m / 2 ^ (-e).toNat) else none
  | _ => none

/-- Codes of `n` elements of a format whose values the spec does not state: a fixed function of what they depend on (R106,
R123). -/
def openCodes (f n case : Nat) (on : List Nat) : List Nat :=
  (List.range n).map fun i => canonCode f ((Config.openWord case on i).toNat % 2 ^ fmtBits f)

/-- GATHER_ROW: row `r` of D is row B[r] of A, converted. The indices stand in one row of B, in its VU format, and are read as
whole numbers; R87 says only that B holds row indices (DESIGN CHOICE, log 159). An index that is no row of A's cleat has no
stated result: its row is open, and the same whenever the command and the index are (log 41). -/
def gatherBody (x : Cx) (s : State) : Res :=
  let c := x.cmd
  let ix := s.vecRow x 2 0 0 (vRows c)
  let size := (s.cleat x.e (tH c 1)).size
  .ok ((List.range (vRows c)).foldl (fun t r =>
    let k := ix.getD r 0
    let none' := openCodes (tF c 3) (vCols c) 0 [tF c 1, tF c 2, tF c 3, vMode c, k]
    match wholeOf (decEl (tF c 2) k) with
    | some i =>
      if tO c 1 + i * cf c 5 17 0 + cdiv (rowBytes (tF c 1) (vCols c)) 64 ≤ size then
        t.vecPut x r ((s.vecA x i).map fun k => encEl (tF c 3) (vMode c) (decEl (tF c 1) k))
      else t.vecPut x r none'
    | none => t.vecPut x r none') s)

/-- A negative zero. -/
def FV.negZero : FV → Bool
  | .fin neg m _ => neg && m == 0
  | _ => false

/-- Below in the order of a row: by value, -0 below +0 (R119). -/
def FV.below (a b : FV) : Bool := a.lt b || (a.negZero && a.cmp b == some .eq && !b.negZero)

/-- Insert an element of a row into a list in falling order of value; where values are equal the earlier stands first. -/
def topIns (p : FV × Nat) : List (FV × Nat) → List (FV × Nat)
  | [] => [p]
  | q :: t => if q.1.below p.1 then p :: q :: t else q :: topIns p t

/-- The elements of a row in falling order of value, with their columns; +0 stands above -0 (R119). -/
def topOrder (l : List FV) : List (FV × Nat) :=
  (l.zip (List.range l.length)).foldl (fun a p => topIns p a) []

/-- One row of TOPK_ROW: k values padded to 4 bytes, then k indices as 32-bit numbers; R87 says only that D holds values and
indices (DESIGN CHOICE, log 160). The order among equal values, a row with a NaN, and what stands beyond the last column are
open, and the same whenever the command and the row are (log 42). -/
def State.topRow (s0 : State) (x : Cx) (s : State) (r : Nat) : State :=
  let c := x.cmd
  let f := tF c 3
  let k := (cw c 8).toNat
  let n := 4 * cdiv (rowBytes f k) 4
  let at' := 64 * (tO c 3 + r * cf c 7 17 0)
  let codes := s0.vecA x r
  let xs := codes.map (decEl (tF c 1))
  let on := tF c 1 :: f :: vMode c :: k :: codes
  let open' := fun i => Config.openWord 2 on i
  let stat := fun (s : State) v => if cb c 9 4 then s.clWr x.e (tH c 10) (64 * tO c 10 + 4 * r) (wordBytes v) else s
  let s := s.clWr x.e (tH c 3) at' (slice (packCodes f (openCodes f k 1 on)) 0 n ++ bytesOf ((List.range k).map open'))
  if xs.any FV.isNan then stat s (canonWord (open' k))
  else
    let o := (topOrder xs).take k
    let vs := o.map fun p => encEl f (vMode c) p.1
    let s := s.clWr x.e (tH c 3) at' (packCodes f vs)
    let s := ((List.range o.length).zip o).foldl (fun t p =>
      if (xs.filter fun v => v.cmp p.2.1 == some .eq).length = 1 then
        t.clWr x.e (tH c 3) (at' + n + 4 * p.1) (natBytes 4 p.2.2)
      else t) s
    stat s (if xs.length < k then canonWord (open' k) else rowAbsMax f vs)

/-- The effect of a VECTOR: every operand is read before anything is written. -/
def vecBody (x : Cx) (s : State) : Res :=
  let c := x.cmd
  let fn := vFn c
  let rows := List.range (vRows c)
  if fn = 0x30 then quantBody x s
  else if fn = 0x31 then dequantBody x s
  else if fn = 0x38 then gatherBody x s
  else if fn = 0x3A then .ok (rows.foldl (s.topRow x) s)
  else if fn = 0 then
    .ok (rows.foldl (fun t r => t.vecPut x r ((s.vecA x r).map fun k => encEl (tF c 3) (vMode c) (decEl (tF c 1) k))) s)
  else
    let t := rows.foldl (fun t r => t.vecPut x r ((s.vecVals x r).map fun w => encEl (tF c 3) (vMode c) (fv w))) s
    .ok (if s.splitSums x then { t with free := t.free + 2 * vRows c } else t)

/-- VECTOR. -/
def execVector (e : Fin 8) (q : Fin 5) (i : Nat) (env : Env) (s : State) : Host.Outcome State Fault Refusal :=
  runCommand opVec e q i env vecBody s

end Sys2Proof.Machine
end

