-- ==== Sys2Proof/Machine/Attn.lean ====
section
/-! DEFINITION. KV_APPEND, the append path and ATTENTION (R84, R86, R120, R234 to R238). -/

namespace Sys2Proof.Machine

/-! ### The step a command belongs to -/

/-- The words a sequence table entry holds (R233). -/
def StepEntry.words (e : StepEntry) : List Word :=
  [wd (e.seq + 2 ^ 16 * e.bucket), wd e.epoch, wd e.base, wd (e.rowStart + 2 ^ 16 * e.rows), wd e.firstPos, 0, 0, 0]

/-- Entry `i` of the table at the TOW of word `w`. -/
def State.tabEntry (s : State) (x : Cx) (w i : Nat) : List Word :=
  wordsOf (s.clRd x.e (tH x.cmd w) (64 * tO x.cmd w + 32 * i) 32)

/-- A table entry as a pointer (R233, R236): FLT_EPOCH_STALE where its sequence is none of the step's or its epoch is not
its sequence's, FLT_OPERAND where another field is not the step's own. `es` are the step's entries, `e` the one in that
place. -/
def State.entryBad (s : State) (es : List StepEntry) (ws : List Word) (e : StepEntry) : Option Nat :=
  let n := fld (wat ws 0) 11 0
  let q := s.seq n
  if ¬ q.present ∨ ¬ es.any (fun f => f.seq == n) ∨ wd q.epoch ≠ wat ws 1 then some fltEpochStale
  else if ws ≠ e.words then some fltOperand else none

/-- The running step of a job. -/
def State.stepOf (s : State) (j : Job) : Option Step :=
  match j.step with
  | some n => let x := s.step n; if x.present then some x else none
  | none => none

/-- Stop with FLT_EPOCH_STALE: counted, nothing read or written (R236, R247). -/
def Res.stale (s : State) : Res := .fault { s with kv := { s.kv with stale := s.kv.stale + 1 } } fltEpochStale

/-- The first fault of the table entries `l`, each a number in step order. -/
def State.entriesBad (s : State) (x : Cx) (w : Nat) (es : List StepEntry) (l : List Nat) : Option Nat :=
  l.findSome? fun i => s.entryBad es (s.tabEntry x w i) (es.getD i {})

/-! ### Appending rows (R234 to R236) -/

/-- What an append is to do: which rows' place, the layer, keys or values, and the round mode. -/
structure AppendTo where
  /-- Layer. -/
  layer : Nat
  /-- 0 keys, 1 values. -/
  which : Nat
  /-- Round mode. -/
  mode : Nat

/-- The run-time conditions of an append of `kv`, the words of a KV_APPEND (R234). -/
def Step.appendOk (st : Step) (q : Seq) (kv : List Word) : Bool :=
  cf kv 3 16 8 == st.entries.length && st.entries.all (fun e => decide (e.rows ≤ cf kv 3 21 17)) &&
    decide (cf kv 3 7 0 < q.layers) && (cb kv 0 17 == (st.kind != 1))

/-- The entry that holds step row `r`. -/
def Step.rowEntry (st : Step) (r : Nat) : Option StepEntry :=
  st.entries.find? fun e => decide (e.rowStart ≤ r ∧ r < e.rowStart + e.rows)

/-- Bytes of a KV row and, for INT8, of its scales, from values: none where a head holds a NaN or an infinity that INT8
cannot hold (R131, R235). -/
def kvEncode (q : Seq) (mode : Nat) (vals : List FV) : Option (List Byte × List Byte) :=
  if q.fmt = 4 then
    let heads := chunks q.hdim q.kvh vals
    if vals.any fun v => !v.isFin then none
    else
      let sc := heads.map fun h => quantScale 4 fOne (h.foldl (fun a v => fMax a (fAbs (toWord v))) 0)
      some ((List.zip heads sc).flatMap fun p => p.1.flatMap fun v => natBytes 1 (quantCode 4 mode v p.2), sc.flatMap (natBytes 2))
  else some (packCodes q.fmt (vals.map (encEl q.fmt mode)), [])

/-- Write step row `r` to its place: the page bytes, or the fault. -/
def State.appendRow (s : State) (x : Cx) (st : Step) (a : AppendTo) (r : Nat) (row : List Byte × List Byte) : Except (State × Nat) State :=
  match st.rowEntry r with
  | none => .error (s, fltOperand)
  | some e =>
    let q := s.seq e.seq
    let pos := e.firstPos + (r - e.rowStart)
    match q.pageAt a.layer pos with
    | none => .error (s, fltOperand)
    | some g =>
      let pa := s.pagePa g.entry
      if (s.dir g.entry).epoch ≠ g.epoch then .error ({ s with kv := { s.kv with stale := s.kv.stale + 1 } }, fltEpochStale)
      else if ¬ s.allowed (mEngine x.e) 0 pa q.page true then .error (s.violation (mEngine x.e) 0 pa true, fltXltMiss)
      else if (s.eccPartials [(pa + q.rowOff a.which (pos % 64), row.1.length), (pa + q.sclOff a.which (pos % 64), row.2.length)]).isSome then
        .error (s, fltMemUncorr)
      else
        let s := s.put (pa + q.rowOff a.which (pos % 64)) row.1
        .ok (if q.fmt = 4 then s.put (pa + q.sclOff a.which (pos % 64)) row.2 else s)

/-- Write every row. -/
def State.appendRows (s : State) (x : Cx) (st : Step) (a : AppendTo) : Nat → List (List Byte × List Byte) → Except (State × Nat) State
  | _, [] => .ok s
  | r, b :: t =>
    match s.appendRow x st a r b with
    | .error f => .error f
    | .ok s => s.appendRows x st a (r + 1) t

/-- An append of rows of values under the words of a KV_APPEND (R234 to R236). `rows` gives the rows once the step is
known, or a fault. -/
def State.append (s : State) (x : Cx) (kv : List Word) (a : AppendTo) (rows : Step → Seq → Except Nat (List (List FV))) : Res :=
  match s.stepOf x.job with
  | none => .stale s
  | some st =>
    let q := s.seq ((st.entries.headD {}).seq)
    let y := { x with cmd := kv }
    match s.entriesBad y 2 st.entries (List.range (min (cf kv 3 16 8) st.entries.length)) with
    | some f => if f = fltEpochStale then .stale s else .fault s f
    | none =>
      if ¬ st.appendOk q kv then .fault s fltOperand
      else
        match rows st q with
        | .error f => .fault s f
        | .ok l =>
          let bs := l.map (kvEncode q a.mode)
          if bs.any Option.isNone then .fault s fltOperand
          else
            match s.appendRows x st a 0 (bs.map fun b => b.getD ([], [])) with
            | .ok s => .ok s
            | .error (s, f) => .fault s f

/-- A MATMUL with out = 1 or 2 sends its rows to the pages armed (R84, R234). -/
def State.serveAppend (s : State) (x : Cx) (rows : List (List FV)) : Res :=
  let o := cf x.cmd 14 1 0
  let k := (s.engine x.e).qs' x.q
  match k.armed with
  | none => .fault s fltOperand
  | some kv =>
    if (o = 1 ∧ k.servedK) ∨ (o = 2 ∧ k.servedV) then .fault s fltOperand
    else
      (s.append x kv { layer := cf kv 3 7 0, which := o - 1, mode := cf x.cmd 5 23 20 } fun st q =>
        if cf x.cmd 4 31 16 = q.kvh * q.hdim ∧ cf x.cmd 4 15 0 = st.total ∧ tF x.cmd 3 = q.fmt then .ok rows else .error fltOperand).andThen
        fun s => .ok (s.upQs x.e x.q fun k => if o = 1 then { k with servedK := true } else { k with servedV := true })

/-- The rows of a KV_APPEND with COPY = 1: in the KV format, or in FP32 for INT8. -/
def State.copyValues (s : State) (x : Cx) (st : Step) (q : Seq) : Except Nat (List (List FV)) :=
  let c := x.cmd
  let f := tF c 1
  let n := q.kvh * q.hdim
  let stride := cf c 4 17 0
  if f ≠ (if q.fmt = 4 then 11 else q.fmt) then .error fltOperand
  else if (s.cleat x.e (tH c 1)).size < tO c 1 + (st.total - 1) * stride + cdiv (rowBytes f n) 64 then .error fltOperand
  else .ok ((List.range st.total).map fun r =>
    (codesOf f n (s.clRd x.e (tH c 1) (64 * (tO c 1 + r * stride)) (rowBytes f n))).map (decEl f))

/-- KV_APPEND: it arms the queue, or copies rows now. COPY has no round field: mode 0 (log 45). -/
def kvBody (x : Cx) (s : State) : Res :=
  if cb x.cmd 0 16 then
    s.append x x.cmd { layer := cf x.cmd 3 7 0, which := cf x.cmd 0 19 18, mode := 0 } (s.copyValues x)
  else if (s.stepOf x.job).isNone then .stale s
  else .ok (s.upQs x.e x.q fun k => { k with armed := some x.cmd, servedK := false, servedV := false })

/-- KV_APPEND. -/
def execKvAppend (e : Fin 8) (q : Fin 5) (i : Nat) (env : Env) (s : State) : Host.Outcome State Fault Refusal :=
  runCommand opKv e q i env kvBody s

/-! ### ATTENTION (R237, R238) -/

/-- The positions that the row at place `i` of an entry may read, ascending (R237). -/
def attnReads (c : List Word) (st : Step) (mask : Nat → Nat) (e : StepEntry) (tot i : Nat) : List Nat :=
  let p := e.firstPos + i
  let w := cf c 8 17 0
  (List.range (e.base + if cb c 0 18 then tot else 0)).filter fun t =>
    (decide (t < e.base) || st.kind != 2 || (mask i).testBit (t - e.base)) &&
      (!cb c 0 17 || decide (t ≤ p)) && (w == 0 || decide (p < t + w))

/-- One token of a layer as a command reads it: codes of keys or of values, and their scales by head. -/
def State.kvToken (s : State) (q : Seq) (layer which t : Nat) : List Nat × List Nat :=
  match q.pageAt layer t with
  | none => ([], [])
  | some g =>
    let pa := s.pagePa g.entry
    (codesOf q.fmt (q.kvh * q.hdim) (s.rd (pa + q.rowOff which (t % 64)) q.rowB),
      if q.fmt = 4 then (chunks 2 q.kvh (s.rd (pa + q.sclOff which (t % 64)) (2 * q.kvh))).map leNat else [])

/-- The physical pieces of a token. -/
def State.kvPieces (s : State) (q : Seq) (layer t : Nat) : List (Nat × Nat) :=
  match q.pageAt layer t with
  | none => []
  | some g =>
    let pa := s.pagePa g.entry
    [0, 1].flatMap fun w => (pa + q.rowOff w (t % 64), q.rowB) :: if q.fmt = 4 then [(pa + q.sclOff w (t % 64), 2 * q.kvh)] else []

/-- The code of a quotient of naturals times a power of two, rounded once to a format. -/
def quoCode (f mode : Nat) (neg : Bool) (m n : Nat) (e : Int) : Nat :=
  if f = 8 then
    let v := if 0 ≤ e then roundQuot mode neg (m * 2 ^ e.toNat) n else roundQuot mode neg m (n * 2 ^ (-e).toNat)
    let i : Int := if neg then -v else v
    ((if i < -32768 then -32768 else if 32767 < i then 32767 else i) % 65536).toNat
  else (fmtOf f).round mode neg m n e

/-- A quotient of exact values, rounded once to a format. -/
def quoRound (f mode : Nat) (a b : FV) : Nat :=
  match a, b with
  | .nan, _ => encEl f mode .nan
  | _, .nan => encEl f mode .nan
  | .inf _, .inf _ => encEl f mode .nan
  | .inf x, .fin y _ _ => encEl f mode (.inf (x != y))
  | .fin x _ _, .inf y => encEl f mode (.fin (x != y) 0 0)
  | .fin x m e, .fin y n d =>
    if n = 0 then encEl f mode (if m = 0 then .nan else .inf (x != y)) else quoCode f mode (x != y) m n (e - d)

/-- The exact product of q and k, with their scales (R114, R238). -/
def dotScore (fq fk mode : Nat) (qs ks : List Nat) (sq sk : Option Nat) : FV :=
  let r := (List.zip qs ks).foldl (fun (r : HoldRec) p => r.add false 1 (facOf fq p.1) (facOf fk p.2)) {}
  r.value mode (fmtL fq + fmtL fk) 0 (scaleFix sq) (scaleFix sk) none

/-- One query head of one row (R238): `toks` gives, for each position read, key codes and scale, value codes and scale. -/
def attnHead (c : List Word) (fk : Nat) (q : List Nat) (sq : Option Nat) (toks : List ((List Nat × Option Nat) × (List Nat × Option Nat))) :
    List Nat :=
  let mode := cf c 8 21 18
  let fo := tF c 2
  let hd := cf c 6 24 16
  if toks.isEmpty then List.replicate hd 0
  else
    let ss := toks.map fun t => toF mode ((fv (cw c 7)).mul (dotScore (tF c 1) fk mode q t.1.1 sq t.1.2))
    let m := (ss.drop 1).foldl fMax (ss.headD 0)
    let pf := if fmtBits fk = 8 then 6 else 10
    let ps := ss.map fun x => decEl pf (encEl pf mode (fv (fExp mode (fSub mode x m))))
    let den := treeSum mode (ps.map toWord)
    (List.range hd).map fun d =>
      let num := (List.zip ps toks).foldl (fun a t =>
        let v := (decEl fk (t.2.2.1.getD d 0))
        let v := match t.2.2.2 with
          | some k => v.mul (fBF16.dec k)
          | none => v
        a.add mode (t.1.mul v)) (zeroSum mode)
      quoRound fo mode num (fv den)

/-- One row of ATTENTION: the codes of O. -/
def State.attnRow (s : State) (x : Cx) (q : Seq) (r : Nat) (reads : List Nat) : List Nat :=
  let c := x.cmd
  let qh := cf c 6 7 0
  let kvh := cf c 6 15 8
  let hd := cf c 6 24 16
  let layer := cf c 5 23 16
  let n := rowBytes (tF c 1) (qh * hd)
  let qs := codesOf (tF c 1) (qh * hd) (s.clRd x.e (tH c 1) (64 * (tO c 1 + r * cdiv n 64)) n)
  let sq := if fmtScaled (tF c 1) then some (leNat (s.clRd x.e (tH c 9) (64 * tO c 9 + 2 * r) 2)) else none
  let toks := reads.map fun t => (s.kvToken q layer 0 t, s.kvToken q layer 1 t)
  (List.range qh).flatMap fun h =>
    let g := h * kvh / qh
    let part := fun (t : List Nat × List Nat) => ((t.1.drop (g * hd)).take hd, if q.fmt = 4 then some (t.2.getD g 0) else none)
    attnHead c q.fmt ((qs.drop (h * hd)).take hd) sq (toks.map fun t => (part t.1, part t.2))

/-- ATTENTION. -/
def attnBody (x : Cx) (s : State) : Res :=
  let c := x.cmd
  match s.stepOf x.job with
  | none => .stale s
  | some st =>
    let k := cf c 5 26 24
    let idx := (List.range st.entries.length).filter fun i => (st.entries.getD i {}).bucket == k
    let es := idx.map fun i => st.entries.getD i {}
    if es.isEmpty then .ok s
    else
      match s.entriesBad x 3 st.entries idx with
      | some f => if f = fltEpochStale then .stale s else .fault s f
      | none =>
        let qh := cf c 6 7 0
        let hd := cf c 6 24 16
        let layer := cf c 5 23 16
        let q0 := s.seq ((es.headD {}).seq)
        let nq := rowBytes (tF c 1) (qh * hd)
        let no := rowBytes (tF c 2) (qh * hd)
        let rows := es.flatMap fun e => (List.range e.rows).map fun i => (e, i)
        let top := es.foldl (fun a e => max a (e.rowStart + e.rows)) 0
        let bad := decide (cf c 5 8 0 < es.length) || cf c 5 13 9 != st.rows || (cb c 0 16 != (st.kind == 2)) ||
          cf c 6 15 8 != q0.kvh || hd != q0.hdim || decide (q0.layers ≤ layer) || (fmtInt (tF c 1) != (q0.fmt == 4)) ||
          decide ((s.cleat x.e (tH c 1)).size < tO c 1 + top * cdiv nq 64) ||
          decide ((s.cleat x.e (tH c 2)).size < tO c 2 + top * cdiv no 64) ||
          (fmtScaled (tF c 1) && decide ((s.cleat x.e (tH c 9)).size < tO c 9 + cdiv (2 * top) 64))
        if bad then .fault s fltOperand
        else
          let badScale := if fmtScaled (tF c 1) then
              rows.filter fun p => !scaleOk (leNat (s.clRd x.e (tH c 9) (64 * tO c 9 + 2 * (p.1.rowStart + p.2)) 2))
            else []
          if ¬ badScale.isEmpty then .fault s fltOperand (.rows (badScale.map fun p => (2, p.1.rowStart + p.2)))
          else
            let upset := rows.filter fun p => x.env.residue.contains (p.1.rowStart + p.2)
            if ¬ upset.isEmpty then .fault s fltResidue (.rows (upset.map fun p => (2, p.1.rowStart + p.2))) else
            let mask := fun i => if cb c 0 16 then leNat (s.clRd x.e (tH c 4) (64 * tO c 4 + 2 * i) 2) else 0
            let tot := fun (e : StepEntry) => sumN ((st.entries.filter fun f => f.seq == e.seq).map (·.rows))
            let work := rows.map fun p => (p.1, p.1.rowStart + p.2, attnReads c st mask p.1 (tot p.1) p.2)
            let seen := es.map fun e => (e, ((work.filter fun w => w.1 == e).flatMap (·.2.2)).eraseDups)
            let pages := seen.flatMap fun p => (p.2.map fun t => ((s.seq p.1.seq).pageAt layer t))
            if pages.any fun g => match g with
                | some g => (s.dir g.entry).epoch != g.epoch
                | none => true then .stale s
            else
              match pages.findSome? fun g => match g with
                  | some g => if s.allowed (mEngine x.e) 0 (s.pagePa g.entry) q0.page false then none else some (s.pagePa g.entry)
                  | none => none with
              | some pa => .fault (s.violation (mEngine x.e) 0 pa false) fltXltMiss (.rows [])
              | none =>
                match s.eccReads (mEngine x.e) x.c x.env.errs (seen.flatMap fun p => p.2.flatMap fun t => s.kvPieces (s.seq p.1.seq) layer t) with
                | (s, some a) => .uncorr s a
                | (s, none) =>
                  .ok (work.foldl (fun t w =>
                    t.clWr x.e (tH c 2) (64 * (tO c 2 + w.2.1 * cdiv no 64)) (packCodes (tF c 2) (s.attnRow x (s.seq w.1.seq) w.2.1 w.2.2))) s)

/-- ATTENTION. -/
def execAttention (e : Fin 8) (q : Fin 5) (i : Nat) (env : Env) (s : State) : Host.Outcome State Fault Refusal :=
  runCommand opAttn e q i env attnBody s

end Sys2Proof.Machine
end

