-- ==== Sys2Proof/Machine/Spu.lean ====
section
/-! DEFINITION. The SPU: scale blocks and their pairing with weight blocks (R133 to R146). -/

namespace Sys2Proof.Machine

/-- A scale block as read. -/
structure Block where
  /-- Its bytes. -/
  bs : List Byte
deriving DecidableEq, Repr, Inhabited

/-- Word `i` of a block. -/
def Block.w (b : Block) (i : Nat) : Word := wordAt b.bs (4 * i)
/-- Stream identity. -/
def Block.ident (b : Block) : Nat := fld (b.w 0) 15 0
/-- Block sequence number. -/
def Block.bsn (b : Block) : Nat := fld (b.w 0) 27 16
/-- Rows. -/
def Block.rows (b : Block) : Nat := fld (b.w 1) 6 0
/-- Length in 64-byte units. -/
def Block.len (b : Block) : Nat := fld (b.w 1) 13 8
/-- Side-list entries. -/
def Block.entries (b : Block) : Nat := fld (b.w 1) 26 16
/-- Scale of row `i`. -/
def Block.scale (b : Block) (i : Nat) : Nat := leNat (slice b.bs (16 + 2 * i) 2)
/-- Escapes of row `i`. -/
def Block.count (b : Block) (i : Nat) : Nat := leNat (slice b.bs (144 + i) 1)
/-- Side-list entry `i`. -/
def Block.side (b : Block) (i : Nat) : Nat := leNat (slice b.bs (208 + 2 * i) 2)

/-- Checks 2 to 6 of R140 for a weight block of `rows` rows of a format: the block breaks one of them. -/
def Block.bad (b : Block) (rows f : Nat) : Bool :=
  let n := min b.rows 64
  let cnt := (List.range 64).map b.count
  fld (b.w 0) 31 28 != 1 || fld (b.w 1) 7 7 != 0 || fld (b.w 1) 15 14 != 0 || fld (b.w 1) 31 27 != 0 || b.w 2 != 0 || b.w 3 != 0 ||
    (List.range 64).any (fun i => decide (n ≤ i) && (b.scale i != 0 || b.count i != 0)) ||
    ((b.bs.drop (208 + 2 * b.entries)).any (· != 0)) ||
    b.rows != rows || b.entries != sumN cnt || b.len != cdiv (208 + 2 * b.entries) 64 || cnt.any (fun k => decide (16 < k)) ||
    (f != 3 && b.entries != 0) ||
    (List.range rows).any (fun i => !scaleOk (b.scale i)) ||
    (List.range b.entries).any (fun i => !(fBF16.dec (b.side i)).isFin)

/-- The side lists of a block, row by row. -/
def Block.sides (b : Block) : Nat → Nat → List (List Nat)
  | _, 0 => []
  | at', n + 1 =>
    let i := b.rows - (n + 1)
    ((List.range (b.count i)).map fun k => b.side (at' + k)) :: b.sides (at' + b.count i) n

/-- Read stream bytes: from the peer where the address lies in the remote window (R398), else from memory. A read for which
the peer has no good data comes back uncorrectable (R146). -/
def State.spuRead (s : State) (x : Cx) (rem : List Byte) (va n : Nat) : Except Res (List Byte × State × List Byte) :=
  match s.remoteFor x.c va with
  | some _ => if rem.length < n then .error (.fault s fltMemUncorr (.rows [])) else .ok (rem.take n, s, rem.drop n)
  | none =>
    let s := s.walks (mEngine x.e) x.c x.env.errs false (pagesOf va n)
    match s.xlates (some (mEngine x.e)) x.c false (pagesOf va n) with
    | .error f => .error (xlRes s x false 0 f)
    | .ok l =>
      match s.eccReads (mEngine x.e) x.c x.env.errs l with
      | (s, some a) => .error (.uncorr s a)
      | (s, none) => .ok (l.flatMap fun p => s.rd p.1 p.2, s, rem)

/-- What the SPU has paired: scales and side lists by row of B, and its position. -/
structure Paired where
  /-- Scales. -/
  scales : List Nat := []
  /-- Side lists. -/
  sides : List (List Nat) := []
  /-- Position after the last block. -/
  pos : SpuPos := {}
deriving DecidableEq, Repr, Inhabited

/-- Pair blocks with weight blocks of the given rows, in order (R137, R138, R140, R141). A translation fault leaves the
position where it stands (R138): it moves when the last block has been paired. -/
def spuRun (x : Cx) (slot ident f : Nat) : List Nat → Paired → List Byte → State → Except Res (Paired × State)
  | [], p, _, s => .ok (p, s)
  | n :: t, p, rem, s =>
    match s.spuRead x rem p.pos.addr 256 with
    | .error r => .error r
    | .ok (h, s1, rem1) =>
      let b : Block := ⟨h⟩
      let more := if 4 < b.len ∧ b.len ≤ 36 then 64 * (b.len - 4) else 0
      match (if more = 0 then .ok ([], s1, rem1) else s1.spuRead x rem1 (p.pos.addr + 256) more) with
      | .error r => .error r
      | .ok (h2, s2, rem2) =>
        let b : Block := ⟨h ++ h2⟩
        if b.ident ≠ ident ∨ b.bsn ≠ p.pos.bsn then
          .error (.stop s2 fltScaleSkew
            { d1 := wd (p.pos.bsn + 2 ^ 16 * b.bsn + bitAt (b.ident != ident) 28 + 2 ^ 29 * slot)
              a0 := wd (ident + 2 ^ 16 * b.ident), a1 := wd (slot + 2 ^ 4 * x.e), a2 := wd x.i } (.rows []))
        else if b.bad n f then .error (.fault s2 fltOperand (.rows []))
        else
          spuRun x slot ident f t
            { scales := p.scales ++ (List.range n).map b.scale, sides := p.sides ++ b.sides 0 b.rows
              pos := { addr := p.pos.addr + 64 * b.len, bsn := (p.pos.bsn + 1) % 4096 } } rem2 s2

/-- Rows of the weight blocks of `n` rows of B (R137). -/
def weightBlocks (n : Nat) : List Nat := (List.range (cdiv n 64)).map fun j => min 64 (n - 64 * j)

/-- Pair every block of a command that names an SPU slot; `n` is its rows of B, `f` their format. The identity, and at a
job's first command the address and the first number, are those of the binding as it stands at that moment: of an armature
that binds the slot anew while an earlier job of the context is queued or running, R138 says nothing (DESIGN CHOICE, log
162). -/
def State.spuPair (s : State) (x : Cx) (slot n f : Nat) : Except Res (Paired × State) :=
  let k := (s.engine x.e).qs' x.q
  let bind : ScaleBind := (Tab.find (s.ctx x.c).scales slot).getD { stream := 0, va := 0, first := 0 }
  let pos := (Tab.find k.spu slot).getD { addr := bind.va, bsn := bind.first }
  match spuRun x slot bind.stream f (weightBlocks n) { pos := pos } x.env.remote s with
  | .error r => .error r
  | .ok (p, s) => .ok (p, s.upQs x.e x.q fun k => { k with spu := Tab.set k.spu slot p.pos })

end Sys2Proof.Machine
end

