-- ==== Sys2Proof/Machine/PlanImg.lean ====
section
/-! DEFINITION. The plan image and its checks (R304), the bound of a list's duration and its window (R306, R307), and the
migration of marked granules (R179). -/

namespace Sys2Proof.Machine

/-! ### The image (R304) -/

/-- A check of a launch point: it fails, the status, the word and the low bit. -/
abbrev PtChk := Chk

/-- A reserved field of a launch point. -/
def pz (p : List Word) (w hi lo : Nat) : PtChk := kF (fld (wat p w) hi lo != 0) w lo
/-- A field of a launch point with a range. -/
def pr (p : List Word) (w hi lo mn mx : Nat) : PtChk :=
  kR (decide (fld (wat p w) hi lo < mn ∨ mx < fld (wat p w) hi lo)) w lo
/-- A 48-bit address in words `w` and `w + 1` of a launch point. -/
def ptVa (p : List Word) (w : Nat) : Nat := (wat p w).toNat + 2 ^ 32 * fld (wat p (w + 1)) 15 0

/-- A launch point of a plan is a LIST point. -/
def isList (pts : List (List Word)) (i : Nat) : Bool := decide (i < pts.length) && ptKind (pts.getD i []) == 1

/-- Reserved fields of a launch point by kind. -/
def ptFmt (p : List Word) : List PtChk :=
  let k := ptKind p
  let all := fun (w : Nat) => pz p w 31 0
  [kF (k == 0 || k == 7) 1 0, pz p 1 3 3, pz p 1 31 20] ++
    (if k = 1 then
      [pz p 2 31 10, pz p 3 5 0, pz p 4 18 16, pz p 4 31 19, pz p 5 31 20] ++
        if bit (wat p 2) 3 then [pz p 6 31 29, pz p 6 28 25, pz p 7 31 18] else [all 6, all 7]
    else if k = 2 then
      [pz p 2 31 16, pz p 4 18 16, pz p 4 31 19] ++ (if bit (wat p 2) 4 then [all 5, all 6] else [pz p 6 18 16, pz p 6 31 19]) ++ [pz p 7 31 20]
    else if k = 3 then [pz p 2 31 5, all 3, all 4, all 5, all 6, all 7]
    else if k = 4 then [pz p 2 31 5, pz p 5 18 16, pz p 5 31 19, all 6, all 7]
    else if k = 5 then [pz p 2 31 3, all 3, all 4, all 5, all 6, all 7]
    else
      let wt := fld (wat p 2) 7 6
      [kF (wt == 3) 2 6, pz p 2 31 18] ++ (if wt = 0 then [pz p 2 17 8] else []) ++ (if wt = 2 then [] else [all 4]) ++
        [all 5, all 6, all 7])

/-- Ranges of a launch point by kind; addresses lie in the static map of the plan's context (R186). -/
def State.ptRng (s : State) (c period : Nat) (pts : List (List Word)) (p : List Word) : List PtChk :=
  let k := ptKind p
  let x := s.ctx c
  let st := s.stream (fld (wat p 2) 4 0)
  [kR (decide (period ≤ ptOfs p)) 0 0, pr p 1 11 4 1 254, kR (decide (ptDiv p ≤ ptRem p)) 1 12] ++
    (if k = 1 then
      let e := ptEngine p
      [kR (!(s.part x.part).mask.getLsbD e) 2 0, pr p 5 19 0 1 1048574,
       kR (!s.vmapped c (ptVa p 3) (64 * fld (wat p 5) 19 0) false) 3 0] ++
        if bit (wat p 2) 3 then
          [pr p 7 17 0 1 196608,
           (!s.owns c e (fld (wat p 6) 6 0), stAuth, 6, 0),
           kR (decide ((s.cleat e (fld (wat p 6) 6 0)).size < fld (wat p 6) 24 7 + fld (wat p 7) 17 0)) 6 7]
        else []
    else if k = 2 then
      let n := fld (wat p 7) 19 0
      let mb := bit (wat p 2) 4
      [kR (bit (wat p 2) 5 && !isList pts (fld (wat p 2) 15 6)) 2 6,
       kR (decide (n < 4 ∨ (if mb then 4096 else 1048572) < n ∨ n % 4 ≠ 0)) 7 0,
       kR (!s.vmapped c (ptVa p 3) (if mb then max 4 (n - 16) else n) false) 3 0, kR (!mb && !s.vmapped c (ptVa p 5) n true) 5 0]
    else if k = 3 then
      [kR (st.state == 0x40 || st.ctx != c ||
        !(st.source == 1 || (st.grouped && s.btLead { grp := true, i := st.group } == fld (wat p 2) 4 0))) 2 0]
    else if k = 4 then
      [kR (st.state == 0x40 || st.ctx != c) 2 0, kR (decide ((wat p 3).toNat < 1000 ∨ period ≤ (wat p 3).toNat)) 3 0,
       kR (!s.vmapped c (ptVa p 4) (max 1 st.rawBytes) false) 4 0]
    else if k = 5 then [kR (!(s.part x.part).mask.getLsbD (ptEngine p)) 2 0]
    else
      [kR (fld (wat p 2) 7 6 != 0 && !isList pts (fld (wat p 2) 17 8)) 2 8,
       kR (decide ((wat p 3).toNat < 1 ∨ period * ptDiv p < (wat p 3).toNat)) 3 0])

/-- Checks of the header; the context it names is aperture 0's own, like the packet (R46). -/
def State.planHead (s : State) (h : List Word) : List PtChk :=
  let c := fld (wat h 3) 7 0
  let x := s.ctx c
  [pz h 0 27 11, pz h 3 31 8, pz h 4 31 16] ++ (List.range 11).map (fun i => pz h (5 + i) 31 0) ++
    [pr h 0 10 0 1 1024, pr h 0 31 28 1 1, pr h 1 31 0 50000 1000000000, kR (decide ((wat h 1).toNat ≤ (wat h 2).toNat)) 2 0,
     kR (decide (63 < c) || !x.present || x.scrubbing || x.cls != 0 || !s.ctxTT c) 3 0, (x.client != 0, stAuth, 3, 0)]

/-- The first failing check, as a refusal with an index. -/
def chkAt (i : Nat) (l : List PtChk) : Option Refuse := (firstChk l).map fun r => (r.1, r.2, wd i)

/-- The first faulty launch point of an image for a slot in state `code`: an offset that descends, a reserved field, a range; a MOVER point that names a fenced
mover (R444). -/
def State.ptsBad (s : State) (c period code : Nat) (pts : List (List Word)) : Option Refuse :=
  (List.range pts.length).findSome? fun i =>
    let p := pts.getD i []
    match chkAt i (kF (decide (0 < i ∧ ptOfs p < ptOfs (pts.getD (i - 1) []))) 0 0 :: ptFmt p ++ s.ptRng c period pts p) with
    | some r => some r
    | none => if ptKind p = 2 ∧ s.tst.movers.getLsbD (fld (wat p 2) 3 0) then some (stState, wd code, wd i) else none

/-- Device memory that holds `n` bytes from a device physical address: PSM, the explicit part of the Commons, or host
memory (R161, R169, R182). PLAN_LOAD names no context, so its addresses are read as physical ones (R47, R305; log 52). -/
def State.imageAt (s : State) (a n : Nat) : Bool :=
  decide (a + n ≤ psmSize) || decide (commonsBase ≤ a ∧ a + n ≤ commonsBase + s.commons.x * 2 ^ 20) ||
    decide (hostBase ≤ a ∧ a + n ≤ hostBase + 2 ^ 47)

/-! ### Durations and windows (R306, R307) -/

/-- The duration of a command under R96 and R306, apart from waits. -/
def cmdUnits (allow : Nat) (buckets : List Nat) (c : List Word) : Nat :=
  let bytes := cf c 4 20 0 * cf c 5 15 0 * cf c 7 15 0
  let blocks := match spuSlot c with
    | some _ => if cOp c = opMat then (weightBlocks (cf c 4 31 16)).length else (weightBlocks (geo c).co).length
    | none => 0
  3072 * cmdCycles c + blocks * allow * durNs +
    if cOp c = opLoad then 5 * bytes + allow * durNs
    else if cOp c = opStore then 10 * bytes + allow * durNs
    else if cOp c = opAttn then attnUnits buckets c
    else 0

/-- A LIST point already reckoned: offset, div, rem, end of its window, its list. -/
structure PtWin where
  /-- Index. -/
  i : Nat
  /-- The launch point. -/
  pt : List Word
  /-- End of its window, ns after the period instant. -/
  fin : Nat
  /-- Its list. -/
  cmds : List (List Word)
deriving DecidableEq, Repr, Inhabited

/-- A point launches in every period in which another does. -/
def ptCovers (p q : List Word) : Bool := ptDiv q % max 1 (ptDiv p) == 0 && ptRem q % max 1 (ptDiv p) == ptRem p

/-- Insert by the end of the window. -/
def insWin (x : PtWin) : List PtWin → List PtWin
  | [] => [x]
  | y :: t => if x.fin ≤ y.fin then x :: y :: t else y :: insWin x t

/-- What a list's FENCE_SIGNAL commands, in their order, make of counter `k` that stands at `v`: its value after them, and the
largest on the way. -/
def signalsOf (k v : Nat) (cmds : List (List Word)) : Nat × Nat :=
  cmds.foldl (fun a c =>
    if cOp c = opFSig ∧ cf c 1 3 0 = k then
      let n := if cb c 0 16 then (cw c 2).toNat else a.1 + (cw c 2).toNat
      (n, max a.2 n)
    else a) (v, v)

/-- The end of the last window of those whose signals bring counter `k` from `v` to a target, earliest ends first (log 53). -/
def reachEnd (k target : Nat) : Nat → List PtWin → Option Nat
  | _, [] => none
  | v, x :: t =>
    let g := signalsOf k v x.cmds
    if target ≤ g.2 then some x.fin else reachEnd k target g.1 t

/-- The bound of a list's duration in units, and whether a FENCE_WAIT of it is unbounded (R306). -/
def listUnits (allow : Nat) (buckets : List Nat) (mask : BitVec 16) (pt : List Word) (before : List PtWin) (cmds : List (List Word)) :
    Nat × Bool :=
  let early := (before.filter fun x => decide (ptOfs x.pt < ptOfs pt) && ptCovers x.pt pt).foldr insWin []
  let r := cmds.foldl (fun (a : Nat × Bool) c =>
    if cOp c = opLWait ∧ ¬ cb c 0 16 then (max a.1 (durNs * (cw c 1).toNat), a.2)
    else if cOp c = opFWait then
      let k := cf c 1 3 0
      match (if mask.getLsbD k then reachEnd k (cw c 2).toNat 0 early else none) with
      | some t => (max a.1 (durNs * (t + 120 - ptOfs pt)), a.2)
      | none => (a.1, true)
    else (a.1 + cmdUnits allow buckets c, a.2)) (0, false)
  (r.1 + if bit (wat pt 2) 3 then 5 * (64 * fld (wat pt 7) 17 0) + 200 * durNs else 0, r.2)

/-- The allowance M of basic form (R305). -/
def basicM (units : Nat) : Nat := max 1000 (cdiv units (100 * durNs))

/-- Window of a LIST point (R307). -/
def listWin (units m : Nat) : Nat := cdiv ((units + m * durNs) * 2001) (2000 * durNs)

/-- Window of a SELFTEST point. -/
def testWin : Nat := 70035

/-- Window of a MOVER point of some bytes: 1,000 ns and the bytes at 24 GB/s. -/
def moverWin (bytes : Nat) : Nat := cdiv ((24000 + bytes) * 2001) (24 * 2000)

/-- The windows of the LIST points in order, and the first point with an unbounded FENCE_WAIT. -/
def planWins (allow : Nat) (buckets : List Nat) (mask : BitVec 16) (pts : List (List Word)) (lists : List (Nat × List (List Word)))
    (ms : Option (List Word)) : List (Nat × Nat) × Option Nat :=
  let r := lists.foldl (fun (a : List PtWin × List (Nat × Nat) × Option Nat) p =>
    let pt := pts.getD p.1 []
    let u := listUnits allow buckets mask pt a.1 p.2
    let m := match ms with
      | some l => (wat l p.1).toNat
      | none => basicM u.1
    let w := listWin u.1 m
    (a.1 ++ [{ i := p.1, pt := pt, fin := ptOfs pt + w, cmds := p.2 }], a.2.1 ++ [(p.1, w)],
     if u.2 then a.2.2.or (some p.1) else a.2.2)) ([], [], none)
  (r.2.1, r.2.2)

/-! ### Migration of marked granules (R179) -/

/-- A plan has a launch point on a partition: a list or a self-test on one of its engines. -/
def Plan.onPart (p : Plan) (mask : BitVec 8) : Bool :=
  p.points.any fun w => (ptKind w == 1 || ptKind w == 5) && mask.getLsbD (ptEngine w)

/-- Marked granules that mappings of a TT partition's contexts hold, in order. -/
def State.markedIn (s : State) (part : Nat) : List Nat :=
  let runs := (s.ctxs.filter fun c => c.2.present && c.2.part == part).flatMap fun c => c.2.maps.flatMap (·.runs)
  (s.psmc.granules.filter fun g => g.2.marked && !g.2.retired &&
    runs.any fun r => r.pieces.any fun w => decide (w.1 ≤ 4096 * g.1 ∧ 4096 * g.1 < w.1 + w.2)).map (·.1)

/-- Retired granules of a stack. -/
def State.retiredIn (s : State) (stack : Nat) : Nat := (s.psmc.granules.filter fun g => g.2.retired && g.1 % 6 == stack).length

/-- A free granule for a migration, of the same stack if one exists. -/
def State.spareGranule (s : State) (g : Nat) : Option Nat :=
  let gaps := s.psmGaps 63 true
  let same := gaps.findSome? fun p => let a := p.1 + (g % 6 + 6 - p.1 % 6) % 6; if a < p.2 then some a else none
  same.or (gaps.head?.map (·.1))

/-- The runs a run turns into as granule `g` of it moves to `t`: the page that holds it is split into 4 KiB entries. -/
def Run.move (r : Run) (g t : Nat) : List Run :=
  if r.stackSet = 63 then
    let o := 4096 * g - r.pa
    let pg := pageBytes r.page
    let lo := o / pg * pg
    [{ r with len := lo }, { r with va := r.va + lo, pa := r.pa + lo, len := o - lo, page := 0 },
     { r with va := r.va + o, pa := 4096 * t, len := 4096, page := 0 },
     { r with va := r.va + o + 4096, pa := r.pa + o + 4096, len := lo + pg - o - 4096, page := 0 },
     { r with va := r.va + lo + pg, pa := r.pa + lo + pg, len := r.len - lo - pg }].filter fun q => q.len ≠ 0
  else
    (List.range (r.len / 4096)).map fun i =>
      { r with va := r.va + 4096 * i, pa := if r.at (4096 * i) = 4096 * g then 4096 * t else r.at (4096 * i), len := 4096, stackSet := 63 }

/-- A run holds a granule. -/
def Run.holds (r : Run) (g : Nat) : Bool := r.pieces.any fun w => decide (w.1 ≤ 4096 * g ∧ 4096 * g < w.1 + w.2)

/-- Move one granule of a partition's contexts: copied, mapped anew, retired. -/
def State.moveGranule (s : State) (part g t : Nat) : State :=
  let s := s.put (4096 * t) (s.rd (4096 * g) 4096)
  let old := ((s.ctxs.filter fun c => c.2.part == part).flatMap fun c => c.2.maps.flatMap (·.runs)).filter (·.holds g)
  let use := old.foldl (fun (l : List PsmUse) (r : Run) =>
    (l.filter fun u => ¬ (u.lo = r.pa / 4096 ∧ u.mask = r.stackSet)) ++
      (r.move g t).map fun q => { lo := q.pa / 4096, hi := (q.pa + q.len) / 4096
                                  owner := ((l.find? fun u => u.lo == r.pa / 4096).map (·.owner)).getD 0 }) s.psmUse
  let cs := s.ctxs.map fun (c : Nat × Ctx) =>
    if c.2.part = part then
      let maps := c.2.maps.map fun (m : Mapping) => { m with runs := m.runs.flatMap fun r => if r.holds g then r.move g t else [r] }
      (c.1, { c.2 with maps := maps })
    else c
  let x : Granule := Tab.get ({} : Granule) s.psmc.granules g
  let s := { s with psmUse := use, ctxs := cs }
  (s.upPsmc fun p => { p with granules := Tab.set p.granules g { x with marked := false, retired := true } }).saveGranules

/-- Migrate the granules of a list in order: those of a full stack stay; none where no granule is free, or the static map
is full (R179, R186). -/
def State.migrate (s : State) (part : Nat) : List Nat → Option State
  | [] => some s
  | g :: t =>
    if 1024 ≤ s.retiredIn (g % 6) then s.migrate part t
    else
      match s.spareGranule g with
      | none => none
      | some d =>
        let s := s.moveGranule part g d
        if 8192 < s.staticUsed part then none else s.migrate part t

end Sys2Proof.Machine
end

