-- ==== Sys2Proof/Machine/Admit.lean ====
section
/-! DEFINITION. Admission of sail plans and the plan packets (R305, R308 to R310, R313, R314). -/

namespace Sys2Proof.Machine

/-! ### The timeline (R308) -/

/-- An interval on the timeline of an engine, a mover, a stream or a monitor. -/
structure Ival where
  /-- Start in [0, H). -/
  t : Nat
  /-- Length. -/
  len : Nat
  /-- Plan slot. -/
  slot : Nat
  /-- Launch point. -/
  pt : Nat
deriving DecidableEq, Repr, Inhabited

/-- Plans on a timeline: this one in its slot and those that run in the others. -/
def State.planSet (s : State) (slot : Nat) (p : Plan) : List (Nat × Plan) :=
  (slot, p) :: ((planNos.filter fun i => i != slot && (s.plan i).runs).map fun i => (i, s.plan i))

/-- The hyperperiod: the least common multiple of period × div over every point. -/
def hyper (l : List (Nat × Plan)) : Nat :=
  l.foldl (fun h p => p.2.points.foldl (fun h pt => Nat.lcm h (p.2.period * max 1 (ptDiv pt))) h) 1

/-- Number of the period instant at which the count of a plan is 0; a plan that is only admitted counts from its first. -/
def Plan.base (p : Plan) : Nat := if p.runs then (p.start - p.phase) / p.period else 0

/-- The instants in [0, H) at which a point launches, each with the number of its period. -/
def Plan.instants (p : Plan) (h : Nat) (pt : List Word) : List (Nat × Nat) :=
  let d := max 1 (ptDiv pt)
  ((List.range (h / max 1 p.period)).filter fun k => (k + d - p.base % d) % d == ptRem pt).map fun k =>
    (k, (p.phase + k * p.period + ptOfs pt) % h)

/-- How long after its instant a MOVER point starts: at the end of its dpoint's window where that is later (R307). -/
def Plan.moverShift (p : Plan) (pt : List Word) (k : Nat) : Nat :=
  if bit (wat pt 2) 5 then
    let i := fld (wat pt 2) 15 6
    let d := p.points.getD i []
    let n := max 1 (ptDiv d)
    if (k + n - p.base % n) % n = ptRem d then ptOfs d + Tab.get 0 p.allow i - ptOfs pt else 0
  else 0

/-- Insert an interval by its start. -/
def insIval (x : Ival) : List Ival → List Ival
  | [] => [x]
  | y :: t => if x.t ≤ y.t then x :: y :: t else y :: insIval x t

/-- The intervals of the points a test picks: length, and shift by period number. -/
def ivals (l : List (Nat × Plan)) (h : Nat) (pick : List Word → Bool) (len : Plan → Nat → List Word → Nat)
    (shift : Plan → List Word → Nat → Nat) : List Ival :=
  (l.flatMap fun p => (List.range p.2.points.length).flatMap fun i =>
    let pt := p.2.points.getD i []
    if pick pt then
      (p.2.instants h pt).map fun q => { t := (q.2 + shift p.2 pt q.1) % h, len := len p.2 i pt, slot := p.1, pt := i : Ival }
    else []).foldr insIval []

/-- A scan of intervals in order, those of the next turn after them: the first that begins before an earlier one ends, with
the earlier one, and the smallest gap. -/
def scanIvals (h : Nat) (l : List Ival) : Option (Ival × Ival) × Option Nat :=
  match l with
  | [] => (none, none)
  | x :: t =>
    let r := (t ++ [{ x with t := x.t + h }]).foldl
      (fun (a : Ival × Option (Ival × Ival) × Option Nat) (y : Ival) =>
        let prev := a.1
        let fin := prev.t + prev.len
        let hit := if y.t < fin then a.2.1.or (some (prev, y)) else a.2.1
        let gap := optMin a.2.2 (some (y.t - fin))
        (if fin ≤ y.t + y.len then y else prev, hit, gap)) (x, none, none)
    (r.2.1, r.2.2)

/-- The point a refusal names: the one that begins last, where it belongs to this plan, else the other (R308). -/
def hitPoint (slot : Nat) (p : Ival × Ival) : Nat := if p.2.slot = slot then p.2.pt else p.1.pt

/-- A refusal of admission (R308). -/
def planNo (reason pt unit : Nat) : Refuse := (stNospace, 0, wd (reason + 2 ^ 8 * pt + 2 ^ 18 * unit))

/-- What the spec leaves open of detail1: the launch point of a reason that concerns no one point, and the unit of one that
concerns no engine, mover or stream (log 57). -/
def State.openPt (s : State) : Nat := (Config.freeWord s.free).toNat % 1024
/-- The open unit. -/
def State.openUnit (s : State) : Nat := (Config.freeWord s.free).toNat / 1024 % 32

/-- Window of a LIST or SELFTEST point. -/
def engLen (p : Plan) (i : Nat) (pt : List Word) : Nat := if ptKind pt = 5 then testWin else Tab.get 0 p.allow i

/-- The timelines of the engines and movers: unit number and intervals. -/
def unitLines (l : List (Nat × Plan)) (h : Nat) : List (Nat × List Ival) :=
  (engNos.map fun e => (e, ivals l h (fun pt => (ptKind pt == 1 || ptKind pt == 5) && ptEngine pt == e) engLen fun _ _ _ => 0)) ++
    (List.range 16).map fun m =>
      (m, ivals l h (fun pt => ptKind pt == 2 && fld (wat pt 2) 3 0 == m) (fun _ _ pt => moverWin (fld (wat pt 7) 19 0)) Plan.moverShift)

/-- Pixels of a stream that a telltale's window covers: the larger of its input and output counts (R308). -/
def Stream.pixels (x : Stream) : Nat :=
  if x.source = 1 then x.width * x.height else max (x.width * x.height) (x.outW x.width * x.outH x.height)

/-- A TELLTALE point whose window is too short, or for which a safety stream's burst is too small. -/
def State.telltaleShort (s : State) (pt : List Word) : Bool :=
  let x := s.stream (fld (wat pt 2) 4 0)
  let w := (wat pt 3).toNat
  decide (w < cdiv (x.pixels * 5) 8 + 4000) || (x.safety && decide (x.burst < cdiv (w * x.rate) 1000000000 + 1))

/-- Two telltale windows of a stream overlap. -/
def windowsMeet (l : List (Nat × Plan)) (h n : Nat) : Bool :=
  (scanIvals h (ivals l h (fun pt => ptKind pt == 4 && fld (wat pt 2) 4 0 == n) (fun _ _ pt => (wat pt 3).toNat) fun _ _ _ => 0)).1.isSome

/-- Reason 3: the tests of each TELLTALE point in turn. Those of the plans that run passed when they were admitted. -/
def State.telltaleBad (s : State) (l : List (Nat × Plan)) (h : Nat) : Option Refuse :=
  let own := (l.headD (0, {})).2.points
  (List.range own.length).findSome? fun i =>
    let pt := own.getD i []
    let n := fld (wat pt 2) 4 0
    if ptKind pt = 4 ∧ (s.telltaleShort pt ∨ windowsMeet l h n) then some (planNo 3 i n) else none

/-- Some point is a LIST point of engine `e`. -/
def hasList (l : List (Nat × Plan)) (e : Nat) : Bool := l.any fun p => p.2.points.any fun pt => ptKind pt == 1 && ptEngine pt == e

/-- Reason 4: an engine with a LIST point has an interval of 100 ms / 1.0005 without a SELFTEST instant. -/
def State.starvedBad (s : State) (l : List (Nat × Plan)) (h : Nat) : Option Refuse :=
  engNos.findSome? fun e =>
    if ¬ hasList l e then none
    else
      let t := ivals l h (fun pt => ptKind pt == 5 && ptEngine pt == e) (fun _ _ _ => 0) fun _ _ _ => 0
      let ts := t.map (·.t)
      let gaps := (ts.drop 1 ++ (ts.head?.map fun x => [x + h]).getD []).zip ts
      if ts.isEmpty ∨ gaps.any fun g => decide (100000000 * 2000 < (g.1 - g.2) * 2001) then
        some (planNo 4 s.openPt e)
      else none

/-- Reason 5: a monitor can be armed again before it expires. -/
def State.monitorBad (s : State) (slot : Nat) (l : List (Nat × Plan)) (h : Nat) : Option Refuse :=
  (List.range 64).findSome? fun m =>
    (scanIvals h (ivals l h (fun pt => ptKind pt == 6 && fld (wat pt 2) 5 0 == m) (fun _ _ pt => (wat pt 3).toNat) fun _ _ _ => 0)).1.map
      fun q => planNo 5 (hitPoint slot q) s.openUnit

/-- The admission power, in mW times H (R309). -/
def planPower (l : List (Nat × Plan)) (h : Nat) : Nat :=
  let streams := l.any fun p => p.2.points.any fun pt => ptKind pt == 3 || ptKind pt == 4
  let eng := engNos.map fun e =>
    if hasList l e then
      4000 * h + 31000 * sumN ((ivals l h (fun pt => ptKind pt == 1 && ptEngine pt == e) engLen fun _ _ _ => 0).map (·.len))
    else 0
  (5000 + if streams then 6000 else 0) * h + sumN eng

/-- Admission (R308): the refusal, or the smallest gap and the power in mW, rounded up. Where no engine and no mover has
an interval there is no gap to give, and the value is open (log 57). -/
def State.admission (s : State) (slot : Nat) (p : Plan) (unbounded : Option Nat) : Except Refuse (Nat × Nat) :=
  let l := s.planSet slot p
  let h := hyper l
  if 1000000000 < h then .error (planNo 1 s.openPt s.openUnit)
  else
    let u := (unitLines l h).map fun x => (x.1, scanIvals h x.2)
    let r2 := u.findSome? fun x => x.2.1.map fun q => planNo 2 (hitPoint slot q) x.1
    let gap := u.foldl (fun a x => optMin a x.2.2) none
    let w := planPower l h
    let r6 := if 90000 * h < w then some (planNo 6 s.openPt s.openUnit) else none
    let r7 := unbounded.map fun i => planNo 7 i (ptEngine (p.points.getD i []))
    match (((((r2.or (s.telltaleBad l h)).or (s.starvedBad l h)).or (s.monitorBad slot l h)).or r6).or r7) with
    | some r => .error r
    | none => .ok ((gap.getD (Config.freeWord s.free).toNat), cdiv w h)

/-! ### PLAN_LOAD (R305) -/

/-- Read and check the lists of the LIST points, in order: index and commands, with the store they take (R73). -/
def State.planLists (s : State) (c : Nat) (pts : List (List Word)) : List Nat → Except Refuse (List (Nat × List (List Word)) × State)
  | [] => .ok ([], s)
  | i :: t =>
    let pt := pts.getD i []
    match s.readList c (ptVa pt 3) (fld (wat pt 5) 19 0) with
    | none => .error (stRange, det 3 0, wd i)
    | some cmds =>
      match s.checkList { s.listFor c with routes := s.jobRoutes c false, eng := some (ptEngine pt) } cmds with
      | .error r => .error r
      | .ok _ =>
        match (s.storeCmds cmds.length).planLists c pts t with
        | .error r => .error r
        | .ok (l, s) => .ok ((i, cmds) :: l, s)

/-- A plan's place in the command store. -/
def Plan.stored (p : Plan) : Nat := sumN (p.lists.map fun l => l.2.length)

/-- The allowances of expert form: one word for each launch point, the all-ones value out of range. -/
def State.planAllow (s : State) (p : Packet) (n : Nat) (pts : List (List Word)) : Except Refuse (Option (List Word)) :=
  if p.hdr.expert then
    if ¬ s.imageAt (p.va 7) (4 * n) then .error (stRange, det 7 0, 0)
    else
      let l := s.rdWs (p.va 7) n
      match (List.range n).find? fun i => isList pts i && wat l i == 0xFFFFFFFF with
      | some i => .error (stRange, det 7 0, wd i)
      | none => .ok (some l)
  else .ok none

/-- Read and check an image, and let admission decide: the plan, the state with its lists stored and its granules migrated, gap and power. -/
def State.planBuild (s : State) (p : Packet) (c : Nat) : Except Refuse (Plan × State × Nat × Nat) :=
  let slot := p.f 4 3 0
  let old := s.plan slot
  if ¬ s.imageAt (p.va 5) 64 then .error (stRange, det 5 0, 0)
  else
    let hb := s.rd (p.va 5) 64
    let hd := wordsOf hb
    let n := fld (wat hd 0) 10 0
    let period := (wat hd 1).toNat
    match chkAt 0xFFFF (s.planHead hd) with
    | some r => .error r
    | none =>
      if ¬ s.imageAt (p.va 5 + 64) (32 * n) then .error (stRange, det 5 0, 0)
      else
        let bs := s.rd (p.va 5 + 64) (32 * n)
        let pts := chunks 8 n (wordsOf bs)
        match s.ptsBad c period old.state pts with
        | some r => .error r
        | none =>
          match s.planAllow p n pts with
          | .error r => .error r
          | .ok ms =>
            match s.planLists c pts ((List.range n).filter (isList pts)) with
            | .error r => .error r
            | .ok (lists, s) =>
              let pno := (s.ctx c).part
              let mask := BitVec.ofNat 16 (fld (wat hd 4) 15 0)
              let w := planWins (s.part pno).allowance (s.ctx c).buckets mask pts lists ms
              let q : Plan := { old with
                state := 0x51, period := period, phase := (wat hd 2).toNat, ctx := c, fences := mask, points := pts, lists := lists
                allow := w.1, imageCrc := crc32c (hb ++ bs)
                engines := BitVec.ofNat 8 (maskOf ((pts.filter fun w => ptKind w == 1 || ptKind w == 5).map ptEngine)) }
              let free := q.onPart (s.part pno).mask && !planNos.any fun i =>
                i != slot && [0x52, 0x53].contains (s.plan i).state && (s.plan i).onPart (s.part pno).mask
              match (if free then s.migrate pno (s.markedIn pno) else some s) with
              | none => .error (stNospace, 0, 0)
              | some s =>
                match s.admission slot q w.2 with
                | .error r => .error r
                | .ok (gap, mw) => .ok (q, s, gap, mw)

/-- PLAN_LOAD. -/
def planLoad (p : Packet) (s : State) : Ans :=
  let slot := p.f 4 3 0
  let old := s.plan slot
  needState old.state [0x50, 0x51] <|
    let c := fld (s.rdW (p.va 5 + 12)) 7 0
    if s.imageAt (p.va 5) 64 ∧ c < 64 ∧ s.waitsFor p c then .hold
    else
      match s.planBuild p c with
      | .error r => .done s.draw.2 { d0 := r.2.1, d1 := r.2.2 } r.1
      | .ok (q, s', gap, mw) => .pend slot 0 0 fun s =>
          let s := { s with plans := Tab.set s.plans slot q, psmUse := s'.psmUse, ctxs := s'.ctxs, mem := s'.mem, psmc := s'.psmc
                            store := s'.store, cmdUse := s'.cmdUse, free := s.draw.2.free }
          (s.freeCmds old.stored).closeNo p.hdr.no stOk { lo := sat32 gap, hi := wd mw }

/-- PLAN_LOAD. -/
def execPlanLoad (k : Nat) (s : State) : Host.Outcome State Fault Refusal := runPacket 0x610 k planLoad s

/-! ### The other packets (R310, R313, R314) -/

/-- The first period instant of a plan at or after an instant, Halyard ns. -/
def Plan.firstAt (p : Plan) (t : Nat) : Nat := t + (p.phase + p.period - t % max 1 p.period) % max 1 p.period

/-- PLAN_ACTIVATE (R310). -/
def planActivate (p : Packet) (s : State) : Ans :=
  let slot := p.f 4 3 0
  let q := s.plan slot
  let now := s.now
  let start := if p.hdr.expert then timeNs p.params 5 else q.firstAt (now + 1000000)
  needState q.state [0x51] <|
  refuseIf (!(s.ctx q.ctx).present || (s.ctx q.ctx).scrubbing) stState (wd q.state) <|
  refuseIf (p.hdr.expert && (decide (start < now + 100000 ∨ start % max 1 q.period ≠ q.phase) || p.f 7 31 16 != 0)) stRange (det 5 0) <|
    if 4 ≤ (planNos.filter fun i => (s.plan i).runs).length then .refuse stNospace 0 8
    else
      let q' := { q with state := 0x52, start := start, count := 0, periodNs := start, slackMin := 0xFFFFFFFF, movers := [], ends := []
                         digests := [], launched := [] }
      match s.admission slot q' none with
      | .error r => .done s.draw.2 { d0 := r.2.1, d1 := r.2.2 } r.1
      | .ok _ => .pend slot 0 0 fun s => s.setPlan slot q'

/-- PLAN_ACTIVATE. -/
def execPlanActivate (k : Nat) (s : State) : Host.Outcome State Fault Refusal := runPacket 0x611 k planActivate s

/-- PLAN_DEACTIVATE: an ARMED plan returns to ADMITTED at once, and its PLAN_ACTIVATE ends as cancelled; an ACTIVE one
retires at its next period instant (R313). -/
def planDeactivate (p : Packet) (s : State) : Ans :=
  let slot := p.f 4 3 0
  let q := s.plan slot
  needState q.state [0x52, 0x53] <|
    if q.state = 0x52 then .pend slot 0 0 fun s =>
      ((s.setPlan slot { q with state := 0x51 }).closeOp 0x611 slot stFault { canc := true }).closeNo p.hdr.no stOk {}
    else .pend slot 0 0 fun s => s.setPlan slot { q with state := 0x54 }

/-- PLAN_DEACTIVATE. -/
def execPlanDeactivate (k : Nat) (s : State) : Host.Outcome State Fault Refusal := runPacket 0x612 k planDeactivate s

/-- PLAN_UNLOAD: the slot is EMPTY, its counters clear, its lists leave the command store (R314, R323). -/
def planUnload (p : Packet) (s : State) : Ans :=
  let slot := p.f 4 3 0
  let q := s.plan slot
  needState q.state [0x51] <| .done (({ s with plans := Tab.erase s.plans slot } : State).freeCmds q.stored) {}

/-- PLAN_UNLOAD. -/
def execPlanUnload (k : Nat) (s : State) : Host.Outcome State Fault Refusal := runPacket 0x613 k planUnload s

/-- PLAN_QUERY (R314). -/
def planQuery (p : Packet) (s : State) : Ans :=
  let q := s.plan (p.f 4 3 0)
  .done s { d0 := wd q.state, lo := wd q.count, hi := q.cntOverrun }

/-- PLAN_QUERY. -/
def execPlanQuery (k : Nat) (s : State) : Host.Outcome State Fault Refusal := runPacket 0x614 k planQuery s

end Sys2Proof.Machine
end

