-- ==== Sys2Proof/Machine/Mat.lean ====
section
/-! DEFINITION. MATMUL (R82 to R84, R95, R111 to R116, R121, R142, R143). -/

namespace Sys2Proof.Machine

/-- One factor of a column or a filter row: the place of its activation, whether it is an escape, its factor. -/
structure Term where
  /-- Place of the activation. -/
  pos : Nat
  /-- An E4X escape. -/
  esc : Bool
  /-- The factor. -/
  fac : Fac
deriving Inhabited

/-- The factor of an escape value, in units of 2^-133 (R111, R134). -/
def escFac (code : Nat) : Fac := let v := fBF16.dec code; { v := v, i := v.units (-133) }

/-- The terms of a row of B: its codes, the places of their activations, its side list. -/
def termsOf (f : Nat) : List Nat → List Nat → List Nat → List Term
  | k :: ks, p :: ps, side =>
    if f = 3 ∧ k = 8 then { pos := p, esc := true, fac := escFac (side.headD 0) } :: termsOf f ks ps (side.drop 1)
    else { pos := p, esc := false, fac := facOf f k } :: termsOf f ks ps side
  | _, _, _ => []

/-- Escape codes in a row. -/
def escapesIn (f : Nat) (ks : List Nat) : Nat := if f = 3 then (ks.filter (· == 8)).length else 0

/-- The exact sum of a row of activations and the terms of a row of B, added to a record; an activation beyond the row is
exactly zero (R95, R112, R113). -/
def dotRec (acts : Nat → Option Fac) (ts : List Term) (r : HoldRec) : HoldRec :=
  ts.foldl (fun r t => r.add t.esc 1 ((acts t.pos).getD Fac.zero) t.fac) r

/-- Codes of row `j` of B, and the places of their activations (R95). -/
def State.matCol (s : State) (x : Cx) (j : Nat) : List Nat × List Nat :=
  let c := x.cmd
  let k := cf c 5 19 0
  let f := tF c 2
  let n := if cb c 0 16 then keptK k else k
  let ks := codesOf f n (s.clRd x.e (tH c 2) (64 * (tO c 2 + j * cf c 7 17 0)) (rowBytes f n))
  if cb c 0 16 then
    let meta' := s.clRd x.e (tH c 13) (64 * (tO c 13 + j * metaWords k)) (64 * metaWords k)
    let nib := codesOf 1 (n / 2) meta'
    (ks, (List.range n).map fun i => 4 * (i / 2) + nib.getD (i / 2) 0 / 4 ^ (i % 2) % 4)
  else (ks, List.range n)

/-- BF16 scales of `n` rows at a TOW. -/
def State.scalesAt (s : State) (x : Cx) (w n : Nat) : List Nat :=
  (chunks 2 n (s.clRd x.e (tH x.cmd w) (64 * tO x.cmd w) (2 * n))).map leNat

/-- FP32 values of `n` elements at a TOW. -/
def State.wordsAt (s : State) (x : Cx) (w n : Nat) : List Word :=
  wordsOf (s.clRd x.e (tH x.cmd w) (64 * tO x.cmd w) (4 * n))

/-- The raw records of a seed, row-major, or the fault of the first bad one (R116). -/
def State.seedAt (s : State) (x : Cx) (m n : Nat) : Except Nat (List HoldRec) :=
  let c := x.cmd
  let r := recBytes (tF c 1) (tF c 2) false
  let ls := (List.range m).flatMap fun i =>
    (chunks r n (s.clRd x.e (tH c 12) (64 * (tO c 12 + i * cdiv (n * r) 64)) (n * r))).map (loadRec (tF c 1) (tF c 2) false)
  match ls.findSome? fun l => match l with
    | .bad k => some k
    | .ok _ => none with
  | some k => .error k
  | none => .ok (ls.map fun l => match l with
    | .ok h => h
    | .bad _ => {})

/-- The rows of C and statistics that stay as they were: rows that are not written. -/
def keepRows (c : List Word) (l : List Nat) : Keep :=
  .bytes (l.map fun i => (3, i)) (if cb c 0 18 then l.map fun i => (tH c 11, 64 * tO c 11 + 4 * i, 4) else [])

/-- The sums held in the hold set as a chain's next command takes them. Where its formats are not those of the chain, the
spec gives no value: they are open, and the same whenever the sums and the formats are (R123, log 46). -/
def HoldSet.sumsFor (h : HoldSet) (a b : Nat) : List HoldRec :=
  if h.fmtA = a ∧ h.fmtB = b then h.recs
  else h.recs.map fun r =>
    let on := [h.fmtA, h.fmtB, a, b, r.reg.natAbs, bitAt (decide (r.reg < 0)) 0, r.esc.natAbs, bitAt (decide (r.esc < 0)) 0]
    { r with reg := (Config.openWord 3 on 0).toInt }

/-- What a MATMUL writes for one row: the rounded values before the last conversion. -/
def matValue (c : List Word) (sa sb : List Nat) (bias : List Word) (i j : Nat) (r : HoldRec) : FV :=
  let fa := tF c 1
  let fb := tF c 2
  r.value (cf c 5 23 20) (fmtL fa + fmtL fb) (fmtL fa - 133)
    (scaleFix (if fmtScaled fa then some (sa.getD i 0) else none))
    (scaleFix (if fmtScaled fb then some (sb.getD j 0) else none))
    (if cb c 0 17 then some (fv (wat bias j)) else none)

/-- OUT: every row is rounded and written, to C or to the KV pages armed (R83, R84, R114). -/
def State.matOut (s : State) (x : Cx) (sa sb : List Nat) (recs : List (List HoldRec)) : Res :=
  let c := x.cmd
  let n := cf c 4 31 16
  let f := tF c 3
  let mode := cf c 5 23 20
  let act := cf c 5 31 28
  let bias := if cb c 0 17 then s.wordsAt x 10 n else []
  let s := s.upQs x.e x.q fun k => { k with hold := {} }
  let rows := List.range recs.length
  if f = 15 then
    .ok (rows.foldl (fun s i => s.clWr x.e (tH c 3) (64 * (tO c 3 + i * cf c 8 17 0))
      ((recs.getD i []).flatMap fun r => r.bytes (tF c 1) (tF c 2) false)) s)
  else
    let val := fun i => (List.range n).map fun j => matValue c sa sb bias i j ((recs.getD i []).getD j {})
    if cf c 14 1 0 = 0 then
      .ok (rows.foldl (fun s i =>
        let codes := (val i).map (finish mode act f)
        let s := s.clWr x.e (tH c 3) (64 * (tO c 3 + i * cf c 8 17 0)) (packCodes f codes)
        if cb c 0 18 then s.clWr x.e (tH c 11) (64 * tO c 11 + 4 * i) (wordBytes (rowAbsMax f codes)) else s) s)
    else
      let fin := fun v => if act = 0 then (if f = 4 then fv (toF mode v) else v) else fv (actOf mode act (toF mode v))
      let vals := rows.map fun i => (val i).map fin
      (s.serveAppend x vals).andThen fun s =>
        .ok (if cb c 0 18 then
            (rows.zip vals).foldl (fun s p =>
              let w := if f = 4 then rowAbsMax 11 (p.2.map (encEl 11 mode)) else rowAbsMax f (p.2.map (encEl f mode))
              s.clWr x.e (tH c 11) (64 * tO c 11 + 4 * p.1) (wordBytes w)) s
          else s)

/-- The sums are there: their count, their residue, and HOLD or OUT (R83, R112, R121). -/
def State.matFinish (s : State) (x : Cx) (sa sb : List Nat) (recs : List (List HoldRec)) : Res :=
  let c := x.cmd
  let bad := (List.range recs.length).filter fun i => x.env.residue.contains i
  if recs.any fun l => l.any fun r => decide (maxTerms < r.terms) then .fault s fltOperand (.rows [])
  else if ¬ bad.isEmpty then .fault s fltResidue (keepRows c bad)
  else if cf c 0 21 20 = 1 ∨ cf c 0 21 20 = 2 then
    .ok (s.upQs x.e x.q fun k => { k with hold :=
      { held := true, m := cf c 4 15 0, n := cf c 4 31 16, cTow := cw c 3, fmtA := tF c 1, fmtB := tF c 2, recs := recs.flatten
        scalesA := sa, scalesB := sb } })
  else s.matOut x sa sb recs

/-- A MATMUL whose scales and side lists are there. -/
def State.matSums (s : State) (x : Cx) (sa sb : List Nat) (sides : List (List Nat)) : Res :=
  let c := x.cmd
  let m := cf c 4 15 0
  let n := cf c 4 31 16
  let k := cf c 5 19 0
  let fa := tF c 1
  let fb := tF c 2
  let cont := 2 ≤ cf c 0 21 20
  let h := ((s.engine x.e).qs' x.q).hold
  let cols := (List.range n).map (s.matCol x)
  if fb = 3 ∧ (List.range n).any (fun j => escapesIn fb (cols.getD j ([], [])).1 != (sides.getD j []).length) then
    .fault s fltOperand (.rows [])
  else
    match (if cb c 0 19 then s.seedAt x m n else .ok []) with
    | .error f => .fault s f (.rows [])
    | .ok seeds =>
      let held := if cont then h.sumsFor fa fb else []
      let ts := (List.range n).map fun j => termsOf fb (cols.getD j ([], [])).1 (cols.getD j ([], [])).2 (sides.getD j [])
      let recs := (List.range m).map fun i =>
        let acts := (codesOf fa k (s.clRd x.e (tH c 1) (64 * (tO c 1 + i * cf c 6 17 0)) (rowBytes fa k))).map (facOf fa)
        (List.range n).map fun j =>
          dotRec (acts[·]?) (ts.getD j []) ((held.getD (i * n + j) {}).plus (seeds.getD (i * n + j) {}))
      s.matFinish x sa sb recs

/-- MATMUL. Where several faults apply to one command, R140 orders the checks within a block only: every weight block of the
command is paired before R143's comparison of scales and R142's count of escapes (DESIGN CHOICE, log 161). -/
def matBody (x : Cx) (s : State) : Res :=
  let c := x.cmd
  let m := cf c 4 15 0
  let n := cf c 4 31 16
  let fa := tF c 1
  let cont := 2 ≤ cf c 0 21 20
  let h := ((s.engine x.e).qs' x.q).hold
  let sa := if fmtScaled fa then s.scalesAt x 9 m else []
  let bad := (List.range sa.length).filter fun i => !scaleOk (sa.getD i 0)
  if ¬ bad.isEmpty then .fault s fltOperand (keepRows c bad)
  else if cont ∧ fmtScaled fa ∧ sa ≠ h.scalesA then .fault s fltOperand (.rows [])
  else if cb c 5 27 then
    match s.spuPair x (cf c 5 26 24) n (tF c 2) with
    | .error r => r
    | .ok (p, s) =>
      if cont ∧ p.scales ≠ h.scalesB then .fault s fltOperand (.rows [])
      else s.matSums x sa p.scales p.sides
  else s.matSums x sa [] []

/-- MATMUL. -/
def execMatmul (e : Fin 8) (q : Fin 5) (i : Nat) (env : Env) (s : State) : Host.Outcome State Fault Refusal :=
  runCommand opMat e q i env matBody s

end Sys2Proof.Machine
end

