-- ==== Sys2Proof/Machine/Conv.lean ====
section
/-! DEFINITION. CONV: convolution, pooling and resizing (R85, R193 to R211). -/

namespace Sys2Proof.Machine

/-- Round mode. -/
def cvMode (c : List Word) : Nat := cf c 9 5 2
/-- Activation. -/
def cvAct (c : List Word) : Nat := cf c 9 13 10

/-- The input image: codes by row, and the BF16 scales of its pixels where the format has them. -/
structure Img where
  /-- Geometry. -/
  g : Geo
  /-- Format. -/
  f : Nat
  /-- Rows of codes. -/
  rows : List (List Nat)
  /-- Pixel scales, row-major. -/
  scl : List Nat
deriving Inhabited

/-- Read the input of a CONV. -/
def State.convIn (s : State) (x : Cx) : Img :=
  let c := x.cmd
  let g := geo c
  let f := tF c 1
  { g := g, f := f
    rows := (List.range g.h).map fun y =>
      codesOf f (g.w * g.ci) (s.clRd x.e (tH c 1) (64 * (tO c 1 + y * cf c 11 17 0)) (rowBytes f (g.w * g.ci)))
    scl := if fmtScaled f then s.scalesAt x 15 (g.h * g.w) else [] }

/-- Code of channel `k` of a pixel. -/
def Img.code (m : Img) (y x k : Nat) : Nat := (m.rows.getD y []).getD (x * m.g.ci + k) 0
/-- Scale of a pixel, none where the format has none. -/
def Img.scale (m : Img) (y x : Nat) : Option Nat := if fmtScaled m.f then some (m.scl.getD (y * m.g.w + x) 0) else none
/-- Exact value of channel `k` of a pixel. -/
def Img.val (m : Img) (y x k : Nat) : FV :=
  match m.scale y x with
  | some s => (decEl m.f (m.code y x k)).mul (fBF16.dec s)
  | none => decEl m.f (m.code y x k)

/-- What a tap reads. -/
inductive Tap where
  /-- A pixel. -/
  | px (y x : Nat)
  /-- The padding constant. -/
  | const
deriving DecidableEq, Repr, Inhabited

/-- The taps an output pixel considers, each with its number `i × kw + j` (R195, R197). -/
def Geo.tapsOf (g : Geo) (yo xo : Nat) : List (Nat × Tap) :=
  (List.range g.kh).flatMap fun i => (List.range g.kw).filterMap fun j =>
    match tapAt g.pad g.h yo g.sh g.pt g.dh i, tapAt g.pad g.w xo g.sw g.pl g.dw j with
    | some y, some x => some (i * g.kw + j, .px y x)
    | _, _ => if g.pad = 1 then some (i * g.kw + j, .const) else none

/-- The pixels that an output row reads. -/
def Geo.reads (g : Geo) (yo : Nat) : List (Nat × Nat) :=
  if g.kind ≤ 3 then
    (List.range g.wo).flatMap fun xo => (g.tapsOf yo xo).filterMap fun t => match t.2 with
      | .px y x => some (y, x)
      | .const => none
  else
    let ys := if g.kind = 4 then [min ((2 * yo + 1) * g.h / (2 * g.ho)) (g.h - 1)]
      else
        let n := (2 * yo + 1) * g.h - g.ho
        [n / (2 * g.ho), min (n / (2 * g.ho) + 1) (g.h - 1)]
    let xs := fun xo => if g.kind = 4 then [min ((2 * xo + 1) * g.w / (2 * g.wo)) (g.w - 1)]
      else
        let n := (2 * xo + 1) * g.w - g.wo
        [n / (2 * g.wo), min (n / (2 * g.wo) + 1) (g.w - 1)]
    ys.flatMap fun y => ((List.range g.wo).flatMap xs).map fun x => (y, x)

/-- The rows that use a scale R103 does not allow. -/
def Img.badRows (m : Img) : List Nat :=
  if fmtScaled m.f then
    (List.range m.g.ho).filter fun yo => (m.g.reads yo).any fun p => !scaleOk ((m.scale p.1 p.2).getD 0)
  else []

/-- Output rows that stay as they were, with their statistics. -/
def keepConv (c : List Word) (l : List Nat) : Keep :=
  let g := geo c
  .bytes (l.map fun y => (3, y)) (if cb c 0 20 then l.map fun y => (tH c 14, 64 * tO c 14 + 4 * y * g.wo, 4 * g.wo) else [])

/-- Write an output row of pixels, each a list of codes, with the statistics of its pixels. -/
def State.convPut (s : State) (x : Cx) (yo : Nat) (px : List (List Nat)) : State :=
  let c := x.cmd
  let g := geo c
  let f := tF c 3
  let s := s.clWr x.e (tH c 3) (64 * (tO c 3 + yo * cf c 12 17 0)) (packCodes f px.flatten)
  if cb c 0 20 then s.clWr x.e (tH c 14) (64 * tO c 14 + 4 * yo * g.wo) (bytesOf (px.map (rowAbsMax f))) else s

/-! ### Windows on the direct path -/

/-- The sum of one output element: kind 0 over every channel, kind 1 over its own (R195, R196, R198, R201). -/
def convRec (m : Img) (c : List Word) (ts : Nat → Option Term) (taps : List (Nat × Tap)) (co : Nat) : HoldRec :=
  let g := m.g
  let pc := facOf m.f ((cw c 10).toNat % 2 ^ fmtBits m.f)
  let one := fun (r : HoldRec) (t : Tap) (ch k : Nat) =>
    match ts k with
    | none => r
    | some w =>
      match t with
      | .const => r.add w.esc 1 pc w.fac
      | .px y x =>
        let u := match m.scale y x with
          | some s => (fBF16.dec s).units (-133)
          | none => 1
        r.add w.esc u (facOf m.f (m.code y x ch)) w.fac
  taps.foldl (fun r t =>
    if g.kind = 1 then one r t.2 (co / (g.co / g.ci)) t.1
    else (List.range g.ci).foldl (fun r ch => one r t.2 ch (t.1 * g.ci + ch)) r) {}

/-- Finish an element of CONV or DEPTHWISE (R114, R196). -/
def convFinish (c : List Word) (px : Bool) (sb : List Nat) (bias : List Word) (co : Nat) (r : HoldRec) : Nat :=
  let fa := tF c 1
  let fb := tF c 2
  let d : Int := if px then 133 else 0
  finish (cvMode c) (cvAct c) (tF c 3)
    (r.value (cvMode c) (fmtL fa + fmtL fb - d) (fmtL fa - 133 - d) (1, 0)
      (scaleFix (if fmtScaled fb then some (sb.getD co 0) else none))
      (if cb c 0 19 then some (fv (wat bias co)) else none))

/-- Codes of filter row `co`. -/
def State.filtRow (s : State) (x : Cx) (co : Nat) : List Nat :=
  let c := x.cmd
  let g := geo c
  let f := tF c 2
  codesOf f g.k (s.clRd x.e (tH c 2) (64 * (tO c 2 + co * cdiv (rowBytes f g.k) 64)) (rowBytes f g.k))

/-- CONV and DEPTHWISE on the direct path, once the filter's scales are there. -/
def State.convDirect (s : State) (x : Cx) (m : Img) (sb : List Nat) (sides : List (List Nat)) : Res :=
  let c := x.cmd
  let g := m.g
  let fb := tF c 2
  let px := fmtScaled m.f
  let filt := (List.range g.co).map (s.filtRow x)
  if fb = 3 ∧ (List.range g.co).any (fun j => escapesIn fb (filt.getD j []) != (sides.getD j []).length) then
    .fault s fltOperand (.rows [])
  else
    let ts := (List.range g.co).map fun j => termsOf fb (filt.getD j []) (List.range g.k) (sides.getD j [])
    let recs := (List.range g.ho).map fun yo => (List.range g.wo).map fun xo =>
      (List.range g.co).map fun co => convRec m c ((ts.getD co [])[·]?) (g.tapsOf yo xo) co
    let bad := (List.range g.ho).filter fun i => x.env.residue.contains i
    let s := s.upJob x.e x.q fun j => { j with stats := { j.stats with taps := j.stats.taps + wd g.skipped } }
    if recs.any fun l => l.any fun p => p.any fun r => decide (maxTerms < r.terms) then .fault s fltOperand (.rows [])
    else if ¬ bad.isEmpty then .fault s fltResidue (keepConv c bad)
    else
      let bias := if cb c 0 19 then s.wordsAt x 13 g.co else []
      let s := s.upQs x.e x.q fun k => { k with hold := {} }
      .ok ((List.range g.ho).foldl (fun s yo =>
        let row := recs.getD yo []
        if tF c 3 = 15 then
          s.clWr x.e (tH c 3) (64 * (tO c 3 + yo * cf c 12 17 0)) (row.flatMap fun p => p.flatMap fun r => r.bytes (tF c 1) fb px)
        else s.convPut x yo (row.map fun p => (List.range g.co).map fun co => convFinish c px sb bias co (p.getD co {}))) s)

/-! ### Pooling and resizing (R202, R203) -/

/-- The larger of two exact values, +0 above -0; NaN where either is one. -/
def FV.largest (a b : FV) : FV :=
  if a.isNan || b.isNan then .nan else if a.below b then b else a

/-- Convert a finished quotient, through the activation where there is one. -/
def quoFinish (f mode act : Nat) (a b : FV) : Nat :=
  if act = 0 then quoRound f mode a b else encEl f mode (fv (actOf mode act (wd (quoRound 11 mode a b))))

/-- A natural as an exact value. -/
def FV.ofNat (n : Nat) : FV := .fin false n 0

/-- One element of POOL_MAX or POOL_AVG. -/
def poolEl (m : Img) (c : List Word) (taps : List (Nat × Tap)) (ch : Nat) : Nat :=
  let g := m.g
  let f := tF c 3
  let mode := cvMode c
  let vs := taps.map fun t => match t.2 with
    | .px y x => m.val y x ch
    | .const => decEl m.f ((cw c 10).toNat % 2 ^ fmtBits m.f)
  match vs with
  | [] => encEl f mode (.fin false 0 0)
  | v :: t =>
    if g.kind = 2 then finish mode (cvAct c) f (t.foldl FV.largest v)
    else quoFinish f mode (cvAct c) (vs.foldl (FV.add mode) (zeroSum mode)) (.ofNat (if g.pad = 0 then vs.length else g.kh * g.kw))

/-- Where a bilinear resize reads on one axis: two places and the numerator of the fraction over `2 × no` (R203). -/
def biAt (n no o : Nat) : Nat × Nat × Nat :=
  if (2 * o + 1) * n < no then (0, min 1 (n - 1), 0)
  else
    let v := (2 * o + 1) * n - no
    (v / (2 * no), min (v / (2 * no) + 1) (n - 1), v % (2 * no))

/-- One element of a resize. -/
def resizeEl (m : Img) (c : List Word) (yo xo ch : Nat) : Nat :=
  let g := m.g
  let f := tF c 3
  let mode := cvMode c
  if g.kind = 4 then
    finish mode (cvAct c) f (m.val (min ((2 * yo + 1) * g.h / (2 * g.ho)) (g.h - 1)) (min ((2 * xo + 1) * g.w / (2 * g.wo)) (g.w - 1)) ch)
  else
    let a := biAt g.h g.ho yo
    let b := biAt g.w g.wo xo
    let fy := 2 * g.ho
    let fx := 2 * g.wo
    let ps := [(a.1, b.1, (fy - a.2.2) * (fx - b.2.2)), (a.1, b.2.1, (fy - a.2.2) * b.2.2), (a.2.1, b.1, a.2.2 * (fx - b.2.2)),
      (a.2.1, b.2.1, a.2.2 * b.2.2)].map fun p => (m.val p.1 p.2.1 ch).mul (.ofNat p.2.2)
    let v := if ps.all FV.negZero then .fin true 0 0 else ps.foldl (FV.add mode) (zeroSum mode)
    quoFinish f mode (cvAct c) v (.ofNat (fy * fx))

/-- Kinds 2 to 5. The sums of POOL_AVG are under the residue check (R110, R121). -/
def State.convPool (s : State) (x : Cx) (m : Img) : Res :=
  let c := x.cmd
  let g := m.g
  let s := s.upQs x.e x.q fun k => { k with hold := {} }
  let s := s.upJob x.e x.q fun j => { j with stats := { j.stats with taps := j.stats.taps + wd g.skipped } }
  let bad := (List.range g.ho).filter fun i => g.kind == 3 && x.env.residue.contains i
  if ¬ bad.isEmpty then .fault s fltResidue (keepConv c bad)
  else .ok ((List.range g.ho).foldl (fun s yo =>
    s.convPut x yo ((List.range g.wo).map fun xo =>
      let taps := if g.kind ≤ 3 then g.tapsOf yo xo else []
      (List.range g.ci).map fun ch => if g.kind ≤ 3 then poolEl m c taps ch else resizeEl m c yo xo ch)) s)

/-! ### The frequency path (R205 to R209) -/

/-- A 2-D transform of one part: the real and imaginary words, its NaNs canonical (R106, R117). -/
def fft2 (inv : Bool) (nx ny : Nat) (l : List Word) : List Word := (Config.fft inv (nx + 8192 * ny) l).map canonWord

/-- Complex product, each product and sum rounded to nearest (R208). -/
def cMul (a b : Word × Word) : Word × Word :=
  (fSub 0 (fMul 0 a.1 b.1) (fMul 0 a.2 b.2), fAdd 0 (fMul 0 a.1 b.2) (fMul 0 a.2 b.1))

/-- Element `i` of a spectrum. -/
def cAt (l : List Word) (i : Nat) : Word × Word := (wat l (2 * i), wat l (2 * i + 1))

/-- The filter of a channel pair in a zero tile. -/
def freqFilter (g : Geo) (f : Nat) (row : List Nat) (ci : Nat) : List Word :=
  let t := g.tile
  let eh := extent g.kh g.dh
  let ew := extent g.kw g.dw
  (List.range (t * t)).flatMap fun p =>
    let r := p / t
    let q := p % t
    let v : Word :=
      if eh ≤ r ∨ ew ≤ q ∨ (eh - 1 - r) % g.dh ≠ 0 ∨ (ew - 1 - q) % g.dw ≠ 0 then 0
      else toWord (decEl f (row.getD (((eh - 1 - r) / g.dh * g.kw + (ew - 1 - q) / g.dw) * g.ci + ci) 0))
    [v, 0]

/-- The coordinate of an input pixel of a tile on one axis: a place of the map, the constant, or zero (R197, R206). `a` is
the coordinate, `need` says that an output needs it. -/
def freqAt (pad n : Nat) (a : Int) (need : Bool) : Option (Option Nat) :=
  if 0 ≤ a ∧ a < n then some (some a.toNat)
  else if (n : Int) ≤ a ∧ ¬ need then none
  else if pad = 0 then none
  else if pad = 1 then some none
  else
    match (if a < 0 then tapAt pad n 0 1 (-a).toNat 1 0 else tapAt pad n a.toNat 1 0 1 0) with
    | some y => some (some y)
    | none => none

/-- The input tile (a, b) of a channel. -/
def freqTile (m : Img) (c : List Word) (a b ch : Nat) : List Word :=
  let g := m.g
  let t := g.tile
  let eh := extent g.kh g.dh
  let ew := extent g.kw g.dw
  let vh := t - eh + 1
  let vw := t - ew + 1
  let nr := min vh (g.ho - a * vh)
  let nc := min vw (g.wo - b * vw)
  (List.range (t * t)).flatMap fun p =>
    let r := p / t
    let q := p % t
    let v : Word := match freqAt g.pad g.h ((a * vh + r : Nat) - (g.pt : Int)) (decide (r < nr + eh - 1)),
        freqAt g.pad g.w ((b * vw + q : Nat) - (g.pl : Int)) (decide (q < nc + ew - 1)) with
      | some (some y), some (some x) => toWord (decEl m.f (m.code y x ch))
      | some none, some _ => toWord (decEl m.f ((cw c 10).toNat % 2 ^ fmtBits m.f))
      | some _, some none => toWord (decEl m.f ((cw c 10).toNat % 2 ^ fmtBits m.f))
      | _, _ => 0
    [v, 0]

/-- The output element whose sum is `y`; the command's mode rounds the last conversion alone (R208). -/
def freqOut (c : List Word) (bias : List Word) (co : Nat) (y : Word) : Nat :=
  let y := if cb c 0 19 then fAdd 0 y (wat bias co) else y
  encEl (tF c 3) (cvMode c) (fv (actOf 0 (cvAct c) y))

/-- Sum of the squares of finite FP32 words, in units of 2^-298. -/
def sumSquares (l : List Word) : Nat := sumN (l.map fun w => ((fv w).units (-149)).natAbs ^ 2)

/-- The sum a tile gives, held to the bound of R209: where a transform's bits, which are open (log 14), would put it further
from the exact sum than the bound, it is the exact sum rounded. `norms` holds, for each input channel, the sums of squares
of the input tile and of the taps. The square roots are taken upwards at 2^-298. -/
def freqBound (t : Nat) (norms : List (Nat × Nat)) (exact : FV) (y : Word) : Word :=
  match exact, fv y with
  | .fin a m e, .fin b n d =>
    let q := min (min e d) (-400)
    let diff := (sig a m e q - sig b n d q).natAbs
    let roots := sumN (norms.map fun p => (p.1 * p.2).sqrt + 1)
    if diff ≤ (2 * lg t + 4) * roots * 2 ^ (-322 - q).toNat then y else toF 0 exact
  | .fin _ _ _, _ => toF 0 exact
  | _, _ => y

/-- CONV on the frequency path (R208). The workspace is left with free data (R207). -/
def State.convFreq (s : State) (x : Cx) (m : Img) : Res :=
  let c := x.cmd
  let g := m.g
  let t := g.tile
  let eh := extent g.kh g.dh
  let ew := extent g.kw g.dw
  let vh := t - eh + 1
  let vw := t - ew + 1
  let filt := (List.range g.co).map (s.filtRow x)
  let wf := filt.map fun row => (List.range g.ci).map fun ci => fft2 false t t (freqFilter g (tF c 2) row ci)
  let bias := if cb c 0 19 then s.wordsAt x 13 g.co else []
  let ts := (List.range g.co).map fun j => termsOf (tF c 2) (filt.getD j []) (List.range g.k) []
  let taps := filt.map fun row => (List.range g.ci).map fun ci => sumSquares (freqFilter g (tF c 2) row ci)
  let exact := fun yo xo co =>
    (convRec m c ((ts.getD co [])[·]?) (g.tapsOf yo xo) co).value 0 (fmtL (tF c 1) + fmtL (tF c 2)) (fmtL (tF c 1) - 133) (1, 0) (1, 0) none
  let tiles := (List.range (cdiv g.ho vh)).map fun a => (List.range (cdiv g.wo vw)).map fun b =>
    let ins := (List.range g.ci).map (freqTile m c a b)
    let xs := ins.map (fft2 false t t)
    let sq := ins.map sumSquares
    (List.range g.co).map fun co =>
      let y := (List.range (t * t)).flatMap fun i =>
        let v := (List.range g.ci).foldl (fun (y : Word × Word) ci =>
          let z := cMul (cAt (xs.getD ci []) i) (cAt ((wf.getD co []).getD ci []) i)
          (fAdd 0 y.1 z.1, fAdd 0 y.2 z.2)) (0, 0)
        [v.1, v.2]
      (fft2 true t t y, List.zip sq (taps.getD co []))
  let s := s.upQs x.e x.q fun k => { k with hold := {} }
  let s := (List.range g.ho).foldl (fun s yo =>
    s.convPut x yo ((List.range g.wo).map fun xo => (List.range g.co).map fun co =>
      let inv := ((tiles.getD (yo / vh) []).getD (xo / vw) []).getD co ([], [])
      let y := fMul 0 (wat inv.1 (2 * ((eh - 1 + yo % vh) * t + (ew - 1 + xo % vw)))) (wd ((127 - 2 * lg t) * 2 ^ 23))
      freqOut c bias co (freqBound t inv.2 (exact yo xo co) y))) s
  let b := s.drawBytes g.wsBytes
  .ok (b.2.clWr x.e (tH c 3) (64 * (tO c 3 + g.ho * cf c 12 17 0)) b.1)

/-- CONV. -/
def convBody (x : Cx) (s : State) : Res :=
  let c := x.cmd
  let m := s.convIn x
  let bad := m.badRows
  if ¬ bad.isEmpty then .fault s fltOperand (keepConv c bad)
  else if 2 ≤ m.g.kind then s.convPool x m
  else if takesFreq c then s.convFreq x m
  else if cb c 9 9 then
    match s.spuPair x (cf c 9 8 6) m.g.co (tF c 2) with
    | .error r => r
    | .ok (p, s) => s.convDirect x m p.scales p.sides
  else s.convDirect x m [] []

/-- CONV. -/
def execConv (e : Fin 8) (q : Fin 5) (i : Nat) (env : Env) (s : State) : Host.Outcome State Fault Refusal :=
  runCommand opConv e q i env convBody s

end Sys2Proof.Machine
end

