-- ==== Sys2Proof/Machine/Shut.lean ====
section
/-! DEFINITION. Runs of test blocks, and the steps of the shut-down test up to them (R444 to R447). -/

namespace Sys2Proof.Machine

/-! ### The cap (R469 to R472) -/

/-- Cap of a Reef level, W. -/
def reefCap (l : Nat) : Nat := [300, 220, 150, 90].getD l 6

/-- The cap that is commanded now, mW: along the ramp while a lower one is being reached (R471). -/
def Cpw.cmdCap (x : Cpw) : Nat :=
  let dest := 1000 * reefCap x.target
  if x.ramping then x.rampFrom - (x.rampFrom - dest) * x.rampPos / max 1 x.rampLen else dest

/-- The cap in force, mW: the lower of the commanded one and that of the thermal level (R472). -/
def Cpw.cap (x : Cpw) : Nat := min x.cmdCap (1000 * reefCap x.thermal)

/-! ### Test blocks (R444) -/

/-- Test power of a block, W. -/
def testPower (b : Nat) : Nat :=
  if b < 8 then 30 else if b = 8 then 20 else if b < 15 then 18
  else [8, 10, 4, 1, 3, 3, 2].getD (b - 15) 0

/-- The default order. -/
def testOrder : List Nat := [19, 21, 18, 15, 8, 0, 1, 2, 3, 4, 5, 6, 7, 16, 17, 20, 9, 10, 11, 12, 13, 14]

/-- Blocks under test. -/
def Tst.busy (x : Tst) : List Nat := x.runs.flatMap (·.active)

/-- Power the tests may take, W: TST_CFG.budget, and no more than the cap less 60 W (R446). -/
def State.testBudget (s : State) : Nat := min s.tst.budget (s.cpw.cap / 1000 - 60)

/-- A block that is passed over: the Ethernet ports while Plinth needs them, the twin link while it is in use (R445). -/
def State.testSkips (s : State) (b : Nat) : Bool :=
  (b == 17 && !(s.plinth.mode == 0x80 || s.plinth.mode == 0x84)) || (b == 20 && !(s.twin.state == twDown || s.twin.state == twLost))

/-- Start the blocks of run `i` that may start: each in its turn, while its power fits. -/
def State.runStart (s : State) (i : Nat) : Nat → State
  | 0 => s
  | n + 1 =>
    match s.tst.runs[i]? with
    | none => s
    | some r =>
      match r.todo with
      | [] => s
      | b :: t =>
        let put := fun (q : TestRun) => s.upTst fun x => { x with runs := x.runs.set i q }
        if s.testSkips b then
          (put { r with todo := t, skipped := r.skipped + 1, results := Tab.set r.results b { result := 3 } }).runStart i n
        else if s.tst.busy.contains b ∨ s.testBudget < sumN (s.tst.busy.map testPower) + testPower b then s
        else (put { r with todo := t, active := b :: r.active }).runStart i n

/-- Start what may start; the blocks of a shut-down test wait for the store. -/
def State.testStart (s : State) : State :=
  (List.range s.tst.runs.length).foldl (fun s i =>
    if (s.tst.runs.getD i {}).shut ∧ s.tst.phase ≠ 4 then s else s.runStart i 22) s

/-! ### The shut-down test before its blocks (R445) -/

/-- Plans retire: an ACTIVE one at the end of its period, an ARMED one at once. -/
def State.retirePlans (s : State) : State :=
  planNos.foldl (fun s i =>
    let p := s.plan i
    if p.state = 0x52 then (s.setPlan i { p with state := 0x51 }).closeOp 0x611 i stFault { canc := true }
    else if p.state = 0x53 then s.setPlan i { p with state := 0x54 }
    else s) s

/-- The shut-down test goes on once what it waits for is over: no plan runs, so jobs are cancelled and contexts
destroyed; no context is left, so the store is told that the run is not valid. -/
def State.shutGo (s : State) : State :=
  let s :=
    if s.tst.phase = 1 ∧ ¬ planNos.any (fun i => (s.plan i).runs) then
      let s := s.upTst fun x => { x with phase := 2 }
      let s := ctxNos.foldl State.destroyCtx s
      streamNos.foldl State.closeStream s
    else s
  if s.tst.phase = 2 ∧ ¬ ctxNos.any (fun c => (s.ctx c).present) then
    let n := s.storeWaits
    (s.storePut fun r => { r with resValid := false }).upTst fun x => { x with phase := 3, hold := n }
  else s

/-- CONTEXT_SCRUB_COMPLETE. -/
def execContextScrubComplete (ctx : Fin 64) (s : State) : Host.Outcome State Fault Refusal := .next (s.ctxScrubbed ctx.val).shutGo

end Sys2Proof.Machine
end

