-- ==== Sys2Proof/Machine/Launch.lean ====
section
/-! DEFINITION. Period instants and launch points of sail plans, and the deadline monitors (R71, R275, R310 to R313, R316 to
R320). -/

namespace Sys2Proof.Machine

/-! ### Period instants (R310, R311, R313) -/

/-- A TQ list of a plan waits on a FENCE_WAIT for a masked fence: the index of the wait. -/
def Job.masked (j : Job) (slot : Nat) (mask : BitVec 16) : Option Nat :=
  if (j.plan.map (·.1)) = some slot then
    j.flight.find? fun i => let c := j.cmds.getD i []; cOp c == opFWait && mask.getLsbD (cf c 1 3 0)
  else none

/-- Every TQ list of a plan that waits for a masked fence stops with FLT_TT_OVERRUN (R311). -/
def State.stopWaiting (s : State) (slot : Nat) : State :=
  engNos.foldl (fun s e =>
    match (s.engine e).tq with
    | j :: _ =>
      match j.masked slot (s.plan slot).fences with
      | some i => ((s.stopJob e 4 i fltTtOverrun {} .all).upPlan slot fun p => { p with cntOverrun := p.cntOverrun + 1 }).event (40 + slot)
      | none => s
    | [] => s) s

/-- What happens at a period instant of a plan: waiting lists stop, masked fences become 0 (R311). -/
def State.periodActs (s : State) (slot : Nat) : State :=
  let s := s.stopWaiting slot
  let p := s.plan slot
  s.upCtx p.ctx fun x => { x with fences := x.fences.filter fun f => ¬ p.fences.getLsbD f.1 }

/-- PLAN_START_INSTANT: an ARMED plan becomes ACTIVE at its start instant, with the final reply to PLAN_ACTIVATE (R310). -/
def State.planStart (s : State) (slot : Nat) : State :=
  let p := s.plan slot
  if p.state ≠ 0x52 then s
  else
    let s := s.passTo p.start
    let s := (s.upPlan slot fun p => { p with state := 0x53, count := 0, periodNs := p.start }).periodActs slot
    s.closeOp 0x611 slot stOk { lo := wd (p.start % 1000000000), hi := wd (p.start / 1000000000) }

/-- PLAN_START_INSTANT. -/
def execPlanStartInstant (slot : Fin 8) (s : State) : Host.Outcome State Fault Refusal := .next (s.planStart slot.val)

/-- PERIOD_INSTANT: the next period of an ACTIVE plan begins; a RETIRING one becomes ADMITTED (R311, R313). -/
def State.periodInstant (s : State) (slot : Nat) : State :=
  let p := s.plan slot
  let t := p.periodNs + p.period
  if p.state = 0x53 then
    let s := (s.passTo t).periodActs slot
    let c := (p.count + 1) % 2 ^ 32
    s.upPlan slot fun p => { p with count := c, periodNs := t, launched := p.launched.filter fun l => l.2 = c }
  else if p.state = 0x54 then
    let s := (s.passTo t).periodActs slot
    (s.upPlan slot fun p => { p with state := 0x51, movers := [] }).closeOp 0x612 slot stOk {}
  else s

/-- PERIOD_INSTANT. -/
def execPeriodInstant (slot : Fin 8) (s : State) : Host.Outcome State Fault Refusal := .next (s.periodInstant slot.val).shutGo

/-! ### Launches -/

/-- The points of a plan before one that launch in its present period too have launched: equal offsets launch in table order
(R11, R311), and the table stands in order of offset. -/
def Plan.inOrder (p : Plan) (i : Nat) : Bool :=
  (List.range i).all fun j => !ptIn (p.points.getD j []) p.count || p.launched.contains (j, p.count)

/-- The point that launches: of this kind, in this period, its turn in the table, and not launched in it yet, while launches are
made. -/
def State.launchPt (s : State) (slot i kind : Nat) : Option (List Word) :=
  let p := s.plan slot
  match p.points[i]? with
  | some pt =>
    if s.launches ∧ (p.state = 0x53 ∨ p.state = 0x54) ∧ ptKind pt = kind ∧ ptIn pt p.count ∧ p.inOrder i ∧ ¬ p.launched.contains (i, p.count) then
      some pt else none
  | none => none

/-- Its instant is reached, and it is marked as launched in its period. -/
def State.launch (s : State) (slot i : Nat) (pt : List Word) : State :=
  let p := s.plan slot
  (s.passTo (p.periodNs + ptOfs pt)).upPlan slot fun p => { p with launched := (i, p.count) :: p.launched }

/-- A TQ start is discarded: counted, and the list has ended without completing (R71, R457). -/
def State.dropStart (s : State) (e : Nat) (pl : Nat × Nat × Nat) : State :=
  ((s.upEngine e fun x => { x with cntTtDrop := x.cntTtDrop + 1 }).event (64 + 8 * e + 2)).listEnded e pl false

/-- LAUNCH_LIST: TQ starts the list, or it waits behind a delayed one, up to four starts (R71). -/
def State.launchList (s : State) (slot i : Nat) : State :=
  match s.launchPt slot i 1 with
  | none => s
  | some pt =>
    let p := s.plan slot
    let e := ptEngine pt
    let s := s.launch slot i pt
    let pl := (slot, i, p.count)
    let n := (s.engine e).tq.length
    let j : Job :=
      { hdr := { ctx := p.ctx }, ctx := p.ctx, cmds := (Tab.find p.lists i).getD [], plan := some pl, begun := n == 0
        launchNs := p.periodNs + ptOfs pt, taken := s.now, route := s.jobRoutes p.ctx false }
    if s.tst.engines.getLsbD e ∨ 5 ≤ n then s.dropStart e pl
    else
      let s := s.upEngine e fun x => { x with tq := x.tq ++ [j] }
      if n = 0 then s
      else (s.upEngine e fun x => { x with cntTtLate := x.cntTtLate + 1 }).event (64 + 8 * e + 2)

/-- LAUNCH_LIST. -/
def execLaunchList (slot : Fin 8) (point : Nat) (s : State) : Host.Outcome State Fault Refusal := .next (s.launchList slot.val point)

/-- TQ_PENDING_START: the list ahead has ended, and the pending start begins (R71). -/
def execTqPendingStart (e : Fin 8) (s : State) : Host.Outcome State Fault Refusal :=
  .next (match (s.engine e.val).tq with
    | j :: t => if j.begun then s else s.upEngine e.val fun x => { x with tq := { j with begun := true } :: t }
    | [] => s)

/-! ### MOVER points (R317) -/

/-- The transfer of a MOVER point starts. The bytes of a mailbox transfer count its prefix (log 59). -/
def State.startMover (s : State) (slot i count : Nat) (pt : List Word) : State :=
  let p := s.plan slot
  let mb := bit (wat pt 2) 4
  { s with xferNo := s.xferNo + 1
           transfers := s.transfers ++ [{ id := s.xferNo, hdr := { ctx := p.ctx }, src := ptVa pt 3, dst := if mb then 0 else ptVa pt 5
                                          len := if mb then fld (wat pt 7) 19 0 - 16 else fld (wat pt 7) 19 0, mover := fld (wat pt 2) 3 0, plan := some (slot, i, count), mailbox := mb }] }

/-- A transfer of a period is not made. -/
def State.skipMover (s : State) (slot : Nat) : State := s.upPlan slot fun p => { p with cntSkip := p.cntSkip + 1 }

/-- A MOVER that waits on its list: it starts, is skipped, or goes on waiting. -/
def State.moverTry (s : State) (slot i count : Nat) (pt : List Word) : State :=
  let p := s.plan slot
  let d := fld (wat pt 2) 15 6
  let rest := p.movers.filter fun m => ¬ (m.point = i ∧ m.count = count)
  match p.ends.find? fun x => x.point == d && x.count == count with
  | some x =>
    let s := s.setPlan slot { p with movers := rest }
    if x.ok then s.startMover slot i count pt else s.skipMover slot
  | none => s.setPlan slot { p with movers := rest ++ [{ point := i, count := count }] }

/-- LAUNCH_MOVER: a transfer of an earlier period that still waits is not made. -/
def State.launchMover (s : State) (slot i : Nat) : State :=
  match s.launchPt slot i 2 with
  | none => s
  | some pt =>
    let c := (s.plan slot).count
    let s := s.launch slot i pt
    let old := ((s.plan slot).movers.filter fun m => m.point = i).length
    let s := (List.range old).foldl (fun s _ => s.skipMover slot) s
    let s := s.upPlan slot fun p => { p with movers := p.movers.filter fun m => m.point ≠ i }
    if bit (wat pt 2) 5 then s.moverTry slot i c pt else s.startMover slot i c pt

/-- LAUNCH_MOVER. -/
def execLaunchMover (slot : Fin 8) (point : Nat) (s : State) : Host.Outcome State Fault Refusal := .next (s.launchMover slot.val point)

/-- MOVER_DEP_START. -/
def execMoverDepStart (slot : Fin 8) (point : Nat) (s : State) : Host.Outcome State Fault Refusal :=
  .next (match (s.plan slot.val).movers.find? fun m => m.point == point with
    | some m => s.moverTry slot.val point m.count ((s.plan slot.val).points.getD point [])
    | none => s)

/-! ### SAMPLE and TELLTALE points (R260, R262, R275, R320) -/

/-- LAUNCH_SAMPLE: the instant is a set instant of the stream or group: a set opens there, unless one lies within the
tolerance. -/
def State.launchSample (s : State) (slot i : Nat) : State :=
  match s.launchPt slot i 3 with
  | none => s
  | some pt =>
    let p := s.plan slot
    let s := s.launch slot i pt
    let n := fld (wat pt 2) 4 0
    let x := s.stream n
    let b := s.btOf n
    let t := (p.periodNs + ptOfs pt) * 65536
    if x.state ≠ 0x42 ∧ x.state ≠ 0x43 then s
    else
      match setNear (s.setsOf b) x.cfg.tol t with
      | some _ => s
      | none => s.putSets b (insSet { t := t, got := [] } (s.setsOf b))

/-- LAUNCH_SAMPLE. -/
def execLaunchSample (slot : Fin 8) (point : Nat) (s : State) : Host.Outcome State Fault Refusal := .next (s.launchSample slot.val point)

/-- Write a golden output of stream `n` to the telltale slot, which follows the others (R272, R275). The sample number is
left open by the spec: a free value. -/
def State.putGolden (s : State) (n count stamp : Nat) (sm : Sample) (bs : List Byte) : State :=
  let x := s.stream n
  let b := s.btOf n
  let lead := s.btLead b
  let base := s.slotVa b (s.stream lead).slots
  let k := ((s.btStreams b).findIdx? (· == n)).getD 0
  let off := s.dataOfs b 0 k
  let w := s.draw
  let s := w.2
  let d : Desc := { (x.desc sm stamp) with no := w.1.toNat, off := off, stream := n, tele := true, rep := false }
  let hdr := fun (c : Word) => bytesOf (slotHeader lead b count 1 (s.btStreams b).length false c)
  let s := s.slotWr lead base (hdr 0xFFFFFFFF)
  let s := (s.slotWr lead (base + 64) (bytesOf d.words)).slotWr lead (base + off) bs
  s.slotWr lead base (hdr (wd count))

/-- Bytes of a golden input as the plan's context maps them: those of a sample, or a compressed still, which its own markers
end, up to the end of its allocation (log 54). -/
def State.goldenLen (s : State) (n c va : Nat) : Nat :=
  if (s.stream n).source = 2 then
    match (s.ctx c).maps.find? fun m => decide (m.va ≤ va ∧ va < m.va + m.len) with
    | some m => min (m.va + m.len - va) 16777214
    | none => 0
  else (s.stream n).rawBytes

/-- The golden input passes stages 6 to 9; a golden still is decoded first, and one that the decoder refuses gives no
output. -/
def State.golden (s : State) (n count stamp : Nat) (bs : List Byte) : State :=
  let x := s.stream n
  if x.source = 2 then
    match x.decodeStill bs x.format x.sampleBytes with
    | .ok (w, h, k, d) =>
      s.putGolden n count stamp { addr := w, lines := h } (x.stages x.format x.layout w h (x.still x.cfg.yuv k w d))
    | .error _ => s
  else s.putGolden n count stamp {} (x.output bs)

/-- LAUNCH_TELLTALE: the stream's stages are held for the window, and the golden input passes stages 6 to 9. -/
def State.launchTelltale (s : State) (slot i : Nat) : State :=
  match s.launchPt slot i 4 with
  | none => s
  | some pt =>
    let p := s.plan slot
    let s := s.launch slot i pt
    let n := fld (wat pt 2) 4 0
    let x := s.stream n
    if x.state = 0x40 then s
    else
      let s := s.upStream n fun y => { y with tele := some (slot, i, p.periodNs + ptOfs pt + (wat pt 3).toNat) }
      match s.vrd (some mFe) p.ctx (ptVa pt 4) (s.goldenLen n p.ctx (ptVa pt 4)) with
      | .ok g => s.golden n p.count ((p.periodNs + ptOfs pt) * 65536) g
      | .error (.denied a) => s.violation mFe 0 a false
      | .error _ => s

/-- LAUNCH_TELLTALE. -/
def execLaunchTelltale (slot : Fin 8) (point : Nat) (s : State) : Host.Outcome State Fault Refusal :=
  .next (s.launchTelltale slot.val point)

/-- The stream whose stages a telltale point holds, and the instant at which its window ends. -/
def State.toldBy (s : State) (slot i : Nat) : Option (Nat × Nat) :=
  streamNos.findSome? fun n =>
    match (s.stream n).tele with
    | some (a, b, t) => if a = slot ∧ b = i then some (n, t) else none
    | none => none

/-- TELLTALE_WINDOW_END: the stages go on, and sets that waited are passed (R320). -/
def State.telltaleEnd (s : State) (slot i : Nat) : State :=
  match s.toldBy slot i with
  | none => s
  | some (n, t) => ((s.passTo t).upStream n fun y => { y with tele := none }).passSets 64 (s.btOf n)

/-- TELLTALE_WINDOW_END. -/
def execTelltaleWindowEnd (slot : Fin 8) (point : Nat) (s : State) : Host.Outcome State Fault Refusal :=
  .next (s.telltaleEnd slot.val point)

/-! ### Deadline monitors (R318, R319, R330, R342, R358) -/

/-- LAUNCH_MONITOR: the monitor is armed for the period. -/
def State.launchMonitor (s : State) (slot i : Nat) : State :=
  match s.launchPt slot i 6 with
  | none => s
  | some pt =>
    let p := s.plan slot
    let s := s.launch slot i pt
    let m := fld (wat pt 2) 5 0
    let every := p.period * ptDiv pt
    let s := if m = s.actionMon ∧ fld (wat pt 2) 7 6 = 0 then
        s.upPlinth fun x => { x with actPeriod := every, actDue := p.periodNs + ptOfs pt + (wat pt 3).toNat + every }
      else s
    s.setMonitor m
      { armed := true, slot := slot, point := i, count := p.count, watch := fld (wat pt 2) 7 6, wpoint := fld (wat pt 2) 17 8
        expiry := p.periodNs + ptOfs pt + (wat pt 3).toNat, expect := wat pt 4
        order := 1 + s.monitors.foldl (fun a m => max a m.2.order) 0 }

/-- LAUNCH_MONITOR. -/
def execLaunchMonitor (slot : Fin 8) (point : Nat) (s : State) : Host.Outcome State Fault Refusal := .next (s.launchMonitor slot.val point)

/-- A monitor's fault in a period: the comparator treats the action of that period as missing (R318, R358, R364). -/
def State.periodMissed (s : State) (slot count : Nat) : State :=
  let same := (s.monitor s.actionMon).slot = slot
  s.upPlinth fun x =>
    { x with missed := ((slot, count) :: x.missed).take 64
             inst := x.inst.map fun i => if same ∧ i.count = count then { i with payload := none } else i }

/-- An instance of the action monitor awaits its decision (R358). -/
def State.newInstance (s : State) (slot count : Nat) (expired : Bool) (payload : Option (List Word)) : State :=
  let bad := s.plinth.missed.contains (slot, count)
  s.upPlinth fun x => { x with inst := some { count := count, expired := expired, payload := if bad then none else payload } }

/-- MONITOR_EXPIRY: an unsatisfied monitor raises FLT_TT_OVERRUN (R318). -/
def State.monitorExpiry (s : State) (m : Nat) : State :=
  let x := s.monitor m
  if ¬ x.armed then s
  else
    let s := (s.passPln x.expiry).setMonitor m { x with armed := false }
    let s := ((s.plnFault fltTtOverrun 2 m).upPlan x.slot fun p => { p with cntOverrun := p.cntOverrun + 1 }).event (40 + x.slot)
    let s := s.periodMissed x.slot x.count
    if m = s.actionMon ∧ x.watch = 0 then s.newInstance x.slot x.count true none else s

/-- MONITOR_EXPIRY. -/
def execMonitorExpiry (m : Fin 64) (s : State) : Host.Outcome State Fault Refusal := .next (s.monitorExpiry m.val)

/-- The armed ACTION monitor of a plan slot for a period count (R318). -/
def State.actionFor (s : State) (slot count : Nat) : Option Nat :=
  (s.monitors.find? fun m => m.2.armed && m.2.watch == 0 && m.2.slot == slot && m.2.count == count && decide (s.pnow < m.2.expiry)).map (·.1)

/-- A mailbox write is discarded and counted (R318, R358, R365). -/
def State.mailDrop (s : State) : State := (s.upPlinth fun x => { x with cntMailbox := x.cntMailbox + 1 }).event 451

/-- MAILBOX_WRITE: a setpoint-mailbox transfer reaches Plinth. -/
def State.mailboxWrite (s : State) (data : List Byte) (crcOk : Bool) : State :=
  if ¬ crcOk then s.upPlinth fun x => { x with cntBridge := x.cntBridge + 1 }
  else
    let body := data.drop 16
    let w := fun i => wordAt data (4 * i)
    if data.length < 16 ∨ fld (w 0) 31 3 ≠ 0 ∨ (w 2).toNat ≠ data.length ∨ w 3 ≠ crc32c body then
      s.mailDrop.plnFault fltMailbox 0 0
    else
      let slot := fld (w 0) 2 0
      match s.actionFor slot (w 1).toNat with
      | none => s.mailDrop
      | some m =>
        let s := s.upMonitor m fun x => { x with satisfied := true, armed := false }
        if m ≠ s.actionMon then s.mailDrop
        else
          match s.trim.active with
          | none => s.newInstance slot (w 1).toNat false none
          | some im =>
            match payloadEls im (wordsOf body) with
            | some els => s.newInstance slot (w 1).toNat false (some els)
            | none => (s.upTrim fun t => { t with cntBadAct := t.cntBadAct + 1 }).newInstance slot (w 1).toNat false none

/-- MAILBOX_WRITE. -/
def execMailboxWrite (data : List Byte) (crcOk : Bool) (s : State) : Host.Outcome State Fault Refusal := .next (s.mailboxWrite data crcOk)

/-- TELLTALE_DIGEST: the digest of a telltale list reaches its monitor, and is compared with the one expected (R318, R319). -/
def State.telltaleDigest (s : State) (m : Nat) : State :=
  match planNos.findSome? fun i => ((s.plan i).digests.find? fun d => d.1 == m).map fun d => (i, d) with
  | none => s
  | some (slot, d) =>
    let s := s.upPlan slot fun p => { p with digests := p.digests.erase d }
    let x := s.monitor m
    if x.armed ∧ x.watch = 2 ∧ x.slot = slot ∧ x.count = d.2.1 ∧ x.wpoint = d.2.2.1 ∧ s.pnow < x.expiry then
      let s := s.setMonitor m { x with armed := false, satisfied := true }
      if d.2.2.2 = x.expect then s
      else (((s.plnFault fltTelltale 2 m).upPlan slot fun p => { p with cntTelltale := p.cntTelltale + 1 }).event (48 + slot)).periodMissed slot x.count
    else s

/-- TELLTALE_DIGEST. -/
def execTelltaleDigest (m : Fin 64) (s : State) : Host.Outcome State Fault Refusal := .next (s.telltaleDigest m.val)

end Sys2Proof.Machine
end

