-- ==== Sys2Proof/Machine/Slice.lean ====
section
/-! DEFINITION. Online self-test slices (R321, R322, R453 to R457). -/

namespace Sys2Proof.Machine

/-! ### The offer (R453, R456) -/

/-- A point of plan slot `i` launches at the Halyard instant `t` in the present period. -/
def State.ptAtInstant (s : State) (i : Nat) (pt : List Word) (t : Nat) : Bool :=
  let p := s.plan i
  decide (0x53 ≤ p.state ∧ p.state ≤ 0x54) && ptIn pt p.count && decide (p.periodNs + ptOfs pt = t)

/-- Engines that have a SELFTEST instant at `t`. -/
def State.selftestAt (s : State) (t : Nat) : List Nat :=
  engNos.filter fun e => planNos.any fun i =>
    (s.plan i).points.any fun pt => ptKind pt == 5 && ptEngine pt == e && s.ptAtInstant i pt t

/-- A slice runs on another engine, or was offered there and is to run; a due DP slice that has not started is none. -/
def State.sliceElsewhere (s : State) (e : Nat) : Bool :=
  s.engines.any fun p => p.1 != e && (p.2.slice == 2 || (p.2.slice == 1 && !p.2.sliceDp))

/-- The engine TST chooses at an instant: unfenced, its last completed slice the oldest, the lowest number on a tie. -/
def State.sliceChoice (s : State) (t : Nat) : Option Nat :=
  leastBy (fun e => (s.engine e).lastSlice) ((s.selftestAt t).filter fun e => !s.tst.engines.getLsbD e)

/-- The guard instant that a slice of an engine has from an instant on: 20 us before the next LIST launch on it (R321). -/
def State.guardFrom (s : State) (e t : Nat) : Option Nat := (s.nextLaunch e [1] t).map fun t => t - 20000

/-- LAUNCH_SELFTEST: the slice is offered to the engine of the point, or the instant passes. An offer of an earlier
instant that still waits is deferred. -/
def State.launchSelftest (s : State) (slot i : Nat) : State :=
  match s.launchPt slot i 5 with
  | none => s
  | some pt =>
    let p := s.plan slot
    let s := s.launch slot i pt
    let e := ptEngine pt
    let x := s.engine e
    if s.sliceElsewhere e ∨ x.slice = 2 ∨ s.sliceChoice (p.periodNs + ptOfs pt) ≠ some e then
      s.upTst fun y => { y with cntYield := y.cntYield + 1 }
    else
      let s := if x.slice = 1 ∧ ¬ x.sliceDp then s.upPlan x.slicePlan fun q => { q with cntDefer := q.cntDefer + 1 } else s
      s.upEngine e fun y => { y with slice := 1, slicePlan := slot, sliceDp := false, sliceGuard := (s.guardFrom e s.now).getD 0 }

/-- LAUNCH_SELFTEST. -/
def execLaunchSelftest (slot : Fin 8) (point : Nat) (s : State) : Host.Outcome State Fault Refusal :=
  .next (s.launchSelftest slot.val point)

/-- DP_SLICE_DUE: the interval of a rotated DP engine ends, and its queues stop issuing (R456). -/
def State.dpSliceDue (s : State) (e : Nat) : State :=
  let x := s.engine e
  if ¬ s.tst.dpMask.getLsbD e ∨ s.tst.engines.getLsbD e ∨ x.slice ≠ 0 then s
  else
    let s := s.passTo (x.lastSlice + s.tst.interval * 1000000)
    s.upEngine e fun y => { y with slice := 1, sliceDp := true, sliceGuard := (s.guardFrom e s.now).getD 0 }

/-- DP_SLICE_DUE. -/
def execDpSliceDue (e : Fin 8) (s : State) : Host.Outcome State Fault Refusal := .next (s.dpSliceDue e.val)

/-! ### The slice (R321, R454, R455) -/

/-- The worst-case duration of a slice, ns. -/
def sliceNs : Nat := 50000

/-- The slice is not taken: a plan's slice is counted as deferred. -/
def State.sliceDefer (s : State) (e : Nat) : State :=
  let x := s.engine e
  let s := s.upEngine e fun y => { y with slice := 0, sliceGuard := 0 }
  (if x.sliceDp then s else s.upPlan x.slicePlan fun p => { p with cntDefer := p.cntDefer + 1 }).schedule

/-- The engine is at rest for its slice: TQ is idle, and on a DP engine the commands have come to their preemption points. -/
def State.sliceReady (s : State) (e : Nat) : Bool :=
  let x := s.engine e
  x.tq.isEmpty && (!x.sliceDp || slotNos.all fun k => !s.mustFinish e k &&
    match (x.slot k).ctx with
    | some c => !s.readsDue c e
    | none => true)

/-- SLICE_START: the slice starts, or is deferred where it could not end before the guard instant, which counts from the instant
at which it was offered, or where, at Reef 3, its 20 W do not fit. -/
def State.sliceStart (s : State) (e : Nat) : State :=
  let x := s.engine e
  if x.slice ≠ 1 ∨ ¬ s.sliceReady e ∨ s.engines.any (fun p => p.1 != e && p.2.slice == 2) then s
  else
    let g := optMin (if x.sliceGuard = 0 then none else some x.sliceGuard) (s.guardFrom e s.now)
    let late : Bool := match g with
      | some t => decide (t < s.now + sliceNs)
      | none => false
    if late = true ∨ (s.cpw.reef = 3 ∧ 70000 < s.cpw.power) then s.sliceDefer e
    else
      let s := s.upEngine e fun y => { y with slice := 2, test := true, sliceGuard := g.getD 0 }
      s.upTst fun y => { y with slice := true, engine := e }

/-- SLICE_START. -/
def execSliceStart (e : Fin 8) (s : State) : Host.Outcome State Fault Refusal := .next (s.sliceStart e.val)

/-- The engine is re-initialised and issues again. -/
def State.sliceOver (s : State) (e : Nat) : State :=
  (s.upEngine e fun y => { y with slice := 0, test := false, sliceDp := false, sliceGuard := 0 }).upTst fun y =>
    { y with slice := false }

/-- The slice is aborted at its guard instant, and its result is discarded. -/
def State.sliceAbort (s : State) (e : Nat) : State :=
  let x := s.engine e
  if x.slice = 2 ∧ x.sliceGuard ≠ 0 then
    let s := (s.passTo x.sliceGuard).upPlan x.slicePlan fun p => { p with cntAbort := p.cntAbort + 1 }
    (s.sliceOver e).schedule
  else s

/-- SLICE_GUARD_ABORT. -/
def execSliceGuardAbort (e : Fin 8) (s : State) : Host.Outcome State Fault Refusal := .next (s.sliceAbort e.val)

/-- A result of a block that failed, with the values the spec leaves open drawn free: the duration, the place and the
signature. -/
def State.drawResult (s : State) (result : Nat) (online : Bool) : TestRes × State :=
  let a := s.draw
  let b := a.2.draw
  let c := b.2.draw
  let d := c.2.draw
  ({ result := result, online := online, dur := a.1
     whereLo := if result = 1 then 0 else b.1, whereHi := if result = 1 then 0 else c.1
     time := (s.hal.words.getD 0 0, s.hal.words.getD 1 0, s.hal.words.getD 2 0), sig := d.1 }, d.2)

/-- A fenced engine: resident DP contexts are saved away, and the fence goes into the store (R457). -/
def State.sliceFence (s : State) (e : Nat) : State :=
  let s := s.upTst fun y => { y with cntFail := y.cntFail + 1, engines := setBit y.engines e true }
  let r := s.drawResult 2 true
  let s := r.2.storePut fun q => { q with results := Tab.set q.results e r.1 }
  slotNos.foldl (fun s k =>
    let x := (s.engine e).slot k
    match x.ctx with
    | some c => if s.ctxTT c ∨ x.draining ∨ x.saving then s else s.startSave e k false
    | none => s) s

/-- SLICE_END: the signature agrees or the engine is fenced (R454, R457). One that has not ended at its guard instant was
aborted there. -/
def State.sliceEnd (s : State) (e : Nat) (ok : Bool) : State :=
  let x := s.engine e
  if x.slice ≠ 2 then s
  else if x.sliceGuard ≠ 0 ∧ x.sliceGuard < s.now then s.sliceAbort e
  else
    let s := (s.sliceOver e).upEngine e fun y => { y with lastSlice := s.now, starveFrom := s.now }
    let s := s.upTst fun y =>
      { y with cntSlice := y.cntSlice + 1, nextSlice := Tab.set y.nextSlice e ((Tab.get 0 y.nextSlice e + 1) % 64) }
    let s := s.event (64 + 8 * e + 4)
    (if ok then s else s.sliceFence e).schedule

/-- SLICE_END. -/
def execSliceEnd (e : Fin 8) (ok : Bool) (s : State) : Host.Outcome State Fault Refusal := .next (s.sliceEnd e.val ok)

/-- An engine is tested online: a running plan uses it, it is rotated, or it has completed a slice. -/
def State.slicesDue (s : State) (e : Nat) : Bool :=
  s.tst.dpMask.getLsbD e || (s.engine e).lastSlice != 0 ||
    planNos.any fun i => (s.plan i).runs && (s.plan i).engines.getLsbD e

/-- TEST_STARVED: 100 ms have passed without a completed slice (R322). -/
def State.testStarved (s : State) (e : Nat) : State :=
  if ¬ s.slicesDue e then s
  else
    let s := s.passTo ((s.engine e).starveFrom + 100000000)
    let s := s.upEngine e fun x => { x with starveFrom := s.now }
    let s := (s.fault fltTestStarved 0 255 e 0).event 353
    { s with plans := s.plans.map fun p =>
      if p.2.points.any fun pt => ptKind pt == 1 && ptEngine pt == e then (p.1, { p.2 with cntStarved := p.2.cntStarved + 1 }) else p }

/-- TEST_STARVED. -/
def execTestStarved (e : Fin 8) (s : State) : Host.Outcome State Fault Refusal := .next (s.testStarved e.val)

end Sys2Proof.Machine
end

