-- ==== Sys2Proof/Machine/Tst.lean ====
section
/-! DEFINITION. The test controller's runs, results and loop-backs, and the end of a write of the store (R442, R444 to
R452, R456, R458 to R460). -/

namespace Sys2Proof.Machine

/-! ### Runs -/

/-- The blocks a packet lists, or the default order (R445). -/
def testList (p : Packet) : List Nat :=
  if p.hdr.expert then (List.range (p.f 4 4 0)).map fun i => p.f (5 + i) 4 0 else testOrder

/-- The life-cycle state allows test functions (R452). -/
def State.testOpen (s : State) : Bool := decide (1 ≤ s.sec.code ∧ s.sec.code ≤ 5)

/-- DEV_SHUTDOWN (R445). -/
def shutBegin (p : Packet) (s : State) : Ans :=
  refuseIf (!s.testOpen) stState (wd s.sec.code) <|
  refuseIf (s.plinth.mode == mPolicy && s.planRuns) stState (wd s.dev) <|
    .pend 0 0 0 fun s =>
      let s := s.upTst fun x => { x with runs := x.runs ++ [{ no := p.hdr.no, shut := true, todo := testList p }], phase := 1 }
      (s.enterDev devShutdown).retirePlans.shutGo

/-- DEV_SHUTDOWN. -/
def execDevShutdown (k : Nat) (s : State) : Host.Outcome State Fault Refusal := runPacket 0x007 k shutBegin s

/-- A mover bound to a plan or a route: a MOVER point of a plan loaded names it, or a route slot of a context or of a job
(R450; DEDUCED, log 180). -/
def State.moverTied (s : State) (m : Nat) : Bool :=
  (planNos.any fun i => (s.plan i).points.any fun q => fld (wat q 1) 2 0 == 2 && fld (wat q 2) 3 0 == m) ||
    (ctxNos.any fun c => (s.ctx c).routes.any fun r => r.2.bound && r.2.mover == m) ||
    engNos.any fun e => qNos.any fun q => (s.queue e q).any fun j => j.route.any fun r => r.2.mover == m

/-- A block that a TEST_RUN may not name now (R450). -/
def State.testHeld (s : State) (b : Nat) : Bool :=
  if b < 8 then (s.partOf b).isSome
  else if b = 15 then (List.range 16).any fun m => s.moverTied m
  else if b = 16 then s.fe.streams.any fun x => x.2.state != 0x40
  else if b = 17 then !(s.plinth.mode == mInit || s.plinth.mode == mStop)
  else if b = 20 then s.twin.state != twDown
  else true

/-- Finish run `r`: TEST_RUN replies at once, the shut-down test writes its results first (R445, R448). -/
def State.runOver (s : State) (r : TestRun) : State :=
  if r.shut then
    let w := s.hal.words
    let n := s.storeWaits
    let s := s.storePut fun q =>
      { q with resValid := true, resFwver := s.sec.verC, resTime := (w.getD 0 0, w.getD 1 0, w.getD 2 0)
               resPassed := r.passed, resFailed := r.failed, resSkipped := r.skipped
               results := r.results ++ q.results.filter fun x => x.2.online && (Tab.find r.results x.1).isNone }
    s.upTst fun x => { x with phase := 5, hold := n }
  else
    ((s.upTst fun x => { x with runs := x.runs.filter fun q => q.no ≠ r.no }).event 352).closeNo r.no stOk
      { lo := wd r.passed, hi := wd r.failed, d1 := wd r.skipped }

/-- Start what may start, and finish the runs whose blocks have all ended. -/
def State.testGo (s : State) : State :=
  let s := s.testStart
  let s := s.upTst fun x =>
    { x with latest := x.runs.foldl (fun l r => r.results.foldl (fun l y => if y.2.result = 3 then Tab.set l y.1 y.2 else l) l) x.latest }
  (s.tst.runs.filter fun r => r.todo.isEmpty && r.active.isEmpty && (!r.shut || s.tst.phase == 4)).foldl State.runOver s

/-- TEST_RUN (R450). -/
def testRun (p : Packet) (s : State) : Ans :=
  let l := testList p
  refuseIf (!s.testOpen) stState (wd s.sec.code) <|
  refuseIf (l.any s.testHeld) stState (wd s.dev) <|
  refuseIf (l.any fun b => s.tst.runs.any fun r => r.todo.contains b || r.active.contains b) stBusy 0 <|
    .pend 0 0 0 fun s => (s.upTst fun x => { x with runs := x.runs ++ [{ no := p.hdr.no, todo := l }] }).testGo

/-- TEST_RUN. -/
def execTestRun (k : Nat) (s : State) : Host.Outcome State Fault Refusal := runPacket 0xA00 k testRun s

/-! ### The end of a block (R444, R447) -/

/-- The compute-die fences that a failed block of a TEST_RUN or a stored result sets: engine, mover, port and link; a block
without a fence makes the device FAULTED, but for the Ethernet ports. `where` names the failed movers of block 15 at
[15:0], the failed camera ports of block 16 at [7:0] and its shared stages at [8]. -/
def State.fenceBlock (s : State) (b loc : Nat) : State :=
  if b < 8 then s.upTst fun x => { x with engines := setBit x.engines b true }
  else if b = 15 then s.upTst fun x => { x with movers := x.movers ||| BitVec.ofNat 16 loc }
  else if b = 16 then
    let s := s.upTst fun x => { x with ports := x.ports ||| BitVec.ofNat 8 loc }
    if loc / 256 % 2 = 1 then s.enterDev devFaulted else s
  else if b = 17 then s
  else if b = 20 then s.upTst fun x => { x with shrFail := true }
  else s.enterDev devFaulted

/-- Re-initialisation of a block: its registers at their reset values, its memories zero (R447). The counter of HAL keeps
running (R444); SEC keeps what fuses, store and BOOT put in it; links stay up. -/
def State.reinit (s : State) (b : Nat) : State :=
  if b < 8 then
    let x := s.engine b
    (s.setEngine b { lastSlice := x.lastSlice, starveFrom := x.starveFrom }).zero (spmBase b) (64 * spmWords)
  else if b = 8 then ({ s with commons := {} } : State).zero commonsBase 0x4000000
  else if b < 15 then
    let n := b - 9
    let mine := fun (k : Nat) => k % 6 == n
    { s with mem := s.mem.filter fun c => ¬ (c.1 < psmSize ∧ psmStack c.1 = n)
             psmc := { s.psmc with
               cntSym := s.psmc.cntSym.filter fun p => p.1 != n, cntRow := s.psmc.cntRow.filter fun p => p.1 != n
               cntUnc := s.psmc.cntUnc.filter fun p => p.1 != n, cntReplay := s.psmc.cntReplay.filter fun p => p.1 != n
               uncorr := s.psmc.uncorr.filter fun a => psmStack a != n
               replays := s.psmc.replays.filter fun p => !mine p.1, replayAt := s.psmc.replayAt.filter fun p => !mine p.1 } }
  else if b = 16 then
    { s with fe := { ports := s.fe.ports.map fun p => (p.1, ({ up := p.2.up } : CsiPort)) } }
  else if b = 17 then
    s.upHal fun h => { h with ports := h.ports.map fun p => (p.1, ({ up := p.2.up } : HalPort)) }
  else if b = 18 then s.upHal fun h => { sec := h.sec, ns := h.ns, f := h.f, hclk := h.hclk, ports := h.ports }
  else if b = 19 then { s with evc := {} }
  else if b = 20 then s.upTwin fun x =>
      { x with state := twDown, up := false, side := false, lanes := 0, cntReplay := 0, cntDigest := 0, cntRedirect := 0, cntLate := 0 }
  else if b = 21 then
    ({ s with xlt := {}, sch := {}, clients := s.clients.map fun p =>
        (p.1, { p.2 with waitNs := 0, runNs := 0, preempts := 0, preemptedNs := 0, starve := 0 }) } : State).upSec fun x =>
      { x with violCnt := 0, violMaster := 0, violWrite := false, violEntry := 0, violAddr := 0 }
  else s

/-- TEST_BLOCK_COMPLETE: the block's result, its re-initialisation, and the blocks its power makes room for (R446). -/
def State.blockDone (s : State) (b : Nat) (ok : Bool) (dur loc : Nat) (sig : Word) : State :=
  match s.tst.runs.find? fun r => r.active.contains b with
  | none => s
  | some r =>
    let w := s.hal.words
    let res : TestRes :=
      { result := if ok then 1 else 2, dur := wd dur, whereLo := if ok then 0 else wd loc, whereHi := if ok then 0 else wd (loc / 2 ^ 32)
        time := (w.getD 0 0, w.getD 1 0, w.getD 2 0), sig := sig }
    let r' : TestRun :=
      { r with active := r.active.filter (· ≠ b), passed := r.passed + if ok then 1 else 0, failed := r.failed + if ok then 0 else 1
               results := Tab.set r.results b res }
    let s := (s.reinit b).upTst fun x =>
      { x with runs := x.runs.map fun q => if q.no = r.no then r' else q, latest := Tab.set x.latest b res }
    (if ok ∨ r.shut then s else s.fenceBlock b loc).testGo

/-- TEST_BLOCK_COMPLETE. -/
def execTestBlockComplete (b : Fin 22) (ok : Bool) (dur loc : Nat) (sig : Word) (s : State) : Host.Outcome State Fault Refusal :=
  .next (s.blockDone b.val ok dur loc sig)

/-- TEST_RESULT (R451). -/
def testResult (p : Packet) (s : State) : Ans :=
  let b := p.f 4 4 0
  let r := Tab.get {} (if p.f 4 5 5 = 1 then s.store.cur.results else s.tst.latest) b
  .done s { d0 := wd r.result, d1 := r.whereLo, lo := r.dur, hi := r.sig }

/-- TEST_RESULT. -/
def execTestResult (k : Nat) (s : State) : Host.Outcome State Fault Refusal := runPacket 0xA01 k testResult s

/-! ### The end of a write of the store (R442, R445) -/

/-- The shut-down test counts the writes it waits for; then its blocks start, or its final reply is sent. -/
def State.testStored (s : State) : State :=
  if s.tst.hold = 0 then s
  else
    let s := s.upTst fun x => { x with hold := x.hold - 1 }
    if s.tst.hold ≠ 0 then s
    else if s.tst.phase = 3 then (s.upTst fun x => { x with phase := 4 }).testGo
    else if s.tst.phase = 5 then
      match s.tst.runs.find? fun r => r.shut with
      | none => s
      | some r =>
        ((s.upTst fun x => { x with phase := 0, runs := x.runs.filter fun q => !q.shut }).event 352).closeNo r.no stOk
          { lo := wd r.passed, hi := wd r.failed, d1 := wd r.skipped }
    else s

/-- STORE_WRITE_COMPLETE: the write is over, or is made once more; the next one begins, and what waited goes on. -/
def State.storeWritten (s : State) (ok : Bool) : State :=
  let r := s.storeDone ok
  if r.1 then r.2.storeNext.updStored.testStored else r.2

/-- STORE_WRITE_COMPLETE. -/
def execStoreWriteComplete (ok : Bool) (s : State) : Host.Outcome State Fault Refusal := .next (s.storeWritten ok)

/-! ### Loop-backs and rotation (R456, R458, R459) -/

/-- The condition of an interface's loop-back. -/
def State.loopOpen (s : State) (iface index : Nat) : Bool :=
  if iface = 0 then !s.fe.streams.any fun x => x.2.source == 0 && x.2.port == index && (x.2.state == 0x41 || x.2.state == 0x42)
  else if iface = 1 then s.plinth.mode == mInit || s.plinth.mode == mStop
  else if iface = 2 then s.dev == devShutdown && s.tst.runs.isEmpty
  else if iface = 3 then s.twin.state == twDown
  else !s.svp.opened

/-- LOOPBACK_SET. What a loop-back has counted depends on the line, so its end reports free values. -/
def loopbackSet (p : Packet) (s : State) : Ans :=
  let iface := p.f 4 2 0
  let index := p.f 4 10 4
  let depth := p.f 4 14 12
  let used := [0, 1, 2, 3].find? fun k =>
    let l := Tab.get ({} : LoopBack) s.tst.loops k
    l.depth != 0 && l.iface == iface && l.index == index
  refuseIf (!s.testOpen) stState (wd s.sec.code) <|
    if depth = 0 then
      match used with
      | none => .refuse stState (wd s.dev)
      | some k =>
        let a := s.draw
        let b := a.2.draw
        .done (b.2.upTst fun x => { x with loops := Tab.erase x.loops k }) { lo := a.1, hi := b.1 }
    else
      refuseIf (!s.loopOpen iface index) stState (wd s.dev) <|
        match used.or ([0, 1, 2, 3].find? fun k => (Tab.get ({} : LoopBack) s.tst.loops k).depth == 0) with
        | none => .refuse stNospace
        | some k =>
          let l : LoopBack := { iface := iface, index := index, depth := depth, pattern := p.f 4 17 16 }
          .done (s.upTst fun x => { x with loops := Tab.set x.loops k l }) { lo := wd k }

/-- LOOPBACK_SET. -/
def execLoopbackSet (k : Nat) (s : State) : Host.Outcome State Fault Refusal := runPacket 0xA02 k loopbackSet s

/-- TEST_ROTATE_CFG (R456). -/
def testRotateCfg (p : Packet) (s : State) : Ans :=
  let m := p.f 4 7 0
  let dp := fun (e : Nat) => match s.partOf e with
    | some q => !(s.part q).tt
    | none => false
  refuseIf (!(bitsOf 8 m).all dp) stState (wd s.dev) <|
    .done (s.upTst fun x => { x with dpMask := BitVec.ofNat 8 m, interval := p.f 4 23 8 }) {}

/-- TEST_ROTATE_CFG. -/
def execTestRotateCfg (k : Nat) (s : State) : Host.Outcome State Fault Refusal := runPacket 0xA03 k testRotateCfg s

end Sys2Proof.Machine
end

