-- ==== Sys2Proof/Machine/Reset.lean ====
section
/-! DEFINITION. Clocks, power, reset and boot (R424, R426, R430, R431, R461 to R475). -/

namespace Sys2Proof.Machine

/-! ### What a reset leaves (R466, R467) -/

/-- The device after a reset of the core island: its registers and memories at their reset values. Kept: the always-on island
(CPW, the service port, the Ethernet links and their counters), the boot flash with the store's banks, fuses, Plinth, host
memory, and what the model itself keeps. Halyard restarts, and the watchdog and the service port count anew from there. A store write that was under way is lost, and its bank is not valid. -/
def State.coreReset (s : State) : State :=
  let r := State.reset
  { r with
    mem := s.mem.filter fun c => hostBase ≤ c.1
    plinth := s.plinth, trim := s.trim, monitors := s.monitors
    twin := { s.twin with
      state := 0x90, lanes := 0, side := false, up := false, cntReplay := 0, cntDigest := 0, cntRedirect := 0, cntLate := 0
      peerKey := [], preset := 0, boost := 0, pairs := [], prefixes := [], peerPrefixes := [], peerReq := none, reqAt := 0
      peerAt := 0 }
    sec := { r.sec with
      lc := s.sec.lc, svnC := s.sec.svnC, svnP := s.sec.svnP, verP := s.sec.verP, keyrev := s.sec.keyrev, fwKeys := s.sec.fwKeys
      ownerKeys := s.sec.ownerKeys, safetyKeys := s.sec.safetyKeys, revoked := s.sec.revoked, imgP := s.sec.imgP
      seedGone := s.sec.seedGone }
    store := { s.store with writing := none, again := false, queued := false }
    flash := s.flash, svp := { s.svp with frameAt := 0 }
    hal := { r.hal with ports := s.hal.ports.map fun p =>
      (p.1, ({ up := p.2.up, queues := p.2.queues, drops := p.2.drops } : HalPort)) }
    cpw := { s.cpw with align := false, coreHeld := true, resetDue := false, reefDue := false, pllOk := true, wdogAt := 0 }
    outs := s.outs, bus := s.bus, free := s.free, pending := s.pending, takenNo := s.takenNo }

/-- The device after a power-on reset: the always-on island starts anew as well, FLASH_RSTn and ETH_PHY_RSTn low (R487,
R488). -/
def State.powerReset (s : State) : State :=
  let s := s.coreReset
  { s with cpw := {}, svp := {}, hal := { s.hal with ports := [] } }

/-- A reset of the core island with its cause bit. -/
def State.resetFor (s : State) (cause : Nat) : State := s.coreReset.upCpw fun x => { x with cause := setBit x.cause cause true }

/-- POWER_ON_RESET. -/
def execPowerOnReset (s : State) : Host.Outcome State Fault Refusal := .next s.powerReset

/-- CORE_RAIL_FAULT: the core island is held in reset until the rail is good. -/
def execCoreRailFault (s : State) : Host.Outcome State Fault Refusal :=
  .next (if s.cpw.coreOn then (s.resetFor 1).upCpw fun x => { x with railBad := true } else s)

/-- CORE_RAIL_GOOD: the core island starts from t2. -/
def execCoreRailGood (s : State) : Host.Outcome State Fault Refusal := .next (s.upCpw fun x => { x with railBad := false })

/-- WATCHDOG_EXPIRY, the timeout after the last write of CPW_WDOG (R466, R475). -/
def execWatchdogExpiry (s : State) : Host.Outcome State Fault Refusal :=
  .next (if s.cpw.wdog = 0 ∨ ¬ s.cpw.coreOn then s else (s.passTo (s.cpw.wdogAt + s.cpw.wdog * 1000000)).resetFor 3)

/-- CPW_WDOG_WRITE: a write sets the timeout and restarts the count; the expiry is a command of its own. -/
def execCpwWdogWrite (m : Fin 64) (v : Word) (s : State) : Host.Outcome State Fault Refusal :=
  .next (s.checked m.val 0x02700020 true fun s => s.upCpw fun x => { x with wdog := fld v 15 0, wdogAt := s.hal.nowNs })

/-- DEV_RESET_COMPUTE (R59, R63, R468): the reply, and the reset 1 ms later. -/
def devResetCompute (_ : Packet) (s : State) : Ans :=
  refuseIf (s.dev != devShutdown && s.plinth.mode != mMaq && planNos.any fun i => (s.plan i).state == 0x53) stState (wd s.dev) <|
    .pend 0 0 0 fun s => (s.closeOp 0x008 0 stOk {}).resetSoon

/-- DEV_RESET_COMPUTE. -/
def execDevResetCompute (k : Nat) (s : State) : Host.Outcome State Fault Refusal := runPacket 0x008 k devResetCompute s

/-- CORE_RESET_DELAY: the 1 ms is over (R426, R468). -/
def execCoreResetDelay (s : State) : Host.Outcome State Fault Refusal :=
  .next (if s.cpw.resetDue then (s.passTo (s.cpw.resetAt + 1000000)).resetFor 2 else s)

/-! ### Boot (R430, R431, R449) -/

/-- A compute slot is marked as failed. -/
def StoreRec.failed (r : StoreRec) (slot : Nat) : Bool := if slot = 0 then r.failA else r.failB

/-- The slot that boots, and whether it is the other one. -/
def State.bootChoice (s : State) (b : BootFacts) : Option (Nat × Bool) :=
  let r := s.store.cur
  if b.activeOk ∧ ¬ r.failed r.slotC then some (r.slotC, false)
  else if b.otherOk ∧ ¬ r.failed (1 - r.slotC) then some (1 - r.slotC, true)
  else none

/-- The results of the last shut-down test do not count: not final, lost, or of another firmware (R449). -/
def State.testStale (s : State) : Bool :=
  !s.store.cur.resValid || s.store.lost || s.store.cur.resFwver != s.sec.verC

/-- Fences from the stored results: every failed block unless they are stale, and engines that an online slice failed
(R449, R457). -/
def State.bootFences (s : State) : State :=
  let stale := s.testStale
  let s := s.upTst fun x => { x with stale := stale }
  (s.store.cur.results.filter fun p => p.2.result = 2 ∧ (¬ stale ∨ p.2.online)).foldl
    (fun s p => s.fenceBlock p.1 (w64 p.2.whereLo p.2.whereHi)) s

/-- An update session resumes from the store (R437); one of the service port, which is still open, is over (R439). -/
def State.bootSession (s : State) : State :=
  if s.store.cur.sess = 0x60 then s
  else if s.svp.opened then s.updIdle
  else
    let s := s.upUpd fun x => { x with target := s.store.cur.sessTarget }
    s.updState (if s.updMissing.isEmpty then 0x63 else 0x62)

/-- Firmware runs: results, granules and the session from the store, the image confirmed if it is new, ready. -/
def State.bootReady (s : State) : State :=
  let s := s.upPsmc fun x => { x with granules := s.store.cur.granules, stackUp := 63, trained := true }
  let s := s.upCpw fun x => { x with align := true }
  let s := s.upHif fun h => { h with ready := true }
  let s := (s.enterDev devReady).bootFences
  let m := (s.slotOf (slotIdx 0 s.sec.bootSlot)).manifest
  let s := if s.store.cur.tries = 0 ∨ s.sec.fallback then s
    else if m.isEmpty then s.storePut fun r => { r with tries := 0 } else s.confirm m
  s.bootSession

/-- CORE_RESET_RELEASE: the boot sequence (R430). PORn is high by then, and FLASH_RSTn and ETH_PHY_RSTn with it (R464, R487). -/
def State.boot (s : State) (b : BootFacts) : State :=
  if ¬ s.cpw.coreOn ∨ ¬ s.cpw.coreHeld ∨ s.cpw.railBad ∨ s.store.writing.isSome then s
  else
    let s := s.upCpw fun x => { x with coreHeld := false, flashRst := true, ethRst := true }
    let s := s.storeLoad
    if s.sec.lc = 0 ∨ s.sec.lc = 6 then s
    else
      match s.bootChoice b with
      | none => s.upSec fun x => { x with noImage := true }
      | some (slot, fb) =>
        let i := slotIdx 0 slot
        let m := (s.slotOf i).manifest
        let s := s.upSec fun x =>
          { x with bootSlot := slot, fallback := fb, locked := true
                   verC := if m.isEmpty then b.fwver else wordAt m 16
                   imgC := sha512 (if m.isEmpty then Config.factoryImage i else s.slotImage i)
                   table := b.table.map fun e =>
                     (e.1 % 128, { base := e.2.1, space := e.2.2.1, limit := e.2.2.2.1
                                   rmask := BitVec.ofNat 64 e.2.2.2.2.1, wmask := BitVec.ofNat 64 e.2.2.2.2.2 }) }
        match b.trainFail with
        | some q => ((s.upPsmc fun x => { x with trainFail := true, failChan := q.val }).event 259).enterDev devFaulted
        | none => ({ s with mem := s.mem.filter fun c => hostBase ≤ c.1 } : State).bootReady

/-- CORE_RESET_RELEASE. -/
def execCoreResetRelease (boot : BootFacts) (s : State) : Host.Outcome State Fault Refusal := .next (s.boot boot)

/-- BOOT_TRY_TIMEOUT: a newly activated slot has not set ready within 2 s; the try is counted and the slot started again,
or after the third one marked as failed (R431). -/
def State.bootTimeout (s : State) : State :=
  let s := if s.cpw.coreHeld then s.storeLoad else s
  if s.store.cur.tries = 0 ∨ s.hif.ready ∨ ¬ s.cpw.coreOn ∨ s.dev ≠ devInit then s
  else
    let s := s.upCpw fun x => { x with coreHeld := true }
    s.storePut fun r =>
      if r.tries < 3 then { r with tries := r.tries + 1 }
      else { r with tries := 0, failA := r.failA || r.slotC == 0, failB := r.failB || r.slotC == 1 }

/-- BOOT_TRY_TIMEOUT. -/
def execBootTryTimeout (s : State) : Host.Outcome State Fault Refusal := .next s.bootTimeout

/-! ### Reef levels (R469 to R473) -/

/-- The effective level follows the commanded and the thermal one (R472); at level 3 the DP scale is 0 (R470). The
commanded level counts once its cap is reached (R471). -/
def State.reefTo (s : State) (l : Nat) : State :=
  if s.cpw.reef = l then s
  else (s.upCpw fun x => { x with reef := l, k := if l = 3 then 0 else x.k }).event 384

/-- The commanded cap is in force: the level, the reply, and before level 4 the 1 ms until CORE_EN falls (R471). -/
def State.reefReached (s : State) : State :=
  let x := s.cpw
  let s := s.upCpw fun y => { y with ramping := false }
  let s := s.reefTo (max x.target x.thermal)
  let s := s.closeOp 0x004 0 stOk { lo := wd x.prev, hi := wd (reefCap x.target) }
  if x.target = 4 then s.upCpw fun y => { y with reefDue := true, reefAt := s.hal.nowNs } else s

/-- DEV_REEF_SET (R471). One that comes while a lower cap is being reached waits for it. -/
def devReefSet (p : Packet) (s : State) : Ans :=
  let l := p.f 4 2 0
  let share := fun (i : Nat) => p.f 6 (8 * i + 7) (8 * i)
  let badShare := p.hdr.expert && [0, 1, 2, 3].any fun i => share i != 0 && (!(s.part i).present || (s.part i).tt)
  if s.cpw.ramping then .hold
  else
    refuseIf badShare stFormat (det 6 0) <|
    refuseIf (l == 4 && s.planRuns && s.plinth.mode == mPolicy) stState (wd s.dev) <|
      .pend 0 0 0 fun s =>
        let s := { s with partitions := s.partitions.map fun (q : Nat × Partition) => (q.1, { q.2 with share := if p.hdr.expert then share q.1 else 0 }) }
        let x := s.cpw
        let lower := decide (reefCap l < reefCap x.target)
        let s := s.upCpw fun y =>
          { y with prev := x.target, target := l, ramping := lower, rampFrom := 1000 * reefCap x.target, rampPos := 0
                   rampLen := 10 * (if p.hdr.expert then p.f 5 9 0 else 1) }
        if lower then s else s.reefReached

/-- DEV_REEF_SET. -/
def execDevReefSet (k : Nat) (s : State) : Host.Outcome State Fault Refusal := runPacket 0x004 k devReefSet s

/-- The DP scale after an update: 0 at Reef 3; falling while the power is above the cap, rising toward 64 while it is at
least 10 % below; at most 4 units. How far it moves is left open (R469). -/
def nextScale (k reef power cap free : Nat) : Nat :=
  if reef = 3 then 0
  else if cap < power then k - (1 + free % 4)
  else if power * 10 ≤ cap * 9 then min 64 (k + 1 + free % 4)
  else min 64 (k + free % 9 - 4)

/-- POWER_MANAGER_UPDATE, every 100 µs, with the 1 ms average of the package power in mW (R469, R470, R475). -/
def State.powerUpdate (s : State) (power : Nat) : State :=
  let s := s.upCpw fun x => { x with power := power, peak := max x.peak power }
  let s := if s.cpw.ramping then
      let s := s.upCpw fun x => { x with rampPos := x.rampPos + 1 }
      if s.cpw.rampLen ≤ s.cpw.rampPos then s.reefReached else s
    else s
  let d := s.draw
  let s := d.2.upCpw fun x =>
    let overAt := decide (x.cap < power) && x.k == 0
    let n := if overAt then x.overUs + 1 else x.overUs
    { x with k := nextScale x.k x.reef power x.cap d.1.toNat
             overUs := if n = 10 then 0 else n, cntOver := if n = 10 then x.cntOver + 1 else x.cntOver }
  s.schedule

/-- POWER_MANAGER_UPDATE. -/
def execPowerManagerUpdate (power : Nat) (s : State) : Host.Outcome State Fault Refusal :=
  .next ((s.passTo (s.tickAt 100000)).powerUpdate power)

/-- CORE_EN falls: the core island is unpowered (R465, R473). -/
def State.coreOff (s : State) : State :=
  s.coreReset.upCpw fun x => { x with coreOn := false, reef := 4, ramping := false }

/-- REEF4_ENTRY: 1 ms after the reply. -/
def execReef4Entry (s : State) : Host.Outcome State Fault Refusal := 
  .next (if s.cpw.reefDue then (s.passTo (s.cpw.reefAt + 1000000)).coreOff else s)

/-- Tjmax, units of 0.125 °C. -/
def tjmax : Int := if Config.industrial then 840 else 760

/-- WAKE: WAKEn low at Reef 4 powers the core island up, once T is below Tjmax − warn (R466, R474). -/
def State.wakeUp (s : State) : State :=
  if s.cpw.coreOn ∨ tjmax - 8 * s.cpw.warn ≤ s.cpw.temp then s
  else s.upCpw fun x =>
    { x with coreOn := true, coreHeld := true, target := x.wakeReef, prev := x.target, reef := max x.wakeReef x.thermal
             k := if max x.wakeReef x.thermal = 3 then 0 else x.k, cause := setBit x.cause 5 true }

/-- WAKE. -/
def execWake (s : State) : Host.Outcome State Fault Refusal := .next s.wakeUp

/-! ### Thermal limits (R474) -/

/-- T is at or above the throttle point (R474). -/
def Cpw.hotAt (x : Cpw) (t : Int) : Bool := decide (tjmax - 8 * x.throttleCfg ≤ t)

/-- The sensors as a thermal command finds them: T is the hotter of the compute-die and the stack sensor. Which of the two
it is, how warm the other one is, and Plinth's temperature are open: free values (R474, R475, log 141). CPW_STATUS.throttle is
1 while T is at or above the throttle point, and while the thermal level is above 0: R474 and R475 (DEDUCED, log 179). -/
def State.felt (s : State) (t : Int) : State :=
  let a := s.draw
  let b := a.2.draw
  let cooler : BitVec 12 := BitVec.ofInt 12 (min t (b.1.setWidth 12 : BitVec 12).toInt)
  b.2.upCpw fun y =>
    { y with temp := t, throttle := y.hotAt t || decide (0 < y.thermal), tempCd := if a.1.getLsbD 0 then BitVec.ofInt 12 t else cooler
             tempPsm := if a.1.getLsbD 0 then cooler else BitVec.ofInt 12 t, tempPln := a.1.extractLsb' 16 12 }

/-- THERMAL_LEVEL_TIMER, every 100 ms, with the hottest sensor in units of 0.125 °C. -/
def State.thermalTick (s : State) (t : Int) : State :=
  let x := s.cpw
  let hot := x.hotAt t
  let s := s.felt t
  let follow := fun (s : State) => if s.cpw.coreOn ∧ s.cpw.reef ≠ 4 then
      s.reefTo (max (if s.cpw.ramping then s.cpw.prev else s.cpw.target) s.cpw.thermal) else s
  if hot then
    (follow (s.upCpw fun y =>
      { y with cool := 0, throttle := true, thermal := min 3 (y.thermal + 1), cntThrottle := if y.thermal < 3 then y.cntThrottle + 1 else y.cntThrottle })).schedule
  else if t < tjmax - 8 * x.warn then
    if x.cool + 1 = 10 then (follow (s.upCpw fun y => { y with cool := 0, thermal := y.thermal - 1, throttle := decide (1 < y.thermal) })).schedule
    else s.upCpw fun y => { y with cool := y.cool + 1 }
  else s.upCpw fun y => { y with cool := 0 }

/-- THERMAL_LEVEL_TIMER. -/
def execThermalLevelTimer (temp : Int) (s : State) : Host.Outcome State Fault Refusal :=
  .next ((s.passTo (s.tickAt 100000000)).thermalTick temp)

/-- THERMAL_WARN_CROSSING: event 385 and a warning. -/
def State.thermalWarn (s : State) (t : Int) : State :=
  let s := s.felt t
  if tjmax - 8 * s.cpw.warn ≤ t then (s.event 385).fault fltThermal 0 255 0 0 else s

/-- THERMAL_WARN_CROSSING. -/
def execThermalWarnCrossing (temp : Int) (s : State) : Host.Outcome State Fault Refusal := .next (s.thermalWarn temp)

/-- THERMAL_SHUTDOWN: event 386, the fatal fault, and CORE_EN low. -/
def State.thermalOff (s : State) (t : Int) : State :=
  let s := s.felt t
  if ¬ s.cpw.coreOn ∨ t < tjmax + 80 then s
  else ((s.event 386).fault fltThermal 5 255 0 0).coreOff.upCpw fun x => { x with cause := setBit x.cause 4 true }

/-- THERMAL_SHUTDOWN. -/
def execThermalShutdown (temp : Int) (s : State) : Host.Outcome State Fault Refusal := .next (s.thermalOff temp)

/-! ### ALIGN (R462, R463) -/

/-- A phase mismatch or a lost PLL: ALIGN is lost and the compute die FAULTED; arg0 is the clock domain. -/
def State.alignLost (s : State) (dom : Nat) : State :=
  (s.upCpw fun x => { x with align := false }).fault fltHalCopy 5 255 0 (wd dom)

/-- ALIGN_EPOCH: the comparison of the dividers' phases. -/
def execAlignEpoch (ok : Bool) (dom : Nat) (s : State) : Host.Outcome State Fault Refusal :=
  .next (if ok ∨ ¬ s.cpw.align then s else s.alignLost dom)

/-- PLL_LOCK_LOSS: PLL 0 is PLL_C, 1 to 6 are PLL_M0 to PLL_M5, 7 is PLL_A, 8 the Ethernet SerDes PLL. Which of the four
domains of PLL_C is named is open. -/
def State.pllLost (s : State) (pll : Nat) : State :=
  if 7 ≤ pll then s.powerReset.upCpw fun x => { x with cause := setBit x.cause 6 true }
  else if ¬ s.cpw.coreOn ∨ s.cpw.coreHeld then s
  else if pll = 0 then let d := s.draw; (d.2.upCpw fun x => { x with pllOk := false }).alignLost (1 + d.1.toNat % 4)
  else (s.upCpw fun x => { x with pllOk := false }).alignLost (5 + pll)

/-- PLL_LOCK_LOSS. -/
def execPllLockLoss (pll : Fin 9) (s : State) : Host.Outcome State Fault Refusal := .next (s.pllLost pll.val)

end Sys2Proof.Machine
end

