-- ==== Sys2Proof/Machine/Debug.lean ====
section
/-! DEFINITION. The debug master (R159, R424, R426). -/

namespace Sys2Proof.Machine

/-- A device physical address holds a word: PSM, the explicit part of the Commons, a scratchpad (R147, R161, R169). -/
def State.devWord (s : State) (a : Nat) : Bool :=
  decide (a + 4 ≤ psmSize) || decide (commonsBase ≤ a ∧ a + 4 ≤ commonsBase + s.commons.x * 2 ^ 20) ||
    (decide (spmBase 0 ≤ a ∧ a < spmBase 8) && decide (a % 0x1000000 + 4 ≤ 64 * spmWords))

/-- The word lies in a region in SCRUB, round-up words included, that no debug session holds: no master reads it (R159). -/
def State.inScrub (s : State) (a : Nat) : Bool :=
  if spmBase 0 ≤ a ∧ a < spmBase 8 then
    let e := (a - spmBase 0) / 0x1000000
    ((s.engine e).cleats ++ (s.engine e).vacated).any fun p => p.2.state == 3 && !p.2.hold &&
      (p.2.regionPieces e).any fun q => decide (q.1 ≤ a ∧ a < q.1 + q.2)
  else false

/-- DEBUG_MASTER_ACCESS: a word is read or written by physical address. -/
def State.dbgAccess (s : State) (a : Nat) (data : Option Word) : State :=
  let write := data.isSome
  if ¬ s.allowed 47 0 a 4 write then s.refusedAccess 47 0 a write
  else if ¬ s.devWord a ∨ s.psmc.uncorr.contains (burstOf a) ∨ s.psmc.spmUncorr.contains (burstOf a) then s.busAns 2 []
  else if s.inScrub a then s.refusedAccess 47 0 a write
  else
    match data with
    | some w => (s.put a (wordBytes w)).busAns 0 []
    | none => s.busWord (s.rdW a)

/-- DEBUG_MASTER_ACCESS. -/
def execDebugMasterAccess (addr : Nat) (data : Option Word) (s : State) : Host.Outcome State Fault Refusal :=
  .next (s.dbgAccess addr data)

end Sys2Proof.Machine
end

