-- ==== Sys2Proof/Machine/Evc.lean ====
section
/-! DEFINITION. The event controller's register accesses and hold-off timers (R411 to R422). -/

namespace Sys2Proof.Machine

/-- The group's hold-off starts (R418). -/
def Evc.hold (v : Evc) (g now : Nat) : Evc :=
  if Tab.get 0 v.holdoff g = 0 then v
  else { v with holding := setBit v.holding g true, holdAt := Tab.set v.holdAt g now }

/-- Processor `k` claims: the chosen source becomes active and its group's hold-off starts; with none deliverable the
read gives 0x3FF and is counted (R413). -/
def State.evcClaim (s : State) (k : Nat) : State :=
  match s.evc.choice k with
  | none => (s.upEvc fun v => { v with cntSpur := v.cntSpur + 1 }).busWord 0x3FF
  | some src =>
    (s.upEvc fun v =>
      ({ v with pend := Tab.set v.pend (src / 32) (Tab.get 0 v.pend (src / 32) &&& ~~~ wd (2 ^ (src % 32)))
                active := Tab.set v.active src (k + 1) }).hold (src / 32) s.hal.nowNs).busWord (wd src)

/-- EVC_CLAIM_READ (R413, R414). -/
def execEvcClaimRead (m : Fin 64) (k : Fin 4) (s : State) : Host.Outcome State Fault Refusal :=
  .next (if m.val < 16 then s.hostUr else s.checked m (0x100304 + 0x10 * k) false fun s => s.evcClaim k)

/-- EVC_EOI_WRITE: the source named stops being active if the processor holds it; else the write is counted (R415). -/
def State.evcEoi (s : State) (k : Nat) (v : Word) : State :=
  let src := fld v 8 0
  if Tab.get 0 s.evc.active src = k + 1 then
    s.upEvc fun x => { x with active := Tab.erase x.active src }
  else s.upEvc fun x => { x with cntBadEoi := x.cntBadEoi + 1 }

/-- EVC_EOI_WRITE (R415, R421). -/
def execEvcEoiWrite (m : Fin 64) (k : Fin 4) (v : Word) (s : State) : Host.Outcome State Fault Refusal :=
  .next (if m.val < 16 then s.hostUr else s.checked m (0x100308 + 0x10 * k) true fun s => s.evcEoi k v)

/-- A host's write of a register that is not among those it may write: it has no effect, in D3hot Unsupported Request
(R30, R421). -/
def State.unwritten (s : State) : State := if s.hif.d3hot then s.hostUr else s

/-- A write of EVC_SETg: the bits written are events (R422). -/
def State.evcSet (s : State) (g : Nat) (v : Word) : State := s.events ((bitsOf 32 v.toNat).map (32 * g + ·))

/-- A write of EVC_PENDg: the bits written are cleared, but for those that an event sets in the same cycle (R8, R412). -/
def State.evcUnpend (s : State) (g : Nat) (v same : Word) : State :=
  (s.upEvc fun x => { x with pend := Tab.set x.pend g (Tab.get 0 x.pend g &&& ~~~v) }).events
    ((bitsOf 32 same.toNat).map (32 * g + ·))

/-- A write of EVC_BRG_LATCH: the latches written are cleared, and the bridge looks at their groups again (R420). -/
def State.evcUnlatch (s : State) (v : Word) : State :=
  (s.upEvc fun x => { x with latch := x.latch &&& ~~~(BitVec.ofNat 16 (fld v 15 0)) }).evcBridgeAll

/-- A write of EVC_CTRL; where delivery is released the bridge looks at every group (R417). -/
def State.evcDisable (s : State) (v : Word) : State := (s.upEvc fun x => { x with disable := bit v 0 }).evcBridgeAll

/-- EVC_SET_WRITE: the bits written are events; the host is not among those who may write it (R421, R422). -/
def execEvcSetWrite (m : Fin 64) (g : Fin 16) (v : Word) (s : State) : Host.Outcome State Fault Refusal :=
  .next (if m.val < 16 then s.unwritten else s.checked m (0x100180 + 4 * g) true fun s => s.evcSet g v)

/-- EVC_PEND_WRITE: the bits written are cleared, but for those that an event sets in the same cycle (R412). -/
def execEvcPendWrite (m : Fin 64) (g : Fin 16) (v same : Word) (s : State) : Host.Outcome State Fault Refusal :=
  .next (s.checked m (0x100140 + 4 * g) true fun s => s.evcUnpend g v same)

/-- EVC_BRG_LATCH_WRITE: the latches written are cleared, and the bridge looks at their groups again (R420). -/
def execEvcBrgLatchWrite (m : Fin 64) (v : Word) (s : State) : Host.Outcome State Fault Refusal :=
  .next (s.checked m 0x100440 true fun s => s.evcUnlatch v)

/-- EVC_DISABLE_WRITE: EVC_CTRL is written; where delivery is released the bridge looks at every group (R417). -/
def execEvcDisableWrite (m : Fin 64) (v : Word) (s : State) : Host.Outcome State Fault Refusal :=
  .next (if m.val < 16 then s.unwritten else s.checked m 0x100000 true fun s => s.evcDisable v)

/-- HOLDOFF_EXPIRY (R418). -/
def execHoldoffExpiry (g : Fin 16) (s : State) : Host.Outcome State Fault Refusal :=
  .next (if s.evc.holding.getLsbD g then
    ((s.passTo (Tab.get 0 s.evc.holdAt g + 1000 * Tab.get 0 s.evc.holdoff g)).upEvc fun x => { x with holding := setBit x.holding g false }).evcBridge g else s)

end Sys2Proof.Machine
end

