-- ==== Sys2Proof/Machine/Aperture.lean ====
section
/-! DEFINITION. Apertures, slots, intake and reply rings (R34 to R54). -/

namespace Sys2Proof.Machine

/-! ### Slots (R35 to R38) -/

/-- Slot `i` of an aperture. -/
def Aperture.slot (a : Aperture) (i : Nat) : Slot := if i = 0 then a.slot0 else if i = 1 then a.slot1 else a.slot2

/-- Replace it. -/
def Aperture.setSlot (a : Aperture) (i : Nat) (x : Slot) : Aperture :=
  if i = 0 then { a with slot0 := x } else if i = 1 then { a with slot1 := x } else { a with slot2 := x }

/-- Change slot `i` of aperture `n`. -/
def State.upApSlot (s : State) (n i : Nat) (g : Slot → Slot) : State := s.upAp n fun a => a.setSlot i (g (a.slot i))

/-- The slot is freed: word 0 is zero, and it is busy no more (R38). -/
def State.freeSlot (s : State) (n i : Nat) : State :=
  s.upApSlot n i fun x => { words := Tab.erase x.words 0 }

/-- The aperture is enabled. -/
def State.apOn (s : State) (n : Nat) : Bool := s.hif.apEnable.getLsbD n

/-- A discarded write is counted (R36). -/
def State.apDiscard (s : State) (n : Nat) : State := s.upAp n fun a => { a with cntDiscard := a.cntDiscard + 1 }

/-- The header fields of a packet as received (R41). -/
def hdrOf (ap : Nat) (w : Nat → Word) : Hdr :=
  { ap := ap, opcode := fld (w 0) 11 0, expert := bit (w 0) 12, quiet := bit (w 0) 13, ordered := bit (w 0) 14, top := bit (w 0) 15
    sequence := w 1, ctx := fld (w 2) 7 0, ring := fld (w 2) 15 8, cls := fld (w 2) 17 16 }

/-- A refusal that is due: written into the default ring's hold and the slot freed, or it waits for a free record of that
hold; on an unregistered default ring it is counted alone (R38, R49, R54). -/
def State.refuseSlot (s : State) (n i : Nat) (r : RefusalInfo) : State :=
  let d := s.ring (4 * n)
  if ¬ d.registered then (s.countRefusal n r.status).freeSlot n i
  else if d.holdFree = 0 then s.upApSlot n i fun x => { x with snap := none, refuse := some r }
  else
    let s := s.countRefusal n r.status
    (s.pushReply (4 * n) (s.mkReply r.hdr r.status { d0 := r.detail0 } true true)).freeSlot n i

/-- The bad length of R37. -/
def badLength (l : Nat) : Bool := decide (l < 5 ∨ l = 4095)

/-- An accepted write has landed: the slot is examined (R37). -/
def State.examine (s : State) (n i first count : Nat) : State :=
  let x := (s.ap n).slot i
  let w := fun k => Tab.get (0 : Word) x.words k
  let l := fld (w 0) 27 16
  if first = 0 ∧ l = 0 then s
  else if first = 0 ∧ badLength l then
    (s.upApSlot n i fun x => { x with busy := true }).refuseSlot n i { status := stRange, detail0 := det 0 16, hdr := hdrOf n w }
  else if 5 ≤ l ∧ l ≤ 4094 ∧ first ≤ l - 1 ∧ l - 1 < first + count then
    let s := s.upApSlot n i fun x =>
      { x with busy := true, snap := some ((List.range l).map w), order := s.hif.sealOrder }
    s.upHif fun h => { h with sealOrder := h.sealOrder + 1 }
  else s

/-- Words written into a slot, from word `k` on. -/
def putWords : List (Nat × Word) → Nat → List Word → List (Nat × Word)
  | t, _, [] => t
  | t, k, w :: ws => putWords (Tab.set t k w) (k + 1) ws

/-- SLOT_WRITE: a write of whole words at a byte offset of an aperture; `full` where every byte enable is set (R36, R37). A write
that reaches words 4,094 or 4,095 or past its slot's end is discarded whole (DESIGN CHOICE, log 152). -/
def State.slotWrite (s : State) (n off : Nat) (ws : List Word) (full : Bool) : State :=
  let i := off / 0x4000
  let first := off % 0x4000 / 4
  if s.hif.d3hot then s.hostUr
  else if s.hif.maxPayload < 4 * ws.length then s.upHif fun h => { h with aerMalformed := true }
  else if ¬ s.apOn n ∨ off % 4 ≠ 0 ∨ ¬ full ∨ 3 ≤ i ∨ ((s.ap n).slot i).busy ∨ 4094 < first + ws.length then s.apDiscard n
  else if ws.isEmpty then s
  else (s.upApSlot n i fun x => { x with words := putWords x.words first ws }).examine n i first ws.length

end Sys2Proof.Machine
end

