-- ==== Sys2Proof/Machine/Intake.lean ====
section
/-! DEFINITION. Intake, the writing of replies, and what the PCI Express link does to the function (R29, R30, R34, R38 to
R54, R466). -/

namespace Sys2Proof.Machine

/-! ### Slots and intake -/

/-- SLOT_WRITE. -/
def execSlotWrite (ap : Fin 16) (off : Nat) (ws : List Word) (full : Bool) (s : State) : Host.Outcome State Fault Refusal :=
  .next (s.slotWrite ap.val off ws full)

/-- POISONED_TLP_RECEIVE: recorded; one aimed at an aperture is counted there (R29). -/
def execPoisonedTlpReceive (ap : Option (Fin 16)) (s : State) : Host.Outcome State Fault Refusal :=
  .next (let s := s.upHif fun h => { h with aerPoisoned := true }
    match ap with
    | some n => s.apDiscard n.val
    | none => s)

/-- A packet that carries a context where it may not, or none where it must (R47). -/
def ctxRule (op ctx : Nat) : Bool :=
  let needs := decide (0x111 ≤ op ∧ op ≤ 0x115) || decide (0x200 ≤ op ∧ op ≤ 0x5FF)
  if needs then ctx < 64 else ctx == 255

/-- Checks 2 to 9 of R43 on a snapshot: the first that fails. -/
def State.intakeCheck (s : State) (n : Nat) (ws : List Word) : Option Refuse :=
  let h := hdrOf n (wat ws)
  let ps := (ws.drop 4).dropLast
  let count := (wat ws 3).toNat
  if crcWords ws.dropLast ≠ ws.getLastD 0 then some (stSeal, 0, 0)
  else if fld (wat ws 0) 31 28 ≠ 1 then some (stFormat, det 0 28, 0)
  else if bit (wat ws 0) 15 then some (stFormat, det 0 15, 0)
  else if fld (wat ws 2) 31 18 ≠ 0 then some (stFormat, det 2 18, 0)
  else if h.cls = 3 then some (stFormat, det 2 16, 0)
  else if h.ring / 4 ≠ n then some (stAuth, 0, 0)
  else if ¬ (s.ring h.ring).registered ∧ ¬ (h.opcode = 0x002 ∧ pf ps 4 7 0 = h.ring) then some (stState, 0, 0)
  else
    match layoutOf h.opcode h.expert ps with
    | none => some (stFormat, det 0 0, 0)
    | some l =>
      if count = 0xFFFFFFFF then some (stRange, det 3 0, 0)
      else if count ≠ ws.length - 5 then some (stFormat, det 3 0, 0)
      else if h.expert ∧ ¬ opExpert h.opcode then some (stFormat, det 0 12, 0)
      else if ¬ l.count then some (stFormat, det 3 0, 0)
      else if ¬ ctxRule h.opcode h.ctx then some (stFormat, det 2 0, 0)
      else (firstField stFormat l.fmt).or (firstField stRange l.rng)

/-- The sealed slot of an aperture whose seal arrived first. -/
def State.nextSlot (s : State) (n : Nat) : Option Nat :=
  let a := s.ap n
  leastBy (fun i => (a.slot i).order) ([0, 1, 2].filter fun i => (a.slot i).snap.isSome)

/-- The packet of a sealed slot can be taken or refused now (R38). -/
def State.canTake (s : State) (n i : Nat) : Bool :=
  match ((s.ap n).slot i).snap with
  | none => false
  | some ws =>
    match s.intakeCheck n ws with
    | some _ => true
    | none => decide ((s.taken.filter fun p => p.hdr.ap = n).length < 64 ∧ 0 < (s.ring (fld (wat ws 2) 15 8)).holdFree)

/-- A packet of class SAFETY is at the head of an aperture. -/
def State.headSafety (s : State) (n : Nat) : Bool :=
  match s.nextSlot n with
  | some i => s.canTake n i && (match ((s.ap n).slot i).snap with
    | some ws => fld (wat ws 2) 17 16 == 0
    | none => false)
  | none => false

/-- It is the turn of aperture `n`: it has a SAFETY packet, or none has one and it comes next round (R39). -/
def State.turnOf (s : State) (n : Nat) : Bool :=
  s.headSafety n ||
    (!(List.range 16).any s.headSafety &&
      ((List.range 16).map fun i => (s.hif.rrNext + i) % 16).find? (fun m => match s.nextSlot m with
        | some i => s.canTake m i
        | none => false) == some n)

/-- PACKET_INTAKE: the packet is taken, or refused under checks 2 to 9. One that comes after DEV_RESET_COMPUTE is discarded
(R38, R39, R43, R51, R468). -/
def State.packetIntake (s : State) (n i : Nat) : State :=
  match ((s.ap n).slot i).snap with
  | none => s
  | some ws =>
    if s.hif.pause ∨ ¬ s.hif.ready ∨ s.hif.d3hot ∨ s.nextSlot n ≠ some i ∨ ¬ s.canTake n i ∨ ¬ s.turnOf n then s
    else
      let h := hdrOf n (wat ws)
      let s := if s.headSafety n then s else s.upHif fun x => { x with rrNext := (n + 1) % 16 }
      match s.intakeCheck n ws with
      | some r => s.refuseSlot n i { status := r.1, detail0 := r.2.1, hdr := h }
      | none =>
        let s := (s.freeSlot n i).upAp n fun a => { a with cntTaken := a.cntTaken + 1, statTaken := a.statTaken + 1 }
        if s.discard then s
        else
          let p : Packet := { hdr := { h with no := s.takenNo }, params := (ws.drop 4).dropLast }
          ({ s with taken := s.taken ++ [p], takenNo := s.takenNo + 1 } : State).upRing h.ring fun r => { r with reserved := r.reserved + 1 }

/-- PACKET_INTAKE. -/
def execPacketIntake (ap : Fin 16) (slot : Fin 3) (s : State) : Host.Outcome State Fault Refusal :=
  .next (s.packetIntake ap.val slot.val)

/-- REFUSAL_REPLY: a refusal that waited takes a record that has become free (R38). -/
def execRefusalReply (ap : Fin 16) (slot : Fin 3) (s : State) : Host.Outcome State Fault Refusal :=
  .next (match ((s.ap ap.val).slot slot.val).refuse with
    | some r => s.refuseSlot ap.val slot.val r
    | none => s)

/-! ### Reply rings (R34, R50, R51) -/

/-- The message of a ring's unsignalled records. -/
def State.signalRing (s : State) (ring : Nat) : State :=
  let r := s.ring ring
  if r.unsignalled = 0 then s
  else (s.upRing ring fun x => { x with unsignalled := 0 }).msix r.vector

/-- The record at the head of a ring's hold is written at the tail (R50); the message goes out at the moderation count
(R34). -/
def State.writeRecord (s : State) (ring : Nat) : State :=
  let r := s.ring ring
  match r.wait with
  | [] => s
  | x :: t =>
    if ¬ r.registered ∨ r.full ∨ s.hif.d3hot then s
    else
      let s := s.wrHost (r.addr + 32 * r.tail) (bytesOf (x.words ring r.phase))
      let tail := (r.tail + 1) % r.size
      let s := s.setRing ring
        { r with wait := t, tail := tail, phase := if tail = 0 then !r.phase else r.phase, unsignalled := r.unsignalled + 1
                 sigAt := if r.unsignalled = 0 then s.hal.nowNs else r.sigAt }
      let s := s.upAp x.hdr.ap fun a => { a with statRecords := a.statRecords + 1 }
      if r.modTime = 0 ∨ r.modCount ≤ r.unsignalled + 1 then s.signalRing ring else s

/-- REPLY_RECORD_WRITE. -/
def execReplyRecordWrite (ring : Fin 64) (s : State) : Host.Outcome State Fault Refusal := .next (s.writeRecord ring.val)

/-- Every record of a hold that finds room is written. -/
def State.writeAll (s : State) (ring : Nat) : State :=
  (List.range (s.ring ring).wait.length).foldl (fun s _ => s.writeRecord ring) s

/-- MODERATION_TIMER_EXPIRY: the moderation time after the first unsignalled record (R34). -/
def execModerationTimerExpiry (ring : Fin 64) (s : State) : Host.Outcome State Fault Refusal :=
  .next (let r := s.ring ring.val
    if r.unsignalled = 0 then s else (s.passTo (r.sigAt + 1000 * r.modTime)).signalRing ring.val)

/-- MSIX_VECTOR_UNMASK. -/
def execMsixVectorUnmask (v : Fin 64) (s : State) : Host.Outcome State Fault Refusal :=
  .next (if s.hif.d3hot then s.hostUr
    else (s.upHif fun h => { h with msix := Tab.set h.msix v.val { s.msixEntry v.val with masked := false } }).msixRelease v.val)

/-- HIF_AP_HEAD_WRITE by master `m`: a head between the present head and the tail is taken; any other is counted (R50, R66). -/
def State.headWrite (s : State) (m n k : Nat) (v : Word) : State :=
  let ring := 4 * n + k
  let r := s.ring ring
  let h := fld v 15 0
  if s.asleep m then s.hostUr
  else if ¬ s.apOn n then s.apDiscard n
  else s.checked m (0x400000 + 0x10000 * n + 0xC010 + 8 * k) true fun s =>
    if r.registered ∧ h < r.size ∧ (h + r.size - r.head) % r.size ≤ r.used then s.setRing ring { r with head := h }
    else s.apDiscard n

/-- HIF_AP_HEAD_WRITE. -/
def execHifApHeadWrite (ap : Fin 16) (k : Fin 4) (v : Word) (s : State) : Host.Outcome State Fault Refusal :=
  .next (s.headWrite ap.val ap.val k.val v)

/-! ### Power states and the link (R28, R30) -/

/-- D3HOT_ENTRY. -/
def execD3hotEntry (s : State) : Host.Outcome State Fault Refusal := .next (s.upHif fun h => { h with d3hot := true })

/-- D0_RETURN: held replies are written and pending messages sent. -/
def execD0Return (s : State) : Host.Outcome State Fault Refusal :=
  .next (if ¬ s.hif.d3hot then s
    else
      let s := s.upHif fun h => { h with d3hot := false }
      let s := s.hif.pba.reverse.foldl State.msixRelease s
      (List.range 64).foldl State.writeAll s)

/-- PCIE_LINK_UP: the link comes up at a rate and a width (R65). -/
def execPcieLinkUp (rate width : Nat) (s : State) : Host.Outcome State Fault Refusal :=
  .next (s.upHif fun h => { h with linkUp := true, rate := rate, width := width })

/-- A transfer reads or writes host memory. -/
def State.xferHost (s : State) (t : Transfer) : Bool :=
  let far := fun (va : Nat) (w : Bool) => match s.xlate none t.hdr.ctx va 1 w with
    | .pa a => decide (hostBase ≤ a)
    | _ => false
  (t.fill.isNone && far t.src false) || (!t.mailbox && far t.dst true)

/-- The ring of a packet whose replies no one reads any longer. -/
def noRing : Nat := 0xFFFF

/-- FLR, link-down and PERST# (R30): apertures and rings are emptied, DP contexts destroyed, transfers of host memory stopped,
an open session suspended, HIF at its reset values but for BL fields and what it reports of the device and the link. -/
def State.hostReset (s : State) : State :=
  let keep := s.hif.apertures.map fun p => (p.1, ({
    statTaken := p.2.statTaken, statState := p.2.statState, statSeal := p.2.statSeal, statRefuse := p.2.statRefuse
    statOk := p.2.statOk, statPartial := p.2.statPartial, statFault := p.2.statFault, statRecords := p.2.statRecords
    statWaited := p.2.statWaited, statXlt := p.2.statXlt, statPreempt := p.2.statPreempt } : Aperture))
  let s := s.upHif fun h =>
    { ready := h.ready, linkUp := h.linkUp, rate := h.rate, width := h.width, bar2Master := h.bar2Master
      bar2Enable := h.bar2Enable, aerPoisoned := h.aerPoisoned, aerUnsupported := h.aerUnsupported
      aerMalformed := h.aerMalformed, sealOrder := h.sealOrder, apertures := keep }
  let s := { s with taken := [], opens := s.opens.map fun (o : OpenReq) => { o with hdr := { o.hdr with ring := noRing } } }
  let s := (s.transfers.filter s.xferHost).foldl (fun s t => s.endXfer t fltLink false) s
  let s := (ctxNos.filter fun c => (s.ctx c).present && !s.ctxTT c).foldl State.destroyCtx s
  let s := if 0x61 ≤ s.upd.state ∧ s.upd.state ≤ 0x64 ∧ ¬ s.upd.svp then
      (s.upUpd fun x => { x with state := 0x62, busy := none, verifying := false }).event 320
    else s
  s.event 2

/-- FLR. -/
def execFlr (s : State) : Host.Outcome State Fault Refusal := .next s.hostReset

/-- LINK_DOWN. -/
def execLinkDown (s : State) : Host.Outcome State Fault Refusal :=
  .next (s.upHif fun h => { h with linkUp := false, rate := 0, width := 0 }).hostReset

/-- PERST: the endpoint and HIF are reset as by an FLR (R466); the link goes down. -/
def execPerst (s : State) : Host.Outcome State Fault Refusal :=
  .next (s.upHif fun h => { h with linkUp := false, rate := 0, width := 0 }).hostReset

/-! ### BAR2 (R32, R33) -/

/-- The PSM address of a BAR2 offset, where `n` bytes decode. -/
def State.bar2At (s : State) (off n : Nat) : Option Nat :=
  let a := s.hif.bar2Base * 2 ^ 28 + off
  if s.hif.d3hot ∨ ¬ s.hif.bar2Enable ∨ s.hif.bar2Size * 2 ^ 28 < off + n ∨ psmSize < a + n then none else some a

/-- BAR2_READ. -/
def State.bar2Read (s : State) (off n : Nat) (errs : List MemErr) : State :=
  match s.bar2At off n with
  | none => s.hostUr
  | some a =>
    if ¬ s.allowed s.hif.bar2Master 0 a n false then s.refusedAccess s.hif.bar2Master 0 a false
    else
      match s.eccRead s.hif.bar2Master 63 errs a n with
      | (s, some _) => (s.fault fltMemUncorr 1 255 0 0).busAns 2 []
      | (s, none) => s.busAns 0 (s.rd a n)

/-- BAR2_READ. -/
def execBar2Read (off len : Nat) (errs : List MemErr) (s : State) : Host.Outcome State Fault Refusal :=
  .next (s.bar2Read off len errs)

/-- BAR2_WRITE: a write that covers part of an uncorrectable burst fails as a read does (R175). -/
def State.bar2Write (s : State) (off : Nat) (data : List Byte) : State :=
  match s.bar2At off data.length with
  | none => s.hostUr
  | some a =>
    if ¬ s.allowed s.hif.bar2Master 0 a data.length true then s.refusedAccess s.hif.bar2Master 0 a true
    else if (s.eccPartial a data.length).isSome then s.fault fltMemUncorr 1 255 0 0
    else s.put a data

/-- BAR2_WRITE. -/
def execBar2Write (off : Nat) (data : List Byte) (s : State) : Host.Outcome State Fault Refusal := .next (s.bar2Write off data)

/-- BAR2_RESIZE: the new size in units of 256 MiB; the base becomes 0. -/
def execBar2Resize (size : Nat) (s : State) : Host.Outcome State Fault Refusal :=
  .next (s.upHif fun h => { h with bar2Size := size, bar2Base := 0 })

end Sys2Proof.Machine
end

