-- ==== Sys2Proof/Machine/DevPkt.lean ====
section
/-! DEFINITION. Device, ring, client and partition packets (R48, R55 to R62, R370), and PSM's patrol and links (R176,
R177). -/

namespace Sys2Proof.Machine

/-- NOP. -/
def execNop (k : Nat) (s : State) : Host.Outcome State Fault Refusal := runPacket 0x000 k (fun _ s => .done s {}) s

/-! ### DEV_INFO and DEV_STATS (R55, R56) -/

/-- HIF_ID (R65). -/
def hifId : Word := wd (0x8140 + 2 ^ 16 * (Config.rev % 256) + 2 ^ 24)

/-- The 14 words of a DEV_INFO record that are not zero (R55). -/
def State.infoWords (s : State) : List Word :=
  let ps := [0, 1, 2, 3].map s.part
  let mask := sumN ([0, 1, 2, 3].map fun i => if (s.part i).present then (s.part i).mask.toNat * 256 ^ i else 0)
  let free := 524288 - (s.kvDir.filter fun d => d.2.state != 0).length
  [hifId, s.sec.verC, s.sec.verP, wd (s.sec.code + 2 ^ 8 * s.dev + bitAt Config.industrial 16),
   wd (s.tst.engines.toNat + 2 ^ 8 * s.tst.movers.toNat + 2 ^ 24 * s.tst.ports.toNat), wd mask,
   wd (maskOf ([0, 1, 2, 3].filter fun i => (ps.getD i {}).present) + 16 * maskOf ([0, 1, 2, 3].filter fun i => (ps.getD i {}).present && (ps.getD i {}).tt)),
   wd ((s.ctxs.filter fun c => c.2.present).length + 2 ^ 16 * (s.kvSeqs.filter fun q => q.2.present).length),
   wd s.psmFree, wd ((s.psmc.granules.filter fun g => g.2.retired).length), wd s.commons.x, wd free,
   wd (s.cpw.reef + 2 ^ 8 * s.plinth.mode + 2 ^ 16 * s.twin.state), wd s.hif.apEnable.toNat]

/-- DEV_INFO: the record goes to the host, then the reply. -/
def devInfo (p : Packet) (s : State) : Ans :=
  .done (s.wrHost (p.a 4) (bytesOf (s.infoWords ++ List.replicate 18 0))) { d0 := wd s.dev, lo := hifId }

/-- DEV_INFO. -/
def execDevInfo (k : Nat) (s : State) : Host.Outcome State Fault Refusal := runPacket 0x001 k devInfo s

/-- The counters of a client for DEV_STATS. -/
def State.statWords (s : State) (n : Nat) : List Word :=
  let a := s.ap n
  [a.statTaken, a.statState, a.statSeal, a.statRefuse, a.statOk, a.statPartial, a.statFault, a.statRecords, a.statWaited,
   a.statXlt, a.statPreempt, wd (s.heldBy n)]

/-- Sum of rows of words. -/
def addWords (a b : List Word) : List Word := (List.range 12).map fun i => wat a i + wat b i

/-- DEV_STATS. -/
def devStats (p : Packet) (s : State) : Ans :=
  let all := p.f 6 0 0 == 1
  refuseIf (all && p.hdr.ap != 0) stAuth 0 <|
    let ws := if all then (List.range 16).foldl (fun a n => addWords a (s.statWords n)) [] else s.statWords p.hdr.ap
    .done (s.wrHost (p.a 4) (bytesOf (ws ++ List.replicate 4 0))) { lo := wat ws 0 }

/-- DEV_STATS. -/
def execDevStats (k : Nat) (s : State) : Host.Outcome State Fault Refusal := runPacket 0x005 k devStats s

/-! ### Rings and clients (R49, R57, R58, R370) -/

/-- DEV_RING_SET. -/
def devRingSet (p : Packet) (s : State) : Ans :=
  let n := p.f 4 7 0
  let k := p.f 4 12 8
  refuseIf (n / 4 != p.hdr.ap) stAuth 0 <|
  refuseIf (s.ring n).registered stState 0 <|
    .done (s.upRing n fun r =>
      { registered := true, addr := p.a 6, k := k, vector := p.f 4 23 16, modCount := p.f 5 7 0, modTime := p.f 5 31 16
        reserved := r.reserved }) { lo := wd (2 ^ k) }

/-- DEV_RING_SET. -/
def execDevRingSet (k : Nat) (s : State) : Host.Outcome State Fault Refusal := runPacket 0x002 k devRingSet s

/-- Records that still wait in a ring's hold are discarded and counted. -/
def State.dropHold (s : State) (ring : Nat) : State :=
  let n := (s.ring ring).wait.length
  (s.upRing ring fun r => { r with wait := [] }).upAp (ring / 4) fun a => { a with cntDiscard := a.cntDiscard + wd n }

/-- DEV_RING_CLEAR: what found room is written, the rest discarded, the reply written last, all signalled, the ring
unregistered (R58). -/
def devRingClear (p : Packet) (s : State) : Ans :=
  let n := p.f 4 7 0
  refuseIf (n / 4 != p.hdr.ap) stAuth 0 <|
  refuseIf (!(s.ring n).registered) stState 0 <|
  refuseIf ((s.taken.any fun q => q.hdr.ring == n) || s.opens.any fun o => o.hdr.ring == n) stState 0 <|
    .late 0 0 0 fun s =>
      let s := (s.writeAll n).dropHold n
      let s := ((s.closeNo p.hdr.no stOk {}).writeAll n).dropHold n
      (s.signalRing n).setRing n {}

/-- DEV_RING_CLEAR. -/
def execDevRingClear (k : Nat) (s : State) : Host.Outcome State Fault Refusal := runPacket 0x003 k devRingClear s

/-- DEV_CLIENT_CFG. -/
def devClientCfg (p : Packet) (s : State) : Ans :=
  let c := p.f 4 3 0
  .done (s.upClient c fun x =>
    let x := { x with classes := BitVec.ofNat 3 (p.f 4 10 8), maxCtx := p.f 4 22 16, slice := p.f 5 9 0 }
    if p.f 4 23 23 = 1 then { x with waitNs := 0, runNs := 0, preempts := 0, preemptedNs := 0, starve := 0 } else x)
    { lo := wd (s.heldBy c) }

/-- DEV_CLIENT_CFG. -/
def execDevClientCfg (k : Nat) (s : State) : Host.Outcome State Fault Refusal := runPacket 0x009 k devClientCfg s

/-! ### Partitions (R21, R60 to R63) -/

/-- The state code of a partition: BUSY while a context is resident on one of its engines, or a plan that runs has a launch
point on one (R63). -/
def State.partCode (s : State) (n : Nat) : Nat :=
  let x := s.part n
  if ¬ x.present then 0x10
  else if (engNos.any fun e => x.mask.getLsbD e && slotNos.any fun k => ((s.engine e).slot k).ctx.isSome) ||
      planNos.any (fun i => (s.plan i).runs && (s.plan i).onPart x.mask) then 0x12
  else 0x11

/-- An engine that belongs to no partition and is not fenced. -/
def State.engFree (s : State) (e : Nat) : Bool := (s.partOf e).isNone && !s.tst.engines.getLsbD e

/-- The engines of a mask. -/
def engsOf (m : Nat) : List Nat := bitsOf 8 m

/-- The explicit Commons quotas of the other partitions, MiB. -/
def State.quotas (s : State) (n : Nat) : Nat := sumN (([0, 1, 2, 3].filter (· ≠ n)).map fun i => (s.part i).quota)

/-- PART_CREATE (R60). -/
def partCreate (p : Packet) (s : State) : Ans :=
  let n := p.f 4 1 0
  let tt := p.f 4 2 2 == 1
  let ex := p.hdr.expert
  let free := engNos.filter s.engFree
  let engs := if ex then engsOf (p.f 5 7 0) else free.take (p.f 4 7 4)
  let q := if ex then p.f 6 6 0 else 0
  let al := if ¬ tt then 0 else if ex then p.f 5 24 16 else 160
  refuseIf (s.part n).present stState (wd (s.partCode n)) <|
  refuseIf (ex && !engs.all s.engFree) stState (wd 0x10) <|
  refuseIf (ex && q != 0 && decide (s.commons.x < s.quotas n + q)) stRange (det 6 0) <|
  refuseIf (!ex && decide (free.length < p.f 4 7 4)) stNospace 0 <|
    .done (s.setPart n { present := true, tt := tt, mask := BitVec.ofNat 8 (maskOf engs), allowance := al, quota := q })
      { lo := wd (maskOf engs), hi := wd al }

/-- PART_CREATE. -/
def execPartCreate (k : Nat) (s : State) : Host.Outcome State Fault Refusal := runPacket 0x100 k partCreate s

/-- Context `c` stands in the way of removing engines from its partition (R61). -/
def State.pinsEngine (s : State) (c : Nat) (gone : List Nat) : Bool :=
  (gone.any fun e => ((s.engine e).cleats.any fun q => q.2.owner == c && q.2.state != 0) || !(s.jobsOf c e).isEmpty) ||
    (engsOf (s.ctx c).mask.toNat).all fun e => gone.contains e

/-- PART_RESIZE (R61). -/
def partResize (p : Packet) (s : State) : Ans :=
  let n := p.f 4 1 0
  let x := s.part n
  let cur := engsOf x.mask.toNat
  let free := engNos.filter s.engFree
  let want := p.f 4 7 4
  let new := if p.hdr.expert then engsOf (p.f 5 7 0)
    else if want ≤ cur.length then cur.take want else cur ++ free.take (want - cur.length)
  let gone := cur.filter fun e => ¬ new.contains e
  let add := new.filter fun e => ¬ cur.contains e
  let mask := BitVec.ofNat 8 (maskOf new)
  needState (s.partCode n) [0x11] <|
  refuseIf (!add.all s.engFree) stState (wd 0x11) <|
    match ctxNos.find? fun c => (s.ctx c).present && (s.ctx c).part == n && s.pinsEngine c gone with
    | some c => .refuse stState (wd 0x11) (wd c)
    | none =>
      refuseIf (!p.hdr.expert && decide (cur.length + free.length < want)) stNospace 0 <|
        let s := { s with ctxs := s.ctxs.map fun (c : Nat × Ctx) =>
          if c.2.part = n then (c.1, { c.2 with mask := BitVec.ofNat 8 (maskOf ((engsOf c.2.mask.toNat).filter fun e => ¬ gone.contains e)) }) else c }
        .done (s.setPart n { x with mask := mask }).schedule { lo := wd mask.toNat, hi := wd x.allowance }

/-- PART_RESIZE. -/
def execPartResize (k : Nat) (s : State) : Host.Outcome State Fault Refusal := runPacket 0x101 k partResize s

/-- PART_DELETE (R62). -/
def partDelete (p : Packet) (s : State) : Ans :=
  let n := p.f 4 1 0
  let held := (s.ctxs.filter fun c => c.2.present && c.2.part == n).length
  needState (s.partCode n) [0x11] <|
    if held ≠ 0 then .refuse stState (wd 0x11) (wd held)
    else .done (s.setPart n {}) {}

/-- PART_DELETE. -/
def execPartDelete (k : Nat) (s : State) : Host.Outcome State Fault Refusal := runPacket 0x102 k partDelete s

/-! ### PSM's patrol and its links (R176, R177) -/

/-- PATROL_READ: the errors the read meets are counted and logged, and so is a burst that stands uncorrectable; no job is
affected (R175, R177). A pass is in progress from its first read to that of the last burst (R191; its order is the model's,
DESIGN CHOICE, log 166). -/
def State.patrolRead (s : State) (addr : Nat) (errs : List MemErr) : State :=
  if s.psmc.hours = 0 ∨ psmSize ≤ addr then s
  else
    let b := burstOf addr
    let met := errs.filter fun x => burstIn b 64 x.addr
    let met := if s.psmc.uncorr.contains b ∧ ¬ met.any (fun x => x.kind == .uncorr) then { addr := b, kind := .uncorr } :: met else met
    met.foldl (fun s x => s.eccOne 63 63 true x) (s.upPsmc fun p => { p with patrol := decide (b + 64 < psmSize) })

/-- PATROL_READ. -/
def execPatrolRead (addr : Nat) (errs : List MemErr) (s : State) : Host.Outcome State Fault Refusal :=
  .next (s.patrolRead addr errs)

/-- PSM_LINK_CRC_FAIL: a frame of a channel fails its CRC and is replayed; `ok` where the replay succeeds. Sixteen in
succession without success take the channel out of service, the reads then outstanding on it are uncorrectable, and the
device enters FAULTED; the replay that makes 64 within 1 ms is a warning (R176). `reads` names commands by engine, queue and
index: those in flight with a read outstanding on the channel. -/
def State.linkCrc (s : State) (q : Nat) (ok : Bool) (reads : List (Nat × Nat × Nat)) : State :=
  let now := s.hal.nowNs
  let near := (Tab.get [] s.psmc.replayAt q).filter fun t => decide (now < t + 1000000)
  let s := s.upPsmc fun p =>
    { p with cntReplay := bump p.cntReplay (q % 6), replays := Tab.set p.replays q (if ok then 0 else Tab.get 0 p.replays q + 1)
             replayAt := Tab.set p.replayAt q (now :: near) }
  let s := if near.length = 63 then (s.fault fltLink 0 255 q (wd q)).event 257 else s
  if Tab.get 0 s.psmc.replays q = 16 then
    let d := s.draw
    let s := d.2.upPsmc fun p =>
      { p with stackUp := setBit p.stackUp (q % 6) false, failChan := if p.trainFail then p.failChan else q, trainFail := true }
    let s := s.psmLog 3 (d.1.toNat % psmSize) 63 63
    let s := reads.foldl (fun s r =>
      match s.queue r.1 r.2.1 with
      | j :: _ => if j.flight.contains r.2.2 then s.stopJob r.1 r.2.1 r.2.2 fltMemUncorr {} (.rows []) else s
      | [] => s) s
    s.enterDev devFaulted
  else s

/-- PSM_LINK_CRC_FAIL. -/
def execPsmLinkCrcFail (chan : Fin 96) (ok : LinkReplay) (s : State) :
    Host.Outcome State Fault Refusal := .next (s.linkCrc chan.val ok.ok ok.reads)

end Sys2Proof.Machine
end

