-- ==== Sys2Proof/Machine/Read.lean ====
section
/-! DEFINITION. What a read of each BAR0 register returns: the register's word assembled from the state (R4 to R7, R31,
R36, R65, R66, R100, R167, R168, R191, R192, R247, R280, R303, R323, R340, R368, R392, R410, R422, R443, R460, R475). A
write-only field, a reserved bit and an offset at which nothing is defined read as zero. -/

namespace Sys2Proof.Machine

/-! ### HIF and the apertures (R65, R66) -/

/-- HIF_STATUS: link_slow is a rate below 8 GT/s, faulted the device state (R65). -/
def State.hifStatus (s : State) : Word :=
  let h := s.hif
  wd (bitAt h.ready 0 + bitAt h.linkUp 1 + 2 ^ 2 * (h.rate % 8) + 2 ^ 5 * (h.width % 16) + bitAt (h.linkUp && decide (h.rate < 2)) 9 +
    bitAt h.d3hot 10 + bitAt (s.dev == devFaulted) 11)

/-- A sealed slot, or a refusal, waits for a free entry of the intake or a free record of a hold (R38). -/
def State.slotStalls (s : State) (n i : Nat) : Bool :=
  let x := (s.ap n).slot i
  x.refuse.isSome || (x.snap.isSome && !s.canTake n i)

/-- HIF_AP_STATUS (R66). -/
def State.apStatus (s : State) (n : Nat) : Word :=
  let sl := [0, 1, 2]
  wd (maskOf (sl.filter fun i => ((s.ap n).slot i).busy) + 2 ^ 3 * (64 - (s.taken.filter fun p => p.hdr.ap = n).length) +
    bitAt (s.apOn n) 10 + bitAt (sl.any fun i => s.slotStalls n i) 11)

/-- The registers of an aperture at offset `o` of it; its slots read as zero (R36). -/
def State.apWord (s : State) (n o : Nat) : Word :=
  let a := s.ap n
  let k := (o - 0xC010) / 8
  let r := s.ring (4 * n + k)
  if o = 0xC000 then s.apStatus n
  else if 0xC010 ≤ o ∧ o < 0xC030 then
    if o % 8 = 0 then wd (r.head % 2 ^ 16) else wd (r.tail % 2 ^ 16 + bitAt r.phase 16)
  else if o = 0xC040 then a.cntTaken
  else if o = 0xC044 then a.cntDiscard
  else if o = 0xC048 then a.cntSeal
  else if o = 0xC04C then a.cntState
  else if o = 0xC050 then a.cntRefuse
  else 0

/-- HIF: the global registers, the MSI-X table and the PBA (R31, R65). -/
def State.hifWord (s : State) (o : Nat) : Word :=
  let h := s.hif
  let e := s.msixEntry ((o - 0x10000) / 16)
  if o = 0 then hifId
  else if o = 4 then s.hifStatus
  else if o = 8 then wd (h.apEnable.toNat + bitAt h.pause 16)
  else if o = 0xC then wd h.bar2Base
  else if o = 0x10 then wd (h.bar2Master + bitAt h.bar2Enable 31)
  else if 0x10000 ≤ o ∧ o < 0x10400 then wat [wd e.addr, wd (e.addr / 2 ^ 32), e.data, wd (bitAt e.masked 0)] (o / 4 % 4)
  else if o = 0x18000 then wd (maskOf (h.pba.filter (· < 32)))
  else if o = 0x18004 then wd (maskOf ((h.pba.filter (32 ≤ ·)).map (· - 32)))
  else 0

/-! ### DEV, engines and the scheduler (R100, R167, R168, R247, R392) -/

/-- Directory entries in a state (R247). -/
def State.dirCount (s : State) (st : Nat) : Nat := (s.kvDir.filter fun d => d.2.state == st).length

/-- DEV: the Commons and prefetch registers and the KV registers (R168, R247). -/
def State.devWord' (s : State) (o : Nat) : Word :=
  let c := s.commons
  if o = 0x400 then wd (c.x % 128 + bitAt c.changing 7)
  else if o = 0x404 then c.cntCorr
  else if o = 0x408 then c.cntUncorr
  else if o = 0x410 then c.pfIssued
  else if o = 0x414 then c.pfDropXlt
  else if o = 0x418 then c.pfDropMem
  else if o = 0x500 then wd (524288 - (s.kvDir.filter fun d => d.2.state != 0).length)
  else if o = 0x504 then wd (s.dirCount 2)
  else if o = 0x508 then wd (s.dirCount 5)
  else if o = 0x50C then wd (s.kvSeqs.filter fun q => q.2.present).length
  else if o = 0x510 then s.kv.stale
  else if o = 0x514 then s.kv.rewound
  else if o = 0x518 then s.kv.out
  else if o = 0x51C then s.kv.back
  else 0

/-- EN_STATUS (R100). -/
def State.enStatus (s : State) (e : Nat) : Word :=
  let runs := fun (q : Nat) => match s.queue e q with
    | j :: _ => j.started
    | [] => false
  let tqRuns := match (s.engine e).tq with
    | j :: _ => j.begun
    | [] => false
  let part := match s.partOf e with
    | some p => p + 4 + bitAt (s.part p).tt 3
    | none => 0
  wd (part + bitAt (s.engine e).test 4 + 2 ^ 5 * maskOf (slotNos.filter runs) + bitAt tqRuns 9 +
    2 ^ 10 * ((s.engine e).tq.filter fun j => !j.begun).length)

/-- EN_SCRUB_PEND: the words of the regions in SCRUB, held ones with them (R158, R167). -/
def Engine.scrubPend (x : Engine) : Nat := sumN ((((x.cleats ++ x.vacated).map (·.2)).filter fun c => c.state == 3).map Cleat.region)

/-- The words of a cleat table entry (R167). -/
def Cleat.words (c : Cleat) : List Word :=
  [wd (c.state + bitAt c.hold 2 + 2 ^ 8 * c.owner + 2 ^ 16 * c.banks.toNat), wd c.baseRow, wd c.size, 0]

/-- The status view of an engine (R100, R167). -/
def State.engWord (s : State) (e o : Nat) : Word :=
  let x := s.engine e
  if o = 0 then s.enStatus e
  else if 0x10 ≤ o ∧ o < 0x24 then Tab.get 0 x.cntCmd ((o - 0x10) / 4)
  else if o = 0x24 then x.cntTtLate
  else if o = 0x28 then x.cntTtDrop
  else if o = 0x2C then x.cntReadLate
  else if o = 0x30 then x.cntLwLate
  else if o = 0x40 then wd x.spmFree
  else if o = 0x44 then x.spmCorr
  else if o = 0x48 then x.spmUncorr
  else if o = 0x4C then wd (x.scrubPend + bitAt x.resHold 18)
  else if 0x1000 ≤ o ∧ o < 0x1800 then wat (s.cleat e ((o - 0x1000) / 16)).words (o / 4 % 4)
  else 0

/-- The slots of every engine. -/
def State.eslots (s : State) : List Eslot := engNos.flatMap fun e => slotNos.map (s.engine e).slot

/-- Movers busy with saves or restores (SCH_STATUS.movers, R392). -/
def State.schMovers (s : State) : Nat :=
  (s.eslots.filter fun x => (x.saving || x.restoring.isSome) && x.mover.isSome).length

/-- SCH_SLOTSn: a TT context stands pinned in its slots (R369, R392). -/
def State.schSlots (s : State) (e : Nat) : Word :=
  wd (sumN (slotNos.map fun k => match ((s.engine e).slot k).ctx with
    | some c => 256 ^ k * (c + bitAt ((s.ctx c).pinned || s.ctxTT c) 6 + 128)
    | none => 0))

/-- SCH: the global registers and the clients' counters but for the 64-bit ones, whose high words are latched (R391). -/
def State.schWord (s : State) (o : Nat) : Word :=
  let c := (o - 0x100) / 0x40
  let x := s.client c
  let k := o % 0x40
  if o = 0 then wd ((s.ctxs.filter fun p => p.2.present).length + 2 ^ 7 * s.schMovers)
  else if o = 4 then s.sch.switches
  else if o = 8 then s.sch.remotes
  else if 0x10 ≤ o ∧ o < 0x30 then s.schSlots ((o - 0x10) / 4)
  else if o < 0x100 ∨ 0x500 ≤ o then 0
  else if k = 0x10 then x.preempts
  else if k = 0x1C then x.starve
  else if k = 0x20 then
    wd ((s.ctxs.filter fun p => p.2.present && p.2.client == c).length +
      2 ^ 8 * (s.eslots.filter fun y => match y.ctx with
        | some i => (s.ctx i).client == c
        | none => false).length)
  else 0

/-! ### EVC (R422) -/

/-- EVC: claims apart, which are reads of their own. -/
def State.evcWord (s : State) (o : Nat) : Word :=
  let v := s.evc
  let g := o / 4 % 16
  let k := o / 16 % 4
  if o = 0 then wd (bitAt v.disable 0)
  else if o = 4 then wd (maskOf ((List.range 16).filter fun g => (evcGroup g).any fun i => v.isPend i && v.isEn i))
  else if o = 8 then v.cntSpur
  else if o = 0xC then v.cntBadEoi
  else if 0x100 ≤ o ∧ o < 0x140 then Tab.get 0 v.en g
  else if 0x140 ≤ o ∧ o < 0x180 then Tab.get 0 v.pend g
  else if 0x1C0 ≤ o ∧ o < 0x200 then wd (maskOf ((List.range 32).filter fun i => v.isActive (32 * g + i)))
  else if 0x200 ≤ o ∧ o < 0x240 then wd (Tab.get 0 v.holdoff g + 2 ^ 16 * Tab.get 0 v.prio g + bitAt (v.holding.getLsbD g) 18)
  else if 0x300 ≤ o ∧ o < 0x340 ∧ o % 16 = 0 then wd (bitAt (v.mask.getLsbD k) 0)
  else if 0x300 ≤ o ∧ o < 0x340 ∧ o % 16 = 12 then wd (bitAt (v.sleep.getLsbD k) 0 + bitAt (v.line k) 1)
  else if 0x400 ≤ o ∧ o < 0x440 then wd (Tab.get 0 v.vector g)
  else if o = 0x440 then wd v.latch.toNat
  else if o = 0x444 then v.brgCnt
  else if 0x1000 ≤ o ∧ o < 0x1800 then wd (v.target ((o - 0x1000) / 4))
  else 0

/-! ### HAL and the sail plans (R303, R323) -/

/-- HAL_STATUS. -/
def Hal.status (h : Hal) : Word :=
  wd (h.source % 4 + bitAt h.holdover 2 + bitAt h.slewing 3 + bitAt h.stepped 4 + bitAt h.stepRefused 5 +
    bitAt h.switchBlocked 6 + bitAt h.copyFail 7)

/-- The registers of a domain. -/
def Domain.words (d : Domain) : List Word :=
  [wd d.state, wd d.ofs.toNat, wd (d.ofs.toNat / 2 ^ 32), d.rate, wd d.gm, wd (d.gm / 2 ^ 32), wd (d.utc + bitAt d.utcValid 16),
   d.cntSync]

/-- The registers of an Ethernet port. -/
def HalPort.words (x : HalPort) : List Word :=
  [x.rxlat, x.txlat, x.pdelay, x.tsDrop,
   wd (bitAt x.oper.isSome 0 + bitAt x.pend.isSome 1 + 2 ^ 2 * (x.entry % 128) + 2 ^ 16 * x.gates.toNat)]

/-- The registers of a sail-plan slot. -/
def Plan.words (p : Plan) : List Word :=
  [wd (p.state + 2 ^ 8 * p.engines.toNat), wd p.count] ++ nsWords p.start ++
    [p.cntLate, p.cntOverrun, p.cntTelltale, p.cntDefer, p.cntAbort, p.cntSkip, p.slackMin, p.cntStarved]

/-- HAL, for reading master `m`: HAL_INCR reads the effective increment, the snapshot's words its latch (R302). -/
def State.halWord (s : State) (m o : Nat) : Word :=
  let h := s.hal
  let snap := Tab.get ((0, 0) : Word × Word) h.snaps m
  if o = 0 then h.status
  else if o = 4 then wd (h.mode + 2 ^ 2 * h.pref + 2 ^ 3 * h.revert + bitAt h.stepOk 11)
  else if o = 8 then wd (h.inc / 2 ^ 16)
  else if o = 0xC then wd (h.inc % 2 ^ 16)
  else if o = 0x10 then wd h.slew
  else if o = 0x14 then h.maxNs
  else if o = 0x20 then wd h.ns
  else if o = 0x24 then snap.1
  else if o = 0x28 then snap.2
  else if o = 0x2C then h.ns32
  else if o = 0x30 then h.setNs
  else if o = 0x34 then h.setLo
  else if o = 0x38 then h.setHi
  else if o = 0x40 then h.cntSwitch
  else if o = 0x44 then h.cntStep
  else if o = 0x48 then h.cntIncrIgn
  else if 0x100 ≤ o ∧ o < 0x200 then wat (s.domain ((o - 0x100) / 0x80)).words (o % 0x80 / 4)
  else if 0x200 ≤ o ∧ o < 0x280 then wat (s.hport ((o - 0x200) / 0x20)).words (o % 0x20 / 4)
  else if 0x400 ≤ o ∧ o < 0x600 then wat (s.plan ((o - 0x400) / 0x40)).words (o % 0x40 / 4)
  else 0

/-! ### FE, PSMC and XLT (R191, R192, R280) -/

/-- The stream that holds the depth tap: a RUNNING stream whose tap is on (R267). -/
def State.tapStream (s : State) : Option Nat := (List.range 32).find? fun i => (s.stream i).state == 0x42 && (s.stream i).cfg.tap

/-- FE_STATUS. -/
def State.feStatus (s : State) : Word :=
  wd (maskOf ((List.range 8).filter fun p => (s.csi p).up) + 2 ^ 8 * s.fe.cphy.toNat + bitAt s.fe.jpegBusy.isSome 16 +
    2 ^ 17 * s.tapStream.getD 0 + bitAt s.tapStream.isSome 22)

/-- The registers of a stream. -/
def State.streamWords (s : State) (n : Nat) : List Word :=
  let x := s.stream n
  [wd (x.state + 2 ^ 8 * (x.inq.length % 256) + 2 ^ 16 * (x.cause % 32) + bitAt (x.grouped && (s.group x.group).halted) 21),
   x.lastBatch, wd x.nextNo, x.cntDrop, x.cntAlign, x.cntSet, x.cntRepeat, x.cntSkip, x.cntGap, x.cntQuar]

/-- FE. -/
def State.feWord (s : State) (o : Nat) : Word :=
  if o = 0 then s.feStatus
  else if 0x10 ≤ o ∧ o < 0x30 then (s.csi ((o - 0x10) / 4)).unbound
  else if 0x30 ≤ o ∧ o < 0x50 then (s.csi ((o - 0x30) / 4)).ecc
  else if 0x100 ≤ o ∧ o < 0x900 then wat (s.streamWords ((o - 0x100) / 0x40)) (o % 0x40 / 4)
  else 0

/-- The words of an entry of the PSM error log. -/
def PsmErr.words (x : PsmErr) : List Word :=
  [wd x.addr, wd (x.addr / 2 ^ 32 % 32 + 2 ^ 5 * x.typ + 2 ^ 8 * x.master + 2 ^ 16 * x.ctx), x.time, 0]

/-- PSMC_RET_STATUS: granules marked and not migrated, granules retired, a full stack (R178, R179, R191). -/
def State.retStatus (s : State) : Word :=
  let l := s.psmc.granules.map (·.2)
  wd ((l.filter fun x => x.marked && !x.retired).length % 2 ^ 11 + 2 ^ 11 * ((l.filter (·.retired)).length % 2 ^ 13) +
    bitAt ((List.range 6).any fun k => decide (1024 ≤ s.retiredIn k)) 24)

/-- PSMC. -/
def State.psmcWord (s : State) (o : Nat) : Word :=
  let p := s.psmc
  if o = 0 then
    wd (p.stackUp.toNat + bitAt p.trained 6 + bitAt p.trainFail 7 + 2 ^ 8 * (p.failChan % 128) + bitAt p.patrol 15)
  else if 0x10 ≤ o ∧ o < 0x28 then Tab.get 0 p.cntSym ((o - 0x10) / 4)
  else if 0x30 ≤ o ∧ o < 0x48 then Tab.get 0 p.cntRow ((o - 0x30) / 4)
  else if 0x50 ≤ o ∧ o < 0x68 then Tab.get 0 p.cntUnc ((o - 0x50) / 4)
  else if 0x70 ≤ o ∧ o < 0x88 then Tab.get 0 p.cntReplay ((o - 0x70) / 4)
  else if o = 0x90 then wd p.threshold
  else if o = 0x94 then s.retStatus
  else if o = 0x98 then wd p.hours
  else if o = 0xA0 then wd (p.logNext % 16 + 2 ^ 16 * (p.logLost % 2 ^ 16))
  else if 0x100 ≤ o ∧ o < 0x200 then wat (Tab.get {} p.log ((o - 0x100) / 16)).words (o / 4 % 4)
  else 0

/-- XLT: the entries of each static map and the faults outstanding are counted (R186, R187, R192). -/
def State.xltWord (s : State) (o : Nat) : Word :=
  let x := s.xlt
  if o = 0 then wd x.timeout
  else if 0x10 ≤ o ∧ o < 0x20 then wd (s.staticUsed ((o - 0x10) / 4))
  else if o = 0x20 then x.cntWalk
  else if o = 0x24 then x.cntFault
  else if o = 0x28 then x.cntStaticMiss
  else if o = 0x2C then x.cntTimeout
  else if o = 0x30 then wd (sumN (s.ctxs.map fun c => c.2.faults.length))
  else 0

/-! ### SEC, TST, CPW, SHR and the Plinth window (R340, R368, R410, R443, R460, R475) -/

/-- The words of an access-table entry. -/
def AccEntry.words (e : AccEntry) : List Word :=
  [wd e.base, wd (e.base / 2 ^ 32 % 2 ^ 16 + 2 ^ 16 * (e.space % 4)), wd e.limit, wd (e.limit / 2 ^ 32 % 2 ^ 16),
   wd e.rmask.toNat, wd (e.rmask.toNat / 2 ^ 32), wd e.wmask.toNat, wd (e.wmask.toNat / 2 ^ 32)]

/-- SEC. -/
def State.secWord (s : State) (o : Nat) : Word :=
  let x := s.sec
  if o = 0 then
    wd (x.code + bitAt x.debug 3 + bitAt x.locked 4 + bitAt s.svp.opened 5 + bitAt x.fallback 6 + bitAt s.store.lost 7 +
      2 ^ 8 * s.upd.state)
  else if o = 4 then wd (bitAt x.locked 0)
  else if o = 8 then wd (x.svnC % 256 + 2 ^ 8 * (x.svnP % 256))
  else if o = 0xC then x.verC
  else if o = 0x10 then x.verP
  else if o = 0x14 then wd x.keyrev.toNat
  else if o = 0x20 then x.violCnt
  else if o = 0x24 then wd (x.violMaster % 64 + bitAt x.violWrite 6 + 2 ^ 7 * (x.violEntry % 128))
  else if o = 0x28 then wd x.violAddr
  else if o = 0x2C then wd (x.violAddr / 2 ^ 32 % 2 ^ 16)
  else if o = 0x30 then s.store.seq
  else if o = 0x34 then wd (bitAt s.store.bank 0 + bitAt s.store.fail 1)
  else if 0x1000 ≤ o ∧ o < 0x2000 then wat (Tab.get {} x.table ((o - 0x1000) / 32)).words (o / 4 % 8)
  else 0

/-- TST_STATUS.run: a shut-down test, a TEST_RUN, or none. -/
def Tst.run (t : Tst) : Nat := if t.runs.any (·.shut) then 1 else if t.runs.isEmpty then 0 else 2

/-- TST. -/
def State.tstWord (s : State) (o : Nat) : Word :=
  let t := s.tst
  let x : LoopBack := Tab.get {} t.loops ((o - 0x100) / 16)
  if o = 0 then wd (t.run + bitAt t.slice 2 + 2 ^ 3 * (t.engine % 8) + bitAt t.stale 6)
  else if o = 4 then wd t.budget
  else if o = 8 then wd (t.engines.toNat + 2 ^ 8 * t.movers.toNat + 2 ^ 24 * t.ports.toNat)
  else if o = 0x10 then t.cntSlice
  else if o = 0x14 then t.cntFail
  else if o = 0x18 then t.cntYield
  else if 0x100 ≤ o ∧ o < 0x140 then
    wat [wd (x.iface % 8 + 2 ^ 4 * (x.index % 128) + 2 ^ 12 * (x.depth % 8)), wd x.bits, wd (x.bits / 2 ^ 32), x.err] (o / 4 % 4)
  else 0

/-- CPW. -/
def State.cpwWord (s : State) (o : Nat) : Word :=
  let x := s.cpw
  if o = 0 then
    wd (x.reef + 2 ^ 3 * x.target + bitAt x.ramping 6 + 2 ^ 7 * x.k + bitAt x.align 14 + bitAt (x.thermal != 0) 15 + 2 ^ 16 * x.thermal)
  else if o = 4 then wd (x.power % 2 ^ 20)
  else if o = 8 then wd (x.peak % 2 ^ 20)
  else if o = 0xC then wd x.tempCd.toNat
  else if o = 0x10 then wd x.tempPsm.toNat
  else if o = 0x14 then wd x.tempPln.toNat
  else if o = 0x18 then wd (x.warn + 2 ^ 4 * x.throttleCfg)
  else if o = 0x1C then wd x.wakeReef
  else if o = 0x20 then wd x.wdog
  else if o = 0x24 then wd x.cause.toNat
  else if o = 0x28 then x.cntThrottle
  else if o = 0x2C then x.cntOver
  else 0

/-- SHR (R410). -/
def State.shrWord (s : State) (o : Nat) : Word :=
  let t := s.twin
  if o = 0 then wd (t.state + 2 ^ 8 * (t.lanes % 32) + bitAt t.side 13)
  else if o = 4 then t.cntReplay
  else if o = 8 then t.cntDigest
  else if o = 0xC then t.cntRedirect
  else if o = 0x10 then t.cntLate
  else if o = 0x14 then wd (min 255 (sumN (s.engines.map fun e => e.2.remotes.length)))
  else 0

/-- The PLN status window: Plinth's registers, Trim's and the twin's. -/
def State.plnWord (s : State) (o : Nat) : Word :=
  let p := s.plinth
  let t := s.trim
  let w := s.twin
  if o = 0 then p.modeWord
  else if o = 4 then p.rejWord
  else if o = 0x10 then p.cntAccept
  else if o = 0x14 then p.cntSubst
  else if o = 0x18 then p.cntHold
  else if o = 0x1C then p.cntNoEnv
  else if o = 0x20 then p.cntShadow
  else if o = 0x24 then p.cntClamp
  else if o = 0x28 then p.cntMailbox
  else if o = 0x2C then p.cntBridge
  else if o = 0x30 then p.cntStop
  else if o = 0x34 then p.depthAge
  else if o = 0x2000 then wd (t.state % 4 + 2 ^ 2 * (t.region % 64) + bitAt t.blend 8 + 2 ^ 9 * (t.trace % 4))
  else if o = 0x2004 then t.samples
  else if o = 0x2008 then wd (t.lastCyc % 2 ^ 16)
  else if o = 0x2010 then t.cntMissing
  else if o = 0x2014 then t.cntSkip
  else if o = 0x2018 then t.cntNoRegion
  else if o = 0x201C then t.cntBlend
  else if o = 0x2020 then t.cntBadAct
  else if o = 0x2024 then t.cntStartLate
  else if o = 0x3000 then wd (bitAt w.role 0 + bitAt w.eligible 1 + bitAt w.aliveIn 2)
  else if o = 0x3004 then w.cntTakeover
  else if o = 0x3008 then w.cntHbMiss
  else if o = 0x300C then w.cntBad
  else if o = 0x3010 then w.cntDiverge
  else 0

/-! ### The map (R31) -/

/-- The word that master `m` reads at a BAR0 offset. -/
def State.regWord (s : State) (m off : Nat) : Word :=
  let b := off / 0x100000
  let o := off % 0x100000
  if b = 0 then s.devWord' o
  else if b = 1 then s.evcWord o
  else if b = 2 then s.halWord m o
  else if b = 3 then s.hifWord o
  else if b = 4 then s.apWord (o / 0x10000) (o % 0x10000)
  else if 0x10 ≤ b ∧ b < 0x18 then s.engWord (b - 0x10) o
  else if b = 0x20 then s.feWord o
  else if b = 0x22 then s.psmcWord o
  else if b = 0x23 then s.xltWord o
  else if b = 0x24 then s.schWord o
  else if b = 0x25 then s.secWord o
  else if b = 0x26 then s.tstWord o
  else if b = 0x27 then s.cpwWord o
  else if b = 0x28 then s.shrWord o
  else if b = 0x30 then s.plnWord o
  else 0

/-! ### Configuration space (R28) -/

/-- The offset from which the model's register rows reach the function's configuration space, behind BAR0 (log 146). -/
def cfgBase : Nat := 0x4000000

/-- Where the model places Device Control (log 146). -/
def cfgDevCtl : Nat := cfgBase + 0x78

/-- Max_Payload_Size as Device Control codes it. -/
def State.payloadCode (s : State) : Nat := if s.hif.maxPayload = 128 then 0 else if s.hif.maxPayload = 256 then 1 else 2

/-- Configuration reads: the IDs, the class code, the Interrupt Pin, Device Control (R28). -/
def State.cfgWord (s : State) (off : Nat) : Word :=
  if off = cfgBase then wd (Config.vendor % 2 ^ 16 + 2 ^ 16 * 0x8140)
  else if off = cfgBase + 8 then wd (Config.rev % 256 + 2 ^ 8 * 0x120000)
  else if off = cfgDevCtl then wd (2 ^ 5 * s.payloadCode)
  else 0

/-- A configuration write: Device Control's Max_Payload_Size takes 128, 256 or 512 bytes (R28, R36). -/
def State.cfgWrite (s : State) (off : Nat) (v : Word) : State :=
  if off = cfgDevCtl ∧ fld v 7 5 ≤ 2 then s.upHif fun h => { h with maxPayload := 128 * 2 ^ fld v 7 5 } else s

end Sys2Proof.Machine
end

