-- ==== Sys2Proof/Machine/Regs.lean ====
section
/-! DEFINITION. Accesses of BAR0 registers (R4 to R8, R28, R36, R31, R65, R191, R192, R303, R391,
R392, R421, R422, R443, R460, R475). -/

namespace Sys2Proof.Machine

/-! ### The map (R31) -/

/-- A BAR0 offset lies in a block. -/
def barOccupied (off : Nat) : Bool :=
  let b := off / 0x100000
  b < 5 || decide (0x10 ≤ b ∧ b < 0x18) || decide (0x20 ≤ b ∧ b ≤ 0x28) || b == 0x30

/-- The block is read-only to the host: the engines' views, the scheduler's accounting, the Plinth window. -/
def barReadOnly (off : Nat) : Bool :=
  let b := off / 0x100000
  decide (0x10 ≤ b ∧ b < 0x18) || b == 0x24 || b == 0x30

/-- Replace bits `[hi:lo]` of a number by the low bits of another. -/
def putBits (old hi lo new : Nat) : Nat :=
  let w := hi + 1 - lo
  old - (old / 2 ^ lo % 2 ^ w) * 2 ^ lo + (new % 2 ^ w) * 2 ^ lo

/-! ### Writes, block by block -/

/-- HIF: HIF_CTRL, HIF_BAR2_BASE, HIF_BAR2_OWNER and the MSI-X table (R32, R34, R65). -/
def State.writeHif (s : State) (off : Nat) (v : Word) : State :=
  if off = 0x300008 then s.upHif fun h => { h with apEnable := BitVec.ofNat 16 (fld v 15 0), pause := bit v 16 }
  else if off = 0x30000C then
    let b := fld v 8 0
    if b % max 1 s.hif.bar2Size = 0 ∧ b ≤ 383 then s.upHif fun h => { h with bar2Base := b } else s
  else if off = 0x300010 then
    if s.sec.locked then s else s.upHif fun h => { h with bar2Master := fld v 3 0, bar2Enable := bit v 31 }
  else if 0x310000 ≤ off ∧ off < 0x310400 then
    let n := (off - 0x310000) / 16
    let k := off / 4 % 4
    let e := s.msixEntry n
    let e := if k = 0 then { e with addr := putBits e.addr 31 0 (v.toNat / 4 * 4) }
      else if k = 1 then { e with addr := putBits e.addr 63 32 v.toNat }
      else if k = 2 then { e with data := v } else { e with masked := bit v 0 }
    (s.upHif fun h => { h with msix := Tab.set h.msix n e }).msixRelease n
  else s

/-- EVC: the registers with a row of their own as there; enables, hold-offs and priorities, the processors' masks, the
bridge's vectors and the targets (R422), after which the bridge and the sleeping processors look at the sources again
(R419, R420). -/
def State.writeEvc (s : State) (off : Nat) (v same : Word) : State :=
  let o := off - 0x100000
  if o = 0 then s.evcDisable v
  else if 0x140 ≤ o ∧ o < 0x180 then s.evcUnpend ((o - 0x140) / 4) v same
  else if 0x180 ≤ o ∧ o < 0x1C0 then s.evcSet ((o - 0x180) / 4) v
  else if 0x300 ≤ o ∧ o < 0x340 ∧ o % 16 = 8 then s.evcEoi ((o - 0x300) / 16) v
  else if o = 0x440 then s.evcUnlatch v
  else
  let s :=
    if 0x100 ≤ o ∧ o < 0x140 then
      let g := (o - 0x100) / 4
      s.upEvc fun x => { x with en := Tab.set x.en g (v &&& evcBits g) }
    else if 0x200 ≤ o ∧ o < 0x240 then
      let g := (o - 0x200) / 4
      s.upEvc fun x => { x with holdoff := Tab.set x.holdoff g (fld v 15 0), prio := Tab.set x.prio g (fld v 17 16) }
    else if 0x300 ≤ o ∧ o < 0x340 ∧ o % 16 = 0 then s.upEvc fun x => { x with mask := setBit x.mask ((o - 0x300) / 16) (bit v 0) }
    else if 0x400 ≤ o ∧ o < 0x440 then s.upEvc fun x => { x with vector := Tab.set x.vector ((o - 0x400) / 4) (fld v 5 0) }
    else if 0x1000 ≤ o ∧ o < 0x1800 then s.upEvc fun x => { x with tgt := Tab.set x.tgt ((o - 0x1000) / 4) (fld v 4 0) }
    else s
  ((List.range 512).foldl (fun s i => if s.evc.isPend i then s.evcWake i else s) s).evcBridgeAll

/-- HAL: the registers with a row of their own as there, the slew and switch limits, the target of a manual step, the
sticky status bits, but for those that the hardware sets in the same cycle, the port latencies (R8, R303). -/
def State.writeHal (s : State) (off : Nat) (v same : Word) : State :=
  let o := off - 0x200000
  if o = 0 then s.upHal fun h =>
    { h with stepped := (h.stepped && !bit v 4) || bit same 4, stepRefused := (h.stepRefused && !bit v 5) || bit same 5
             switchBlocked := (h.switchBlocked && !bit v 6) || bit same 6 }
  else if o = 4 then s.halCtrl v
  else if o = 8 then s.upHal fun h => h.writeIncr false v
  else if o = 0xC then s.upHal fun h => h.writeIncr true v
  else if o = 0x10 then s.upHal fun h => { h with slew := min 450 (max 1 (fld v 8 0)) }
  else if o = 0x14 then s.upHal fun h => { h with maxNs := v }
  else if o = 0x30 then s.upHal fun h => { h with setNs := v }
  else if o = 0x34 then s.upHal fun h => { h with setLo := v }
  else if o = 0x38 then s.upHal fun h => { h with setHi := v }
  else if 0x200 ≤ o ∧ o < 0x280 ∧ o % 0x20 = 0 then s.upHport ((o - 0x200) / 0x20) fun x => { x with rxlat := v }
  else if 0x200 ≤ o ∧ o < 0x280 ∧ o % 0x20 = 4 then s.upHport ((o - 0x200) / 0x20) fun x => { x with txlat := v }
  else s

/-- A word of an access-table entry (R443). -/
def AccEntry.put (e : AccEntry) (w : Nat) (v : Word) : AccEntry :=
  let n := v.toNat
  if w = 0 then { e with base := putBits e.base 31 0 n }
  else if w = 1 then { e with base := putBits e.base 47 32 n, space := fld v 17 16 }
  else if w = 2 then { e with limit := putBits e.limit 31 0 n }
  else if w = 3 then { e with limit := putBits e.limit 47 32 n }
  else if w = 4 then { e with rmask := BitVec.ofNat 64 (putBits e.rmask.toNat 31 0 n) }
  else if w = 5 then { e with rmask := BitVec.ofNat 64 (putBits e.rmask.toNat 63 32 n) }
  else if w = 6 then { e with wmask := BitVec.ofNat 64 (putBits e.wmask.toNat 31 0 n) }
  else { e with wmask := BitVec.ofNat 64 (putBits e.wmask.toNat 63 32 n) }

/-- SEC: the lock, which BOOT sets, and the access-table entries until then (R425). -/
def State.writeSec (s : State) (m off : Nat) (v : Word) : State :=
  if off = 0x2500004 then s.secLock m v
  else if s.sec.locked ∨ off < 0x2501000 ∨ 0x2502000 ≤ off then s
  else
    let e := (off - 0x2501000) / 32
    s.upSec fun x => { x with table := Tab.set x.table e ((Tab.get {} x.table e).put (off / 4 % 8) v) }

/-- CPW: the thermal limits, the level after Reef 4, the watchdog, the sticky causes, but for those that the hardware sets in
the same cycle (R8, R475). A warn or throttle of 0 is taken as 1. -/
def State.writeCpw (s : State) (off : Nat) (v same : Word) : State :=
  let o := off - 0x2700000
  if o = 0x18 then
    let w := max 1 (fld v 3 0)
    s.upCpw fun x => { x with warn := w, throttleCfg := min w (max 1 (fld v 7 4)) }
  else if o = 0x1C then s.upCpw fun x => { x with wakeReef := min 3 (fld v 2 0) }
  else if o = 0x20 then s.upCpw fun x => { x with wdog := fld v 15 0, wdogAt := s.hal.nowNs }
  else if o = 0x24 then s.upCpw fun x => { x with cause := (x.cause &&& ~~~(v.setWidth 7)) ||| same.setWidth 7 }
  else s

/-- PSMC: the marking threshold and the patrol period (R191). A period of 255 is taken as 254; with the patrol off no pass is
in progress. -/
def State.writePsmc (s : State) (off : Nat) (v : Word) : State :=
  if off = 0x2200090 then s.upPsmc fun x => { x with threshold := fld v 3 0 }
  else if off = 0x2200098 then s.upPsmc fun x => { x with hours := min 254 (fld v 7 0), patrol := x.patrol && fld v 7 0 != 0 }
  else s

/-- The effect of a permitted write by master `m`; `same` holds the write-1-to-clear bits that the hardware sets in the same
cycle (R8). -/
def State.writeReg (s : State) (m off : Nat) (v same : Word) : State :=
  let b := off / 0x100000
  if b = 1 then s.writeEvc off v same
  else if b = 2 then s.writeHal off v same
  else if b = 3 then s.writeHif off v
  else if b = 0x22 then s.writePsmc off v
  else if off = 0x2300000 then s.upXlt fun x => { x with timeout := min 60000 (fld v 15 0) }
  else if b = 0x25 then s.writeSec m off v
  else if off = 0x2600004 then
    (s.upTst fun x => { x with budget := max 20 (min (fld v 8 0) (s.cpw.cap / 1000 - 60)) }).testGo
  else if b = 0x27 then s.writeCpw off v same
  else s

/-- An access of a register block that R4 or R31 does not allow: misaligned, not 32 bits wide, or where no block is. -/
def barBad (off len : Nat) : Bool := off % 4 != 0 || len != 4 || !barOccupied off

/-- An offset lies in the slots of an aperture, which follow their own rules (R4, R36). -/
def slotOff (off : Nat) : Bool := off / 0x100000 == 4 && decide (off % 0x10000 < 0xC000)

/-- An offset is an aperture's HEAD register (R66). -/
def headOff (off : Nat) : Bool :=
  off / 0x100000 == 4 && decide (0xC010 ≤ off % 0x10000 ∧ off % 0x10000 < 0xC030) && off % 8 == 0

/-- A register R421 keeps from the host altogether: the processors' masks, claims and completions. -/
def evcKept (off : Nat) : Bool := decide (0x100300 ≤ off ∧ off < 0x100340) && decide (off % 16 < 12)

/-- A register of EVC that the host may read and not write (R421). -/
def evcShut (off : Nat) : Bool :=
  off / 0x100000 == 1 && (decide (off < 0x100100) || decide (0x100180 ≤ off ∧ off < 0x1001C0))

/-- REGISTER_WRITE: a write of `len` bytes by master `m`. -/
def State.registerWrite (s : State) (m off len : Nat) (v same : Word) : State :=
  if cfgBase ≤ off then if m < 16 ∧ off % 4 = 0 ∧ len = 4 then s.cfgWrite off v else s
  else if slotOff off then s.slotWrite (off / 0x10000 % 16) (off % 0x10000) [v] (len == 4)
  else if barBad off len ∨ (m < 16 ∧ evcKept off) then s.hostUr
  else if headOff off then s.headWrite m (off / 0x10000 % 16) ((off % 0x10000 - 0xC010) / 8) v
  else s.checked m off true fun s =>
    if m < 16 ∧ barReadOnly off then s.upHif fun h => { h with aerUnsupported := true }
    else if m < 16 ∧ evcShut off then s
    else s.writeReg m off v same

/-- REGISTER_WRITE. -/
def execRegisterWrite (m : Fin 64) (off : Nat) (v : RegData) (s : State) : Host.Outcome State Fault Refusal :=
  .next (s.registerWrite m.val off v.len v.value v.same)

/-! ### Reads -/

/-- The 64-bit counter whose low word stands at an offset of a client's block. -/
def Client.counter (x : Client) (o : Nat) : Option Nat :=
  if o = 0 then some x.waitNs else if o = 8 then some x.runNs else if o = 0x14 then some x.preemptedNs else none

/-- The 64-bit counter whose low word stands at an offset of the SCH block. -/
def State.schCounter (s : State) (o : Nat) : Option Nat :=
  if 0x100 ≤ o ∧ o < 0x500 then (s.client ((o - 0x100) / 0x40)).counter (o % 0x40) else none

/-- A read in the SCH block: a low word latches its high word for the reading master, whose read of the high word returns it
(R391). -/
def State.schGet (s : State) (m o : Nat) : State :=
  match s.schCounter o with
  | some n =>
    ({ s with sch := { s.sch with latch := Tab.set s.sch.latch (4096 * m + o + 4) (wd (n / 2 ^ 32)) } } : State).busWord (wd n)
  | none =>
    match (if 4 ≤ o then s.schCounter (o - 4) else none) with
    | some n => s.busWord (Tab.get (wd (n / 2 ^ 32)) s.sch.latch (4096 * m + o))
    | none => s.busWord (s.schWord o)

/-- The effect of a permitted read by master `m`: the register's word, and what the read itself changes. CPW_POWER_PEAK and
PSMC_ERR_IDX.lost clear and hold what an event of the same cycle brings (R8, R191, R475); an entry of the PSM error log is no
longer unread; HAL_SNAP_NS latches (R302); EVC_CLAIMk claims (R413). -/
def State.readReg (s : State) (m off same : Nat) : State :=
  let w := s.regWord m off
  if off = 0x2700008 then (s.upCpw fun x => { x with peak := same }).busWord w
  else if off = 0x22000A0 then (s.upPsmc fun x => { x with logLost := same }).busWord w
  else if 0x2200100 ≤ off ∧ off < 0x2200200 then
    (s.upPsmc fun x => { x with logUnread := x.logUnread.filter (· ≠ (off - 0x2200100) / 16) }).busWord w
  else if off = 0x200020 then s.halSnap m
  else if 0x100300 ≤ off ∧ off < 0x100340 ∧ off % 16 = 4 then s.evcClaim ((off - 0x100300) / 16)
  else if off / 0x100000 = 0x24 then s.schGet m (off % 0x100000)
  else s.busWord w

/-- A read of `len` bytes by master `m` (R4, R31, R36). -/
def State.registerRead (s : State) (m off len same : Nat) : State :=
  if cfgBase ≤ off then if m < 16 ∧ off % 4 = 0 ∧ len = 4 then s.busWord (s.cfgWord off) else s
  else if slotOff off then if s.asleep m then s.hostUr else s.busAns 0 (List.replicate len 0)
  else if barBad off len ∨ (m < 16 ∧ evcKept off) then s.hostUr
  else s.checked m off false fun s => s.readReg m off same

/-- RC_FIELD_READ. The table has no row for the read of a field that does not clear: at any other register this is that
read (log 148). -/
def execRcFieldRead (m : Fin 64) (off : Nat) (same : RegTake) (s : State) : Host.Outcome State Fault Refusal :=
  .next (s.registerRead m.val off same.len same.same)

/-- SCH_COUNTER_READ (R391): an offset of the SCH block. -/
def execSchCounterRead (m : Fin 64) (off : RegSpan) (s : State) : Host.Outcome State Fault Refusal :=
  .next (s.registerRead m.val (0x2400000 + off.off) off.len 0)

end Sys2Proof.Machine
end

