-- ==== Sys2Proof/Machine/Xf.lean ====
section
/-! DEFINITION. TRANSFORM (R88) and CHISEL (R89, R213 to R217). -/

namespace Sys2Proof.Machine

/-! ### TRANSFORM -/

/-- The words of transform `i` at the TOW of word `w`, with the stride of word `st`. -/
def State.xfAt (s : State) (x : Cx) (w st i : Nat) : List Word :=
  let n := cf x.cmd 4 12 0 * cf x.cmd 4 28 16
  wordsOf (s.clRd x.e (tH x.cmd w) (64 * (tO x.cmd w + i * st)) (8 * n))

/-- The spectrum of the filter from input channel `ci` to output channel `co` (log 43). -/
def State.xfFilter (s : State) (x : Cx) (co ci : Nat) : List Word :=
  let n := cf x.cmd 4 12 0 * cf x.cmd 4 28 16
  wordsOf (s.clRd x.e (tH x.cmd 2) (64 * tO x.cmd 2 + 8 * n * (co * cf x.cmd 5 15 0 + ci)) (8 * n))

/-- TRANSFORM: transforms of a batch, or sums of complex products over channels, rounded to nearest (R88, R117, R208). -/
def xfBody (x : Cx) (s : State) : Res :=
  let c := x.cmd
  let k := cf c 0 17 16
  let nx := cf c 4 12 0
  let ny := cf c 4 28 16
  let n := cf c 5 15 0
  let ss := cf c 6 17 0
  let ds := cf c 7 17 0
  if k = 2 then
    let xs := (List.range n).map (s.xfAt x 1 ss)
    .ok ((List.range (cf c 5 31 16)).foldl (fun t co =>
      let fs := (List.range n).map (s.xfFilter x co)
      let y := (List.range (nx * ny)).flatMap fun i =>
        let v := (List.range n).foldl (fun (y : Word × Word) ci =>
          let z := cMul (cAt (xs.getD ci []) i) (cAt (fs.getD ci []) i)
          (fAdd 0 y.1 z.1, fAdd 0 y.2 z.2)) (0, 0)
        [v.1, v.2]
      t.clWr x.e (tH c 3) (64 * (tO c 3 + co * ds)) (bytesOf y)) s)
  else
    .ok ((List.range n).foldl (fun t i =>
      t.clWr x.e (tH c 3) (64 * (tO c 3 + i * ds)) (slice (bytesOf (fft2 (k == 1) nx ny (s.xfAt x 1 ss i))) 0 (8 * nx * ny))) s)

/-- TRANSFORM. -/
def execTransform (e : Fin 8) (q : Fin 5) (i : Nat) (env : Env) (s : State) : Host.Outcome State Fault Refusal :=
  runCommand opXf e q i env xfBody s

/-! ### CHISEL -/

/-- Corners of a box: x1, y1, x2, y2. -/
abbrev Box := Word × Word × Word × Word

/-- A NaN coordinate makes a box invalid (R214). -/
def boxBad (b : Box) : Bool := fIsNan b.1 || fIsNan b.2.1 || fIsNan b.2.2.1 || fIsNan b.2.2.2

/-- Decode a box from four deltas and an anchor, and clip it (R214). -/
def decodeBox (dist : Bool) (h w : Nat) (d a : List Word) : Box :=
  let half : Word := 0x3F000000
  let b : Box :=
    if dist then
      (fFma 0 (fNeg (wat d 0)) (wat a 2) (wat a 0), fFma 0 (fNeg (wat d 1)) (wat a 2) (wat a 1),
       fFma 0 (wat d 2) (wat a 2) (wat a 0), fFma 0 (wat d 3) (wat a 2) (wat a 1))
    else
      let cx := fFma 0 (wat d 0) (wat a 2) (wat a 0)
      let cy := fFma 0 (wat d 1) (wat a 3) (wat a 1)
      let bw := fMul 0 (wat a 2) (fExp 0 (wat d 2))
      let bh := fMul 0 (wat a 3) (fExp 0 (wat d 3))
      (fFma 0 (fNeg half) bw cx, fFma 0 (fNeg half) bh cy, fFma 0 half bw cx, fFma 0 half bh cy)
  let cl := fun (v : Word) n => fMin (fMax v 0) (fOfInt 0 (n : Nat))
  (cl b.1 w, cl b.2.1 h, cl b.2.2.1 w, cl b.2.2.2 h)

/-- An entry of the NMS kinds. -/
structure NmsEntry where
  /-- Candidate. -/
  cand : Nat
  /-- Class. -/
  cls : Nat
  /-- Score, FP32. -/
  score : Word
  /-- Box. -/
  box : Box
deriving DecidableEq, Repr, Inhabited

/-- Entry `a` stands before entry `b` (R215). -/
def NmsEntry.before (a b : NmsEntry) : Bool :=
  if fLt b.score a.score then true
  else if fLt a.score b.score then false
  else decide (a.cand < b.cand ∨ (a.cand = b.cand ∧ a.cls < b.cls))

/-- Insert an entry in order. -/
def insNms (x : NmsEntry) : List NmsEntry → List NmsEntry
  | [] => [x]
  | y :: t => if x.before y then x :: y :: t else y :: insNms x t

/-- Area of a box. -/
def boxArea (b : Box) : Word := fMul 0 (fMax 0 (fSub 0 b.2.2.1 b.1)) (fMax 0 (fSub 0 b.2.2.2 b.2.1))

/-- Two boxes overlap by more than a threshold (R216): the comparison is exact. -/
def overlaps (thr : Word) (e f : Box) : Bool :=
  let iw := fMax 0 (fSub 0 (fMin e.2.2.1 f.2.2.1) (fMax e.1 f.1))
  let ih := fMax 0 (fSub 0 (fMin e.2.2.2 f.2.2.2) (fMax e.2.1 f.2.1))
  let inter := fMul 0 iw ih
  let union := ((fv (boxArea e)).add 0 (fv (boxArea f))).add 0 (fv inter).neg
  ((fv thr).mul union).lt (fv inter)

/-- The greedy suppression (R216): kept entries in reverse, entries examined, stopped at top-K. -/
def nmsRun (aware : Bool) (thr : Word) (topK : Nat) : List NmsEntry → List NmsEntry → Nat → List NmsEntry × Nat × Bool
  | [], kept, n => (kept, n, false)
  | e :: t, kept, n =>
    if topK ≤ kept.length then (kept, n, true)
    else if kept.any fun f => (!aware || f.cls == e.cls) && overlaps thr e.box f.box then nmsRun aware thr topK t kept (n + 1)
    else nmsRun aware thr topK t (e :: kept) (n + 1)

/-- The highest-scoring class of a candidate, the lowest on a tie; NaN scores are passed over (R215). -/
def bestClass (l : List (Nat × Word)) : Option (Nat × Word) :=
  l.foldl (fun a p => if fIsNan p.2 then a else match a with
    | none => some p
    | some b => if fLt b.2 p.2 then some p else some b) none

/-- A record of the output (R217). -/
def NmsEntry.words (e : NmsEntry) : List Word :=
  [e.box.1, e.box.2.1, e.box.2.2.1, e.box.2.2.2, e.score, wd e.cls, wd e.cand, 0]

/-- CHISEL. -/
def chiselBody (x : Cx) (s : State) : Res :=
  let c := x.cmd
  let k := cf c 0 17 16
  let n := cf c 5 19 0
  let cls := cf c 6 15 0
  let fs := tF c 1
  let quads := fun w => chunks 4 n (s.wordsAt x w (4 * n))
  let ds := quads 2
  let boxes : List Box :=
    if k = 1 then ds.map fun d => (wat d 0, wat d 1, wat d 2, wat d 3)
    else List.zipWith (decodeBox (cb c 0 19) (cf c 9 14 0) (cf c 9 30 16)) ds (quads 3)
  let out := fun ws => s.clWr x.e (tH c 4) (64 * tO c 4) (bytesOf ws)
  if k = 0 then .ok (out (boxes.flatMap fun b => [b.1, b.2.1, b.2.2.1, b.2.2.2]))
  else
    let sc := (codesOf fs (n * cls) (s.clRd x.e (tH c 1) (64 * tO c 1) (rowBytes fs (n * cls)))).map fun v => toWord (decEl fs v)
    let rows := chunks cls n sc
    let all := (List.range n).flatMap fun i =>
      let b := boxes.getD i (0, 0, 0, 0)
      let l := (List.range cls).zip (rows.getD i [])
      let l := if cb c 0 18 then l else (bestClass l).toList
      if boxBad b then [] else (l.filter fun p => fLe (cw c 8) p.2).map fun p => ({ cand := i, cls := p.1, score := p.2, box := b } : NmsEntry)
    let ord := all.foldl (fun l e => insNms e l) []
    let part := ord.take 65536
    let r := nmsRun (cb c 0 18) (cw c 7) (cf c 6 28 16) part [] 0
    let kept := r.1.reverse
    let dropped := (boxes.filter boxBad).length + (sc.filter fIsNan).length
    .ok (out ([wd kept.length, wd all.length, wd r.2.1, wd dropped, wd (bitAt r.2.2 0 + bitAt (decide (65536 < all.length)) 1)] ++
      List.replicate 11 0 ++ kept.flatMap NmsEntry.words))

/-- CHISEL. -/
def execChisel (e : Fin 8) (q : Fin 5) (i : Nat) (env : Env) (s : State) : Host.Outcome State Fault Refusal :=
  runCommand opChis e q i env chiselBody s

end Sys2Proof.Machine
end

