-- ==== Sys2Proof/Machine/Dispatch.lean ====
section
/-! DEFINITION. The dispatch: one arm for each command. -/

namespace Sys2Proof.Machine

/-- The effect of one command on the state (its queue apart). -/
def exec (i : Instr) (s : State) : Host.Outcome State Fault Refusal :=
  match i with
  | .slotWrite ap off ws full => Sys2Proof.Machine.execSlotWrite ap off ws full s
  | .packetIntake ap slot => Sys2Proof.Machine.execPacketIntake ap slot s
  | .refusalReply ap slot => Sys2Proof.Machine.execRefusalReply ap slot s
  | .replyRecordWrite ring => Sys2Proof.Machine.execReplyRecordWrite ring s
  | .moderationTimerExpiry ring => Sys2Proof.Machine.execModerationTimerExpiry ring s
  | .msixVectorUnmask v => Sys2Proof.Machine.execMsixVectorUnmask v s
  | .d3hotEntry => Sys2Proof.Machine.execD3hotEntry s
  | .d0Return => Sys2Proof.Machine.execD0Return s
  | .flr => Sys2Proof.Machine.execFlr s
  | .linkDown => Sys2Proof.Machine.execLinkDown s
  | .perst => Sys2Proof.Machine.execPerst s
  | .poisonedTlpReceive ap => Sys2Proof.Machine.execPoisonedTlpReceive ap s
  | .bar2Read off len errs => Sys2Proof.Machine.execBar2Read off len errs s
  | .bar2Write off data => Sys2Proof.Machine.execBar2Write off data s
  | .bar2Resize size => Sys2Proof.Machine.execBar2Resize size s
  | .hifApHeadWrite ap k v => Sys2Proof.Machine.execHifApHeadWrite ap k v s
  | .registerWrite m off v => Sys2Proof.Machine.execRegisterWrite m off v s
  | .rcFieldRead m off same => Sys2Proof.Machine.execRcFieldRead m off same s
  | .nop k => Sys2Proof.Machine.execNop k s
  | .devInfo k => Sys2Proof.Machine.execDevInfo k s
  | .devRingSet k => Sys2Proof.Machine.execDevRingSet k s
  | .devRingClear k => Sys2Proof.Machine.execDevRingClear k s
  | .devReefSet k => Sys2Proof.Machine.execDevReefSet k s
  | .devStats k => Sys2Proof.Machine.execDevStats k s
  | .devFaultRead k => Sys2Proof.Machine.execDevFaultRead k s
  | .devShutdown k => Sys2Proof.Machine.execDevShutdown k s
  | .devResetCompute k => Sys2Proof.Machine.execDevResetCompute k s
  | .coreResetDelay => Sys2Proof.Machine.execCoreResetDelay s
  | .devClientCfg k => Sys2Proof.Machine.execDevClientCfg k s
  | .partCreate k => Sys2Proof.Machine.execPartCreate k s
  | .partResize k => Sys2Proof.Machine.execPartResize k s
  | .partDelete k => Sys2Proof.Machine.execPartDelete k s
  | .ctxCreate k => Sys2Proof.Machine.execCtxCreate k s
  | .ctxDestroy k => Sys2Proof.Machine.execCtxDestroy k s
  | .contextScrubComplete ctx => Sys2Proof.Machine.execContextScrubComplete ctx s
  | .ctxSuspend k => Sys2Proof.Machine.execCtxSuspend k s
  | .ctxResume k => Sys2Proof.Machine.execCtxResume k s
  | .ctxModeSet k => Sys2Proof.Machine.execCtxModeSet k s
  | .ctxQuery k => Sys2Proof.Machine.execCtxQuery k s
  | .memAlloc k => Sys2Proof.Machine.execMemAlloc k s
  | .memFree k => Sys2Proof.Machine.execMemFree k s
  | .memScrubComplete ctx va => Sys2Proof.Machine.execMemScrubComplete ctx va s
  | .memMapHost k => Sys2Proof.Machine.execMemMapHost k s
  | .memUnmap k => Sys2Proof.Machine.execMemUnmap k s
  | .memCopy k => Sys2Proof.Machine.execMemCopy k s
  | .memFill k => Sys2Proof.Machine.execMemFill k s
  | .transferComplete id errs remote => Sys2Proof.Machine.execTransferComplete id errs remote s
  | .cleatAlloc k => Sys2Proof.Machine.execCleatAlloc k s
  | .cleatAllocRetry e => Sys2Proof.Machine.execCleatAllocRetry e s
  | .cleatRelease k => Sys2Proof.Machine.execCleatRelease k s
  | .cleatScrubComplete e => Sys2Proof.Machine.execCleatScrubComplete e s
  | .residueHoldExpiry e => Sys2Proof.Machine.execResidueHoldExpiry e s
  | .xltFaultReply k => Sys2Proof.Machine.execXltFaultReply k s
  | .xltFaultTimeout ctx id => Sys2Proof.Machine.execXltFaultTimeout ctx id s
  | .commonsSplit k => Sys2Proof.Machine.execCommonsSplit k s
  | .commonsSplitComplete => Sys2Proof.Machine.execCommonsSplitComplete s
  | .prefetchCfg k => Sys2Proof.Machine.execPrefetchCfg k s
  | .jobSubmit k => Sys2Proof.Machine.execJobSubmit k s
  | .jobCancel k => Sys2Proof.Machine.execJobCancel k s
  | .jobQuery k => Sys2Proof.Machine.execJobQuery k s
  | .jobStats k => Sys2Proof.Machine.execJobStats k s
  | .fenceSignal k => Sys2Proof.Machine.execFenceSignal k s
  | .fenceWait k => Sys2Proof.Machine.execFenceWait k s
  | .seqOpen k => Sys2Proof.Machine.execSeqOpen k s
  | .seqClose k => Sys2Proof.Machine.execSeqClose k s
  | .kvPageScrubComplete idx => Sys2Proof.Machine.execKvPageScrubComplete idx s
  | .seqStep k => Sys2Proof.Machine.execSeqStep k s
  | .stepEnd step => Sys2Proof.Machine.execStepEnd step s
  | .seqPreempt k => Sys2Proof.Machine.execSeqPreempt k s
  | .swapOutComplete seq => Sys2Proof.Machine.execSwapOutComplete seq s
  | .seqRestore k => Sys2Proof.Machine.execSeqRestore k s
  | .swapInComplete seq => Sys2Proof.Machine.execSwapInComplete seq s
  | .seqFork k => Sys2Proof.Machine.execSeqFork k s
  | .kvBucketsSet k => Sys2Proof.Machine.execKvBucketsSet k s
  | .kvDirQuery k => Sys2Proof.Machine.execKvDirQuery k s
  | .streamOpen k => Sys2Proof.Machine.execStreamOpen k s
  | .streamClose k => Sys2Proof.Machine.execStreamClose k s
  | .streamStart k => Sys2Proof.Machine.execStreamStart k s
  | .streamStop k => Sys2Proof.Machine.execStreamStop k s
  | .streamStopComplete stream => Sys2Proof.Machine.execStreamStopComplete stream s
  | .streamResume k => Sys2Proof.Machine.execStreamResume k s
  | .streamSkip k => Sys2Proof.Machine.execStreamSkip k s
  | .meshLoad k => Sys2Proof.Machine.execMeshLoad k s
  | .jpegDecode k => Sys2Proof.Machine.execJpegDecode k s
  | .jpegDecodeComplete stream => Sys2Proof.Machine.execJpegDecodeComplete stream s
  | .halCfg k => Sys2Proof.Machine.execHalCfg k s
  | .halQuery k => Sys2Proof.Machine.execHalQuery k s
  | .planLoad k => Sys2Proof.Machine.execPlanLoad k s
  | .planActivate k => Sys2Proof.Machine.execPlanActivate k s
  | .planStartInstant slot => Sys2Proof.Machine.execPlanStartInstant slot s
  | .planDeactivate k => Sys2Proof.Machine.execPlanDeactivate k s
  | .planUnload k => Sys2Proof.Machine.execPlanUnload k s
  | .planQuery k => Sys2Proof.Machine.execPlanQuery k s
  | .qbvCfg k => Sys2Proof.Machine.execQbvCfg k s
  | .qbvListChange port => Sys2Proof.Machine.execQbvListChange port s
  | .qbvGateEvent port => Sys2Proof.Machine.execQbvGateEvent port s
  | .plnStatus k => Sys2Proof.Machine.execPlnStatus k s
  | .plnFaultRead k => Sys2Proof.Machine.execPlnFaultRead k s
  | .trimTraceRead k => Sys2Proof.Machine.execTrimTraceRead k s
  | .plnConfig k => Sys2Proof.Machine.execPlnConfig k s
  | .plnModeSet k => Sys2Proof.Machine.execPlnModeSet k s
  | .trimTraceCfg k => Sys2Proof.Machine.execTrimTraceCfg k s
  | .twinLinkUp k => Sys2Proof.Machine.execTwinLinkUp k s
  | .twinTrainingComplete peer => Sys2Proof.Machine.execTwinTrainingComplete peer s
  | .twinModeSet k => Sys2Proof.Machine.execTwinModeSet k s
  | .twinPeerModeRequest peer => Sys2Proof.Machine.execTwinPeerModeRequest peer s
  | .twinModeTimeout => Sys2Proof.Machine.execTwinModeTimeout s
  | .twinQuery k => Sys2Proof.Machine.execTwinQuery k s
  | .twinHandover k peerEligible => Sys2Proof.Machine.execTwinHandover k peerEligible s
  | .secAttest k => Sys2Proof.Machine.execSecAttest k s
  | .updOpen k => Sys2Proof.Machine.execUpdOpen k s
  | .updBlock k => Sys2Proof.Machine.execUpdBlock k s
  | .updBlockProgrammed ok => Sys2Proof.Machine.execUpdBlockProgrammed ok s
  | .updVerify k => Sys2Proof.Machine.execUpdVerify k s
  | .updActivate k => Sys2Proof.Machine.execUpdActivate k s
  | .updActivateInstant => Sys2Proof.Machine.execUpdActivateInstant s
  | .updAbort k => Sys2Proof.Machine.execUpdAbort k s
  | .updQuery k => Sys2Proof.Machine.execUpdQuery k s
  | .lcTransition k => Sys2Proof.Machine.execLcTransition k s
  | .dbgSession k => Sys2Proof.Machine.execDbgSession k s
  | .testRun k => Sys2Proof.Machine.execTestRun k s
  | .testBlockComplete b ok dur loc sig => Sys2Proof.Machine.execTestBlockComplete b ok dur loc sig s
  | .testResult k => Sys2Proof.Machine.execTestResult k s
  | .loopbackSet k => Sys2Proof.Machine.execLoopbackSet k s
  | .testRotateCfg k => Sys2Proof.Machine.execTestRotateCfg k s
  | .cmdNop e q n => Sys2Proof.Machine.execCmdNop e q n s
  | .cmdFenceSignal e q n => Sys2Proof.Machine.execCmdFenceSignal e q n s
  | .cmdFenceWait e q n => Sys2Proof.Machine.execCmdFenceWait e q n s
  | .launchWait e q n => Sys2Proof.Machine.execLaunchWait e q n s
  | .launchWaitExpiry e q n => Sys2Proof.Machine.execLaunchWaitExpiry e q n s
  | .load e q n env => Sys2Proof.Machine.execLoad e q n env s
  | .store e q n env => Sys2Proof.Machine.execStore e q n env s
  | .fill e q n env => Sys2Proof.Machine.execFill e q n env s
  | .matmul e q n env => Sys2Proof.Machine.execMatmul e q n env s
  | .conv e q n env => Sys2Proof.Machine.execConv e q n env s
  | .attention e q n env => Sys2Proof.Machine.execAttention e q n env s
  | .kvAppend e q n env => Sys2Proof.Machine.execKvAppend e q n env s
  | .vector e q n env => Sys2Proof.Machine.execVector e q n env s
  | .transform e q n env => Sys2Proof.Machine.execTransform e q n env s
  | .chisel e q n env => Sys2Proof.Machine.execChisel e q n env s
  | .commandComplete e q n => Sys2Proof.Machine.execCommandComplete e q n s
  | .patrolRead addr errs => Sys2Proof.Machine.execPatrolRead addr errs s
  | .psmLinkCrcFail chan ok => Sys2Proof.Machine.execPsmLinkCrcFail chan ok s
  | .periodInstant slot => Sys2Proof.Machine.execPeriodInstant slot s
  | .launchList slot point => Sys2Proof.Machine.execLaunchList slot point s
  | .tqPendingStart e => Sys2Proof.Machine.execTqPendingStart e s
  | .launchMover slot point => Sys2Proof.Machine.execLaunchMover slot point s
  | .moverDepStart slot point => Sys2Proof.Machine.execMoverDepStart slot point s
  | .mailboxWrite data crcOk => Sys2Proof.Machine.execMailboxWrite data crcOk s
  | .launchSample slot point => Sys2Proof.Machine.execLaunchSample slot point s
  | .launchTelltale slot point => Sys2Proof.Machine.execLaunchTelltale slot point s
  | .telltaleWindowEnd slot point => Sys2Proof.Machine.execTelltaleWindowEnd slot point s
  | .launchSelftest slot point => Sys2Proof.Machine.execLaunchSelftest slot point s
  | .sliceStart e => Sys2Proof.Machine.execSliceStart e s
  | .sliceEnd e ok => Sys2Proof.Machine.execSliceEnd e ok s
  | .sliceGuardAbort e => Sys2Proof.Machine.execSliceGuardAbort e s
  | .testStarved e => Sys2Proof.Machine.execTestStarved e s
  | .dpSliceDue e => Sys2Proof.Machine.execDpSliceDue e s
  | .launchMonitor slot point => Sys2Proof.Machine.execLaunchMonitor slot point s
  | .monitorExpiry m => Sys2Proof.Machine.execMonitorExpiry m s
  | .telltaleDigest m => Sys2Proof.Machine.execTelltaleDigest m s
  | .schPlacementTimer => Sys2Proof.Machine.execSchPlacementTimer s
  | .saveDrainComplete e slot => Sys2Proof.Machine.execSaveDrainComplete e slot s
  | .contextSaveComplete e slot errs => Sys2Proof.Machine.execContextSaveComplete e slot errs s
  | .contextRestoreComplete e slot errs => Sys2Proof.Machine.execContextRestoreComplete e slot errs s
  | .remoteDrainTimeout e slot => Sys2Proof.Machine.execRemoteDrainTimeout e slot s
  | .remoteReadCompletion e tag data => Sys2Proof.Machine.execRemoteReadCompletion e tag data s
  | .remoteAccessRequest ctx va len data => Sys2Proof.Machine.execRemoteAccessRequest ctx va len data s
  | .mirroredFenceSignal ctx fence set v => Sys2Proof.Machine.execMirroredFenceSignal ctx fence set v s
  | .shroudLinkDown => Sys2Proof.Machine.execShroudLinkDown s
  | .shrPrefixReceive ws => Sys2Proof.Machine.execShrPrefixReceive ws s
  | .csiFrameStart port vc => Sys2Proof.Machine.execCsiFrameStart port vc s
  | .csiLongPacket port vc dtype data ecc crcOk => Sys2Proof.Machine.execCsiLongPacket port vc dtype data ecc crcOk s
  | .csiFrameEnd port vc => Sys2Proof.Machine.execCsiFrameEnd port vc s
  | .csiGenericShortPacket port vc dtype => Sys2Proof.Machine.execCsiGenericShortPacket port vc dtype s
  | .csiPortSilence stream => Sys2Proof.Machine.execCsiPortSilence stream s
  | .fsyncPulse stream => Sys2Proof.Machine.execFsyncPulse stream s
  | .ratlineFrameReceive port data fcsOk => Sys2Proof.Machine.execRatlineFrameReceive port data fcsOk s
  | .ethFrameReceive port data fcsOk => Sys2Proof.Machine.execEthFrameReceive port data fcsOk s
  | .feSampleTake stream errs => Sys2Proof.Machine.execFeSampleTake stream errs s
  | .setDeadlineExpiry group n => Sys2Proof.Machine.execSetDeadlineExpiry group n s
  | .batchCommit group n => Sys2Proof.Machine.execBatchCommit group n s
  | .bridgeDepthGrid stamp grid crcOk => Sys2Proof.Machine.execBridgeDepthGrid stamp grid crcOk s
  | .ptpSyncReceive d sync => Sys2Proof.Machine.execPtpSyncReceive d sync s
  | .ptpAnnounceReceive d ann => Sys2Proof.Machine.execPtpAnnounceReceive d ann s
  | .syncReceiptTimeout d => Sys2Proof.Machine.execSyncReceiptTimeout d s
  | .announceTimeout d => Sys2Proof.Machine.execAnnounceTimeout d s
  | .ethFrameQueue m port data oneStep => Sys2Proof.Machine.execEthFrameQueue m port data oneStep s
  | .ethFrameTransmit port => Sys2Proof.Machine.execEthFrameTransmit port s
  | .halManualStep m v => Sys2Proof.Machine.execHalManualStep m v s
  | .halModeWrite m v => Sys2Proof.Machine.execHalModeWrite m v s
  | .halIncrWrite m fine v => Sys2Proof.Machine.execHalIncrWrite m fine v s
  | .halSnapRead m => Sys2Proof.Machine.execHalSnapRead m s
  | .copyCheck agree => Sys2Proof.Machine.execCopyCheck agree s
  | .bridgeTimeUpdate time step crcOk => Sys2Proof.Machine.execBridgeTimeUpdate time step crcOk s
  | .freeRunEntry => Sys2Proof.Machine.execFreeRunEntry s
  | .freeRunLimit => Sys2Proof.Machine.execFreeRunLimit s
  | .trimSampleInstant => Sys2Proof.Machine.execTrimSampleInstant s
  | .trimSampleStart => Sys2Proof.Machine.execTrimSampleStart s
  | .trimWaitExpiry => Sys2Proof.Machine.execTrimWaitExpiry s
  | .trimSampleEnd => Sys2Proof.Machine.execTrimSampleEnd s
  | .trimDeadlineExpiry => Sys2Proof.Machine.execTrimDeadlineExpiry s
  | .maquetteStepInstant => Sys2Proof.Machine.execMaquetteStepInstant s
  | .maquetteStepEnd => Sys2Proof.Machine.execMaquetteStepEnd s
  | .maquetteDeadline => Sys2Proof.Machine.execMaquetteDeadline s
  | .maquetteKat => Sys2Proof.Machine.execMaquetteKat s
  | .ss1Stop => Sys2Proof.Machine.execSs1Stop s
  | .lockstepMismatch => Sys2Proof.Machine.execLockstepMismatch s
  | .plnSramError unc => Sys2Proof.Machine.execPlnSramError unc s
  | .plnSupplyFault => Sys2Proof.Machine.execPlnSupplyFault s
  | .plnClockFault => Sys2Proof.Machine.execPlnClockFault s
  | .safeOutputMismatch pin => Sys2Proof.Machine.execSafeOutputMismatch pin s
  | .testPulse pin seen => Sys2Proof.Machine.execTestPulse pin seen s
  | .plnRestartEdge => Sys2Proof.Machine.execPlnRestartEdge s
  | .restartWindowExpiry => Sys2Proof.Machine.execRestartWindowExpiry s
  | .plnReset => Sys2Proof.Machine.execPlnReset s
  | .plinthBoot manifest image key => Sys2Proof.Machine.execPlinthBoot manifest image key s
  | .plinthBootTimeout => Sys2Proof.Machine.execPlinthBootTimeout s
  | .heartbeatTokenReceive ws => Sys2Proof.Machine.execHeartbeatTokenReceive ws s
  | .stateBlockReceive ws => Sys2Proof.Machine.execStateBlockReceive ws s
  | .twinAliveEdge => Sys2Proof.Machine.execTwinAliveEdge s
  | .heartbeatCheck => Sys2Proof.Machine.execHeartbeatCheck s
  | .evcClaimRead m k => Sys2Proof.Machine.execEvcClaimRead m k s
  | .evcEoiWrite m k v => Sys2Proof.Machine.execEvcEoiWrite m k v s
  | .evcSetWrite m g v => Sys2Proof.Machine.execEvcSetWrite m g v s
  | .evcPendWrite m g v same => Sys2Proof.Machine.execEvcPendWrite m g v same s
  | .evcBrgLatchWrite m v => Sys2Proof.Machine.execEvcBrgLatchWrite m v s
  | .evcDisableWrite m v => Sys2Proof.Machine.execEvcDisableWrite m v s
  | .holdoffExpiry g => Sys2Proof.Machine.execHoldoffExpiry g s
  | .schCounterRead m off => Sys2Proof.Machine.execSchCounterRead m off s
  | .powerOnReset => Sys2Proof.Machine.execPowerOnReset s
  | .coreResetRelease boot => Sys2Proof.Machine.execCoreResetRelease boot s
  | .bootTryTimeout => Sys2Proof.Machine.execBootTryTimeout s
  | .coreRailFault => Sys2Proof.Machine.execCoreRailFault s
  | .coreRailGood => Sys2Proof.Machine.execCoreRailGood s
  | .watchdogExpiry => Sys2Proof.Machine.execWatchdogExpiry s
  | .cpwWdogWrite m v => Sys2Proof.Machine.execCpwWdogWrite m v s
  | .wake => Sys2Proof.Machine.execWake s
  | .reef4Entry => Sys2Proof.Machine.execReef4Entry s
  | .powerManagerUpdate power => Sys2Proof.Machine.execPowerManagerUpdate power s
  | .thermalLevelTimer temp => Sys2Proof.Machine.execThermalLevelTimer temp s
  | .thermalShutdown temp => Sys2Proof.Machine.execThermalShutdown temp s
  | .alignEpoch ok dom => Sys2Proof.Machine.execAlignEpoch ok dom s
  | .pllLockLoss pll => Sys2Proof.Machine.execPllLockLoss pll s
  | .storeWriteComplete ok => Sys2Proof.Machine.execStoreWriteComplete ok s
  | .secLockWrite m v => Sys2Proof.Machine.execSecLockWrite m v s
  | .svpHello f => Sys2Proof.Machine.execSvpHello f s
  | .svpManifest f => Sys2Proof.Machine.execSvpManifest f s
  | .svpOpen f => Sys2Proof.Machine.execSvpOpen f s
  | .svpData f => Sys2Proof.Machine.execSvpData f s
  | .svpVerify f => Sys2Proof.Machine.execSvpVerify f s
  | .svpActivate f => Sys2Proof.Machine.execSvpActivate f s
  | .svpAbort f => Sys2Proof.Machine.execSvpAbort f s
  | .svpLc f => Sys2Proof.Machine.execSvpLc f s
  | .svpProvision f => Sys2Proof.Machine.execSvpProvision f s
  | .svpSessionTimeout => Sys2Proof.Machine.execSvpSessionTimeout s
  | .ss0GraceExpiry => Sys2Proof.Machine.execSs0GraceExpiry s
  | .thermalWarnCrossing temp => Sys2Proof.Machine.execThermalWarnCrossing temp s
  | .ethLinkChange port up => Sys2Proof.Machine.execEthLinkChange port up s
  | .pcieLinkUp rate width => Sys2Proof.Machine.execPcieLinkUp rate width s
  | .csiPhyLock port up => Sys2Proof.Machine.execCsiPhyLock port up s
  | .updVerifyComplete => Sys2Proof.Machine.execUpdVerifyComplete s
  | .updStagingComplete => Sys2Proof.Machine.execUpdStagingComplete s
  | .trimTraceReadComplete => Sys2Proof.Machine.execTrimTraceReadComplete s
  | .configObjectVerified => Sys2Proof.Machine.execConfigObjectVerified s
  | .meshLoadComplete stream => Sys2Proof.Machine.execMeshLoadComplete stream s
  | .debugMasterAccess addr data => Sys2Proof.Machine.execDebugMasterAccess addr data s

end Sys2Proof.Machine
end

