-- ==== Sys2Proof/Safety.lean ====
section
/-! DEFINITION. The terms the statements use: what it is for a command to complete, when a packet applies and what its
replies are, when a list command issues, and the invariants that every step keeps. -/

namespace Sys2Proof.Machine

/-- A command completes from a state: it answers a next state. -/
def Completes (c : Instr) (s : State) : Prop := ∃ t, exec c s = .next t

/-! ### Packets -/

/-- The state whose taken list has lost packet `k`. -/
def State.without (s : State) (k : Nat) : State := { s with taken := s.taken.eraseIdx k }

/-- The opcode of a packet row, and the place in the taken list that it names; no other row has one. -/
def packetOf : Instr → Option (Nat × Nat)
  | .nop k => some (0x000, k)
  | .devInfo k => some (0x001, k)
  | .devRingSet k => some (0x002, k)
  | .devRingClear k => some (0x003, k)
  | .devReefSet k => some (0x004, k)
  | .devStats k => some (0x005, k)
  | .devFaultRead k => some (0x006, k)
  | .devShutdown k => some (0x007, k)
  | .devResetCompute k => some (0x008, k)
  | .devClientCfg k => some (0x009, k)
  | .partCreate k => some (0x100, k)
  | .partResize k => some (0x101, k)
  | .partDelete k => some (0x102, k)
  | .ctxCreate k => some (0x110, k)
  | .ctxDestroy k => some (0x111, k)
  | .ctxSuspend k => some (0x112, k)
  | .ctxResume k => some (0x113, k)
  | .ctxModeSet k => some (0x114, k)
  | .ctxQuery k => some (0x115, k)
  | .memAlloc k => some (0x200, k)
  | .memFree k => some (0x201, k)
  | .memMapHost k => some (0x202, k)
  | .memUnmap k => some (0x203, k)
  | .memCopy k => some (0x204, k)
  | .memFill k => some (0x205, k)
  | .cleatAlloc k => some (0x210, k)
  | .cleatRelease k => some (0x211, k)
  | .xltFaultReply k => some (0x220, k)
  | .commonsSplit k => some (0x230, k)
  | .prefetchCfg k => some (0x231, k)
  | .jobSubmit k => some (0x300, k)
  | .jobCancel k => some (0x301, k)
  | .jobQuery k => some (0x302, k)
  | .jobStats k => some (0x303, k)
  | .fenceSignal k => some (0x310, k)
  | .fenceWait k => some (0x311, k)
  | .seqOpen k => some (0x400, k)
  | .seqClose k => some (0x401, k)
  | .seqStep k => some (0x402, k)
  | .seqPreempt k => some (0x403, k)
  | .seqRestore k => some (0x404, k)
  | .seqFork k => some (0x405, k)
  | .kvBucketsSet k => some (0x410, k)
  | .kvDirQuery k => some (0x411, k)
  | .streamOpen k => some (0x500, k)
  | .streamClose k => some (0x501, k)
  | .streamStart k => some (0x502, k)
  | .streamStop k => some (0x503, k)
  | .streamResume k => some (0x504, k)
  | .streamSkip k => some (0x505, k)
  | .meshLoad k => some (0x510, k)
  | .jpegDecode k => some (0x511, k)
  | .halCfg k => some (0x600, k)
  | .halQuery k => some (0x601, k)
  | .planLoad k => some (0x610, k)
  | .planActivate k => some (0x611, k)
  | .planDeactivate k => some (0x612, k)
  | .planUnload k => some (0x613, k)
  | .planQuery k => some (0x614, k)
  | .qbvCfg k => some (0x620, k)
  | .plnStatus k => some (0x700, k)
  | .plnFaultRead k => some (0x701, k)
  | .trimTraceRead k => some (0x702, k)
  | .plnConfig k => some (0x710, k)
  | .plnModeSet k => some (0x711, k)
  | .trimTraceCfg k => some (0x712, k)
  | .twinLinkUp k => some (0x800, k)
  | .twinModeSet k => some (0x801, k)
  | .twinQuery k => some (0x802, k)
  | .twinHandover k _ => some (0x803, k)
  | .secAttest k => some (0x900, k)
  | .updOpen k => some (0x901, k)
  | .updBlock k => some (0x902, k)
  | .updVerify k => some (0x903, k)
  | .updActivate k => some (0x904, k)
  | .updAbort k => some (0x905, k)
  | .updQuery k => some (0x906, k)
  | .lcTransition k => some (0x910, k)
  | .dbgSession k => some (0x911, k)
  | .testRun k => some (0xA00, k)
  | .testResult k => some (0xA01, k)
  | .loopbackSet k => some (0xA02, k)
  | .testRotateCfg k => some (0xA03, k)
  | _ => none

/-- An update packet that finds the session's work under way has to wait (UPD_BLOCK, UPD_VERIFY, UPD_ACTIVATE, UPD_ABORT). -/
def updHeld (op : Nat) (s : State) : Prop := 0x902 ≤ op ∧ op ≤ 0x905 ∧ s.updWorks = true

/-- Packet `p` stands at place `k` of the taken list, has the opcode, and nothing makes it wait (R45). -/
def Due (op k : Nat) (p : Packet) (s : State) : Prop :=
  s.taken[k]? = some p ∧ p.op = op ∧ p.waiting = false ∧ s.mustWait k p = false

/-- A packet is due and meets checks 10 to 12 of R43, as far as they ask the same of every packet: its sender, its context and
the device state allow it. -/
def Applies (op k : Nat) (p : Packet) (s : State) : Prop :=
  Due op k p s ∧ (s.without k).objection p = none ∧ (s.without k).bar p = none

/-- A packet is due and check 10 refuses it, for its sender or the context it names. -/
def Barred (op k : Nat) (p : Packet) (r : Refuse) (s : State) : Prop := Due op k p s ∧ (s.without k).objection p = some r

/-- A packet is due, and check 11 or 12 is to refuse it, for its class or the device state, unless its own check 10 does. -/
def Turned (op k : Nat) (p : Packet) (r : Refuse) (s : State) : Prop :=
  Due op k p s ∧ (s.without k).objection p = none ∧ (s.without k).bar p = some r

/-- The refusal of a packet that has left the taken list: one final reply, with its counter (R43, R54). -/
def State.refusal (s : State) (k : Nat) (p : Packet) (st : Nat) (d0 d1 : Word) : State :=
  (s.without k).final p.hdr st { d0 := d0, d1 := d1 }

/-- A packet accepted for later: it has left the taken list, its request stands open with the object it waits for, and its
ST_PENDING reply is in the hold. -/
def State.accepted (s : State) (k : Nat) (p : Packet) (key val val2 : Nat) : State :=
  ({ s.without k with
    opens := s.opens ++ [{ hdr := p.hdr, key := key, val := val, val2 := val2, params := p.params }] } : State).pendingReply p.hdr

/-- A packet accepted for later without ST_PENDING. -/
def State.held (s : State) (k : Nat) (p : Packet) (key val val2 : Nat) : State :=
  { s.without k with
    opens := s.opens ++ [{ hdr := p.hdr, key := key, val := val, val2 := val2, params := p.params }] }

/-- What a packet that applies comes to, by what its meaning answers. -/
def State.after (s : State) (k : Nat) (p : Packet) : Ans → State
  | .refuse st d0 d1 => s.refusal k p st d0 d1
  | .done t f st => t.final p.hdr st f
  | .pend key val val2 g => g (s.accepted k p key val val2)
  | .late key val val2 g => g (s.held k p key val val2)
  | .wait e l => { s with taken := s.taken.set k { p with waiting := true, eng := e, scrubs := l } }
  | .hold => s

/-! ### List commands -/

/-- Command `i` of a queue has opcode `op`, and issues or goes on now. -/
def Issues (op e q i : Nat) (s : State) : Prop := cOp (s.cmdAt e q i) = op ∧ s.mayIssue e q i = true

/-- A command issues now and its operands are readable: its context and the state it finds. -/
def Runs (op e q i : Nat) (env : Env) (x : Cx) (t s : State) : Prop :=
  Issues op e q i s ∧ s.begun e q i env = (t, none) ∧ s.cx e q i env = x

/-! ### Register accesses -/

/-- The host finds the device in D3hot: its accesses are unsupported requests (R30). -/
def Asleep (m : Nat) (s : State) : Prop := s.asleep m = true

/-- Master `m` may read or write the BAR0 register now: it does not find the device in D3hot, the register's block is not under
test, and the access table lets it. -/
def Granted (m off : Nat) (write : Bool) (s : State) : Prop :=
  s.asleep m = false ∧ s.underTest off = false ∧ s.allowed m 1 off 4 write = true

/-- The access table refuses it (R424). -/
def Denied (m off : Nat) (write : Bool) (s : State) : Prop :=
  s.asleep m = false ∧ s.underTest off = false ∧ s.allowed m 1 off 4 write = false

/-! ### Invariants -/

/-- A list of cells is in canonical form. -/
def memOk (m : List Host.Cell) : Prop := Memory.wf m = true

/-- A device state of R63: INIT, READY, SHUTDOWN or FAULTED. -/
def devOk (d : Nat) : Prop := devInit ≤ d ∧ d ≤ devFaulted

/-- A Plinth mode of R345: INIT, POLICY_LED, MAQUETTE_LED, RAMPING or STOPPED. -/
def modeOk (m : Nat) : Prop := mInit ≤ m ∧ m ≤ mStop

/-- An increment of Halyard within 500 ppm of its nominal value (R282, R289). -/
def rateOk (i : Nat) : Prop := 0x3FF7D * 2 ^ 16 ≤ i ∧ i ≤ 0x40083 * 2 ^ 16

/-- An increment that a software change brings, where it brings one, is within the limits. -/
def incrOk : Option Nat → Prop
  | none => True
  | some i => rateOk i

/-- So are those of every decision that still waits for its HCLK edge: what software wrote and what the servo set. -/
def pendOk (l : List HalWrite) : Prop := ∀ w ∈ l, incrOk w.incr ∧ incrOk w.servo

/-- What every step keeps: memory in canonical form, a legal device state and Plinth mode, and Halyard's increment within
500 ppm of nominal, now and after the changes that wait. -/
structure Inv (s : State) : Prop where
  /-- Memory. -/
  m : memOk s.mem
  /-- Device state. -/
  d : devOk s.dev
  /-- Plinth mode. -/
  p : modeOk s.plinth.mode
  /-- Increment. -/
  r : rateOk s.hal.inc
  /-- Changes that wait. -/
  w : pendOk s.hal.pend

end Sys2Proof.Machine
end

