-- ==== Sys2Proof/Certificates/Slice0/Obligations.lean ====
section
/-! DEFINITION. The statements for the provers: one definition per obligation, listed in OBLIGATIONS.json. -/

open Sys2Proof Sys2Proof.Machine Host

/-- With command c at the front of the queue, a step is exec of c on the state whose queue is the rest.
(95_what_each_step_holds.md) -/
def Obligations.StepTakesFront : Prop :=
  ∀ (c : Instr) (rest : List Instr) (s : State), s.pending = c :: rest → step s = exec c { s with pending := rest }

/-- With no command waiting a step is one period of HCLK (the model's choice, log 2): while the core island runs and no
software change is due, Halyard's counter gains the increment (R281), and Plinth's counter gains it too (log 23).
Nothing else changes. (R281, 11_halyard_time.md) -/
def Obligations.EmptyQueueTicks : Prop :=
  ∀ s : State, s.pending = [] →
    step s = .next (s.pass 1) ∧
    (s.pass 1).plinth = { s.plinth with time := s.plinth.time + s.hal.inc } ∧
    (s.halRuns = false → (s.pass 1).hal = s.hal) ∧
    (s.halRuns = true → s.hal.pend = [] →
      (s.pass 1).hal.total = s.hal.total + s.hal.inc ∧ (s.pass 1).hal.inc = s.hal.inc ∧ (s.pass 1).hal.hclk = s.hal.hclk + 1) ∧
    { s.pass 1 with hal := s.hal, plinth := s.plinth } = s

/-- After reset memory is in canonical form, the device state and Plinth's mode are legal, and Halyard's increment is
within 500 ppm of nominal. (R63, R345, R283, 02_host_protocol.md) -/
def Obligations.ResetMeetsInvariant : Prop :=
  Inv State.reset

/-- From every state that meets the invariant, a step that answers a next state leads to one that meets it: memory stays
in canonical form, the device state stays one of INIT, READY, SHUTDOWN and FAULTED (R63), Plinth's mode one of its
five (R345), and Halyard never runs more than 500 ppm fast or slow, whatever commands and software changes come (R282,
R289). (R63, R345, R282, R289, 11_halyard_time.md, 02_host_protocol.md) -/
def Obligations.StepKeepsInvariant : Prop :=
  ∀ s t : State, Inv s → step s = .next t → Inv t

/-- For every packet row: a packet at its place that need not wait and that check 10 refuses leaves the taken list, and
the only other change is its final reply with the status and details of the check (R43); where check 11 or 12 is to
refuse it, so it is with the status and details of that check, or with ST_AUTH where its own check 10 refuses it.
(R43, R46, R63, 02_host_protocol.md) -/
def Obligations.RefusedPacketsOnlyReply : Prop :=
  ∀ (c : Instr) (op k : Nat) (p : Packet) (r : Refuse) (s : State), packetOf c = some (op, k) → ¬ updHeld op s →
    (Barred op k p r s → exec c s = .next (s.refusal k p r.1 r.2.1 r.2.2)) ∧
    (Turned op k p r s → ∃ u : Refuse, exec c s = .next (s.refusal k p u.1 u.2.1 u.2.2) ∧ (u.1 = stAuth ∨ u = r))

/-- A packet that need not wait is refused with ST_AUTH where its opcode is for aperture 0 alone and it came from another
(R46) or its client may not use its class (R46); then with ST_STATE where the context it names does not exist (detail0
0, the model's choice, log 60) or, with ST_AUTH, where that context is another client's and aperture 0 does not query
or end it; then with ST_FORMAT where the class is not the context's; then with ST_STATE and the device state where
that state does not allow the opcode (R63); the last two give way to ST_AUTH where the packet's own check 10 refuses
it. (R43, R46, R63, 02_host_protocol.md) -/
def Obligations.AdmissionOrder : Prop :=
  ∀ (c : Instr) (op k : Nat) (p : Packet) (s : State),
    packetOf c = some (op, k) → Due op k p s → ¬ updHeld op s →
    let x := s.ctx p.hdr.ctx
    (opSupervisor op = true ∧ p.hdr.ap ≠ 0 → exec c s = .next (s.refusal k p stAuth 0 0)) ∧
    (¬ (opSupervisor op = true ∧ p.hdr.ap ≠ 0) →
      ((s.client p.hdr.ap).classes.getLsbD p.hdr.cls = false → exec c s = .next (s.refusal k p stAuth 0 0)) ∧
      ((s.client p.hdr.ap).classes.getLsbD p.hdr.cls = true →
        (p.hdr.ctx ≠ 255 → x.present = false → s.devLegal p = true → exec c s = .next (s.refusal k p stState 0 0)) ∧
        (p.hdr.ctx ≠ 255 → x.present = true →
          (x.client ≠ p.hdr.ap → ¬ (p.hdr.ap = 0 ∧ (opIsQuery op = true ∨ opEnds op = true)) →
            exec c s = .next (s.refusal k p stAuth 0 0)) ∧
          (x.client = p.hdr.ap → x.cls ≠ p.hdr.cls → ∃ u : Refuse, exec c s = .next (s.refusal k p u.1 u.2.1 u.2.2) ∧
            (u.1 = stAuth ∨ u = (stFormat, det 2 16, 0))) ∧
          (x.client = p.hdr.ap → x.cls = p.hdr.cls → s.devLegal p = false → ∃ u : Refuse,
            exec c s = .next (s.refusal k p u.1 u.2.1 u.2.2) ∧ (u.1 = stAuth ∨ u = (stState, wd s.dev, 0)))) ∧
        (p.hdr.ctx = 255 → s.devLegal p = false → ∃ u : Refuse,
          exec c s = .next (s.refusal k p u.1 u.2.1 u.2.2) ∧ (u.1 = stAuth ∨ u = (stState, wd s.dev, 0)))))

/-- A packet waits, and its row changes nothing, while a packet taken before it names the same object and does not itself
wait for scrubs, and, with ORDERED set, while an earlier packet of its aperture is untaken up or its request is open
(R45). (R45, R154, 02_host_protocol.md) -/
def Obligations.WaitingPackets : Prop :=
  ∀ (c : Instr) (op k : Nat) (p : Packet) (s : State), packetOf c = some (op, k) → s.taken[k]? = some p →
    (∀ (i : Nat) (q : Packet), i < k → s.taken[i]? = some q → q.waiting = false → p.object ≠ none → q.object = p.object →
      exec c s = .next s) ∧
    (∀ (i : Nat) (q : Packet), i < k → s.taken[i]? = some q → p.hdr.ordered = true → q.hdr.ap = p.hdr.ap →
      exec c s = .next s) ∧
    (∀ o ∈ s.opens, p.hdr.ordered = true → o.hdr.ap = p.hdr.ap → o.hdr.no < p.hdr.no → exec c s = .next s)

/-- An accepted write to slot i of an aperture puts its words in place. If it covered word 0 and the length field is then
0, the slot is disarmed; if it covered word 0 and the length is below 5 or 4,095, the slot becomes busy and is refused
with ST_RANGE; if the length is 5 to 4,094 and the write covered word L - 1, the slot becomes busy and words 0 to L -
1 are its snapshot, which waits for the intake checks; at any other moment the slot is not examined. (R37) -/
def Obligations.SlotWriteExaminesTheSlot : Prop :=
  ∀ (ap : Fin 16) (i : Fin 3) (first : Nat) (ws : List Word) (s : State),
    let x := (s.ap ap.val).slot i.val
    s.hif.d3hot = false → 4 * ws.length ≤ s.hif.maxPayload → s.apOn ap.val = true → x.busy = false → ws ≠ [] →
    first + ws.length ≤ 4094 →
    let after : Nat → Word := fun k => if first ≤ k ∧ k < first + ws.length then wat ws (k - first) else Tab.get 0 x.words k
    let l := fld (after 0) 27 16
    ∃ u : State,
      (∀ k, Tab.get 0 ((u.ap ap.val).slot i.val).words k = after k) ∧
      { (u.ap ap.val).slot i.val with words := x.words } = x ∧
      (∀ y, (u.ap ap.val).setSlot i.val y = (s.ap ap.val).setSlot i.val y) ∧
      (∀ n, n ≠ ap.val → u.ap n = s.ap n) ∧
      { u with hif := s.hif } = s ∧ { u.hif with apertures := s.hif.apertures } = s.hif ∧
      exec (.slotWrite ap (0x4000 * i.val + 4 * first) ws true) s = .next (
        if first = 0 ∧ l = 0 then u
        else if first = 0 ∧ (l < 5 ∨ l = 4095) then
          (u.upApSlot ap.val i.val fun y => { y with busy := true }).refuseSlot ap.val i.val
            { status := stRange, detail0 := det 0 16, hdr := hdrOf ap.val after }
        else if 5 ≤ l ∧ l ≤ 4094 ∧ first ≤ l - 1 ∧ l - 1 < first + ws.length then
          (u.upApSlot ap.val i.val fun y =>
            { y with busy := true, snap := some ((List.range l).map after), order := s.hif.sealOrder }).upHif fun h =>
              { h with sealOrder := s.hif.sealOrder + 1 }
        else u)

/-- In D3hot a slot write completes with Unsupported Request; one longer than the maximum payload is recorded as
malformed; one to a disabled aperture, misaligned, with byte enables clear, outside the three slots, to a busy slot or
beyond the slot's words is discarded and counted, and the slots stay as they were; a poisoned one is recorded and
counted (R29). (R29, R30, R36, 02_host_protocol.md) -/
def Obligations.HostWritesTurnedAway : Prop :=
  ∀ (ap : Fin 16) (off : Nat) (ws : List Word) (full : Bool) (s : State),
    let counted : State → State := fun s => s.setAp ap.val { s.ap ap.val with cntDiscard := (s.ap ap.val).cntDiscard + 1 }
    let bad := s.apOn ap.val = false ∨ off % 4 ≠ 0 ∨ full = false ∨ 0xC000 ≤ off ∨
      ((s.ap ap.val).slot (off / 0x4000)).busy = true ∨ 4094 < off % 0x4000 / 4 + ws.length
    (s.hif.d3hot = true → exec (.slotWrite ap off ws full) s =
      .next { s with hif := { s.hif with aerUnsupported := true }, bus := { status := 1, data := [] } }) ∧
    (s.hif.d3hot = false → s.hif.maxPayload < 4 * ws.length → exec (.slotWrite ap off ws full) s =
      .next { s with hif := { s.hif with aerMalformed := true } }) ∧
    (s.hif.d3hot = false → 4 * ws.length ≤ s.hif.maxPayload → bad → exec (.slotWrite ap off ws full) s = .next (counted s)) ∧
    exec (.poisonedTlpReceive none) s = .next { s with hif := { s.hif with aerPoisoned := true } } ∧
    exec (.poisonedTlpReceive (some ap)) s = .next (counted { s with hif := { s.hif with aerPoisoned := true } })

/-- When it is a sealed slot's turn (R39), PACKET_INTAKE refuses a snapshot that fails one of checks 2 to 9 (R43);
otherwise the packet leaves its slot, which is freed with word 0 zero, enters the intake, and reserves one record of
its ring's hold (R51); after DEV_RESET_COMPUTE it is discarded. While intake pauses or the device is not ready,
nothing is taken. A refusal on an unregistered default ring is counted alone (R49), one that finds no free record of
the hold waits, and REFUSAL_REPLY lets it take the record. (R38, R39, R43, R49, R51, R54, 02_host_protocol.md) -/
def Obligations.IntakeTakesPackets : Prop :=
  ∀ (ap : Fin 16) (i : Fin 3) (ws : List Word) (s : State),
    let n := ap.val
    let h := hdrOf n (wat ws)
    let s1 : State := if s.headSafety n then s else { s with hif := { s.hif with rrNext := (n + 1) % 16 } }
    ((s.hif.pause = true ∨ s.hif.ready = false ∨ s.hif.d3hot = true) → exec (.packetIntake ap i) s = .next s) ∧
    (((s.ap n).slot i.val).snap = some ws → s.hif.pause = false → s.hif.ready = true → s.hif.d3hot = false →
      s.nextSlot n = some i.val → s.turnOf n = true →
      (∀ r, s.intakeCheck n ws = some r →
        exec (.packetIntake ap i) s = .next (s1.refuseSlot n i.val { status := r.1, detail0 := r.2.1, hdr := h })) ∧
      (s.intakeCheck n ws = none → (s.taken.filter fun p => p.hdr.ap = n).length < 64 → 0 < (s.ring h.ring).holdFree →
        ∃ t, exec (.packetIntake ap i) s = .next t ∧
          t.taken = (if s.discard then s.taken
            else s.taken ++ [{ hdr := { h with no := s.takenNo }, params := (ws.drop 4).dropLast }]) ∧
          t.takenNo = (if s.discard then s.takenNo else s.takenNo + 1) ∧
          (t.ring h.ring).reserved = (s.ring h.ring).reserved + (if s.discard then 0 else 1) ∧
          (t.ring h.ring).wait = (s.ring h.ring).wait ∧
          (∀ j, j ≠ h.ring → t.ring j = s.ring j) ∧
          Tab.get 0 ((t.ap n).slot i.val).words 0 = 0 ∧ ((t.ap n).slot i.val).busy = false ∧
          ((t.ap n).slot i.val).snap = none ∧ (t.ap n).cntTaken = (s.ap n).cntTaken + 1 ∧
          (∀ m, m ≠ n → t.ap m = s.ap m) ∧
          { t with hif := s.hif, taken := s.taken, takenNo := s.takenNo } = s)) ∧
    (∀ r : RefusalInfo, ((s.ap n).slot i.val).refuse = some r → exec (.refusalReply ap i) s = .next (s.refuseSlot n i.val r)) ∧
    (∀ r : RefusalInfo,
      s.refuseSlot n i.val r =
        if (s.ring (4 * n)).registered = false then (s.countRefusal n r.status).freeSlot n i.val
        else if (s.ring (4 * n)).holdFree = 0 then s.upApSlot n i.val fun x => { x with snap := none, refuse := some r }
        else ((s.countRefusal n r.status).pushReply (4 * n)
          { hdr := r.hdr, status := r.status, detail0 := r.detail0, time := s.hal.ns32, refusal := true }).freeSlot n i.val)

/-- A final reply changes rings, apertures, events and what leaves, and nothing else. A refusal with ST_STATE counts in
HIF_AP_CNT_STATE, one with ST_SEAL in HIF_AP_CNT_SEAL, any other in HIF_AP_CNT_REFUSE, in the aperture of its packet;
no other aperture's counters move. The ring's hold loses the reservation and gains the record, unless the packet is
QUIET and its status ST_OK, or the ring is not registered. (R54) -/
def Obligations.FinalReplyCountsAndReserves : Prop :=
  ∀ (h : Hdr) (st : Nat) (f : RF) (s : State),
    let u := s.final h st f
    let refused := 0x10 ≤ st ∧ st ≤ 0x16
    { u with hif := s.hif, evc := s.evc, outs := s.outs } = s ∧
    (u.ap h.ap).cntState = (if st = 0x10 then (s.ap h.ap).cntState + 1 else (s.ap h.ap).cntState) ∧
    (u.ap h.ap).cntSeal = (if st = 0x13 then (s.ap h.ap).cntSeal + 1 else (s.ap h.ap).cntSeal) ∧
    (u.ap h.ap).cntRefuse =
      (if refused ∧ st ≠ 0x10 ∧ st ≠ 0x13 then (s.ap h.ap).cntRefuse + 1 else (s.ap h.ap).cntRefuse) ∧
    (∀ n, n ≠ h.ap → u.ap n = s.ap n) ∧
    u.ring h.ring = { s.ring h.ring with
      reserved := (s.ring h.ring).reserved - 1
      wait := if (s.ring h.ring).registered = false ∨ (h.quiet = true ∧ st = 0) then (s.ring h.ring).wait
        else (s.ring h.ring).wait ++
          [{ hdr := h, status := st, fin := true, cancelled := f.canc, fault := f.fault, detail0 := f.d0, detail1 := f.d1
             resultLo := f.lo, resultHi := f.hi, time := wd s.hal.nowNs }] } ∧
    (∀ j, j ≠ h.ring → u.ring j = s.ring j)

/-- A reply record carries its status, phase, final and cancelled bits, the packet's flags, opcode, aperture, sequence,
context, ring, fault code, details, result and time in the fields that R52 gives, whatever their values; bit 11 of
word 0 is 0. (R52) -/
def Obligations.ReplyRecordLayout : Prop :=
  ∀ (r : Reply) (ring : Fin 256) (phase : Bool),
    r.status < 2 ^ 8 → r.hdr.opcode < 2 ^ 12 → r.hdr.ap < 2 ^ 4 → r.hdr.ctx < 2 ^ 8 → r.fault < 2 ^ 16 →
    let w := wat (r.words ring.val phase)
    (r.words ring.val phase).length = 8 ∧
    fld (w 0) 7 0 = r.status ∧ bit (w 0) 8 = phase ∧ bit (w 0) 9 = r.fin ∧ bit (w 0) 10 = r.cancelled ∧ bit (w 0) 11 = false ∧
    bit (w 0) 12 = r.hdr.expert ∧ bit (w 0) 13 = r.hdr.quiet ∧ bit (w 0) 14 = r.hdr.ordered ∧ bit (w 0) 15 = r.hdr.top ∧
    fld (w 0) 27 16 = r.hdr.opcode ∧ fld (w 0) 31 28 = r.hdr.ap ∧ w 1 = r.hdr.sequence ∧
    fld (w 2) 7 0 = r.hdr.ctx ∧ fld (w 2) 15 8 = ring.val ∧ fld (w 2) 31 16 = r.fault ∧
    w 3 = r.detail0 ∧ w 4 = r.detail1 ∧ w 5 = r.resultLo ∧ w 6 = r.resultHi ∧ w 7 = r.time

/-- REPLY_RECORD_WRITE writes the oldest record of a ring's hold as 32 bytes at the tail, advances the tail modulo the
ring's size and inverts the phase when it wraps (R50); a ring that is empty, full, not registered, or a function in
D3hot, writes nothing. A head is taken only if it lies between the head and the tail counting forward; any other is
counted and ignored (R50). (R34, R50, R51, 02_host_protocol.md) -/
def Obligations.ReplyRingKeepsItsOrder : Prop :=
  (∀ (ring : Fin 64) (x : Reply) (rest : List Reply) (s : State),
    let r := s.ring ring.val
    (r.wait = [] ∨ r.registered = false ∨ (r.tail + 1) % 2 ^ r.k = r.head ∨ s.hif.d3hot = true →
      exec (.replyRecordWrite ring) s = .next s) ∧
    (r.wait = x :: rest → r.registered = true → (r.tail + 1) % 2 ^ r.k ≠ r.head → s.hif.d3hot = false →
      ∃ t, exec (.replyRecordWrite ring) s = .next t ∧
        t.mem = Memory.write s.mem (hostBase + (r.addr + 32 * r.tail)) (bytesOf (x.words ring.val r.phase)) ∧
        (t.ring ring.val).tail = (r.tail + 1) % 2 ^ r.k ∧
        (t.ring ring.val).phase = (if (r.tail + 1) % 2 ^ r.k = 0 then !r.phase else r.phase) ∧
        (t.ring ring.val).wait = rest ∧ (t.ring ring.val).head = r.head ∧
        (t.ring ring.val).unsignalled = (if r.modTime = 0 ∨ r.modCount ≤ r.unsignalled + 1 then 0 else r.unsignalled + 1) ∧
        (t.ring ring.val).sigAt = (if r.unsignalled = 0 then s.hal.nowNs else r.sigAt) ∧
        (∀ j, j ≠ ring.val → t.ring j = s.ring j) ∧
        { t with hif := s.hif, evc := s.evc, outs := s.outs, mem := s.mem } = s)) ∧
  (∀ (ap : Fin 16) (k : Fin 4) (v : Word) (s : State),
    let n := 4 * ap.val + k.val
    let r := s.ring n
    let h := fld v 15 0
    s.hif.d3hot = false → s.apOn ap.val = true →
    s.underTest (0x400000 + 0x10000 * ap.val + 0xC010 + 8 * k.val) = false →
    s.allowed ap.val 1 (0x400000 + 0x10000 * ap.val + 0xC010 + 8 * k.val) 4 true = true →
    exec (.hifApHeadWrite ap k v) s = .next (
      if r.registered = true ∧ h < 2 ^ r.k ∧
          (h + 2 ^ r.k - r.head) % 2 ^ r.k ≤ (r.tail + 2 ^ r.k - r.head) % 2 ^ r.k
      then s.setRing n { r with head := h }
      else s.setAp ap.val { s.ap ap.val with cntDiscard := (s.ap ap.val).cntDiscard + 1 }))

/-- When a ring's moderation time has passed since its first unsignalled record, its unsignalled records are signalled by
one message of its vector: it leaves the device, or, while the vector is masked or the function is in D3hot, waits in
the PBA (R34). Unmasking a vector sends the message that waits for it. D3HOT_ENTRY only notes the state; in D0 a
D0_RETURN changes nothing, and from D3hot it is left and every pending unmasked message and every held record that
finds room goes out. PCIE_LINK_UP gives the link's rate and width. (R30, R34, R65, 02_host_protocol.md) -/
def Obligations.MessagesAreSentOrHeld : Prop :=
  ∀ (ring v : Fin 64) (rate width : Nat) (s : State),
    let r := s.ring ring.val
    let e : Nat → MsixEntry := fun v => Tab.get {} s.hif.msix v
    let due := s.passTo (r.sigAt + 1000 * r.modTime)
    let d := due.ring ring.val
    let s1 := due.setRing ring.val { d with unsignalled := 0 }
    exec (.moderationTimerExpiry ring) s = .next (
      if r.unsignalled = 0 then s
      else if d.unsignalled = 0 then due
      else if (due.msixEntry d.vector).masked = true ∨ due.hif.d3hot = true then
        { s1 with hif := { s1.hif with pba := if due.hif.pba.contains d.vector then due.hif.pba else d.vector :: due.hif.pba } }
      else { s1 with outs := due.outs ++ [{ kind := 0, dest := d.vector, data := natBytes 8 (due.msixEntry d.vector).addr ++ wordBytes (due.msixEntry d.vector).data }] }) ∧
    (s.hif.d3hot = false → ∃ t, exec (.msixVectorUnmask v) s = .next t ∧
      t.hif = { s.hif with msix := Tab.set s.hif.msix v.val { e v.val with masked := false }, pba := s.hif.pba.filter (· ≠ v.val) } ∧
      t.outs = (if s.hif.pba.contains v.val then
        s.outs ++ [{ kind := 0, dest := v.val, data := natBytes 8 (e v.val).addr ++ wordBytes (e v.val).data }] else s.outs) ∧
      { t with hif := s.hif, outs := s.outs } = s) ∧
    (s.hif.d3hot = true → exec (.msixVectorUnmask v) s =
      .next { s with hif := { s.hif with aerUnsupported := true }, bus := { status := 1, data := [] } }) ∧
    exec .d3hotEntry s = .next { s with hif := { s.hif with d3hot := true } } ∧
    (s.hif.d3hot = false → exec .d0Return s = .next s) ∧
    (s.hif.d3hot = true → exec .d0Return s = .next ((List.range 64).foldl State.writeAll
      (s.hif.pba.reverse.foldl State.msixRelease { s with hif := { s.hif with d3hot := false } }))) ∧
    exec (.pcieLinkUp rate width) s = .next { s with hif := { s.hif with linkUp := true, rate := rate, width := width } }

/-- FLR clears HIF to its reset values but for the fields it keeps (ready, the link, the BL fields, AER and the counters
of DEV_STATS), discards the packets taken, takes the rings from open requests, stops transfers of host memory with
FLT_LINK, destroys the DP contexts, suspends an open update session and raises event 2 (R30). Link-down and PERST# do
the same with the link down (R466). (R30, R466, 02_host_protocol.md) -/
def Obligations.LinkResetsEmptyTheHost : Prop :=
  ∀ s : State,
    let down : State := { s with hif := { s.hif with linkUp := false, rate := 0, width := 0 } }
    let s1 : State := { s with
      hif := {
        ready := s.hif.ready, linkUp := s.hif.linkUp, rate := s.hif.rate, width := s.hif.width
        bar2Master := s.hif.bar2Master, bar2Enable := s.hif.bar2Enable, sealOrder := s.hif.sealOrder
        aerPoisoned := s.hif.aerPoisoned, aerUnsupported := s.hif.aerUnsupported, aerMalformed := s.hif.aerMalformed
        apertures := s.hif.apertures.map fun p => (p.1, {
          statTaken := p.2.statTaken, statState := p.2.statState, statSeal := p.2.statSeal, statRefuse := p.2.statRefuse
          statOk := p.2.statOk, statPartial := p.2.statPartial, statFault := p.2.statFault, statRecords := p.2.statRecords
          statWaited := p.2.statWaited, statXlt := p.2.statXlt, statPreempt := p.2.statPreempt }) }
      taken := []
      opens := s.opens.map fun o => { o with hdr := { o.hdr with ring := noRing } } }
    let s2 := (s1.transfers.filter s1.xferHost).foldl (fun s t => s.endXfer t fltLink false) s1
    let s3 := (ctxNos.filter fun c => (s2.ctx c).present && !s2.ctxTT c).foldl State.destroyCtx s2
    (∀ j, s1.ring j = {}) ∧
    exec .flr s = .next ((if 0x61 ≤ s3.upd.state ∧ s3.upd.state ≤ 0x64 ∧ s3.upd.svp = false
      then ({ s3 with upd := { s3.upd with state := 0x62, busy := none, verifying := false } } : State).event 320 else s3).event 2) ∧
    exec .linkDown s = exec .flr down ∧ exec .perst s = exec .flr down

/-- An access through BAR2 completes with Unsupported Request while BAR2 is off, in D3hot, outside BAR2 or at or beyond 96
GiB; one that the access table refuses completes with Completer Abort (a read) or is discarded (a write); otherwise a
read returns the bytes at the base plus the offset, with Completer Abort and FLT_MEM_UNCORR where they are
uncorrectable, and a write puts its bytes there. A resize zeroes the base (R32). (R31, R32, R175, 02_host_protocol.md) -/
def Obligations.Bar2ReachesPsm : Prop :=
  ∀ (off len size : Nat) (data : List Byte) (errs : List MemErr) (s : State),
    let a := s.hif.bar2Base * 2 ^ 28 + off
    let m := s.hif.bar2Master
    let off' : Nat → Prop := fun n => s.hif.d3hot = true ∨ s.hif.bar2Enable = false ∨ s.hif.bar2Size * 2 ^ 28 < off + n ∨ 96 * 2 ^ 30 < a + n
    let ur : State := { s with hif := { s.hif with aerUnsupported := true }, bus := { status := 1, data := [] } }
    let r := s.eccRead m 63 errs a len
    (off' len → exec (.bar2Read off len errs) s = .next ur) ∧ (off' data.length → exec (.bar2Write off data) s = .next ur) ∧
    (¬ off' len → s.allowed m 0 a len false = false → exec (.bar2Read off len errs) s = .next (s.refusedAccess m 0 a false)) ∧
    (¬ off' data.length → s.allowed m 0 a data.length true = false →
      exec (.bar2Write off data) s = .next (s.refusedAccess m 0 a true)) ∧
    (¬ off' len → s.allowed m 0 a len false = true → r.2 = none →
      exec (.bar2Read off len errs) s = .next { r.1 with bus := { status := 0, data := Memory.readN r.1.mem a len } }) ∧
    (¬ off' len → s.allowed m 0 a len false = true → r.2 ≠ none →
      exec (.bar2Read off len errs) s = .next { r.1.fault fltMemUncorr 1 255 0 0 with bus := { status := 2, data := [] } }) ∧
    (¬ off' data.length → s.allowed m 0 a data.length true = true → s.eccPartial a data.length = none →
      exec (.bar2Write off data) s = .next (({ s with mem := Memory.write s.mem a data } : State).eccWrite a data.length)) ∧
    (¬ off' data.length → s.allowed m 0 a data.length true = true → s.eccPartial a data.length ≠ none →
      exec (.bar2Write off data) s = .next (s.fault fltMemUncorr 1 255 0 0)) ∧
    exec (.bar2Resize size) s = .next { s with hif := { s.hif with bar2Size := size, bar2Base := 0 } }

/-- A granted read of the low word of a client's 64-bit counter returns it and latches the high word for the reading
master; a read of the high word by a master returns the word latched for it, or the present one where none is. (R391) -/
def Obligations.SchCountersLatch : Prop :=
  ∀ (m : Fin 64) (c : Fin 16) (i : Fin 3) (s : State),
    let x := s.client c.val
    let n := if i.val = 0 then x.waitNs else if i.val = 1 then x.runNs else x.preemptedNs
    let o := 0x100 + 0x40 * c.val + (if i.val = 0 then 0 else if i.val = 1 then 8 else 0x14)
    let key := 4096 * m.val + o + 4
    (Granted m.val (0x2400000 + o) false s →
      exec (.schCounterRead m ⟨o, 4⟩) s = .next { s with
        sch := { s.sch with latch := Tab.set s.sch.latch key (wd (n / 2 ^ 32)) }
        bus := { status := 0, data := wordBytes (wd n) } }) ∧
    (Granted m.val (0x2400000 + (o + 4)) false s →
      exec (.schCounterRead m ⟨o + 4, 4⟩) s = .next { s with
        bus := { status := 0, data := wordBytes (Tab.get (wd (n / 2 ^ 32)) s.sch.latch key) } })

/-- A write of a register block that is misaligned, not 32 bits wide or where no block is, a host's write of a claim
register and a host's write in D3hot complete with Unsupported Request (R4, R31, R421); one the access table refuses
is a violation; a host's write to a read-only block is reported and has no effect. A granted write of HIF_CTRL,
HIF_BAR2_BASE, HAL_SLEW, HAL_SET_NS, CPW_THERM_CFG or an access-table word takes the fields that the register maps
give; a base that is not a multiple of BAR2's size, and an access table once locked, stay as they are. The slots and
HEAD registers of the apertures and configuration space, which follow rules of their own, are apart. (R4, R6, R31,
R65, R303, R421, R443, R475, 11_halyard_time.md, 00_scope.md, 02_host_protocol.md) -/
def Obligations.RegisterWritesGoWhereTheMapSays : Prop :=
  ∀ (m : Fin 64) (off len : Nat) (v same : Word) (s : State),
    let ur : State := { s with hif := { s.hif with aerUnsupported := true }, bus := { status := 1, data := [] } }
    let base := fld v 8 0
    let w : Nat → Instr := fun o => .registerWrite m o ⟨v, 4, same⟩
    (off < cfgBase → slotOff off = false → headOff off = false →
      (barBad off len = true ∨ (m.val < 16 ∧ evcKept off = true) ∨ (m.val < 16 ∧ s.hif.d3hot = true) →
        exec (.registerWrite m off ⟨v, len, same⟩) s = .next ur) ∧
      (barBad off len = false → (m.val < 16 → evcKept off = false) →
        (Denied m.val off true s → exec (.registerWrite m off ⟨v, len, same⟩) s = .next (s.refusedAccess m.val 1 off true)) ∧
        (Granted m.val off true s → m.val < 16 → barReadOnly off = true →
          exec (.registerWrite m off ⟨v, len, same⟩) s = .next { s with hif := { s.hif with aerUnsupported := true } }) ∧
        (Granted m.val off true s → m.val < 16 → evcShut off = true → exec (.registerWrite m off ⟨v, len, same⟩) s = .next s) ∧
        (Granted m.val off true s → (m.val < 16 → barReadOnly off = false ∧ evcShut off = false) →
          exec (.registerWrite m off ⟨v, len, same⟩) s = .next (s.writeReg m.val off v same)))) ∧
    (Granted m.val 0x300008 true s → exec (w 0x300008) s =
      .next { s with hif := { s.hif with apEnable := BitVec.ofNat 16 (fld v 15 0), pause := bit v 16 } }) ∧
    (Granted m.val 0x30000C true s → exec (w 0x30000C) s =
      .next (if base % max 1 s.hif.bar2Size = 0 ∧ base ≤ 383 then { s with hif := { s.hif with bar2Base := base } } else s)) ∧
    (Granted m.val 0x200010 true s → exec (w 0x200010) s =
      .next { s with hal := { s.hal with slew := min 450 (max 1 (fld v 8 0)) } }) ∧
    (Granted m.val 0x200030 true s → exec (w 0x200030) s = .next { s with hal := { s.hal with setNs := v } }) ∧
    (Granted m.val 0x2700018 true s → exec (w 0x2700018) s =
      .next { s with cpw := { s.cpw with
        warn := max 1 (fld v 3 0), throttleCfg := min (max 1 (fld v 3 0)) (max 1 (fld v 7 4)) } }) ∧
    (∀ e : Fin 128, Granted m.val (0x2501000 + 32 * e.val) true s → exec (w (0x2501000 + 32 * e.val)) s =
      .next (if s.sec.locked then s else { s with sec := { s.sec with
        table := Tab.set s.sec.table e.val ((Tab.get {} s.sec.table e.val).put 0 v) } }))

/-- A read of CPW_POWER_PEAK or PSMC_ERR_IDX returns the value before the event of the same cycle, and the read-clear
field holds that event afterwards; bits of EVC_PENDg, HAL_STATUS and CPW_RST_CAUSE that a write clears while the
hardware sets them stay set. (R8) -/
def Obligations.EventsOfTheSameCycleAreKept : Prop :=
  (∀ (m : Fin 64) (same : Nat) (s : State),
    (Granted m.val 0x2700008 false s → exec (.rcFieldRead m 0x2700008 ⟨4, same⟩) s = .next { s with
      cpw := { s.cpw with peak := same }, bus := { status := 0, data := wordBytes (wd (s.cpw.peak % 2 ^ 20)) } }) ∧
    (Granted m.val 0x22000A0 false s → exec (.rcFieldRead m 0x22000A0 ⟨4, same⟩) s = .next { s with
      psmc := { s.psmc with logLost := same }
      bus := { status := 0, data := wordBytes (wd (s.psmc.logNext % 16 + 2 ^ 16 * (s.psmc.logLost % 2 ^ 16))) } })) ∧
  (∀ (m : Fin 64) (v same : Word) (s : State),
    (Granted m.val 0x200000 true s → exec (.registerWrite m 0x200000 ⟨v, 4, same⟩) s = .next { s with hal := { s.hal with
      stepped := (s.hal.stepped && !bit v 4) || bit same 4, stepRefused := (s.hal.stepRefused && !bit v 5) || bit same 5
      switchBlocked := (s.hal.switchBlocked && !bit v 6) || bit same 6 } }) ∧
    (Granted m.val 0x2700024 true s → exec (.registerWrite m 0x2700024 ⟨v, 4, same⟩) s = .next { s with cpw := { s.cpw with
      cause := (s.cpw.cause &&& ~~~(v.setWidth 7)) ||| same.setWidth 7 } })) ∧
  (∀ (m : Fin 64) (g : Fin 16) (v same : Word) (s : State), Granted m.val (0x100140 + 4 * g.val) true s →
    ∃ t, exec (.evcPendWrite m g v same) s = .next t ∧
      (∀ i : Fin 32, evcNamed (32 * g.val + i.val) = true →
        bit (Tab.get 0 t.evc.pend g.val) i.val =
          (bit same i.val || (bit (Tab.get 0 s.evc.pend g.val) i.val && !bit v i.val))))

/-- An access that the life-cycle state does not open, or that the access table refuses, and one of a cleat in SCRUB that
no session holds, is refused: a read returns zero, a write is discarded, the violation is recorded and the session
ends. One of a place that holds no word, or of uncorrectable data, completes with an error. Otherwise a read returns
the word and a write puts it in place. (R159, R424, R426, 18_security_boot_update.md,
06_scratchpads_cleats_commons.md) -/
def Obligations.DebugMasterReadsAndWrites : Prop :=
  ∀ (a : Nat) (w : Word) (s : State),
    let bad := s.devWord a = false ∨ s.psmc.uncorr.contains (burstOf a) = true ∨ s.psmc.spmUncorr.contains (burstOf a) = true
    let may : Bool → Prop := fun write => s.dbgOpen write = true ∧ s.allowed 47 0 a 4 write = true
    (¬ may false ∨ (¬ bad ∧ s.inScrub a = true) → exec (.debugMasterAccess a none) s =
      .next { (s.violation 47 0 a false).dbgEnd with bus := { status := 0, data := wordBytes 0 } }) ∧
    (¬ may true ∨ (¬ bad ∧ s.inScrub a = true) → exec (.debugMasterAccess a (some w)) s =
      .next { (s.violation 47 0 a true).dbgEnd with bus := { status := 0, data := [] } }) ∧
    (may false → bad → exec (.debugMasterAccess a none) s = .next { s with bus := { status := 2, data := [] } }) ∧
    (may true → bad → exec (.debugMasterAccess a (some w)) s = .next { s with bus := { status := 2, data := [] } }) ∧
    (may false → ¬ bad → s.inScrub a = false → exec (.debugMasterAccess a none) s =
      .next { s with bus := { status := 0, data := wordBytes (wd (leNat (Memory.readN s.mem a 4))) } }) ∧
    (may true → ¬ bad → s.inScrub a = false → exec (.debugMasterAccess a (some w)) s =
      .next { ({ s with mem := Memory.write s.mem a (wordBytes w) } : State).eccWrite a 4 with bus := { status := 0, data := [] } })

/-- NOP answers ST_OK alone. DEV_INFO and DEV_STATS write their record to host memory and answer with its first word;
DEV_STATS over all clients is for aperture 0. DEV_FAULT_READ and PLN_FAULT_READ write the newest records and clear the
count of the lost. PLN_STATUS and TWIN_QUERY report the mode, the pair's state and their counters. (R48, R55, R56,
R366, R368, R409, 14_plinth_safety.md, 02_host_protocol.md) -/
def Obligations.DeviceQueriesReport : Prop :=
  ∀ (k : Nat) (p : Packet) (s : State),
    let u := s.without k
    let host : State → Nat → List Byte → State := fun s a bs => { s with mem := Memory.write s.mem (hostBase + a) bs }
    let recs : FaultLog → Nat → List FaultRec := fun l n => l.recs.take n
    (Applies 0x000 k p s → exec (.nop k) s = .next (u.final p.hdr stOk {})) ∧
    (Applies 0x001 k p s → exec (.devInfo k) s = .next ((host u (p.a 4)
      (bytesOf (u.infoWords ++ List.replicate 18 0))).final p.hdr stOk { d0 := wd s.dev, lo := hifId })) ∧
    (Applies 0x005 k p s → exec (.devStats k) s = .next (
      let ws := if p.f 6 0 0 = 1 then (List.range 16).foldl (fun a n => addWords a (u.statWords n)) [] else u.statWords p.hdr.ap
      if p.f 6 0 0 = 1 ∧ p.hdr.ap ≠ 0 then s.refusal k p stAuth 0 0
      else (host u (p.a 4) (bytesOf (ws ++ List.replicate 4 0))).final p.hdr stOk { lo := wat ws 0 })) ∧
    (Applies 0x006 k p s → exec (.devFaultRead k) s = .next (
      ({ host u (p.a 4) (bytesOf ((recs s.log (p.f 6 8 0)).flatMap FaultRec.words)) with log := { s.log with lost := 0 } } : State).final
        p.hdr stOk { lo := wd (recs s.log (p.f 6 8 0)).length, hi := wd s.log.lost })) ∧
    (Applies 0x701 k p s → exec (.plnFaultRead k) s = .next (
      ({ host u (p.a 4) (bytesOf ((recs s.plinth.log (p.f 6 8 0)).flatMap FaultRec.words)) with
        plinth := { s.plinth with log := { s.plinth.log with lost := 0 } } } : State).final
        p.hdr stOk { lo := wd (recs s.plinth.log (p.f 6 8 0)).length, hi := wd s.plinth.log.lost })) ∧
    (Applies 0x700 k p s → exec (.plnStatus k) s = .next (u.final p.hdr stOk
      { d0 := wd s.plinth.mode, lo := s.plinth.modeWord, hi := s.plinth.rejWord })) ∧
    (Applies 0x802 k p s → exec (.twinQuery k) s = .next (u.final p.hdr stOk
      { d0 := wd s.twin.state, d1 := wd (s.twin.lanes + bitAt s.twin.role 8 + bitAt s.twin.eligible 9 + 2 ^ 16 * s.twin.peerMode)
        lo := s.twin.cntTakeover, hi := s.twin.cntDigest }))

/-- CTX_QUERY, JOB_QUERY, JOB_STATS, KV_DIR_QUERY, HAL_QUERY, PLAN_QUERY, TEST_RESULT and UPD_QUERY answer with the state
of the object they name; a job that is not known, and a sequence that is not open, are out of range; a directory entry
or a sequence of another client is refused with ST_AUTH, but not to aperture 0; UPD_QUERY is busy while the service
port holds a session. (R48, R227, R301, R314, R389, R437, R451, 02_host_protocol.md) -/
def Obligations.ObjectQueriesReport : Prop :=
  ∀ (k : Nat) (p : Packet) (s : State),
    let u := s.without k
    let c := p.hdr.ctx
    let x := s.ctx c
    let mine : Nat → Prop := fun c => p.hdr.ap = 0 ∨ (s.ctx c).client = p.hdr.ap
    let d := s.dir (p.f 4 18 0)
    let q := s.seq (p.f 4 11 0)
    let pages : Nat → Nat := fun st => min 0xFFFF (q.pages.filter fun g => (s.dir g.entry).state == st).length
    let dm := s.domain (p.f 4 0 0)
    let pl := s.plan (p.f 4 3 0)
    let r := Tab.get {} (if p.f 4 5 5 = 1 then s.store.cur.results else s.tst.latest) (p.f 4 4 0)
    let blocks := if s.upd.state = 0x60 then 0 else mfBlocks s.sessManifest
    let miss := if s.upd.state = 0x60 then [] else s.updMissing
    (Applies 0x115 k p s → exec (.ctxQuery k) s = .next (u.final p.hdr stOk
      { d0 := wd (s.ctxCode c), lo := wd (s.ctxJobs c).length, hi := x.saves
        d1 := wd (maskOf (s.residentOn c) + bitAt x.pinned 8 + bitAt x.relaxed 9 + 2 ^ 10 * x.cls +
          2 ^ 16 * maskOf ((x.saved.filter (·.remote)).map (·.engine))) })) ∧
    (Applies 0x302 k p s → exec (.jobQuery k) s = .next (match u.jobFacts c (p.w 4) with
      | none => s.refusal k p stRange (det 4 0) 0
      | some (st, ws) => u.final p.hdr stOk { lo := wd st, hi := wat ws 0 })) ∧
    (Applies 0x303 k p s → exec (.jobStats k) s = .next (match u.jobFacts c (p.w 4) with
      | none => s.refusal k p stRange (det 4 0) 0
      | some (_, ws) => ({ u with mem := Memory.write s.mem (hostBase + p.a 5) (bytesOf ws) } : State).final p.hdr stOk { lo := wat ws 0 })) ∧
    (Applies 0x411 k p s → p.f 4 19 19 = 0 → exec (.kvDirQuery k) s = .next (
      if d.state ≠ 0 ∧ d.state ≠ 5 ∧ ¬ mine d.owner then s.refusal k p stAuth 0 0
      else u.final p.hdr stOk { lo := wat d.words 0, hi := wat d.words 1, d1 := wat d.words 2 })) ∧
    (Applies 0x411 k p s → p.f 4 19 19 ≠ 0 → exec (.kvDirQuery k) s = .next (
      if q.present = false then s.refusal k p stRange (det 4 0) 0
      else if ¬ mine q.ctx then s.refusal k p stAuth 0 0
      else u.final p.hdr stOk { lo := wd q.len, hi := wd q.epoch, d1 := wd (pages 1 + 2 ^ 16 * pages 2) })) ∧
    (Applies 0x601 k p s → exec (.halQuery k) s = .next (u.final p.hdr stOk
      { d0 := wd (dm.state + 2 ^ 8 * s.hal.source), d1 := wd (dm.gmClass + 2 ^ 8 * dm.stepsRemoved)
        lo := satS32 (dm.ofsAt s.hal.nowNs / 65536), hi := satS32 dm.rate.toInt })) ∧
    (Applies 0x614 k p s → exec (.planQuery k) s = .next (u.final p.hdr stOk
      { d0 := wd pl.state, lo := wd pl.count, hi := pl.cntOverrun })) ∧
    (Applies 0xA01 k p s → exec (.testResult k) s = .next (u.final p.hdr stOk
      { d0 := wd r.result, d1 := r.whereLo, lo := r.dur, hi := r.sig })) ∧
    (Applies 0x906 k p s → exec (.updQuery k) s = .next (
      if s.svp.opened then s.refusal k p stBusy 0 0
      else u.final p.hdr stOk { d0 := wd s.upd.state, d1 := wd blocks, lo := wd (blocks - miss.length)
                                hi := match miss with | [] => 0xFFFFFFFF | i :: _ => wd i }))

/-- DEV_RING_SET of another aperture's ring is refused with ST_AUTH, of a registered one with ST_STATE; otherwise the ring
is registered with head and tail 0 and phase 1 and its size is the result. DEV_RING_CLEAR of another aperture's ring,
an unregistered one, or one that an open packet names, is refused; otherwise what found no room is discarded and
counted, the reply is its last record, the unsignalled records are signalled and the ring is unregistered.
DEV_CLIENT_CFG sets classes, contexts and slice, and clears the accounting when asked. (R49, R57, R58, R370,
02_host_protocol.md, 15_scheduling_preemption.md) -/
def Obligations.RingsAndClientsAreConfigured : Prop :=
  ∀ (k : Nat) (p : Packet) (s : State),
    let u := s.without k
    let n := p.f 4 7 0
    let c := p.f 4 3 0
    let x : Client := { s.client c with classes := BitVec.ofNat 3 (p.f 4 10 8), maxCtx := p.f 4 22 16, slice := p.f 5 9 0 }
    (Applies 0x002 k p s → exec (.devRingSet k) s = .next (
      if n / 4 ≠ p.hdr.ap then s.refusal k p stAuth 0 0
      else if (s.ring n).registered = true then s.refusal k p stState 0 0
      else (u.setRing n { registered := true, addr := p.a 6, k := p.f 4 12 8, vector := p.f 4 23 16, modCount := p.f 5 7 0
                          modTime := p.f 5 31 16, head := 0, tail := 0, phase := true, wait := [], unsignalled := 0
                          reserved := (s.ring n).reserved }).final p.hdr stOk { lo := wd (2 ^ p.f 4 12 8) })) ∧
    (Applies 0x003 k p s → exec (.devRingClear k) s = .next (
      if n / 4 ≠ p.hdr.ap then s.refusal k p stAuth 0 0
      else if (s.ring n).registered = false then s.refusal k p stState 0 0
      else if (∃ q ∈ u.taken, q.hdr.ring = n) ∨ (∃ o ∈ s.opens, o.hdr.ring = n) then s.refusal k p stState 0 0
      else
        let a := ((s.held k p 0 0 0).writeAll n).dropHold n
        let b := ((a.closeNo p.hdr.no stOk {}).writeAll n).dropHold n
        (b.signalRing n).setRing n {})) ∧
    (Applies 0x009 k p s → exec (.devClientCfg k) s = .next (
      (u.setClient c (if p.f 4 23 23 = 1 then { x with waitNs := 0, runNs := 0, preempts := 0, preemptedNs := 0, starve := 0 } else x)).final
        p.hdr stOk { lo := wd (s.ctxs.filter fun y => y.2.present && y.2.client == c).length }))

/-- PART_CREATE needs an absent partition, engines that are free and unfenced (the lowest-numbered in basic form) and, in
expert form, a quota that the Commons can give; it makes the partition with its mask, allowance and quota. PART_RESIZE
needs IDLE, free engines to add and no context in the way, and gives the mask; removed engines leave every context's
mask. PART_DELETE needs IDLE and no contexts. (R60, R61, R62, R63, 02_host_protocol.md) -/
def Obligations.PartitionsAreCreatedResizedDeleted : Prop :=
  ∀ (k : Nat) (p : Packet) (s : State),
    let u := s.without k
    let n := p.f 4 1 0
    let x := s.part n
    let ex := p.hdr.expert
    let free := engNos.filter s.engFree
    let engs := if ex then engsOf (p.f 5 7 0) else free.take (p.f 4 7 4)
    let quota := if ex then p.f 6 6 0 else 0
    let allow := if p.f 4 2 2 = 1 then (if ex then p.f 5 24 16 else 160) else 0
    let cur := engsOf x.mask.toNat
    let want := p.f 4 7 4
    let new := if ex then engsOf (p.f 5 7 0) else if want ≤ cur.length then cur.take want else cur ++ free.take (want - cur.length)
    let gone := cur.filter fun e => ¬ new.contains e
    let add := new.filter fun e => ¬ cur.contains e
    let mask := BitVec.ofNat 8 (maskOf new)
    let stuck := ctxNos.find? fun c => (s.ctx c).present && (s.ctx c).part == n && s.pinsEngine c gone
    let held := (s.ctxs.filter fun c => c.2.present && c.2.part == n).length
    (Applies 0x100 k p s → exec (.partCreate k) s = .next (
      if x.present = true then s.refusal k p stState (wd (s.partCode n)) 0
      else if ex = true ∧ engs.all s.engFree = false then s.refusal k p stState (wd 0x10) 0
      else if ex = true ∧ quota ≠ 0 ∧ s.commons.x < s.quotas n + quota then s.refusal k p stRange (det 6 0) 0
      else if ex = false ∧ free.length < want then s.refusal k p stNospace 0 0
      else (u.setPart n { present := true, tt := p.f 4 2 2 == 1, mask := BitVec.ofNat 8 (maskOf engs), allowance := allow
                          quota := quota }).final p.hdr stOk { lo := wd (maskOf engs), hi := wd allow })) ∧
    (Applies 0x101 k p s → exec (.partResize k) s = .next (
      if s.partCode n ≠ 0x11 then s.refusal k p stState (wd (s.partCode n)) 0
      else if add.all s.engFree = false then s.refusal k p stState (wd 0x11) 0
      else match stuck with
        | some c => s.refusal k p stState (wd 0x11) (wd c)
        | none =>
          if ex = false ∧ cur.length + free.length < want then s.refusal k p stNospace 0 0
          else (({ u with ctxs := s.ctxs.map fun c => if c.2.part = n then
              (c.1, { c.2 with mask := BitVec.ofNat 8 (maskOf ((engsOf c.2.mask.toNat).filter fun e => ¬ gone.contains e)) })
              else c } : State).setPart n { x with mask := mask }).schedule.final p.hdr stOk
            { lo := wd mask.toNat, hi := wd x.allowance })) ∧
    (Applies 0x102 k p s → exec (.partDelete k) s = .next (
      if s.partCode n ≠ 0x11 then s.refusal k p stState (wd (s.partCode n)) 0
      else if held ≠ 0 then s.refusal k p stState (wd 0x11) (wd held)
      else (u.setPart n {}).final p.hdr stOk {}))

/-- A power-on reset leaves Halyard at 0 s, 0 ns, mode SERVO, source FREE, both domains DISABLED (R283), the device in
INIT, client 0 with three classes and 64 contexts and no other client with any (R46), no context, plan, ring or
packet, CPW at its reset values, and host memory alone of memory; Plinth, the boot flash and the fuses stay. A
watchdog expiry at its time after the last write of CPW_WDOG, a rail fault, the delay of 1 ms of DEV_RESET_COMPUTE and
a lost PLL_A leave the same of the core island, and CPW, but for its cause bit and what a reset clears, stays (R466).
(R46, R63, R283, R345, R413, R422, R466, R467, R475, 20_clocks_power_reset.md) -/
def Obligations.ResetsLeaveWhatTheSpecKeeps : Prop :=
  ∀ s : State,
    let core : State → Prop → Nat → State → Prop := fun s porq cause t =>
      t.hal.sec = 0 ∧ t.hal.ns = 0 ∧ t.hal.f = 0 ∧ t.hal.mode = 2 ∧ t.hal.source = 0 ∧ t.hal.inc = Hal.nominal ∧
      (t.domain 0).state = 0x70 ∧ (t.domain 1).state = 0x70 ∧
      t.dev = devInit ∧ t.hif = {} ∧ t.taken = [] ∧ t.opens = [] ∧ t.ctxs = [] ∧ t.plans = [] ∧ t.kvSeqs = [] ∧ t.partitions = [] ∧
      (t.client 0).classes = 7 ∧ (t.client 0).maxCtx = 64 ∧ (∀ c, c ≠ 0 → t.client c = {}) ∧
      t.upd.state = 0x60 ∧ t.evc = {} ∧ t.mem = s.mem.filter (fun c => hostBase ≤ c.1) ∧
      t.plinth = s.plinth ∧ t.trim = s.trim ∧ t.flash = s.flash ∧ t.sec.lc = s.sec.lc ∧ t.sec.fwKeys = s.sec.fwKeys ∧
      t.sec.revoked = s.sec.revoked ∧ t.store.bank0 = s.store.bank0 ∧ t.store.bank1 = s.store.bank1 ∧ t.free = s.free ∧
      t.pending = s.pending ∧
      (porq → { t.cpw with cause := 1 } = {}) ∧
      (¬ porq → { t.cpw with cause := s.cpw.cause, railBad := s.cpw.railBad } = { s.cpw with
        align := false, coreHeld := true, resetDue := false, reefDue := false, pllOk := true, wdogAt := 0 } ∧ bit (t.cpw.cause.setWidth 32) cause = true)
    (∃ t, exec .powerOnReset s = .next t ∧ core s True 0 t ∧ t.cpw.cause = 1) ∧
    (s.cpw.coreOn = true → s.cpw.wdog ≠ 0 → ∃ t, exec .watchdogExpiry s = .next t ∧ core (s.passTo (s.cpw.wdogAt + s.cpw.wdog * 1000000)) False 3 t) ∧
    (s.cpw.coreOn = true → ∃ t, exec .coreRailFault s = .next t ∧ core s False 1 t ∧ t.cpw.railBad = true) ∧
    (s.cpw.resetDue = true → ∃ t, exec .coreResetDelay s = .next t ∧ core (s.passTo (s.cpw.resetAt + 1000000)) False 2 t) ∧
    (∀ pll : Fin 9, 7 ≤ pll.val → ∃ t, exec (.pllLockLoss pll) s = .next t ∧ core s True 6 t ∧ bit (t.cpw.cause.setWidth 32) 6 = true) ∧
    (s.cpw.coreOn = false → exec .watchdogExpiry s = .next s ∧ exec .coreRailFault s = .next s) ∧
    (s.cpw.wdog = 0 → exec .watchdogExpiry s = .next s) ∧ (s.cpw.resetDue = false → exec .coreResetDelay s = .next s) ∧
    exec .coreRailGood s = .next { s with cpw := { s.cpw with railBad := false } }

/-- DEV_REEF_SET refuses a share for a partition that is absent or TT, and level 4 while a plan runs in POLICY_LED;
otherwise it commands the level and shares: a higher cap is in force at once, a lower one at the end of the ramp
(R471); one that comes during a ramp waits. REEF4_ENTRY powers the core island down 1 ms after the reply, when it is
due. DEV_RESET_COMPUTE is refused, outside SHUTDOWN, while a plan is ACTIVE and Plinth not MAQUETTE_LED (R63);
otherwise it replies, discards packets from now on, and the reset is due. (R59, R63, R468, R471, R472,
20_clocks_power_reset.md, 02_host_protocol.md) -/
def Obligations.DeviceIsResetAndItsLevelSet : Prop :=
  ∀ (k : Nat) (p : Packet) (s : State),
    let a := s.accepted k p 0 0 0
    let l := p.f 4 2 0
    let share := fun (i : Nat) => p.f 6 (8 * i + 7) (8 * i)
    let lower := decide (reefCap l < reefCap a.cpw.target)
    let b : State := { a with
      partitions := a.partitions.map fun q => (q.1, { q.2 with share := if p.hdr.expert then share q.1 else 0 })
      cpw := { a.cpw with prev := a.cpw.target, target := l, ramping := lower, rampFrom := 1000 * reefCap a.cpw.target, rampPos := 0
                          rampLen := 10 * (if p.hdr.expert then p.f 5 9 0 else 1) } }
    let badShare := [0, 1, 2, 3].any fun i => share i != 0 && (!(s.part i).present || (s.part i).tt)
    a.cpw = s.cpw ∧ a.partitions = s.partitions ∧
    (Applies 0x004 k p s → exec (.devReefSet k) s = .next (
      if s.cpw.ramping = true then s
      else if p.hdr.expert = true ∧ badShare = true then
        s.refusal k p stFormat (det 6 0) 0
      else if (l = 4 ∧ s.planRuns = true) ∧ s.plinth.mode = mPolicy then s.refusal k p stState (wd s.dev) 0
      else if lower = true then b else b.reefReached)) ∧
    (Applies 0x008 k p s → exec (.devResetCompute k) s = .next (
      if (s.dev ≠ devShutdown ∧ s.plinth.mode ≠ mMaq) ∧ planNos.any (fun i => (s.plan i).state == 0x53) = true then s.refusal k p stState (wd s.dev) 0
      else
        let t := a.closeOp 0x008 0 stOk {}
        { t with cpw := { t.cpw with resetDue := true, resetAt := t.hal.nowNs }, discard := true })) ∧
    (∀ t : State, t.cpw.reefDue = true →
      let d := t.passTo (t.cpw.reefAt + 1000000)
      exec .reef4Entry t = .next { d.coreReset with cpw := { d.coreReset.cpw with coreOn := false, reef := 4, ramping := false } }) ∧
    (∀ t : State, t.cpw.reefDue = false → exec .reef4Entry t = .next t)

/-- While the island is unpowered, running or its rail bad, CORE_RESET_RELEASE changes nothing. Otherwise FLASH_RSTn and
ETH_PHY_RSTn stand high and it loads the store; with a part not provisioned, or scrapped, nothing more; with no image
that passes, the device stays in INIT; with one, its table is locked, and either a failed channel faults the device,
or PSM is zeroed and the device is READY. A try that runs out is counted, and after the third the slot is marked
failed (R431). A mismatch at an epoch, and a lost PLL of the die, clear ALIGN and fault the device, with the domain in
arg0 (R463). (R430, R431, R462, R463, R466, R475, 20_clocks_power_reset.md, 18_security_boot_update.md) -/
def Obligations.BootStartsTheDevice : Prop :=
  ∀ (b : BootFacts) (m : Fin 64) (v : Word) (ok : Bool) (dom : Nat) (pll : Fin 9) (s : State),
    let held := s.cpw.coreOn = true ∧ s.cpw.coreHeld = true ∧ s.cpw.railBad = false ∧ s.store.writing = none
    let s1 := ({ s with cpw := { s.cpw with coreHeld := false, flashRst := true, ethRst := true } } : State).storeLoad
    let lost : State → Nat → State := fun t d => ({ t with cpw := { t.cpw with align := false } } : State).fault fltHalCopy 5 255 0 (wd d)
    (¬ held → exec (.coreResetRelease b) s = .next s) ∧
    (held → s1.sec.lc = 0 ∨ s1.sec.lc = 6 → exec (.coreResetRelease b) s = .next s1) ∧
    (held → s1.sec.lc ≠ 0 → s1.sec.lc ≠ 6 → s1.bootChoice b = none →
      exec (.coreResetRelease b) s = .next { s1 with sec := { s1.sec with noImage := true } }) ∧
    (∀ (slot : Nat) (fb : Bool), held → s1.sec.lc ≠ 0 → s1.sec.lc ≠ 6 → s1.bootChoice b = some (slot, fb) →
      ∃ u : State, u.sec.locked = true ∧ u.sec.bootSlot = slot ∧ u.sec.fallback = fb ∧ u.sec.table.map (·.1) = b.table.map (·.1 % 128) ∧
        { u with sec := s1.sec } = s1 ∧
        exec (.coreResetRelease b) s = .next (match b.trainFail with
          | some q => (({ u with psmc := { u.psmc with trainFail := true, failChan := q.val } } : State).event 259).enterDev devFaulted
          | none => ({ u with mem := u.mem.filter fun c => hostBase ≤ c.1 } : State).bootReady)) ∧
    (let t := if s.cpw.coreHeld then s.storeLoad else s
     (t.store.cur.tries = 0 ∨ t.hif.ready = true ∨ t.cpw.coreOn = false ∨ t.dev ≠ devInit → exec .bootTryTimeout s = .next t) ∧
     (t.store.cur.tries ≠ 0 → t.hif.ready = false → t.cpw.coreOn = true → t.dev = devInit → exec .bootTryTimeout s = .next (
       ({ t with cpw := { t.cpw with coreHeld := true } } : State).storePut fun r =>
         if r.tries < 3 then { r with tries := r.tries + 1 }
         else { r with tries := 0, failA := r.failA || r.slotC == 0, failB := r.failB || r.slotC == 1 }))) ∧
    (Granted m.val 0x2700020 true s → exec (.cpwWdogWrite m v) s = .next { s with cpw := { s.cpw with wdog := fld v 15 0, wdogAt := s.hal.nowNs } }) ∧
    (Denied m.val 0x2700020 true s → exec (.cpwWdogWrite m v) s = .next (s.refusedAccess m.val 1 0x2700020 true)) ∧
    exec (.alignEpoch ok dom) s = .next (if ok = false ∧ s.cpw.align = true then lost s dom else s) ∧
    (pll.val < 7 → s.cpw.coreOn = false ∨ s.cpw.coreHeld = true → exec (.pllLockLoss pll) s = .next s) ∧
    (0 < pll.val → pll.val < 7 → s.cpw.coreOn = true → s.cpw.coreHeld = false → exec (.pllLockLoss pll) s =
      .next (lost { s with cpw := { s.cpw with pllOk := false } } (5 + pll.val))) ∧
    (pll.val = 0 → s.cpw.coreOn = true → s.cpw.coreHeld = false → ∃ d, 1 ≤ d ∧ d ≤ 4 ∧ exec (.pllLockLoss pll) s =
      .next (lost { s with cpw := { s.cpw with pllOk := false }, free := s.free + 1 } d))

/-- A thermal command finds T as the hotter of the two sensors CPW_TEMP_CD and CPW_TEMP_PSM (R474, R475). An update notes
the power and its peak and sets the DP scale, which stays 0 to 64, is 0 at Reef 3 and moves by at most 4 otherwise, in
the direction of the cap; it advances a ramp, and counts a millisecond of excess at scale 0 (R469, R470). The thermal
level rises by one, to 3, at each tick at the throttle point, and falls by one after ten ticks below the warning point
(R474); a tick and an update fall on the next multiple of their period (the model's choice, log 177). At the warning
point event 385 and FLT_THERMAL are raised; ten degrees above Tjmax the fatal fault is recorded and the core island is
off; WAKE brings it back only below the warning point. (R466, R469, R470, R471, R472, R474, 20_clocks_power_reset.md) -/
def Obligations.PowerAndTemperatureAreHeld : Prop :=
  (∀ (power : Nat) (s : State), s.cpw.k ≤ 64 → s.cpw.ramping = false → ∃ t : State,
      exec (.powerManagerUpdate power) s = .next t.schedule ∧
      t.cpw.power = power ∧ t.cpw.peak = max s.cpw.peak power ∧ t.free = s.free + 1 ∧
      t.cpw.k ≤ 64 ∧ (s.cpw.reef = 3 → t.cpw.k = 0) ∧
      (s.cpw.reef ≠ 3 → t.cpw.k ≤ s.cpw.k + 4 ∧ s.cpw.k ≤ t.cpw.k + 4 ∧
        (s.cpw.cap < power → t.cpw.k < s.cpw.k ∨ t.cpw.k = 0) ∧
        (¬ s.cpw.cap < power → power * 10 ≤ s.cpw.cap * 9 → s.cpw.k < t.cpw.k ∨ t.cpw.k = 64)) ∧
      (s.cpw.cap < power → s.cpw.k = 0 → s.cpw.overUs = 9 → t.cpw.cntOver = s.cpw.cntOver + 1 ∧ t.cpw.overUs = 0) ∧
      { t with cpw := s.cpw, free := s.free } = s.passTo (s.tickAt 100000)) ∧
  (∀ (power : Nat) (s : State), s.cpw.ramping = true → s.cpw.rampPos + 1 < s.cpw.rampLen →
    ∃ t : State, exec (.powerManagerUpdate power) s = .next t.schedule ∧ t.cpw.rampPos = s.cpw.rampPos + 1 ∧ t.cpw.ramping = true) ∧
  (∀ (temp : Int) (s : State),
    let x := s.cpw
    let hot := tjmax - 8 * x.throttleCfg ≤ temp
    let cold := temp < tjmax - 8 * x.warn
    let u := s.felt temp
    let d := (s.passTo (s.tickAt 100000000)).felt temp
    let y : Cpw := d.cpw
    (∃ (cd psm pln : BitVec 12), u = { s with free := s.free + 2
                                              cpw := { x with temp := temp, tempCd := cd, tempPsm := psm, tempPln := pln
                                                              throttle := decide hot || decide (0 < x.thermal) } } ∧
      (-2048 ≤ temp → temp < 2048 → max cd.toInt psm.toInt = temp)) ∧
    (¬ hot → cold → x.cool + 1 ≠ 10 → exec (.thermalLevelTimer temp) s = .next { d with cpw := { y with cool := x.cool + 1 } }) ∧
    (¬ hot → ¬ cold → exec (.thermalLevelTimer temp) s = .next { d with cpw := { y with cool := 0 } }) ∧
    (hot → x.coreOn = false → exec (.thermalLevelTimer temp) s = .next ({ d with cpw := { y with
      cool := 0, throttle := true, thermal := min 3 (x.thermal + 1)
      cntThrottle := if x.thermal < 3 then x.cntThrottle + 1 else x.cntThrottle } } : State).schedule) ∧
    (hot → x.coreOn = true → x.reef ≠ 4 → x.ramping = false → exec (.thermalLevelTimer temp) s = .next (({ d with cpw := { y with
      cool := 0, throttle := true, thermal := min 3 (x.thermal + 1)
      cntThrottle := if x.thermal < 3 then x.cntThrottle + 1 else x.cntThrottle } } : State).reefTo
        (max x.target (min 3 (x.thermal + 1)))).schedule) ∧
    (¬ hot → cold → x.cool + 1 = 10 → x.coreOn = false → exec (.thermalLevelTimer temp) s =
      .next ({ d with cpw := { y with cool := 0, thermal := x.thermal - 1, throttle := decide (1 < x.thermal) } } : State).schedule) ∧
    exec (.thermalWarnCrossing temp) s = .next (
      if cold then u else (u.event 385).fault fltThermal 0 255 0 0) ∧
    exec (.thermalShutdown temp) s = .next (
      if x.coreOn = false ∨ temp < tjmax + 80 then u
      else
        let o := ((u.event 386).fault fltThermal 5 255 0 0).coreReset
        { o with cpw := { o.cpw with coreOn := false, reef := 4, ramping := false, cause := setBit o.cpw.cause 4 true } }) ∧
    exec .wake s = .next (
      if x.coreOn = true ∨ tjmax - 8 * x.warn ≤ x.temp then s
      else { s with cpw := { x with coreOn := true, coreHeld := true, target := x.wakeReef, prev := x.target
                                    reef := max x.wakeReef x.thermal
                                    k := if max x.wakeReef x.thermal = 3 then 0 else x.k, cause := setBit x.cause 5 true } }))

/-- CTX_CREATE gives the lowest free number to a context of the sender's client, with the partition's mask or that of its
expert form; a DP context gets its save area, a pinned one a slot on each of its engines; the refusals of its row
leave everything else. CTX_DESTROY of a SAFETY context whose lists a plan starts is refused; otherwise it is pending
and the context goes to SCRUBBING. CONTEXT_SCRUB_COMPLETE, once nothing of the context is left, gives back its memory
and its number and answers CTX_DESTROY (a DEV_SHUTDOWN that waits for it then goes on); a FAULTED device begins with
it the end of a context that is not SCRUBBING yet (R157, log 165). CTX_MODE_SET sets RELAXED or STRICT. Completion:
CTX_CREATE, with a mask and an address that its partition allows, a class that the partition takes, a free number, a
slot on each engine for a pinned context and memory for a DP context's save area, creates the context and answers
ST_OK. CTX_DESTROY of a READY, RESIDENT, FAULTED or SUSPENDED context whose lists no plan starts puts it in SCRUBBING.
CONTEXT_SCRUB_COMPLETE of a context in SCRUBBING of which nothing is left frees its number. CTX_MODE_SET of a context
that is SUSPENDED, or READY without jobs, sets its mode, RELAXED for a DP context alone. (R63, R97, R126, R369, R371,
R372, R373, R374, 15_scheduling_preemption.md, 02_host_protocol.md) -/
def Obligations.ContextsAreCreatedAndDestroyed : Prop :=
  (
    ∀ (k : Nat) (p : Packet) (s : State),
      let u := s.without k
      let pt := s.part (p.f 4 1 0)
      let tt := pt.present && pt.tt
      let ex := p.hdr.expert
      let mask : BitVec 8 := if ex then BitVec.ofNat 8 (p.f 5 7 0) else pt.mask
      let engs := engNos.filter fun e => mask.getLsbD e
      let pinned := ex && p.f 5 8 8 == 1
      let pin := tt || pinned
      let addr := if ex then (p.w 6).toNat + 2 ^ 32 * p.f 7 15 0 else 0
      let len := if tt then 0 else engs.length * secBytes
      let newCtx : Ctx := { present := true, client := p.hdr.ap, cls := p.hdr.cls, part := p.f 4 1 0, mask := mask, mask0 := mask, pinned := pin
                            hdr := p.hdr, saveLen := len }
      let area : Nat → Option State := fun c =>
        let v := u.setCtx c newCtx
        if tt then some v
        else match (if addr ≠ 0 then some addr else v.vaTakeTop c len 65536) with
          | none => none
          | some va => (v.saveArea c va len).map fun w => w.upCtx c fun y => { y with saveVa := va }
      let slots : Nat → State → State := fun c v => if pin then engs.foldl (fun v e => v.pinSlot c e) v else v
      let c := p.hdr.ctx
      (Applies 0x110 k p s → exec (.ctxCreate k) s = .next (
        if (ex = true ∧ tt = true) ∧ addr ≠ 0 then s.refusal k p stFormat (det 6 0) 0
        else if (ex = true ∧ pt.present = true) ∧ (mask = 0 ∨ mask &&& pt.mask ≠ mask) then s.refusal k p stRange (det 5 0) 0
        else if addr ≠ 0 ∧ vaEnd < addr + len then s.refusal k p stRange (det 6 0) 0
        else if ((tt = false ∧ ex = true) ∧ p.f 5 8 8 = 1) ∧ p.hdr.ap ≠ 0 then s.refusal k p stAuth 0 0
        else if pt.present = false then s.refusal k p stState (wd 0x10) 0
        else if p.hdr.cls = 0 ∧ tt = false then s.refusal k p stState (wd 0x11) 0
        else match ctxNos.find? fun c => !(s.ctx c).present with
          | none => s.refusal k p stNospace 0 0
          | some c =>
            if (s.client p.hdr.ap).maxCtx ≤ s.heldBy p.hdr.ap then s.refusal k p stNospace 0 0
            else if pin = true ∧ engs.all (s.pinRoom tt) = false then s.refusal k p stNospace 0 0
            else match area c with
              | none => s.refusal k p stNospace 0 0
              | some v => ((slots c v).schedule).final p.hdr stOk
                  { lo := wd c, hi := wd (len / 4096), d1 := wd (((slots c v).ctx c).saveVa / 65536) })) ∧
      (Applies 0x111 k p s → exec (.ctxDestroy k) s = .next (
        if [0x20, 0x21, 0x22, 0x23].contains (s.ctxCode c) = false then s.refusal k p stState (wd (s.ctxCode c)) 0
        else if (s.ctx c).cls = 0 ∧ s.planOf c [0x52, 0x53] ≠ none then s.refusal k p stState (wd (s.ctxCode c)) 0
        else (s.accepted k p c 0 0).destroyCtx c)) ∧
      (∀ (x : Fin 64) (t : State), (t.ctx x).scrubbing = true → t.scrubWaits x = false → exec (.contextScrubComplete x) t = .next (
        let a := (t.ctx x).maps.foldl (fun t m => t.releaseMap x m) t
        let b := (a.opens.filter (scrubbedOpen x)).foldl (fun t o => t.close o stOk {}) a
        let d : State := { b with ctxs := Tab.erase b.ctxs x, twin := { b.twin with pairs := b.twin.pairs.filter fun p => p.1 ≠ x.val } }
        (match b.opens.find? (fun (o : OpenReq) => o.hdr.opcode == 0x111 && o.hdr.ctx == x.val) with
        | some o => d.close o stOk {}
        | none => d).shutGo)) ∧
      (∀ (x : Fin 64) (t : State), (t.ctx x).scrubbing = true → t.scrubWaits x = true → exec (.contextScrubComplete x) t = .next t.shutGo) ∧
      (∀ (x : Fin 64) (t : State), (t.ctx x).scrubbing = false →
        exec (.contextScrubComplete x) t = .next (if t.dev = devFaulted then (t.destroyCtx x).shutGo else t.shutGo)) ∧
      (Applies 0x114 k p s → exec (.ctxModeSet k) s = .next (
        if p.f 4 0 0 = 1 ∧ (s.ctx c).cls = 0 then s.refusal k p stRange (det 4 0) 0
        else if [0x20, 0x23].contains (s.ctxCode c) = false then s.refusal k p stState (wd (s.ctxCode c)) 0
        else if s.ctxCode c = 0x20 ∧ s.ctxHasJobs c = true then s.refusal k p stState (wd 0x20) 0
        else (u.upCtx c fun y => { y with relaxed := p.f 4 0 0 == 1 }).final p.hdr stOk
          { lo := (s.ctx c).relaxedCnt, hi := wd (bitAt (s.ctx c).relaxed 0) }))) ∧
  (
    ∀ (k : Nat) (p : Packet) (s : State),
      let u := s.without k
      let pt := s.part (p.f 4 1 0)
      let ex := p.hdr.expert
      let mask : BitVec 8 := if ex then BitVec.ofNat 8 (p.f 5 7 0) else pt.mask
      let engs := engNos.filter fun e => mask.getLsbD e
      let pinned := ex && p.f 5 8 8 == 1
      let addr := if ex then (p.w 6).toNat + 2 ^ 32 * p.f 7 15 0 else 0
      let size := engs.length * secBytes
      let newCtx : Bool → Nat → Ctx := fun pin len => { present := true, client := p.hdr.ap, cls := p.hdr.cls, part := p.f 4 1 0, mask := mask, mask0 := mask, pinned := pin
                                                        hdr := p.hdr, saveLen := len }
      let slots : Nat → State → State := fun n v => engs.foldl (fun v e => v.pinSlot n e) v
      let c := p.hdr.ctx
      (∀ n : Nat, Applies 0x110 k p s → pt.present = true → (ex = true → mask ≠ 0 ∧ mask &&& pt.mask = mask) →
        ctxNos.find? (fun i => !(s.ctx i).present) = some n → s.heldBy p.hdr.ap < (s.client p.hdr.ap).maxCtx →
        (pt.tt = true → addr = 0 → engs.all (s.pinRoom true) = true → exec (.ctxCreate k) s =
          .next ((slots n (u.setCtx n (newCtx true 0))).schedule.final p.hdr stOk
            { lo := wd n, hi := 0, d1 := wd (((slots n (u.setCtx n (newCtx true 0))).ctx n).saveVa / 65536) })) ∧
        (∀ (va : Nat) (v : State), pt.tt = false → p.hdr.cls ≠ 0 → (pinned = true → p.hdr.ap = 0 ∧ engs.all (s.pinRoom false) = true) →
          (addr ≠ 0 → addr + size ≤ vaEnd) →
          (if addr ≠ 0 then some addr else (u.setCtx n (newCtx pinned size)).vaTakeTop n size 65536) = some va →
          (u.setCtx n (newCtx pinned size)).saveArea n va size = some v → exec (.ctxCreate k) s =
            .next (let w := v.upCtx n fun y => { y with saveVa := va }
              let w := if pinned then slots n w else w
              w.schedule.final p.hdr stOk { lo := wd n, hi := wd (size / 4096), d1 := wd ((w.ctx n).saveVa / 65536) }))) ∧
      (Applies 0x111 k p s → [0x20, 0x21, 0x22, 0x23].contains (s.ctxCode c) = true →
        ((s.ctx c).cls ≠ 0 ∨ s.planOf c [0x52, 0x53] = none) → exec (.ctxDestroy k) s = .next ((s.accepted k p c 0 0).destroyCtx c)) ∧
      (∀ (x : Fin 64) (t : State), (t.ctx x).scrubbing = true → t.scrubWaits x = false →
        (t.opens.find? fun o => o.hdr.opcode == 0x111 && o.hdr.ctx == x.val) = none → (t.opens.filter (scrubbedOpen x)) = [] → (t.ctx x).maps = [] →
        exec (.contextScrubComplete x) t = .next ({ t with
          ctxs := Tab.erase t.ctxs x, twin := { t.twin with pairs := t.twin.pairs.filter fun p => p.1 ≠ x.val } } : State).shutGo) ∧
      (Applies 0x114 k p s → (p.f 4 0 0 = 1 → (s.ctx c).cls ≠ 0) → (s.ctxCode c = 0x23 ∨ (s.ctxCode c = 0x20 ∧ s.ctxHasJobs c = false)) →
        exec (.ctxModeSet k) s = .next ((u.upCtx c fun y => { y with relaxed := p.f 4 0 0 == 1 }).final p.hdr stOk
          { lo := (s.ctx c).relaxedCnt, hi := wd (bitAt (s.ctx c).relaxed 0) })))

/-- CTX_SUSPEND of an open context is pending, its issue stops, and every resident group is to be saved (in a TT partition
its queues drain alone); a SAFETY context that a running plan uses is refused. CTX_RESUME ends a suspension, and a
pinned DP context takes a slot of each engine again where there is room. SAVE_DRAIN_COMPLETE starts the copy on a free
mover; REMOTE_DRAIN_TIMEOUT, 200 µs after the preemption, redirects the reads that have not landed. (R375, R379, R380,
R383, R386, R388, R390, 15_scheduling_preemption.md) -/
def Obligations.SuspensionsSaveAndResume : Prop :=
  ∀ (k : Nat) (p : Packet) (s : State) (e : Fin 8) (sl : Fin 4),
    let u := s.without k
    let c := p.hdr.ctx
    let x := s.ctx c
    let engs := engNos.filter fun e => x.mask.getLsbD e
    let a := (s.accepted k p c 0 0).upCtx c fun x => { x with suspended := true }
    let r := u.upCtx c fun y => { y with suspended := false }
    let slot := (s.engine e).slot sl
    (Applies 0x112 k p s → exec (.ctxSuspend k) s = .next (
      if ctxOpen.contains (s.ctxCode c) = false then s.refusal k p stState (wd (s.ctxCode c)) 0
      else if x.cls = 0 ∧ planNos.any (fun i => (s.plan i).runs && (s.plan i).ctx == c) = true then
        s.refusal k p stState (wd (s.ctxCode c)) 0
      else ((engNos.foldl (fun s e => s.suspendOn c e) a).suspendDone c).schedule)) ∧
    (Applies 0x113 k p s → exec (.ctxResume k) s = .next (
      if [0x23].contains (s.ctxCode c) = false then s.refusal k p stState (wd (s.ctxCode c)) 0
      else if (s.openOf 0x112 c).isSome = true then s
      else if s.ctxTT c = true ∨ ¬ x.pinned = true then r.schedule.final p.hdr stOk {}
      else if engs.all (fun e => s.pinRoom false e) = false then s.refusal k p stNospace 0 0
      else ((engs.foldl (fun s e => s.retake c e) r).schedule).final p.hdr stOk {})) ∧
    (slot.ctx = none ∨ slot.draining = false → exec (.saveDrainComplete e sl) s = .next s ∧ exec (.remoteDrainTimeout e sl) s = .next s) ∧
    (∀ d, slot.ctx = some d → slot.draining = true →
      exec (.saveDrainComplete e sl) s = .next (
        if s.mustFinish e sl = true ∨ s.readsDue d e = true then s
        else if s.ctxTT d = true then ((s.upSlot e sl fun y => { y with draining := false, susp := false }).suspendDone d).schedule
        else match s.switchMover with
          | none => s
          | some m => ((s.upSlot e sl fun y => { y with draining := false, saving := true, mover := some m }).sweep d e).schedule) ∧
      exec (.remoteDrainTimeout e sl) s = .next (
        if s.readsDue d e = false then s
        else
          let since := ((s.ctx d).saved.find? fun z => z.engine == e.val).map (·.since)
          let t := ((s.passTo (since.getD 0 + 200000)).upEngine e fun y =>
              { y with remotes := y.remotes.map fun r => if r.ctx = d then { r with redirect := true } else r }).upCtx d
            fun y => { y with saved := y.saved.map fun z => if z.engine = e.val then { z with remote := true } else z }
          ({ t with sch := { t.sch with remotes := t.sch.remotes + 1 } } : State).event 290))

/-- CONTEXT_SAVE_COMPLETE of a slot whose save runs unhindered writes the hold set's rows and the cleat images (in
ascending handle) to the section, zeroes the vacated words, makes the cleats SPILLED, records each image's CRC-32C and
frees the slot and its queue; an uncorrectable read ends the context with FLT_MEM_UNCORR, a hold set whose residue
does not compare stops its job with FLT_RESIDUE, an unmapped page holds the save with a notice, the pieces before it
kept (R189). CONTEXT_RESTORE_COMPLETE reads images, landed remote reads and hold rows back; images whose CRC or
records whose residue are wrong end the context; otherwise the group stands where it was placed and the context takes
the slot. Without a save or a restore under way nothing changes. (R375, R380, R381, R382, R386, R390,
15_scheduling_preemption.md) -/
def Obligations.GroupsAreSavedAndRestored : Prop :=
  ∀ (s : State) (e : Fin 8) (k : Fin 4) (errs : List MemErr) (residue : List Nat),
    let x := (s.engine e).slot k
    let m := x.mover.getD 0
    let save : Instr := .contextSaveComplete e k ⟨errs, residue⟩
    let group := fun c => s.liveGroup c e
    let read := fun c => s.eccReads (mMover m) c errs ((group c).flatMap fun p => p.2.pieces e 0 (64 * p.2.size))
    let hold := ((s.engine e).qs' k).hold
    let images : Nat → State → List (Nat × Nat × List Byte) := fun c v =>
      (imageOffs secImages (group c)).map fun p => (p.1, p.2.1, v.clRd e p.2.1 0 (64 * p.2.2.size))
    let pieces := fun c (v : State) =>
      ((hold.rows ++ (images c v).map fun p => (p.1, p.2.2)).flatMap fun p => pagePieces ((v.ctx c).section e + p.1) p.2).drop x.moved
    let put := fun c (v : State) =>
      (v.walks (mMover m) c errs true ((pieces c v).map fun p => (p.1, p.2.length))).putSection c m x.moved (pieces c v)
    let wrong : Prop := hold.held = true ∧ (residue.any fun i => decide (i < hold.m)) = true
    let want : Saved → List (Nat × Nat) := fun z => (z.images.map fun im => (im.off, 64 * (s.cleat x.group im.handle).size)) ++
      (z.landed.map fun l => (4096 * l.1, l.2.2.2)) ++ z.q.hold.rows.map fun r => (r.1, r.2.length)
    let pages : Nat → Saved → List (Nat × Nat) := fun c z => (want z).flatMap fun w => pagesOf ((s.ctx c).section x.group + w.1) w.2
    let walked : Nat → Nat → Saved → State := fun c m z => s.walks (mMover m) c errs false (pages c z)
    (x.ctx = none ∨ x.saving = false → exec save s = .next s) ∧
    (x.restoring = none → exec (.contextRestoreComplete e k errs) s = .next s) ∧
    (∀ c, x.ctx = some c → x.saving = true → s.switchHeld c e k = true → exec save s = .next s) ∧
    (∀ c, x.ctx = some c → x.saving = true → s.switchHeld c e k = false → wrong → exec save s = .next (s.stopAway c e fltResidue)) ∧
    (∀ c v n, x.ctx = some c → x.saving = true → s.switchHeld c e k = false → ¬ wrong → read c = (v, some n) →
      exec save s = .next ((v.fault fltMemUncorr 1 c m 0).destroyCtx c)) ∧
    (∀ c v w n f, x.ctx = some c → x.saving = true → s.switchHeld c e k = false → ¬ wrong → read c = (v, none) → put c v = (w, n, .miss f) →
      exec save s = .next ((w.upSlot e k fun y => { y with moved := n }).switchFault c e k m true f)) ∧
    (∀ c v w n, x.ctx = some c → x.saving = true → s.switchHeld c e k = false → ¬ wrong → read c = (v, none) → put c v = (w, n, .unc) →
      exec save s = .next ((w.fault fltMemUncorr 1 c m 0).destroyCtx c)) ∧
    (∀ c v w n, x.ctx = some c → x.saving = true → s.switchHeld c e k = false → ¬ wrong → read c = (v, none) → put c v = (w, n, .fin) →
      exec save s = .next (
        let spilled := (group c).foldl (fun w p => (w.vacate e p.2).setCleat e p.1 { p.2 with state := 2 }) w
        let noted := spilled.upCtx c fun y => { y with
          saves := y.saves + 1
          saved := y.saved.map fun z => if z.engine = e.val then { z with
            present := true
            images := (images c v).map fun p => ({ handle := p.2.1, off := p.1, crc := crc32c p.2.2 } : SaveImage)
            q := (s.engine e).qs' k } else z }
        (((noted.upEngine e fun y => { y.setSlot k {} with qs := Tab.erase y.qs k }).sweep c e).suspendDone c).schedule)) ∧
    (∀ c, x.restoring = some c → x.mover = none →
      exec (.contextRestoreComplete e k errs) s = .next (s.upSlot e k fun y => { y with mover := s.switchMover })) ∧
    (∀ c m z placed, x.restoring = some c → x.mover = some m → s.savedOn c x.group = some z → s.switchHeld c e k = false →
      placeGroup ((s.engine e).occupied false) (s.group' c x.group) = some placed →
      ∀ l bs v,
        (walked c m z).xlates (some (mMover m)) c false (pages c z) = .ok l →
        (walked c m z).getSection c ((s.ctx c).section x.group) m (want z) = .ok bs → (walked c m z).eccReads (mMover m) c errs l = (v, none) →
        exec (.contextRestoreComplete e k errs) s = .next (
          match z.q.hold.reload (bs.drop (z.images.length + z.landed.length)) with
          | none => v.restoreBad c m
          | some recs =>
            if ((List.range z.images.length).all fun i => crc32c (bs.getD i []) == (z.images.getD i {}).crc) = false then v.restoreBad c m
            else
              let a := v.followGroup c x.group e placed
              let b := (List.range z.images.length).foldl (fun s i => s.clWr e (z.images.getD i {}).handle 0 (bs.getD i [])) a
              let d := (List.range z.landed.length).foldl (fun s i =>
                s.clWr e (z.landed.getD i (0, 0, 0, 0)).2.1 (z.landed.getD i (0, 0, 0, 0)).2.2.1 (bs.getD (z.images.length + i) [])) b
              (d.restored e k c z (if z.q.hold.held = true then { z.q with hold := { z.q.hold with recs := recs } } else z.q)).schedule))

/-- A remote read's completion for no outstanding read is discarded and counted, and the frames replayed for any are
counted; no data means an uncorrectable read, whose job stops; data goes to the scratchpad, or to the landing slot of
a saved group. A peer's access is served in its paired context here, faults held. A mirrored fence F8 to F15 of a pair
follows the peer's signal and wakes waiters; F0 to F7 do not. SHROUD_LINK_DOWN goes to LOST with FLT_TWIN_LOST and
stops what waits on the link. The placement timer evaluates placement at the next multiple of 1 ms (whose phase is the
model's choice, log 177). A prefix frame is compared in SHADOW alone. (R377, R386, R395, R398, R399, R401,
16_twin_shroud.md, 15_scheduling_preemption.md) -/
def Obligations.ThePeersMessagesTakeEffect : Prop :=
  ∀ (s : State) (e : Fin 8) (tag : Fin 64) (link : LinkData) (ctx : Fin 64) (va len : Nat) (wr : Option (List Byte)) (fence : Fin 16)
    (set : Bool) (v : Word) (ws : List Word),
    let read := (s.engine e).remotes.find? fun r => r.tag == tag.val
    let data := link.data
    let heard := s.upTwin fun x => { x with cntReplay := x.cntReplay + wd link.replays }
    let gone := heard.upEngine e fun x => { x with remotes := x.remotes.filter fun q => q.tag ≠ tag.val }
    (read = none → exec (.remoteReadCompletion e tag link) s = .next (heard.upTwin fun x => { x with cntLate := x.cntLate + 1 })) ∧
    (∀ r, read = some r → data.isEmpty = true → exec (.remoteReadCompletion e tag link) s = .next (gone.stopRemote e r fltMemUncorr)) ∧
    (∀ r, read = some r → data.isEmpty = false → r.redirect = false →
      exec (.remoteReadCompletion e tag link) s = .next ((gone.clWr e r.h r.off (slice data 0 r.len)).schedule)) ∧
    (∀ r, read = some r → data.isEmpty = false → r.redirect = true →
      exec (.remoteReadCompletion e tag link) s = .next (
        let a := (gone.upTwin fun x => { x with cntRedirect := x.cntRedirect + 1 }).event 418
        match a.xlates none r.ctx true (pagesOf ((a.ctx r.ctx).section e + 4096 * tag) r.len) with
        | .error _ => a
        | .ok l =>
          if (a.eccPartials l).isSome = true then a.stopRemote e r fltMemUncorr
          else ((a.putPieces l (slice data 0 r.len)).upCtx r.ctx fun y => { y with saved := y.saved.map fun z =>
            if z.engine = e.val then { z with landed := z.landed ++ [(tag.val, r.h, r.off, r.len)] } else z }).schedule)) ∧
    (s.peerOf ctx = none → exec (.remoteAccessRequest ctx va len wr) s = .next s ∧
      exec (.mirroredFenceSignal ctx fence set v) s = .next s) ∧
    (∀ peer, s.peerOf ctx = some peer →
      exec (.mirroredFenceSignal ctx fence set v) s = .next (if fence.val < 8 then s
        else ((s.putFence ctx fence (fenceNext (s.fence ctx fence) set v).1).wake 200 ctx).schedule) ∧
      (((s.ctx ctx).faults.any fun f => f.job == peerJob) = true → exec (.remoteAccessRequest ctx va len wr) s = .next s) ∧
      (((s.ctx ctx).faults.any fun f => f.job == peerJob) = false →
        (∀ bs l, s.xlates none ctx true (pagesOf va bs.length) = .ok l → exec (.remoteAccessRequest ctx va len (some bs)) s =
          .next (if (s.eccPartials l).isSome = true then s.out 5 peer [] else s.putPieces l bs)) ∧
        (∀ bs w pr, s.xlates none ctx true (pagesOf va bs.length) = .error (.miss w pr) → exec (.remoteAccessRequest ctx va len (some bs)) s =
          .next (s.notice ctx (s.ctx ctx).hdr { va := w, write := true, prot := pr, mover := true, job := peerJob })) ∧
        (∀ w pr, s.xlates none ctx false (pagesOf va len) = .error (.miss w pr) → exec (.remoteAccessRequest ctx va len none) s =
          .next (s.notice ctx (s.ctx ctx).hdr { va := w, write := false, prot := pr, mover := true, job := peerJob })) ∧
        (∀ l t, s.xlates none ctx false (pagesOf va len) = .ok l → s.eccReads mFe ctx [] l = (t, none) →
          exec (.remoteAccessRequest ctx va len none) s = .next (t.out 5 peer (l.flatMap fun p => t.rd p.1 p.2))))) ∧
    (s.twin.up = false → exec .shroudLinkDown s = .next s) ∧
    (s.twin.up = true → exec .shroudLinkDown s = .next (
      let a := (((s.upTwin fun x => { x with up := false, lanes := 0, state := twLost }).fault fltTwinLost 0 255 0 0).event 416).abandonReads
      ((if s.twin.state = twSplit then s.twin.pairs else []).foldl (fun t p => t.stopMirrors p.1) a).schedule)) ∧
    exec .schPlacementTimer s = .next (s.passTo (s.tickAt 1000000)).schedule ∧
    exec (.shrPrefixReceive ws) s = .next (if s.twin.state = twShadow then
      (s.upTwin fun x => { x with peerPrefixes := Tab.set x.peerPrefixes (wat ws 1).toNat ws }).prefixCompare (wat ws 1).toNat else s)

/-- In an open context MEM_ALLOC places a range in the explicit Commons, in PSM, or, in basic form and outside TT, in host
memory where PSM has no room; where nothing can hold it, or a static map would pass 8192 entries, it is refused with
ST_NOSPACE. MEM_MAP_HOST maps host pages at the virtual address it names in expert form, refused with ST_RANGE where
it overlaps, or at a chosen one, there in the largest pages that fit; a TT context has none. MEM_FREE and MEM_UNMAP
refuse a range the context does not have, and one that a plan or a stream names; otherwise they are pending until
nothing names the range. The end of a scrub gives the range back and answers. (R22, R157, R164, R180, R181, R182,
R186, 07_memory_stacks_translation.md, 06_scratchpads_cleats_commons.md) -/
def Obligations.MemoryIsAllocatedMappedAndFreed : Prop :=
  ∀ (k : Nat) (p : Packet) (s : State),
    let u := s.without k
    let c := p.hdr.ctx
    let x := s.ctx c
    let tt := s.ctxTT c
    let w := decide (p.f 5 0 0 = 1)
    let pg := pageBytes (p.f 6 17 16)
    let al := max 65536 pg
    let comLen := alignUp ((p.w 4).toNat * 4096) al
    let len := if p.hdr.expert then alignUp ((p.w 4).toNat * 4096) pg else (p.w 4).toNat * 4096
    let parts := if p.hdr.expert then [(p.f 6 17 16, len / pg)] else basicParts len
    let pal := if p.hdr.expert then pg else if 2097152 ≤ len then 2097152 else if 65536 ≤ len then 65536 else 4096
    let mask := if p.hdr.expert then p.f 6 13 8 else 63
    let pin := tt || (p.hdr.expert && decide (p.f 6 20 20 = 1))
    let inCommons := fun a va => ({ va := va, len := comLen, commons := true, write := w, runs :=
      [{ va := va, pa := a, len := comLen, page := p.f 6 17 16, write := w, pin := tt || decide (p.f 6 20 20 = 1) }] } : Mapping)
    let hpg := if p.hdr.expert then p.f 7 1 0 else 0
    let hlen := alignUp ((p.w 6).toNat * 4096) (pageBytes hpg)
    let hostMap := fun va => ({ va := va, len := hlen, host := true, runs :=
      (if p.hdr.expert then [(va, va + hlen, hpg)] else coverPages [2, 1] va (va + hlen)).map fun q =>
        { va := q.1, pa := hostBase + p.a 4 + (q.1 - va), len := q.2.1 - q.1, page := q.2.2 } } : Mapping)
    let want := (p.w 8).toNat + 2 ^ 32 * p.f 9 15 0
    let hit := fun (va n : Nat) => decide (va < want + hlen ∧ want < va + n)
    let closed := ctxOpen.contains (s.ctxCode c) = false
    let va := p.a 4
    let ends : Bool → State := fun host =>
      if closed then s.refusal k p stState (wd (s.ctxCode c)) 0
      else match x.maps.find? fun m => m.va == va && m.host == host && !m.freeing && !m.save with
        | none => s.refusal k p stRange (det 4 0) 0
        | some m => match s.planNames c va (va + m.len), s.streamIn c va (va + m.len) with
          | some st, _ => s.refusal k p stState (wd st) 0
          | none, some st => s.refusal k p stState (wd st) 0
          | none, none => ((s.accepted k p (freeKey c va) 0 0).upCtx c fun x =>
              { x with maps := x.maps.map fun q => if q.va = va then { q with freeing := true } else q }).settleFrees c
    (Applies 0x200 k p s → p.hdr.expert = true → p.f 6 1 0 = 1 → exec (.memAlloc k) s = .next (
      if closed then s.refusal k p stState (wd (s.ctxCode c)) 0
      else if 48 * 2 ^ 20 < comLen ∨ (tt = true ∧ 8192 < s.staticUsed x.part + comLen / pg) then s.refusal k p stNospace 0 0
      else match u.takeCommons x.part comLen al, u.vaTake c comLen al 0 with
        | some (a, t), some va => (t.addMap c (inCommons a va)).final p.hdr stOk (vaReply va)
        | _, _ => s.refusal k p stNospace 0 0)) ∧
    (Applies 0x200 k p s → p.hdr.expert = false ∨ p.f 6 1 0 ≠ 1 → exec (.memAlloc k) s = .next (
      if closed then s.refusal k p stState (wd (s.ctxCode c)) 0
      else if tt = true ∧ 8192 < s.staticUsed x.part + sumN (parts.map (·.2)) then s.refusal k p stNospace 0 0
      else match u.vaTake c len pal 0 with
        | none => s.refusal k p stNospace 0 0
        | some va => match u.placeParts tt mask (c + 1) w pin va parts with
          | some (runs, t) => (t.addMap c { va := va, len := len, write := w, runs := runs }).final p.hdr stOk (vaReply va)
          | none => if p.hdr.expert = true ∨ tt = true then s.refusal k p stNospace 0 0
            else (((u.placeHost va len w).2.addMap c { va := va, len := len, write := w, runs := (u.placeHost va len w).1 })).final
              p.hdr stOk (vaReply va))) ∧
    (Applies 0x202 k p s → exec (.memMapHost k) s = .next (
      if closed then s.refusal k p stState (wd (s.ctxCode c)) 0
      else if tt = true then s.refusal k p stNospace 0 0
      else if p.hdr.expert = true then
        if vaEnd < want + hlen ∨ x.maps.any (fun q => hit q.va q.len) = true ∨ x.installs.any (fun q => hit q.va q.len) = true then
          s.refusal k p stRange (det 8 0) 0
        else (u.addMap c (hostMap want)).final p.hdr stOk (vaReply want)
      else match u.vaTake c hlen 2097152 (p.a 4) with
        | some va => (u.addMap c (hostMap va)).final p.hdr stOk (vaReply va)
        | none => s.refusal k p stNospace 0 0)) ∧
    (Applies 0x201 k p s → exec (.memFree k) s = .next (ends false)) ∧
    (Applies 0x203 k p s → exec (.memUnmap k) s = .next (ends true)) ∧
    (∀ (d : Fin 64) (a : Nat) (t : State), exec (.memScrubComplete d a) t = .next (
      match (t.ctx d).maps.find? fun m => m.va == a && m.gone with
      | some m => ((t.releaseMap d m).closeOp 0x201 (freeKey d a) stOk {}).closeOp 0x501 (freeKey d a) stOk {}
      | none => t))

/-- MEM_COPY and MEM_FILL in an open context refuse overlap, a range that leaves its allocation, and in expert form a
mover under test or bound to a plan; otherwise they are pending and a transfer stands at the mover named, or at a free
one. TRANSFER_COMPLETE of a transfer whose turn it is moves the bytes; it ends with ST_OK, with ST_FAULT and the code
of what stopped it, or waits with a notice at a translation fault, which in a TT context stops it. (R53, R175, R183,
R187, R189, R398, 07_memory_stacks_translation.md, 02_host_protocol.md) -/
def Obligations.TransfersMoveMemory : Prop :=
  ∀ (k : Nat) (p : Packet) (s : State),
    let c := p.hdr.ctx
    let begin' : Option Word → Nat → Nat → Nat → Nat → State := fun fill src dst len mv =>
      let a := s.accepted k p s.xferNo 0 0
      { a with xferNo := a.xferNo + 1
               transfers := a.transfers ++ [{ id := a.xferNo, hdr := p.hdr, src := src, dst := dst, len := len, fill := fill
                                              mover := if p.hdr.expert then mv else a.pickMover }] }
    let at6 := fun (i : Nat) => (p.w i).toNat + 2 ^ 32 * p.f (i + 1) 15 0
    (Applies 0x204 k p s → exec (.memCopy k) s = .next (
      if ctxOpen.contains (s.ctxCode c) = false then s.refusal k p stState (wd (s.ctxCode c)) 0
      else if at6 4 < at6 6 + at6 8 ∧ at6 6 < at6 4 + at6 8 then s.refusal k p stRange (det 8 0) 0
      else if p.hdr.expert = true ∧ s.tst.movers.getLsbD (p.f 10 3 0) = true then s.refusal k p stState (wd (s.ctxCode c)) 0
      else if s.rangeBad c (at6 4) (at6 8) = true then s.refusal k p stRange (det 4 0) 0
      else if s.rangeBad c (at6 6) (at6 8) = true then s.refusal k p stRange (det 6 0) 0
      else if p.hdr.expert = true ∧ s.moverBound (p.f 10 3 0) = true then s.refusal k p stBusy 0 0
      else begin' none (at6 4) (at6 6) (at6 8) (p.f 10 3 0))) ∧
    (Applies 0x205 k p s → exec (.memFill k) s = .next (
      if ctxOpen.contains (s.ctxCode c) = false then s.refusal k p stState (wd (s.ctxCode c)) 0
      else if p.hdr.expert = true ∧ s.tst.movers.getLsbD (p.f 9 3 0) = true then s.refusal k p stState (wd (s.ctxCode c)) 0
      else if s.rangeBad c (at6 4) (at6 6) = true then s.refusal k p stRange (det 4 0) 0
      else if p.hdr.expert = true ∧ s.moverBound (p.f 9 3 0) = true then s.refusal k p stBusy 0 0
      else begin' (some (p.w 8)) 0 (at6 4) (at6 6) (p.f 9 3 0))) ∧
    (∀ (t : State) (id : Nat) (errs : List MemErr) (remote : List Byte),
      (t.transfers.find? (fun x => x.id == id) = none → exec (.transferComplete id errs remote) t = .next t) ∧
      (∀ x, t.transfers.find? (fun x => x.id == id) = some x →
        (t.xferWaits x = true → exec (.transferComplete id errs remote) t = .next t) ∧
        (t.xferWaits x = false → exec (.transferComplete id errs remote) t = .next (
          match t.runXfer x errs remote with
          | (t, .fin) => (t.endXfer x 0 false).schedule
          | (t, .stop code) => (t.endXfer x code false).schedule
          | (t, .miss o va w pr) =>
            if t.ctxTT x.hdr.ctx = true then
              (({ t with xlt := { t.xlt with cntStaticMiss := t.xlt.cntStaticMiss + 1 } } : State).endXfer x fltXltMiss false).schedule
            else ((t.notice x.hdr.ctx x.hdr { va := va, write := w, prot := pr, mover := true, unit := x.mover, job := x.id }).upXfer x.id
              fun y => { y with done := o, stalled := true }).schedule))))

/-- PATROL_READ of a PSM address, the patrol being on, counts and logs the errors in the burst read, in order, as the
patrol's, and so a burst that stands uncorrectable; otherwise nothing changes. PSM_LINK_CRC_FAIL counts the replay of
the channel; the 64th within 1 ms is a warning; the sixteenth in succession without success takes its stack out of
service, stops the commands whose reads were outstanding on the channel, and the device is FAULTED. The log's address
for it is free (the spec states none). (R172, R175, R176, R177, R178, R191, 07_memory_stacks_translation.md) -/
def Obligations.PsmReportsErrorsAndLinks : Prop :=
  ∀ (s : State) (addr : Nat) (errs : List MemErr) (chan : Fin 96) (ok : Bool) (reads : List (Nat × Nat × Nat)),
    let b := burstOf addr
    let hit := errs.filter fun x => burstIn b 64 x.addr
    let met := if s.psmc.uncorr.contains b = true ∧ hit.any (fun x => x.kind == .uncorr) = false then { addr := b, kind := .uncorr } :: hit else hit
    let near := (Tab.get [] s.psmc.replayAt chan.val).filter fun t => decide (s.hal.nowNs < t + 1000000)
    let n := if ok then 0 else Tab.get 0 s.psmc.replays chan + 1
    let a : State := { s with psmc := { s.psmc with
      cntReplay := bump s.psmc.cntReplay (chan % 6), replays := Tab.set s.psmc.replays chan n
      replayAt := Tab.set s.psmc.replayAt chan (s.hal.nowNs :: near) } }
    let w := if near.length = 63 then (a.fault fltLink 0 255 chan (wd chan)).event 257 else a
    let lost : State := { w.draw.2 with psmc := { w.draw.2.psmc with
      stackUp := setBit w.draw.2.psmc.stackUp (chan % 6) false, trainFail := true
      failChan := if w.draw.2.psmc.trainFail then w.draw.2.psmc.failChan else chan.val } }
    let stopped := fun (t : State) (r : Nat × Nat × Nat) => match t.queue r.1 r.2.1 with
      | j :: _ => if j.flight.contains r.2.2 = true then t.stopJob r.1 r.2.1 r.2.2 fltMemUncorr {} (.rows []) else t
      | [] => t
    exec (.patrolRead addr errs) s = .next (
      if s.psmc.hours = 0 ∨ psmSize ≤ addr then s
      else met.foldl (fun t x => t.eccOne 63 63 true x) { s with psmc := { s.psmc with patrol := decide (b + 64 < psmSize) } }) ∧
    exec (.psmLinkCrcFail chan ⟨ok, reads⟩) s = .next (
      if n = 16 then (reads.foldl stopped (lost.psmLog 3 (w.draw.1.toNat % psmSize) 63 63)).enterDev devFaulted else w)

/-- In an open context an expert CLEAT_ALLOC takes the words it names on its engine with the lowest free handle, if its
partition has the engine, the words exist and are free; a basic one stands on the engine of the context's latest
cleat, or on the best by affinity, and follows R154's rule there; where scrubs under way will make room it waits, and
CLEAT_ALLOC_RETRY applies the first that waits again. CLEAT_RELEASE needs the cleat to be the context's, and no plan
to name it; it is pending until no job names it and the scrub is done. A scrub finishes the first cleat that is not
held; the hold's end releases them. (R152, R153, R154, R155, R156, R157, R158, R159, R376,
06_scratchpads_cleats_commons.md) -/
def Obligations.CleatsAreAllocatedAndReleased : Prop :=
  ∀ (k : Nat) (p : Packet) (s : State) (e : Fin 8),
    let u := s.without k
    let c := p.hdr.ctx
    let size := p.f 4 19 0
    let eng := p.f 5 2 0
    let banks := BitVec.ofNat 16 (p.f 5 31 16)
    let n := rowsOf size (groupsOf banks).length
    let base := p.f 6 17 0
    let closed := ctxOpen.contains (s.ctxCode c) = false
    let basic : Nat → State := fun e =>
      match fitRegion ((s.engine e).occupied false) size, (s.engine e).freeEntry false with
      | some (b, r), some h => (u.takeCleat c e h size b r).final p.hdr stOk (cleatReply e h b r)
      | _, _ =>
        if (fitRegion ((s.engine e).occupied true) size).isSome = true ∧ ((s.engine e).freeEntry true).isSome = true ∧
            (s.engine e).scrubs.isEmpty = false then
          { s with taken := s.taken.set k { p with waiting := true, eng := e, scrubs := (s.engine e).scrubs } }
        else s.refusal k p stNospace 0 0
    let rh := p.f 4 6 0
    let re := p.f 4 10 8
    (Applies 0x210 k p s → p.hdr.expert = true → exec (.cleatAlloc k) s = .next (
      if closed then s.refusal k p stState (wd (s.ctxCode c)) 0
      else if u.waitsOn p eng = true then s
      else if (s.part (s.ctx c).part).mask.getLsbD eng = false then s.refusal k p stRange (det 5 0) 0
      else if spmWords < base + 256 * n then s.refusal k p stRange (det 6 0) 0
      else match (s.engine eng).freeEntry false with
        | none => s.refusal k p stNospace 0 0
        | some h =>
          if rowsFree ((s.engine eng).occupied false) banks (base / 256) n = true then
            (u.takeCleat c eng h size banks (base / 256)).final p.hdr stOk (cleatReply eng h banks (base / 256))
          else s.refusal k p stNospace 0 0)) ∧
    (Applies 0x210 k p s → p.hdr.expert = false → exec (.cleatAlloc k) s = .next (
      if closed then s.refusal k p stState (wd (s.ctxCode c)) 0
      else match (s.lastEngine c).orElse fun _ => s.firstPlace c with
        | none => s.refusal k p stNospace 0 0
        | some e => if u.waitsOn p e = true then s else basic e)) ∧
    (s.taken.findIdx? (fun q => q.waiting && q.eng == e.val) = none → exec (.cleatAllocRetry e) s = .next s) ∧
    (∀ i q, s.taken.findIdx? (fun q => q.waiting && q.eng == e.val) = some i → s.taken[i]? = some q →
      exec (.cleatAllocRetry e) s = .next (
        if q.scrubs.any (s.engine e).scrubs.contains = true then s
        else match ((s.without i).objection q).orElse fun _ => (s.without i).bar q with
        | some r => s.refusal i q r.1 r.2.1 r.2.2
        | none => match needState (s.ctxCode q.hdr.ctx) ctxOpen ((s.without i).basicCleat q.hdr.ctx e (q.f 4 19 0)) with
          | .wait _ l => { s with taken := s.taken.set i { q with scrubs := l } }
          | a => (s.without i).answer q a)) ∧
    (Applies 0x211 k p s → exec (.cleatRelease k) s = .next (
      if u.waitsOn p re = true then s
      else if s.owns c re rh = false then s.refusal k p stAuth 0 0
      else if closed then s.refusal k p stState (wd (s.ctxCode c)) 0
      else match s.planNamesCleat c re rh with
        | some st => s.refusal k p stState (wd st) 0
        | none =>
          let a := s.accepted k p (128 * re + rh) 0 0
          (a.setCleat re rh { a.cleat re rh with released := true }).settleCleats re)) ∧
    exec (.cleatScrubComplete e) s = .next (match (s.engine e).scrubQ.find? fun h => !((s.engine e).inScrub h).hold with
      | none => s
      | some h =>
        let z := s.scrubRegion e ((s.engine e).inScrub h)
        let z := if h < 128 then z.setCleat e h {} else z
        let z := z.upEngine e fun x => { x with scrubQ := x.scrubQ.filter (· ≠ h), vacated := Tab.erase x.vacated h }
        let z : State := { z with taken := z.taken.map fun q => if q.waiting = true ∧ q.eng = e.val then { q with scrubs := q.scrubs.filter (· ≠ h) } else q }
        (z.event (64 + 8 * e + 5)).closeOp 0x211 (128 * e + h) stOk {}) ∧
    exec (.residueHoldExpiry e) s = .next (if (s.engine e).resHold = true then
      (s.passTo ((s.engine e).resSince + 10000000000)).upEngine e fun x =>
        { x with resHold := false, cleats := x.cleats.map fun q => (q.1, { q.2 with hold := false })
                 vacated := x.vacated.map fun q => (q.1, { q.2 with hold := false }) } else s)

/-- COMMONS_SPLIT is refused with ST_BUSY while an explicit range in use lies above the new size, or another split is
being applied (the second is the model's choice, log 34); otherwise it is pending. Its completion zeroes what joins
the explicit part, sets the size, in expert form the partitions' quotas, and answers. PREFETCH_CFG in an open context
sets its profile. (R161, R163, R164, R165, 06_scratchpads_cleats_commons.md) -/
def Obligations.TheCommonsIsSplit : Prop :=
  ∀ (k : Nat) (p : Packet) (s : State),
    let x := p.f 4 6 0
    let a := s.accepted k p 0 0 0
    let old := s.commons.x
    let new := s.commons.newX
    let z := if old < new then s.scrub (commonsBase + old * 2 ^ 20) ((new - old) * 2 ^ 20) else s
    let t : State := { z with commons := { z.commons with x := new, changing := false } }
    let profile : Prefetch := { mode := p.f 4 5 4, distance := p.f 4 15 8, strides := if p.hdr.expert then p.params.drop 2 else [] }
    (Applies 0x230 k p s → exec (.commonsSplit k) s = .next (
      if s.commons.changing = true then s.refusal k p stBusy 0 0
      else if s.commons.used.any (fun u => decide (commonsBase + x * 2 ^ 20 < u.1 + u.2.1)) = true then s.refusal k p stBusy 0 0
      else { a with commons := { a.commons with changing := true, newX := x } })) ∧
    (s.commons.changing = false → exec .commonsSplitComplete s = .next s) ∧
    (s.commons.changing = true → exec .commonsSplitComplete s = .next (match t.openOf 0x230 0 with
      | none => t
      | some o =>
        (if o.hdr.expert = true then
          [0, 1, 2, 3].foldl (fun s i => s.upPart i fun q => { q with quota := fld (wat o.params (1 + i)) 6 0 }) t else t).close o stOk {})) ∧
    (Applies 0x231 k p s → exec (.prefetchCfg k) s = .next (
      if ctxOpen.contains (s.ctxCode p.hdr.ctx) = false then s.refusal k p stState (wd (s.ctxCode p.hdr.ctx)) 0
      else ((s.without k).upCtx p.hdr.ctx fun y => { y with profiles := Tab.set y.profiles (p.f 4 3 0) profile }).final p.hdr stOk {}))

/-- XLT_FAULT_REPLY needs the context FAULTED and the fault outstanding; the check of an entry (ST_AUTH) comes before that
of the state. ABORT stops what faulted; INSTALL puts in an entry that is right, or is refused with ST_AUTH; a map or
an allocation is refused for a protection fault, and gives the page a host page or a zeroed page of PSM; then what
waited goes on. (R187, R188, R189, 07_memory_stacks_translation.md) -/
def Obligations.TranslationFaultsAreAnswered : Prop :=
  ∀ (k : Nat) (p : Packet) (s : State),
    let u := s.without k
    let c := p.hdr.ctx
    let act := p.f 4 9 8
    let fits := fun (f : XltFault) => f.id == p.f 4 7 0
    let page := fun (f : XltFault) (pa : Nat) (host : Bool) =>
      ({ va := f.page, len := 4096, host := host, runs := [{ va := f.page, pa := pa, len := 4096 }] } : Mapping)
    (Applies 0x220 k p s → s.ctxCode c ≠ 0x22 → exec (.xltFaultReply k) s = .next (
      if act = 3 ∧ ((s.ctx c).faults.find? fits).isSome = true ∧ s.entryOk c (p.w 5) (p.w 6) = false then s.refusal k p stAuth 0 0
      else s.refusal k p stState (wd (s.ctxCode c)) 0)) ∧
    (Applies 0x220 k p s → s.ctxCode c = 0x22 → (s.ctx c).faults.find? fits = none →
      exec (.xltFaultReply k) s = .next (s.refusal k p stRange (det 4 0) 0)) ∧
    (∀ f, Applies 0x220 k p s → s.ctxCode c = 0x22 → (s.ctx c).faults.find? fits = some f → exec (.xltFaultReply k) s = .next (
      if act = 2 then (u.abortFault c f).final p.hdr stOk {}
      else if act = 3 then
        let r := entryRun f.va (p.w 5) (p.w 6)
        if s.entryOk c (p.w 5) (p.w 6) = false then s.refusal k p stAuth 0 0
        else ((((u.forget c r.va (r.va + r.len)).upCtx c fun x => { x with installs := r :: x.installs }).answered c f).schedule).final p.hdr stOk {}
      else if f.prot = true then s.refusal k p stState (wd 0x22) 0
      else if act = 1 then (((u.addMap c (page f (hostBase + p.a 5) true)).answered c f).schedule).final p.hdr stOk {}
      else match u.takePsm false 63 1 1 (c + 1) with
        | some ((g, _) :: _, t) =>
          ((((t.scrub (4096 * g) 4096).addMap c (page f (4096 * g) false)).answered c f).schedule).final p.hdr stOk {}
        | _ => s.refusal k p stNospace 0 0))

/-- With XLT_CFG.fault_timeout zero, or no such fault, XLT_FAULT_TIMEOUT changes nothing. Otherwise, at the instant
fault_timeout ms after the fault arose (or now, where that is past), XLT_CNT_TIMEOUT grows by one and the fault is
answered as ABORT answers it; the count depends on nothing else. (R190) -/
def Obligations.UnansweredFaultsTimeOut : Prop :=
  ∀ (s : State) (c : Fin 64) (id : Nat),
    let f? := (s.ctx c).faults.find? fun f => f.id == id
    (s.xlt.timeout = 0 ∨ f? = none → exec (.xltFaultTimeout c id) s = .next s) ∧
    (∀ f, s.xlt.timeout ≠ 0 → f? = some f → ∃ t : State,
      t.xlt.cntTimeout = s.xlt.cntTimeout + 1 ∧ t.ctxs = (s.passTo (f.since + s.xlt.timeout * 1000000)).ctxs ∧
      exec (.xltFaultTimeout c id) s = .next (t.abortFault c f))

/-- JOB_SUBMIT waits behind a CLEAT_ALLOC of its context; then it is refused where its context's state, its armature, the
list's address, a command of the list, a masked fence (R312) or a queue of 32 jobs refuses it, with the status and
details of that check (a cleat of another client before the state, R43); otherwise it is pending, the armature's slots
are bound and the checked copy of the list joins the context's queue on its engine. JOB_CANCEL of an unfinished job
marks it, and it ends as its commands come to rest. (R69, R73, R94, R97, R98, R101, 03_engines_command_lists.md,
04_number_formats_arithmetic.md) -/
def Obligations.JobsAreSubmittedAndCancelled : Prop :=
  ∀ (k : Nat) (p : Packet) (s : State),
    let u := s.without k
    let c := p.hdr.ctx
    let routes := fun es => armRoutes (s.ctx c).routes es
    let scales := fun es => armScales (s.ctx c).scales es
    let armature : Except Refuse (List (List Word)) :=
      if p.hdr.expert then u.armature c ((p.w 8).toNat + 2 ^ 32 * p.f 9 15 0) else .ok []
    let list := u.readList c ((p.w 4).toNat + 2 ^ 32 * p.f 5 15 0) (p.f 6 19 0)
    let env : List (List Word) → ListFor := fun es => { ctx := c, allRoutes := !p.hdr.expert, routes := routes es, scales := scales es }
    let a := s.accepted k p p.hdr.no 0 0
    let first : Option Refuse := match armature with
      | .error r => some r
      | .ok es => match list with
        | none => none
        | some cmds => match u.checkList (env es) cmds with
          | .error r => some r
          | .ok _ => none
    let open' := [0x20, 0x21, 0x22].contains (s.ctxCode c)
    (Applies 0x300 k p s → u.waitsFor p c = true → exec (.jobSubmit k) s = .next s) ∧
    (Applies 0x300 k p s → u.waitsFor p c = false → open' = false →
      exec (.jobSubmit k) s = .next (match first with
        | some r => if r.1 = stAuth then s.refusal k p r.1 r.2.1 r.2.2 else s.refusal k p stState (wd (s.ctxCode c)) 0
        | none => s.refusal k p stState (wd (s.ctxCode c)) 0)) ∧
    (∀ r, Applies 0x300 k p s → u.waitsFor p c = false → open' = true → armature = .error r →
      exec (.jobSubmit k) s = .next (s.refusal k p r.1 r.2.1 r.2.2)) ∧
    (∀ es, Applies 0x300 k p s → u.waitsFor p c = false → open' = true → armature = .ok es →
      (list = none → exec (.jobSubmit k) s = .next (s.refusal k p stRange (det 4 0) 0)) ∧
      (∀ cmds r, list = some cmds → u.checkList (env es) cmds = .error r →
        exec (.jobSubmit k) s = .next (s.refusal k p r.1 r.2.1 r.2.2)) ∧
      (∀ cmds e, list = some cmds → u.checkList (env es) cmds = .ok e →
        exec (.jobSubmit k) s = .next (match s.maskedFence c (listFences cmds) with
          | some st => s.refusal k p stState (wd st) 0
          | none =>
            if 32 ≤ (s.jobsOf c e).length then s.refusal k p stNospace 0 0
            else
              let b := a.upCtx c fun x => { x with routes := routes es, scales := scales es }
              let j : Job := { hdr := p.hdr, ctx := c, tag := p.w 7, cmds := cmds, taken := b.now, route := b.jobRoutes c (!p.hdr.expert) }
              ((b.setJobs c e (b.jobsOf c e ++ [j])).storeCmds cmds.length).schedule))) ∧
    (Applies 0x301 k p s → exec (.jobCancel k) s = .next (
      if [0x20, 0x21, 0x22, 0x23].contains (s.ctxCode c) = false then s.refusal k p stState (wd (s.ctxCode c)) 0
      else match s.taggedJob c (p.w 4) with
        | none => s.refusal k p stRange (det 4 0) 0
        | some (e, j) =>
          let mark := fun (i : Job) => if i.hdr.no = j.hdr.no ∧ i.listNo = j.listNo then { i with cancel := true } else i
          ((((u.setJobs c e ((s.jobsOf c e).map mark)).sweep c e).afterJobs c e).final p.hdr stOk {})))

/-- In every context state but SCRUBBING, and unless an active plan owns the fence (R312), a FENCE_SIGNAL changes the
counter and what it satisfies goes on; a FENCE_WAIT is pending and is answered as soon as the counter is at least the
target, at once where it is already. (R91, R92, R97, R312, 03_engines_command_lists.md,
12_time_triggered_execution.md) -/
def Obligations.FencesAreSignalledAndAwaited : Prop :=
  ∀ (k : Nat) (p : Packet) (s : State),
    let u := s.without k
    let c := p.hdr.ctx
    let f := p.f 4 3 0
    let closed := [0x20, 0x21, 0x22, 0x23].contains (s.ctxCode c) = false
    (Applies 0x310 k p s → exec (.fenceSignal k) s = .next (
      if closed then s.refusal k p stState (wd (s.ctxCode c)) 0
      else match s.maskedFence c [f] with
        | some st => s.refusal k p stState (wd st) 0
        | none => (((u.signal c f (p.f 4 8 8 == 1) (p.w 5)).1.wake 200 c).schedule).final p.hdr stOk {})) ∧
    (Applies 0x311 k p s → exec (.fenceWait k) s = .next (
      if closed then s.refusal k p stState (wd (s.ctxCode c)) 0
      else match s.maskedFence c [f] with
        | some st => s.refusal k p stState (wd st) 0
        | none => (s.accepted k p f f (p.w 5).toNat).wakePackets c))

/-- For each of the fourteen commands, the row of command i has no effect unless that command stands in the running job of
its queue, has the row's opcode and issues or restarts now. Where its operands meet an uncorrectable error its job
stops with FLT_MEM_UNCORR, the place in the record, and no other effect of the command is made. (R69, R72, R74, R89,
R90, R93, R150, R175, 03_engines_command_lists.md) -/
def Obligations.CommandsIssueInTheirTurn : Prop :=
  ∀ (s : State) (e : Fin 8) (q : Fin 5) (i : Nat) (env : Env),
    let rows : List (Nat × Instr) := [(opLoad, .load e q i env), (opStore, .store e q i env), (opFill, .fill e q i env), (opMat, .matmul e q i env),
      (opConv, .conv e q i env), (opAttn, .attention e q i env), (opKv, .kvAppend e q i env), (opVec, .vector e q i env),
      (opXf, .transform e q i env), (opChis, .chisel e q i env)]
    let sync : List (Nat × Instr) := [(opNop, .cmdNop e q i), (opFSig, .cmdFenceSignal e q i), (opFWait, .cmdFenceWait e q i), (opLWait, .launchWait e q i)]
    (∀ r ∈ rows ++ sync, ¬ Issues r.1 e q i s → exec r.2 s = .next s) ∧
    (∀ r ∈ rows, ∀ t n, Issues r.1 e q i s → s.begun e q i env = (t, some n) →
      exec r.2 s = .next (t.stopJob e q i fltMemUncorr (t.wreck n) (.rows [])))

/-- When it issues, NOP only goes in flight; FENCE_SIGNAL changes its context's counter and wakes; FENCE_WAIT completes as
soon as its counter reaches the target; LAUNCH_WAIT completes at its instant, at once and counted where that has
passed. LAUNCH_WAIT_EXPIRY, while launches are made (R287), lets time pass to the instant and completes it.
COMMAND_COMPLETE completes a command in flight, but not a wait, a stalled command, one whose remote reads are out, nor
one of a halted queue. (R77, R78, R91, R92, R94, R99, 03_engines_command_lists.md) -/
def Obligations.SynchronisationCommandsRun : Prop :=
  ∀ (s t : State) (e : Fin 8) (q : Fin 5) (i : Nat) (x : Cx),
    let settled := fun (t : State) => (t.upJob x.e x.q fun j => { j with prog := Tab.erase j.prog x.i }).schedule
    let sig := t.signal x.c (cf x.cmd 1 3 0) (cb x.cmd 0 16) (cw x.cmd 2)
    let at' := launchInstant x.cmd x.job
    let late := (t.upEngine x.e fun y => { y with cntLwLate := y.cntLwLate + 1 }).upJob x.e x.q fun j =>
      { j with stats := { j.stats with lwLate := j.stats.lwLate + 1 } }
    let cmd := s.cmdAt e q i
    let j := s.head e q
    let halted := q.val < 4 ∧ ((s.engine e).slice = 2 ∨ ((s.engine e).slot q).saving = true)
    (Runs opNop e q i {} x t s → exec (.cmdNop e q i) s = .next (settled t)) ∧
    (Runs opFSig e q i {} x t s → exec (.cmdFenceSignal e q i) s = .next (settled ((if sig.2 then
      sig.1.upJob x.e x.q fun j => { j with stats := { j.stats with fenceSat := j.stats.fenceSat + 1 } } else sig.1).wake 200 x.c))) ∧
    (Runs opFWait e q i {} x t s → exec (.cmdFenceWait e q i) s = .next (settled (t.wake 200 x.c))) ∧
    (Runs opLWait e q i {} x t s → exec (.launchWait e q i) s = .next (settled (
      if at' < t.now then late.complete x.e x.q x.i else if at' = t.now then t.complete x.e x.q x.i else t))) ∧
    (cOp cmd = opLWait → j.flight.contains i = true → s.qOpen e q = true → s.launches = true → s.queue e q ≠ [] →
      exec (.launchWaitExpiry e q i) s = .next (
        let u := s.passTo (launchInstant cmd j)
        if launchInstant cmd j ≤ u.now then u.complete e q i else u)) ∧
    (cOp cmd ≠ opLWait ∨ j.flight.contains i = false ∨ s.qOpen e q = false ∨ s.launches = false → exec (.launchWaitExpiry e q i) s = .next s) ∧
    (s.queue e q ≠ [] → ¬ halted → j.flight.contains i = true → j.stalled i = false → cOp cmd ≠ opFWait → cOp cmd ≠ opLWait →
      (s.engine e).remotes.any (fun r => r.ctx == j.ctx && r.idx == i) = false →
      exec (.commandComplete e q i) s = .next (s.complete e q i)) ∧
    (halted ∨ j.flight.contains i = false ∨ j.stalled i = true ∨ cOp cmd = opFWait ∨ cOp cmd = opLWait ∨
      (s.engine e).remotes.any (fun r => r.ctx == j.ctx && r.idx == i) = true → exec (.commandComplete e q i) s = .next s)

/-- LOAD and STORE move their pieces in order, none across a 4 KiB page, those before the point of a restart left out. A
piece of the peer's window asks for its bytes under a free tag, or posts them; a translated piece is read through the
error check and lands in the cleat, or is read from the cleat and stored; an uncorrectable error stops the job, a
translation fault holds the command where it is. FILL repeats the 32-bit pattern of word 3 over the words of word 2
from its TOW. (R79, R80, R81, R175, R187, R189, R398, 03_engines_command_lists.md) -/
def Obligations.MoveCommandsMoveRows : Prop :=
  ∀ (s t : State) (e : Fin 8) (q : Fin 5) (i : Nat) (env : Env) (x : Cx),
    let settled := fun (t : State) => (t.upJob x.e x.q fun j => { j with prog := Tab.erase j.prog x.i }).schedule
    let c := x.cmd
    (Runs opFill e q i env x t s → exec (.fill e q i env) s = .next (settled (
      t.clWr x.e (tH c 1) (64 * tO c 1) ((List.range (64 * cf c 2 17 0)).map fun b => (wordBytes (cw c 3)).getD ((0 + b) % 4) 0)))) ∧
    let looked := fun (w : Bool) => t.walks (mEngine x.e) x.c x.env.errs w (t.movePages x)
    (Runs opLoad e q i env x t s → exec (.load e q i env) s = .next (State.settle x (loadRun x (movePieces c) (
      if x.job.stalled x.i = true then looked false
      else (looked false).demands x.c (cf c 3 18 16) ((moveRows c).map fun va => (va, cf c 4 20 0)))))) ∧
    (Runs opStore e q i env x t s → exec (.store e q i env) s = .next (State.settle x (storeRun x (movePieces c) (looked true)))) ∧
    (∀ r, State.settle x (.ok r) = settled r) ∧
    (loadRun x [] t = .ok t ∧ storeRun x [] t = .ok t) ∧
    (∀ p l, p.at' < x.from' → loadRun x (p :: l) t = loadRun x l t ∧ storeRun x (p :: l) t = storeRun x l t) ∧
    (∀ p l peer, ¬ p.at' < x.from' → t.remoteFor x.c p.va = some peer →
      storeRun x (p :: l) t = storeRun x l (t.out 5 peer (natBytes 8 (p.va - 2 ^ 46) ++ t.clRd x.e (tH c 1) p.off p.n)) ∧
      ((t.engine x.e).freeTag = none → loadRun x (p :: l) t = .part t p.at') ∧
      (∀ tag, (t.engine x.e).freeTag = some tag → loadRun x (p :: l) t = loadRun x l (((t.upEngine x.e fun y =>
        { y with remotes := y.remotes ++ [{ tag := tag, ctx := x.c, h := tH c 1, off := p.off, len := p.n, idx := x.i }] }).out 5 peer
          (natBytes 8 (p.va - 2 ^ 46) ++ natBytes 4 p.n ++ natBytes 1 tag)).loadTail x p))) ∧
    (∀ p l a, ¬ p.at' < x.from' → t.remoteFor x.c p.va = none →
      (t.xlate (some (mEngine x.e)) x.c p.va p.n false = .pa a → ∀ u,
        (t.eccRead (mEngine x.e) x.c x.env.errs a p.n = (u, none) →
          loadRun x (p :: l) t = loadRun x l ((u.clWr x.e (tH c 1) p.off (u.rd a p.n)).loadTail x p)) ∧
        (∀ n, t.eccRead (mEngine x.e) x.c x.env.errs a p.n = (u, some n) → loadRun x (p :: l) t = .stop u fltMemUncorr (u.wreck n) (.rows []))) ∧
      (t.xlate (some (mEngine x.e)) x.c p.va p.n true = .pa a → storeRun x (p :: l) t = match t.eccPartial a p.n with
        | some n => .stop t fltMemUncorr (t.wreck n) (.rows [])
        | none => storeRun x l (t.put a (t.clRd x.e (tH c 1) p.off p.n))))

/-- A plain MATMUL (no scales of A, streams, seed or chain; output to C) writes rows of the exact sums of its products,
rounded once, its hold set empty; a scale of A that R103 does not allow stops it with FLT_OPERAND. CONV pools,
resizes, takes the frequency path or sums directly by its kind. ATTENTION and KV_APPEND without a running step are
stale; KV_APPEND without COPY arms its queue. VECTOR converts, applies its function, quantises, gathers or ranks row
by row. TRANSFORM transforms a batch or sums products over channels. CHISEL decodes boxes, and keeps by greedy
suppression. (R82, R83, R85, R86, R87, R88, R95, R112, R114, R117, R214, R234) -/
def Obligations.TensorCommandsCompute : Prop :=
  ∀ (s t : State) (e : Fin 8) (q : Fin 5) (i : Nat) (env : Env) (x : Cx),
    let settled := fun (t : State) => (t.upJob x.e x.q fun j => { j with prog := Tab.erase j.prog x.i }).schedule
    let c := x.cmd
    let m := cf c 4 15 0
    let n := cf c 4 31 16
    let k := cf c 5 19 0
    let scales := t.scalesAt x 9 m
    let badScales := (List.range scales.length).filter fun i => !scaleOk (scales.getD i 0)
    let acts := fun i => (codesOf (tF c 1) k (t.clRd x.e (tH c 1) (64 * (tO c 1 + i * cf c 6 17 0)) (rowBytes (tF c 1) k))).map (facOf (tF c 1))
    let terms := (List.range n).map fun j => termsOf (tF c 2) (((List.range n).map (t.matCol x)).getD j ([], [])).1
      (((List.range n).map (t.matCol x)).getD j ([], [])).2 ([].getD j [])
    let sums := (List.range m).map fun i => let a := acts i; (List.range n).map fun j => dotRec (a[·]?) (terms.getD j []) ((([] : List HoldRec).getD (i * n + j) {}).plus (([] : List HoldRec).getD (i * n + j) {}))
    let bias := if cb c 0 17 then t.wordsAt x 10 n else []
    let codes := fun i => ((List.range n).map fun j => matValue c [] [] bias i j ((sums.getD i []).getD j {})).map (finish (cf c 5 23 20) (cf c 5 31 28) (tF c 3))
    let img := t.convIn x
    let rows := List.range (vRows c)
    let kind := cf c 0 17 16
    let nx := cf c 4 12 0
    let ny := cf c 4 28 16
    let chans := cf c 5 15 0
    let boxes : List Box := List.zipWith (decodeBox (cb c 0 19) (cf c 9 14 0) (cf c 9 30 16)) (chunks 4 k (t.wordsAt x 2 (4 * k))) (chunks 4 k (t.wordsAt x 3 (4 * k)))
    (Runs opMat e q i env x t s → fmtScaled (tF c 1) = false → cb c 5 27 = false → cb c 0 19 = false → cf c 0 21 20 = 0 → tF c 2 ≠ 3 →
      tF c 3 ≠ 15 → cf c 14 1 0 = 0 → sums.any (fun l => l.any fun r => decide (maxTerms < r.terms)) = false →
      (List.range sums.length).filter (fun i => x.env.residue.contains i) = [] →
      exec (.matmul e q i env) s = .next (settled ((List.range sums.length).foldl (fun u i =>
        let v := u.clWr x.e (tH c 3) (64 * (tO c 3 + i * cf c 8 17 0)) (packCodes (tF c 3) (codes i))
        if cb c 0 18 then v.clWr x.e (tH c 11) (64 * tO c 11 + 4 * i) (wordBytes (rowAbsMax (tF c 3) (codes i))) else v)
        (t.upQs x.e x.q fun k => { k with hold := {} })))) ∧
    (Runs opMat e q i env x t s → fmtScaled (tF c 1) = true → badScales ≠ [] →
      exec (.matmul e q i env) s = .next (t.stopJob x.e x.q x.i fltOperand {} (keepRows c badScales))) ∧
    (Runs opConv e q i env x t s → exec (.conv e q i env) s = .next (State.settle x (
      if img.badRows ≠ [] then .fault t fltOperand (keepConv c img.badRows)
      else if 2 ≤ img.g.kind then t.convPool x img
      else if takesFreq c = true then t.convFreq x img
      else if cb c 9 9 = true then match t.spuPair x (cf c 9 8 6) img.g.co (tF c 2) with
        | .error r => r
        | .ok (p, u) => u.convDirect x img p.scales p.sides
      else t.convDirect x img [] []))) ∧
    (Runs opAttn e q i env x t s → t.stepOf x.job = none → exec (.attention e q i env) s = .next (State.settle x (.stale t))) ∧
    (∀ st, Runs opAttn e q i env x t s → t.stepOf x.job = some st → (st.entries.any fun n => n.bucket == cf c 5 26 24) = false →
      exec (.attention e q i env) s = .next (settled t)) ∧
    (Runs opAttn e q i env x t s → exec (.attention e q i env) s = .next (State.settle x (attnBody x t))) ∧
    (Runs opKv e q i env x t s → cb c 0 16 = true → exec (.kvAppend e q i env) s = .next (State.settle x (
      t.append x c { layer := cf c 3 7 0, which := cf c 0 19 18, mode := 0 } (t.copyValues x)))) ∧
    (Runs opKv e q i env x t s → cb c 0 16 = false → exec (.kvAppend e q i env) s = .next (
      if t.stepOf x.job = none then State.settle x (.stale t)
      else settled (t.upQs x.e x.q fun k => { k with armed := some c, servedK := false, servedV := false }))) ∧
    (Runs opVec e q i env x t s → exec (.vector e q i env) s = .next (
      if vFn c = 0x30 then State.settle x (quantBody x t)
      else if vFn c = 0x31 then State.settle x (dequantBody x t)
      else if vFn c = 0x38 then State.settle x (gatherBody x t)
      else if vFn c = 0x3A then settled (rows.foldl (t.topRow x) t)
      else if vFn c = 0 then settled (rows.foldl (fun u r =>
        u.vecPut x r ((t.vecA x r).map fun k => encEl (tF c 3) (vMode c) (decEl (tF c 1) k))) t)
      else settled (
        let u := rows.foldl (fun u r => u.vecPut x r ((t.vecVals x r).map fun w => encEl (tF c 3) (vMode c) (fv w))) t
        if t.splitSums x = true then { u with free := u.free + 2 * vRows c } else u))) ∧
    (Runs opXf e q i env x t s → kind ≠ 2 → exec (.transform e q i env) s = .next (settled ((List.range chans).foldl (fun u i =>
      u.clWr x.e (tH c 3) (64 * (tO c 3 + i * cf c 7 17 0))
        (slice (bytesOf (fft2 (kind == 1) nx ny (t.xfAt x 1 (cf c 6 17 0) i))) 0 (8 * nx * ny))) t))) ∧
    (Runs opXf e q i env x t s → kind = 2 → exec (.transform e q i env) s = .next (settled ((List.range (cf c 5 31 16)).foldl (fun u co =>
      u.clWr x.e (tH c 3) (64 * (tO c 3 + co * cf c 7 17 0)) (bytesOf ((List.range (nx * ny)).flatMap fun i =>
        let v := (List.range chans).foldl (fun (y : Word × Word) ci =>
          let z := cMul (cAt (((List.range chans).map (t.xfAt x 1 (cf c 6 17 0))).getD ci []) i) (cAt (((List.range chans).map (t.xfFilter x co)).getD ci []) i)
          (fAdd 0 y.1 z.1, fAdd 0 y.2 z.2)) (0, 0)
        [v.1, v.2]))) t))) ∧
    (Runs opChis e q i env x t s → kind = 0 → exec (.chisel e q i env) s = .next (settled (
      t.clWr x.e (tH c 4) (64 * tO c 4) (bytesOf (boxes.flatMap fun b => [b.1, b.2.1, b.2.2.1, b.2.2.2]))))) ∧
    (Runs opChis e q i env x t s → exec (.chisel e q i env) s = .next (State.settle x (chiselBody x t)))

/-- In an open context SEQ_OPEN opens the lowest free number, sharing the prefix of an OPEN sequence of its own and of the
same geometry in expert form; SEQ_FORK shares all of one. SEQ_CLOSE of an OPEN or SWAPPED sequence gives its pages up
and is answered when the last is scrubbed. KV_BUCKETS_SET sets the context's bounds. SEQ_PREEMPT needs room in a host
mapping and an epoch to spend, and starts the swap-out, or holds it while a step runs; SEQ_RESTORE needs a SWAPPED
sequence and frames for its pages. Each swap runs to its end, to a fault of its image, after which it goes on, or to a
bad page, which closes the sequence; one without movers takes free ones. In a context that is not open a sequence of
another context is refused with ST_AUTH, anything else with ST_STATE (R43). (R219, R221, R222, R223, R232, R244, R245,
R246, 09_attention_kv_cache.md) -/
def Obligations.SequencesOpenCloseAndSwap : Prop :=
  ∀ (k : Nat) (p : Packet) (s : State),
    let u := s.without k
    let c := p.hdr.ctx
    let closed := ctxOpen.contains (s.ctxCode c) = false
    let shut := s.refusal k p stState (wd (s.ctxCode c)) 0
    let geo : Seq := { layers := p.f 4 7 0, kvh := p.f 4 15 8, hdim := p.f 4 24 16, fmt := p.f 4 28 25
                       pin := if p.hdr.expert ∧ p.f 5 3 3 = 1 then some (p.f 5 2 0) else none }
    let src := s.seq (p.f 6 11 0)
    let n := p.f 4 11 0
    let q := s.seq n
    let owned : State → State := fun t =>
      if ¬ q.present = true then s.refusal k p stRange (det 4 0) 0 else if q.ctx ≠ c then s.refusal k p stAuth 0 0 else t
    let len := (s.swapPages q).length * q.page
    let image := if p.hdr.expert then some (p.a 5) else s.imagePlace c len
    let a := s.accepted k p n 0 0
    let shutFor : Seq → State := fun q => if q.present = true ∧ q.ctx ≠ c then s.refusal k p stAuth 0 0 else shut
    let swap : Nat → Nat → Nat → (State → Nat → State × Swap) → (State → Nat → State) → State → State := fun n st op run fin t =>
      if ¬ (t.seq n).present = true ∨ (t.seq n).state ≠ st ∨ t.swapHeld n = true then t
      else if (t.seq n).movers.isEmpty = true then t.setSeq n { t.seq n with movers := t.swapMovers }
      else match run t n with
        | (v, .miss va pr) => v.swapFault op n (.miss va pr)
        | (v, .bad code) => v.swapBad n code ((t.seq n).movers.headD 0)
        | (v, .fin) => fin v n
    (Applies 0x400 k p s → exec (.seqOpen k) s = .next (
      if closed then (if p.hdr.expert = true ∧ p.f 7 17 0 ≠ 0 then shutFor src else shut)
      else if p.hdr.expert = true ∧ p.f 7 17 0 ≠ 0 then
        if ¬ src.present = true then s.refusal k p stRange (det 6 0) 0
        else if src.ctx ≠ c then s.refusal k p stAuth 0 0
        else if src.state ≠ 0x30 then s.refusal k p stState (wd src.state) 0
        else if src.len < p.f 7 17 0 then s.refusal k p stRange (det 7 0) 0
        else if src.layers ≠ geo.layers ∨ src.kvh ≠ geo.kvh ∨ src.hdim ≠ geo.hdim ∨ src.fmt ≠ geo.fmt then s.refusal k p stFormat (det 4 0) 0
        else s.after k p (u.openSeq geo c (some (p.f 6 11 0, p.f 7 17 0)))
      else s.after k p (u.openSeq geo c none))) ∧
    (Applies 0x405 k p s → exec (.seqFork k) s = .next (
      if closed then shutFor q
      else owned (if q.state ≠ 0x30 then s.refusal k p stState (wd q.state) 0
        else s.after k p (u.openSeq { q with pin := none } c (some (n, q.len)))))) ∧
    (Applies 0x401 k p s → exec (.seqClose k) s = .next (
      if closed then shutFor q
      else owned (if [0x30, 0x33].contains q.state = false then s.refusal k p stState (wd q.state) 0
        else if ((a.closeSeq n).seq n).pages.isEmpty = true then (a.closeSeq n).seqClosed n else a.closeSeq n))) ∧
    (Applies 0x410 k p s → exec (.kvBucketsSet k) s = .next (
      if closed then shut
      else (u.upCtx c fun x => { x with buckets := (List.range (p.f 4 3 0 - 1)).map fun i => p.f (5 + i) 17 0 }).final p.hdr stOk {})) ∧
    (Applies 0x403 k p s → exec (.seqPreempt k) s = .next (
      if closed then shutFor q
      else owned (if q.state = 0x31 ∧ q.preempt = true then s.refusal k p stState (wd q.state) 0
        else if [0x30, 0x31].contains q.state = false then s.refusal k p stState (wd q.state) 0
        else match image with
          | none => s.refusal k p stNospace 0 0
          | some va =>
            if s.ctxTT c = true ∨ ¬ s.inHostMap c va len = true then s.refusal k p stNospace 0 0
            else if 0xFFFFFFFE < q.epoch + (if q.state = 0x31 then 3 else 2) then s.refusal k p stRange (det 4 0) 0
            else
              let b := a.setSeq n { a.seq n with image := va, imagePages := (a.swapPages q).length, preempt := true }
              if q.state = 0x30 then b.startSwapOut n else b))) ∧
    (Applies 0x404 k p s → exec (.seqRestore k) s = .next (
      if closed then shutFor q
      else owned (if q.state ≠ 0x33 then s.refusal k p stState (wd q.state) 0
        else match u.takeFrames q.page (1000 + n) (s.swappedPages q).length with
          | none => s.refusal k p stNospace 0 0
          | some _ =>
            let b := (a.takeFrames q.page (1000 + n) (a.swappedPages q).length).getD a
            b.setSeq n { q with state := 0x34, movers := b.swapMovers }))) ∧
    (∀ (m : Nat) (errs : List MemErr) (t : State),
      exec (.swapOutComplete ⟨m, errs⟩) t = .next (swap m 0x32 0x403 (fun t m => t.swapOutRun m errs ((t.seq m).ordered.drop (t.seq m).swapIdx)) (fun v m =>
        ((v.setSeq m { v.seq m with state := 0x33, epoch := (v.seq m).epoch + 1, movers := [], imagePages := (v.seq m).swapSlot }).closeOp 0x403 m stOk
          { lo := wd (v.seq m).swapSlot, hi := wd ((v.seq m).swapSlot * ((v.seq m).page / 4096)) }).settleFrees (v.seq m).ctx) t).schedule ∧
      exec (.swapInComplete m) t = .next (swap m 0x34 0x404 (fun t m => t.swapInRun m (t.swappedPages (t.seq m))) (fun v m =>
        ((v.setSeq m { v.seq m with state := 0x30, epoch := (v.seq m).epoch + 1, movers := [], image := 0, imagePages := 0 }).closeOp 0x404 m stOk {}).settleFrees
          (v.seq m).ctx) t).schedule) ∧
    (∀ (i : Nat) (t : State),
      ((t.dir i).state ≠ 4 → exec (.kvPageScrubComplete i) t = .next t) ∧
      ((t.dir i).state = 4 → exec (.kvPageScrubComplete i) t = .next (
        let b := (t.freeFrame i).setDir i (freeEntry (t.dir i) (t.dir i).epoch)
        (b.kvSeqs.filter fun q => !q.2.present && q.2.pages.any fun g => g.entry == i).foldl (fun (v : State) (q : Nat × Seq) =>
          let l := q.2.pages.filter fun g => g.entry ≠ i
          let w := v.setSeq q.1 { q.2 with pages := l, closing := l.length }
          if l.isEmpty = true then w.seqClosed q.1 else w) b)))

/-- SEQ_STEP waits behind a CLEAT_ALLOC of its context; otherwise, in an open context, its checks refuse it (in another
the state does, after check 10), or it is pending and the step begins: its sequences go STEPPING with their pages, the
step cleats are written and each list joins its queue. STEP_END acts once every list is done: a failed step commits
nothing and is answered with its fault; a bonus token of 0xFFFFFFFF stops it with FLT_OPERAND; otherwise each entry is
committed in order and the tokens are counted. (R228, R229, R230, R231, R233, R240, R241, R242, R243,
09_attention_kv_cache.md) -/
def Obligations.StepsBeginAndEnd : Prop :=
  ∀ (k : Nat) (p : Packet) (s : State) (n : Nat) (t : State),
    let u := s.without k
    let code := s.ctxCode p.hdr.ctx
    let x := t.step n
    let vs := t.verdicts x
    let ends := x.entries.filter fun e => x.kind != 1 || e.last
    let spoilt := ends.any fun e => (x.verdict vs e).bonus == 0xFFFFFFFF
    let committed := x.entries.foldl (fun t e => t.commitEntry x vs e) t
    (Applies 0x402 k p s → exec (.seqStep k) s = .next (
      if u.waitsFor p p.hdr.ctx = true then s
      else if ctxOpen.contains code = false then
        match u.stepCheck p with
        | .error r => if r.1 = stAuth then s.refusal k p r.1 r.2.1 r.2.2 else s.refusal k p stState (wd code) 0
        | .ok _ => s.refusal k p stState (wd code) 0
      else match u.stepCheck p with
        | .error r => s.refusal k p r.1 r.2.1 r.2.2
        | .ok (tab, ls) => ((s.accepted k p p.hdr.no 0 0).stepBegin p tab ls).schedule)) ∧
    (x.present = false ∨ x.left ≠ [] → exec (.stepEnd n) t = .next t) ∧
    (x.present = true → x.left = [] → x.failed = true → exec (.stepEnd n) t = .next
      (((t.rewindStep n).closeOp 0x402 n stFault { d1 := x.detail, fault := x.fault, canc := x.cancelled }).schedule)) ∧
    (x.present = true → x.left = [] → x.failed = false → spoilt = true → exec (.stepEnd n) t = .next
      ((((t.fault fltOperand 1 x.ctx (x.engines.getD x.winner (0, 0)).1 0).rewindStep n).closeOp 0x402 n stFault { fault := fltOperand }).schedule)) ∧
    (x.present = true → x.left = [] → x.failed = false → spoilt = false → exec (.stepEnd n) t = .next
      ((({ committed with steps := Tab.erase committed.steps n } : State).closeOp 0x402 n stOk
        { lo := wd (sumN (x.entries.map (x.posted vs))), hi := wd x.entries.length }).schedule))

/-- STREAM_OPEN checks owner, descriptor and rules in R254's order and gives the stream a place of the FE cleat table and
a ring. The others need the stream to be the context's, the context open and the stream in a state the table allows:
CLOSE gives all up; START makes it RUNNING within the pixel rate and one tap, and starts the silence of a port with no
other running stream; STOP waits for the sample in hand, refused while a plan needs the stream; RESUME checks the
quarantined sample again and SKIP discards it with its set, both refused while another tapped stream runs; MESH_LOAD
copies a finite table; JPEG_DECODE puts a still in the ring. Their completions answer them. (R63, R253, R254, R256,
R257, R265, R269, R274, R278, R279, 10_sensor_front_end.md, 02_host_protocol.md) -/
def Obligations.StreamsFollowTheirStates : Prop :=
  ∀ (k : Nat) (p : Packet) (s : State) (v : Fin 32) (t : State),
    let u := s.without k
    let c := p.hdr.ctx
    let n := p.f 4 4 0
    let x := s.stream n
    let refusal := s.refusal k p
    let closed := ctxOpen.contains (s.ctxCode c) = false
    let legal : List Nat → State → State := fun l a =>
      if x.state ≠ 0x40 ∧ x.ctx ≠ c then refusal stAuth 0 0
      else if closed then refusal stState (wd (s.ctxCode c)) 0
      else if l.contains x.state = false then refusal stState (wd x.state) 0
      else a
    let acc := s.accepted k p n 0 0
    let held := s.held k p n 0 0
    let run := streamNos.filter fun i => (s.stream i).state == 0x42
    let corrupt : State → Nat → State := fun w cause => w.final p.hdr stFault { d1 := wd (n + 2 ^ 8 * cause), fault := causeFault cause }
    let again : Sample → State → State := fun sm w => match w.recheck n sm with
      | (v, .ok sm) => (v.unquarantine n).goOn n sm
      | (v, .error _) => v
    let words := openWords p
    let foreign := x.state != 0x40 && x.ctx != c && (s.ctx x.ctx).client != p.hdr.ap
    let mesh := u.vrd (some mFe) c (p.va 5) (8 * p.f 4 13 5 * p.f 4 22 14)
    (Applies 0x500 k p s → foreign = true → exec (.streamOpen k) s = .next (refusal stAuth 0 0)) ∧
    (∀ y, Applies 0x500 k p s → foreign = false → p.hdr.expert = true → u.vrd none c (p.va 10) 128 = .error y →
      exec (.streamOpen k) s = .next (refusal stRange (det 10 0) 0)) ∧
    (∀ bs, Applies 0x500 k p s → foreign = false → p.hdr.expert = true → u.vrd none c (p.va 10) 128 = .ok bs →
      exec (.streamOpen k) s = .next (
        match firstField stFormat (descFmt (wordsOf bs) words.source words.dtype words.width words.format words.grouped),
            firstField stRange (descRng (wordsOf bs) words.source words.width words.grouped) with
        | some r, _ => refusal r.1 r.2.1 r.2.2
        | none, some r => refusal r.1 r.2.1 r.2.2
        | none, none => s.after k p (openChecked p n (cfgOf (wordsOf bs) words.source words.width) u))) ∧
    (Applies 0x500 k p s → foreign = false → p.hdr.expert = false → exec (.streamOpen k) s = .next (
      s.after k p (openChecked p n (if words.format = 5 then { cfgBasic words with invstd := List.replicate 3 fOne } else cfgBasic words) u))) ∧
    (Applies 0x501 k p s → exec (.streamClose k) s = .next (legal [0x41, 0x43, 0x44] (
      if x.ringFw = true then (s.accepted k p (freeKey x.ctx x.ringVa) 0 0).closeStream n
      else (acc.closeStream n).closeOp 0x501 n stOk {}))) ∧
    (Applies 0x502 k p s → exec (.streamStart k) s = .next (legal [0x41, 0x44] (
      if x.cfg.warp = true ∧ x.meshX = 0 then refusal stState (wd x.state) 0
      else if 3200000000 < x.pixelRate + sumN (run.map fun i => (s.stream i).pixelRate) then refusal stNospace 0 0
      else if x.cfg.tap = true ∧ run.any (fun i => (s.stream i).cfg.tap) = true then refusal stBusy 0 0
      else
        (if x.source = 0 ∧ ¬ run.any (fun i => (held.stream i).source == 0 && (held.stream i).port == x.port) = true then
          held.upCsi x.port fun c => { c with fsAt := s.hal.nowNs } else held).upStream n fun y => { y with state := 0x42, frame := false, stopping := 0, fsync := y.fsync || (x.source == 0 && x.grouped && x.cfg.period != 0) }))) ∧
    (Applies 0x503 k p s → exec (.streamStop k) s = .next (legal [0x42] (
      if s.feedsPlan n = true ∨ x.stopping ≠ 0 then refusal stState (wd x.state) 0
      else acc.upStream n fun y => { y with stopping := if y.source = 0 ∧ (y.inq.head?.any fun sm => !sm.done) ∧ y.cur.isNone ∧ y.tele.isNone
        then 2 else 1 }))) ∧
    (Applies 0x504 k p s → exec (.streamResume k) s = .next (legal [0x43] (
      if s.tapTaken n = true then refusal stBusy 0 0
      else if x.stopping ≠ 0 ∨ x.tele.isSome = true then s
      else match x.quar with
        | none => corrupt u x.cause
        | some sm => match u.recheck n sm with
          | (w, .error z) => corrupt (w.upStream n fun y => { y with cause := z, quar := some { sm with cause := z } }) z
          | (_, .ok _) => again sm held))) ∧
    (Applies 0x505 k p s → exec (.streamSkip k) s = .next (legal [0x43] (
      if s.tapTaken n = true then refusal stBusy 0 0
      else if x.stopping ≠ 0 then s
      else
        let a := held.upStream n fun y => { y with cntSkip := y.cntSkip + 1 }
        let at' := (x.quar.bind fun sm => if x.source = 1 then some sm.stamp else x.instant sm).getD 0
        let b := if x.grouped = true ∨ x.source = 1 then match setNear (a.setsOf (a.btOf n)) x.cfg.tol at' with
          | some z => a.dropSet (a.btOf n) z.t
          | none => a
          else a
        b.unquarantine n))) ∧
    (Applies 0x510 k p s → exec (.meshLoad k) s = .next (legal [0x41, 0x44] (
      if x.cfg.warp = false then refusal stState (wd x.state) 0
      else match mesh with
        | .error _ => refusal stRange (det 5 0) 0
        | .ok bs =>
          if (wordsOf bs).all fIsFin = false then refusal stFormat (det 5 0) 0
          else acc.upStream n fun y => { y with meshX := p.f 4 13 5, meshY := p.f 4 22 14, mesh := wordsOf bs }))) ∧
    (Applies 0x511 k p s → exec (.jpegDecode k) s = .next (
      if closed then refusal stState (wd (s.ctxCode c)) 0
      else match s.stillStream c with
        | none => refusal stState (wd 0x40) 0
        | some n =>
          if (s.stream n).state ≠ 0x42 then refusal stState (wd (s.stream n).state) 0
          else if u.vmapped c (p.va 4) (p.f 6 23 0) false = false then refusal stRange (det 4 0) 0
          else if p.hdr.expert = true ∧ u.vmapped c (p.va 8) (64 * (p.w 10).toNat) true = false then refusal stRange (det 8 0) 0
          else ((s.accepted k p n 0 0).upStream n fun y => { y with nextNo := (y.nextNo + 1) % 2 ^ 32 }).pushRing n
            { no := (s.stream n).nextNo, done := true, addr := p.va 4, hdr := p.hdr, params := p.params })) ∧
    exec (.meshLoadComplete v) t = .next (t.closeOp 0x510 v stOk {}) ∧
    exec (.jpegDecodeComplete v) t = .next (match (t.stream v).cur with
      | none => t
      | some sm =>
        if (t.stream v).tele.isSome = true then t else
        let a := (t.upStream v fun y => { y with cur := none }).upFe fun f => { f with jpegBusy := none }
        match a.decodeFor v sm with
        | .error z => a.quarantine v sm z
        | .ok sm => a.stillOut v sm) ∧
    ((t.stream v).stopping = 0 → exec (.streamStopComplete v) t = .next t) ∧
    ((t.stream v).stopping ≠ 0 → exec (.streamStopComplete v) t = .next (
      let y := t.stream v
      if y.state = 0x43 then t.stopQuarantined v
      else if y.cur.isSome = true then t
      else if y.stopping = 2 then match y.inq with
        | sm :: _ =>
          if ¬ sm.done = true then t
          else
            let w := (if t.btFull (t.btOf v) = true then t.commit (t.btOf v) else t).takeOne v []
            if (w.stream v).state = 0x43 then w.stopQuarantined v else w.stopEnds v
        | [] => t.stopEnds v
      else t.stopEnds v))

/-- A packet bound to no receiving stream is counted and corrupts nothing. A Frame Start opens a sample with its stamp, or
corrupts the one in progress (cause 5); a line is taken, or corrupts it for its CRC (2) or length (3); another type
corrupts the frames in progress of the VC (6), an uncorrectable header those of the port (1); a Frame End ends the
frame, corrupt for a wrong line count (4). Generic short packets are counted. Silence, four periods of the port's
slowest stream after its last Frame Start, is FLT_LINK once. A looped port or link takes nothing (R458). FSYNC pulses
come a lead before their set instants. A ratline frame reaches Plinth, and the ring of its stream while the core
island runs. Stage 3 takes one sample; a full batch is committed; the earliest incomplete set is dropped at its
deadline. A depth grid whose check fails is counted and treated as absent. (R248, R249, R250, R251, R258, R259, R262,
R273, R275, R280, R342, 10_sensor_front_end.md) -/
def Obligations.CameraPacketsFillTheRings : Prop :=
  ∀ (s : State) (port : Fin 8) (vc : Fin 16) (dtype ecc : Nat) (data : List Byte) (crcOk up : Bool) (n : Fin 32) (errs : List MemErr)
    (group : Bool) (i : Nat) (eport : Fin 4) (ph : Fin 8) (stamp : Nat) (grid : List (BitVec 16)),
    let unbound := fun (t : State) => t.upCsi port fun p => { p with unbound := p.unbound + 1 }
    let heard := fun (t : State) => t.upCsi port fun p => { p with silent := false, fsAt := t.hal.nowNs }
    let sameType := fun (t : State) => (t.bound port vc).find? fun i => (t.stream i).dtype == dtype
    let others := fun (t : State) => (t.bound port vc).filter fun i => (t.stream i).frame
    -- a packet of a looped port; one with a whole header, one with a corrected header, one whose header is beyond correction
    let packet := fun (act : State → State) => if s.looped 0 port = true then s else if ecc = 0 then act s
      else if ecc = 1 then act (s.upCsi port fun p => { p with ecc := p.ecc + 1 })
      else (streamNos.filter fun i => (s.stream i).source == 0 && (s.stream i).port == port.val &&
        ((s.stream i).state == 0x42 || (s.stream i).state == 0x43) && (s.stream i).frame).foldl (fun t i => t.corrupt i 1) s
    let x := s.stream n
    let b : Bt := { grp := group, i := i }
    let pay := data.drop (ethPayload data).1
    exec (.csiFrameStart port ⟨vc, ecc⟩) s = .next (packet fun t => match (heard t).bound port vc with
      | [] => unbound (heard t)
      | l => l.foldl State.frameStart (heard t)) ∧
    (∀ m, s.frameStart m = if (s.stream m).frame = true then s.corrupt m 5
      else (s.setStream m { s.stream m with frame := true, nextNo := ((s.stream m).nextNo + 1) % 2 ^ 32 }).pushRing m
        { no := (s.stream m).nextNo, stamp := s.hal.stamp }) ∧
    exec (.csiLongPacket port vc dtype data ecc crcOk) s = .next (packet fun c =>
      if dtype = 0x12 then unbound c
      else match sameType c with
        | some i =>
          if (c.stream i).frame = true then
            if crcOk = false then c.corrupt i 2
            else if data.length ≠ (c.stream i).lineBytes then c.corrupt i 3
            else if (c.stream i).open? = true then
              c.setStream i ((c.stream i).upLast fun sm => { sm with data := sm.data ++ data, lines := sm.lines + 1 })
            else c
          else unbound c
        | none => if (others c).isEmpty = true then unbound c else (others c).foldl (fun t i => t.corrupt i 6) c) ∧
    exec (.csiFrameEnd port ⟨vc, ecc⟩) s = .next (packet fun t => match t.bound port vc with
      | [] => unbound t
      | l => l.foldl State.frameEnd t) ∧
    (∀ m, s.frameEnd m = if (s.stream m).frame = false then s
      else if (s.stream m).open? = false then s.setStream m { s.stream m with frame := false }
      else if ((s.stream m).inq.getLast?.map (·.lines)) ≠ some (s.stream m).height then s.corrupt m 4
      else s.setStream m { (s.stream m).upLast (fun sm => { sm with done := true }) with frame := false }) ∧
    exec (.csiGenericShortPacket port ⟨vc, ecc⟩ dtype) s = .next (packet fun t => if dtype = 2 ∨ dtype = 3 then t else unbound t) ∧
    exec (.csiPortSilence n) s = .next (
      if x.source = 0 ∧ (x.state = 0x42 ∨ x.state = 0x43) ∧ (s.csi x.port).silent = false then
        ((s.passTo ((s.csi x.port).fsAt + 4 * s.slowest x.port)).upCsi x.port fun p => { p with silent := true }).fault fltLink 0 x.ctx n 0 else s) ∧
    exec (.csiPhyLock port up) s = .next (s.upCsi port fun p => { p with up := up }) ∧
    exec (.fsyncPulse n) s = .next (
      if x.fsync = true ∧ s.launches = true then
        (s.passTo (nextPulse x.cfg.period x.cfg.phase (4 * x.cfg.lead) s.hal.nowNs - 4 * x.cfg.lead)).out 2 x.port (natBytes 2 x.cfg.width)
      else s) ∧
    (s.looped 1 eport = true ∨ crcOk = false ∨ isRatline data 1 = false → exec (.ratlineFrameReceive eport data ⟨crcOk, ph⟩) s = .next s) ∧
    (s.looped 1 eport = false → crcOk = true → isRatline data 1 = true → exec (.ratlineFrameReceive eport data ⟨crcOk, ph⟩) s = .next (
      let t := s.ratPlinth eport pay (s.rxStamp eport ph)
      if t.halRuns = true then t.ratIn pay (s.rxStamp eport ph) else t)) ∧
    exec (.feSampleTake n errs) s = .next (if s.takeHeld n = true ∨ x.stopping ≠ 0 then s else s.takeOne n errs) ∧
    exec (.batchCommit group i) s = .next (if s.btValid b = 0 ∨ ¬ s.btFull b = true ∨ s.btTold b = true then s else (s.commit b).passSets 64 b) ∧
    exec (.setDeadlineExpiry group i) s = .next (
      if group = true ∧ (s.group i).halted = true then s
      else match (s.setsOf b).find? fun k => !s.setDone b k with
        | none => s
        | some k => ((s.passTo (cdiv (k.t + (s.stream (s.btLead b)).cfg.deadline * 65536) 65536)).dropSet b k.t).passSets 64 b) ∧
    exec (.bridgeDepthGrid stamp grid crcOk) s = .next { s with plinth := if crcOk then { s.plinth with grid := some grid, gridStamp := stamp }
      else { s.plinth with cntBridge := s.plinth.cntBridge + 1 } }

/-- HAL_CFG refuses a domain with the other's profile and number, and one that would leave a running plan without its
source; otherwise it sets the domain, DISABLED or LISTENING where it was disabled or its identity changed. QBV_CFG's
list is operative at the first cycle start at least 10 us ahead, and gates follow, while launches are made. Announce
choices move the domain to MASTER or UNCALIBRATED, a Sync measures it, its timeouts, three Sync intervals after the
last Sync and the receipt timeout after the last Announce, lead to HOLDOVER and LISTENING. A good frame reaches the
ring with its stamp; TC7 is Plinth's alone; the frame that a port serves departs. A looped link neither takes nor
sends frames (R458). (R14, R15, R290, R291, R294, R298, R299, R300, R411, 11_halyard_time.md) -/
def Obligations.NetworkTimeIsDisciplined : Prop :=
  ∀ (k : Nat) (p : Packet) (s : State) (d : Fin 2) (sync : SyncFacts) (ann : AnnounceFacts) (m : Fin 64) (port : Fin 4)
    (data : List Byte) (fcsOk oneStep up : Bool) (ph : Fin 8),
    let u := s.without k
    let e := p.f 4 0 0
    let dm := s.domain e
    let ot := s.domain (1 - e)
    let en := p.f 4 1 1 = 1
    let same := dm.profile = p.f 4 3 2 ∧ dm.transport = p.f 4 5 4 ∧ dm.number = p.f 4 15 8
    let new : Domain :=
      { dm with profile := p.f 4 3 2, transport := p.f 4 5 4, twoStep := p.f 4 6 6 = 1, slaveOnly := p.f 4 7 7 = 1
                number := p.f 4 15 8, ports := BitVec.ofNat 4 (p.f 4 19 16), mports := BitVec.ofNat 4 (p.f 4 23 20)
                prio1 := p.f 5 7 0, prio2 := p.f 5 15 8, clockClass := p.f 5 23 16
                logSync := sext 4 (p.f 6 3 0), logAnnounce := sext 4 (p.f 6 7 4), logPdelay := sext 4 (p.f 6 11 8), timeout := p.f 6 15 12, annAt := s.hal.nowNs
                kp := if p.hdr.expert then p.w 7 else 0x3F333333, ki := if p.hdr.expert then p.w 8 else 0x3E99999A
                step := if p.hdr.expert then (p.w 9).toNat else 1000000, lock := if p.hdr.expert then (p.w 10).toNat else 100 }
    let set := u.setDomain e new
    let base := timeNs p.params 5
    let cycle := (p.w 8).toNat
    let due := s.hal.nowNs + 10000 + if s.hal.f = 0 then 0 else 1
    let start := if due ≤ base then base else base + cdiv (due - base) cycle * cycle
    let entries := (List.range (p.f 4 9 2)).map fun i => (BitVec.ofNat 8 (p.f (9 + i) 7 0), p.f (9 + i) 31 8)
    let x := s.hport port
    let y := s.domain d
    let heard := s.upDomain d fun z => { z with annAt := s.hal.nowNs, gm := ann.gm, gmClass := ann.gmClass, stepsRemoved := ann.steps, utc := ann.utc, utcValid := ann.utcValid }
    (Applies 0x600 k p s → exec (.halCfg k) s = .next (
      if en ∧ ot.state ≠ 0x70 ∧ ot.profile = p.f 4 3 2 ∧ ot.number = p.f 4 15 8 then s.refusal k p stFormat (det 4 8) 0
      else if s.hal.source = e + 1 ∧ (¬ en ∨ ¬ same) ∧ ¬ ot.usable = true ∧ s.planRuns = true then s.refusal k p stState (wd dm.state) 0
      else (if ¬ en then set.domState e 0x70 else if dm.state = 0x70 ∨ ¬ same then set.domState e 0x71 else set).final p.hdr stOk {})) ∧
    (Applies 0x620 k p s → exec (.qbvCfg k) s = .next ((u.upHport (p.f 4 1 0) fun z =>
      { z with pend := some { base := start, cycle := cycle, entries := entries } }).final p.hdr stOk
        { lo := wd (start % 1000000000), hi := wd (start / 1000000000) })) ∧
    exec (.qbvListChange port) s = .next (match x.pend with
      | none => s
      | some l => if ¬ s.launches = true then s else (s.passTo l.base).upHport port fun z => { z with
          oper := some l, pend := none, entry := 0, gates := (l.entries.getD 0 (255, 0)).1, nextGate := l.base + (l.entries.getD 0 (255, 0)).2 }) ∧
    exec (.qbvGateEvent port) s = .next (match x.oper with
      | none => s
      | some l =>
        let n := if x.entry + 1 < l.entries.length then x.entry + 1 else 0
        if ¬ s.launches = true then s else (s.passTo x.nextGate).upHport port fun z => { z with
          entry := n, gates := (l.entries.getD n (255, 0)).1, nextGate := z.nextGate + (l.entries.getD n (255, 0)).2 }) ∧
    exec (.ptpSyncReceive d sync) s = .next (s.ptpSync d sync) ∧
    (s.halRuns = false ∨ y.state = 0x70 → exec (.ptpAnnounceReceive d ann) s = .next s) ∧
    (s.halRuns = true → y.state ≠ 0x70 → exec (.ptpAnnounceReceive d ann) s = .next (
      if ann.choice = 2 ∧ ¬ y.slaveOnly = true then (heard.upDomain d fun z => { z with ofs := heldInt 64 (y.ofsAt s.hal.nowNs), diff := y.diffAt s.hal.nowNs, rate := 0, lastUpd := s.hal.nowNs }).domState d 0x75
      else if ann.choice = 1 ∧ (y.state = 0x71 ∨ y.state = 0x75 ∨ y.gm ≠ ann.gm) then heard.domState d 0x72
      else heard)) ∧
    exec (.syncReceiptTimeout d) s = .next (if y.state = 0x73 then (s.passTo (y.lastUpd + 3 * y.interval)).domState d 0x74 else s) ∧
    exec (.announceTimeout d) s = .next (if y.state = 0x70 then s else (s.passTo (y.annAt + y.timeout * y.annInterval)).domState d 0x71) ∧
    exec (.ethFrameReceive port data ⟨fcsOk, ph⟩) s = .next (if fcsOk = true ∧ ¬ s.looped 1 port = true then s.ethToRing port ph data else s) ∧
    exec (.ethFrameQueue m port data oneStep) s = .next (
      if m.val = 45 then s.queueFrame port 7 { bytes := data }
      else if isRatline data 2 = true then s.upHport port fun z => { z with drops := z.drops + 1 }
      else (s.takeStamp port data).queueFrame port (ethClass data) { bytes := data, oneStep := oneStep, ptp := ptpEvent data }) ∧
    (s.txClass port = none ∨ x.up = false ∨ s.looped 1 port = true → exec (.ethFrameTransmit ⟨port, ph⟩) s = .next s) ∧
    (∀ tc f, s.txClass port = some (tc, f) → x.up = true → s.looped 1 port = false → exec (.ethFrameTransmit ⟨port, ph⟩) s = .next (
      let stamp : Int := (s.hal.stampAt ph : Int) + sext 32 x.txlat.toNat
      let sent := s.upHport port fun z => { z with queues := Tab.set z.queues tc ((Tab.get [] z.queues tc).drop 1) }
      if f.oneStep = true then sent.out 1 port (sent.oneStepFix port f stamp)
      else
        let plain := sent.out 1 port f.bytes
        match f.ptp with
        | none => plain
        | some (t, d, q) =>
          let full := 64 ≤ (plain.hport port).tsFifo.length
          let v := plain.upHport port fun z => { z with
            tsFifo := (if full then z.tsFifo.drop 1 else z.tsFifo) ++ [(t, d, q, stamp.toNat)], tsDrop := if full then z.tsDrop + 1 else z.tsDrop }
          (if full then v.event (232 + port) else v).event (228 + port))) ∧
    exec (.ethLinkChange port up) s = .next ((s.upHport port fun z => { z with up := up }).event (224 + port))

/-- Granted writes of HAL_CTRL (with or without a step) and the increment act as R282 and R286 say, a step 16 HCLK edges
later (R287), when the counter takes the value of HAL_SET_*; a read of HAL_SNAP_NS latches the pair for its reader
(R302); denied ones are violations. A disagreeing copy faults the die. A time update whose check fails is counted; one
within 100 ns, or a step, sets the counter; another is FLT_TIME; free run is entered 100 us after the last update and
limited once, free_max later. A claim gives the chosen source, 0x3FF without one; an EOI ends the source it names if
its processor holds it, else it is counted; set bits are events; clearing latches and enabling delivery look at the
bridge again; a host's claim, EOI and set are kept out, in D3hot with Unsupported Request. A hold-off ends its time
after the claim. (R282, R286, R287, R302, R342, R343, R344, R412, R413, R415, R418, R420) -/
def Obligations.RegistersOfTimeAndEvents : Prop :=
  ∀ (s : State) (m : Fin 64) (v : Word) (fine agree step crcOk : Bool) (t : Nat) (k : Fin 4) (g : Fin 16),
    let reg : Instr → Nat → Bool → State → Prop := fun c off w r =>
      (Granted m off w s → exec c s = .next r) ∧ (Denied m off w s → exec c s = .next (s.refusedAccess m 1 off w))
    let evcReg : Instr → Nat → Bool → State → State → Prop := fun c off w host r =>
      (m.val < 16 → exec c s = .next host) ∧ (16 ≤ m.val → reg c off w r)
    let mode := if fld v 1 0 = 3 then 2 else fld v 1 0
    let ctrl : State := { s with hal := s.hal.ctrl v }
    let stepped : State := { ctrl with hal := { ctrl.hal with
      pend := ctrl.hal.pend ++ [{ due := ctrl.hal.hclk + 16, set := some ctrl.hal.target }] } }
    let ctrlAns := if bit v 12 = true then
        if mode ≠ 2 ∧ ctrl.stepAllowed = true ∧ ctrl.hal.setNs.toNat ≤ 999999999 then stepped
        else ({ ctrl with hal := { ctrl.hal with stepRefused := true } } : State).event 36
      else ctrl
    let now := s.pnow
    let far := if t < now then now - t else t - now
    let adopted : State := { s with plinth := { s.plinth with time := t * 2 ^ 32, updAt := t } }
    let late : State := { s with plinth := { s.plinth with updAt := now } }
    let unw : State := if s.hif.d3hot = true then { s with hif := { s.hif with aerUnsupported := true }, bus := { status := 1, data := [] } } else s
    let ur : State := { s with hif := { s.hif with aerUnsupported := true }, bus := { status := 1, data := [] } }
    let src := fld v 8 0
    let claimed : Nat → Evc := fun n => { s.evc with
      pend := Tab.set s.evc.pend (n / 32) (Tab.get 0 s.evc.pend (n / 32) &&& ~~~ wd (2 ^ (n % 32)))
      active := Tab.set s.evc.active n (k + 1) }
    reg (.halManualStep m v) 0x200004 true ctrlAns ∧
    reg (.halModeWrite m v) 0x200004 true ctrlAns ∧
    (∀ (h : Hal) (due : Nat), h.setNs.toNat ≤ 999999999 →
      let h' := h.take { due := due, set := some h.target }
      h'.sec = h.setLo.toNat + 2 ^ 32 * fld h.setHi 15 0 ∧ h'.ns = h.setNs.toNat ∧ h'.f = 2 ^ 16 * fld h.setHi 31 16 ∧
        h'.cntStep = h.cntStep + 1 ∧ h'.stepped = true ∧ h'.inc = h.inc ∧ h'.mode = h.mode) ∧
    reg (.halIncrWrite m fine v) (if fine then 0x20000C else 0x200008) true { s with hal := s.hal.writeIncr fine v } ∧
    reg (.halSnapRead m) 0x200020 false ({ s with hal := { s.hal with
      snaps := Tab.set s.hal.snaps m (s.hal.words.getD 1 0, s.hal.words.getD 2 0) } }.busWord (wd s.hal.ns)) ∧
    (agree = true ∨ s.halRuns = false → exec (.copyCheck agree) s = .next s) ∧
    (agree = false → s.halRuns = true → exec (.copyCheck agree) s =
      .next ((({ s with hal := { s.hal with copyFail := true } } : State).event 37).fault fltHalCopy 5 255 0 0)) ∧
    (crcOk = false → exec (.bridgeTimeUpdate t step crcOk) s = .next { s with plinth := { s.plinth with cntBridge := s.plinth.cntBridge + 1 } }) ∧
    (crcOk = true → s.plinth.freeRun = false → far ≤ 100 → exec (.bridgeTimeUpdate t step crcOk) s = .next adopted) ∧
    (crcOk = true → s.plinth.freeRun = false → 100 < far → step = false → exec (.bridgeTimeUpdate t step crcOk) s = .next (late.plnFault fltTime 3 0)) ∧
    (crcOk = true → s.plinth.freeRun = false → 100 < far → step = true → ∃ r, exec (.bridgeTimeUpdate t step crcOk) s = .next r ∧
      r.plinth = { adopted.plinth with maqNext := instantFrom 1000000 (s.plinth.par 6).toNat t }) ∧
    exec .freeRunEntry s = .next (if s.plinth.freeRun = true then s else
      let due := s.passPln (s.plinth.updAt + 100000)
      ({ due with plinth := { due.plinth with freeRun := true, freeSince := some due.pnow, conv := 0, slewing := false } } : State).plnFault fltTime 0 0) ∧
    (s.plinth.freeRun = false ∨ s.plinth.freeSince = none ∨ s.plinth.params = none → exec .freeRunLimit s = .next s) ∧
    (∀ since, s.plinth.freeRun = true → s.plinth.freeSince = some since → s.plinth.params.isSome = true → exec .freeRunLimit s = .next (
      let due := s.passPln (since + fld (s.plinth.par 5) 15 0 * 1000000000)
      ({ due with plinth := { due.plinth with freeSince := none } } : State).plnFault fltTime 3 0)) ∧
    evcReg (.evcClaimRead m k) (0x100304 + 0x10 * k) false ur (match s.evc.choice k with
      | none => ({ s with evc := { s.evc with cntSpur := s.evc.cntSpur + 1 } } : State).busWord 0x3FF
      | some n => ({ s with evc := (claimed n).hold (n / 32) s.hal.nowNs } : State).busWord (wd n)) ∧
    evcReg (.evcEoiWrite m k v) (0x100308 + 0x10 * k) true ur (
      if Tab.get 0 s.evc.active src = k + 1 then { s with evc := { s.evc with active := Tab.erase s.evc.active src } }
      else { s with evc := { s.evc with cntBadEoi := s.evc.cntBadEoi + 1 } }) ∧
    evcReg (.evcSetWrite m g v) (0x100180 + 4 * g) true unw (s.events ((bitsOf 32 v.toNat).map (32 * g.val + ·))) ∧
    reg (.evcBrgLatchWrite m v) 0x100440 true
      ({ s with evc := { s.evc with latch := s.evc.latch &&& ~~~(BitVec.ofNat 16 (fld v 15 0)) } } : State).evcBridgeAll ∧
    evcReg (.evcDisableWrite m v) 0x100000 true unw ({ s with evc := { s.evc with disable := bit v 0 } } : State).evcBridgeAll ∧
    exec (.holdoffExpiry g) s = .next (if s.evc.holding.getLsbD g = true then
      let due := s.passTo (Tab.get 0 s.evc.holdAt g + 1000 * Tab.get 0 s.evc.holdoff g)
      ({ due with evc := { due.evc with holding := setBit due.evc.holding g false } } : State).evcBridge g else s)

/-- PLAN_LOAD wants an EMPTY or ADMITTED slot and waits behind its context's CLEAT_ALLOC; an image, list or timeline that
fails is refused with the status and details of its check, and one that is admitted fills the slot and is answered
with its gap and power. PLAN_ACTIVATE wants an ADMITTED slot; an expert start that is no period instant 100 µs ahead
is ST_RANGE, a fifth running plan ST_NOSPACE with reason 8, and a plan admitted again is ARMED. At the start instant
it is ACTIVE, its first period's acts done and its packet answered. PLAN_DEACTIVATE puts an ARMED plan back to
ADMITTED at once and an ACTIVE one to RETIRING. PLAN_UNLOAD empties the slot and its place in the command store.
(R286, R305, R308, R309, R310, R311, R312, R313, R314, R323, 12_time_triggered_execution.md) -/
def Obligations.PlansAreLoadedActivatedAndRetired : Prop :=
  ∀ (k : Nat) (p : Packet) (s : State) (slot' : Fin 8),
    let u := s.without k
    let slot := p.f 4 3 0
    let q := s.plan slot
    let c := fld (u.rdW (p.va 5 + 12)) 7 0
    let waits : Prop := u.imageAt (p.va 5) 64 = true ∧ c < 64 ∧ u.waitsFor p c = true
    let start := if p.hdr.expert then timeNs p.params 5 else q.firstAt (s.now + 1000000)
    let away := p.hdr.expert && (decide (start < s.now + 100000 ∨ start % max 1 q.period ≠ q.phase) || p.f 7 31 16 != 0)
    let gone := !(s.ctx q.ctx).present || (s.ctx q.ctx).scrubbing
    let armed := { q with state := 0x52, start := start, count := 0, periodNs := start, slackMin := 0xFFFFFFFF, movers := [], ends := []
                          digests := [], launched := [] }
    let opened := [0x50, 0x51].contains q.state
    let a := s.accepted k p slot 0 0
    let refused := fun (r : Refuse) => u.draw.2.final p.hdr r.1 { d0 := r.2.1, d1 := r.2.2 }
    (Applies 0x610 k p s → opened = false → exec (.planLoad k) s = .next (s.refusal k p stState (wd q.state) 0)) ∧
    (Applies 0x610 k p s → opened = true → waits → exec (.planLoad k) s = .next s) ∧
    (∀ r, Applies 0x610 k p s → opened = true → ¬ waits → u.planBuild p c = .error r → exec (.planLoad k) s = .next (refused r)) ∧
    (∀ (x : Plan) (t : State) (gap mw : Nat), Applies 0x610 k p s → opened = true → ¬ waits → u.planBuild p c = .ok (x, t, gap, mw) →
      exec (.planLoad k) s = .next ((({ a with
        plans := Tab.set a.plans slot x, psmUse := t.psmUse, ctxs := t.ctxs, mem := t.mem, psmc := t.psmc
        store := t.store, cmdUse := t.cmdUse, free := a.draw.2.free } : State).freeCmds q.stored).closeNo p.hdr.no stOk
          { lo := sat32 gap, hi := wd mw })) ∧
    (Applies 0x611 k p s → q.state ≠ 0x51 ∨ gone = true → exec (.planActivate k) s = .next (s.refusal k p stState (wd q.state) 0)) ∧
    (Applies 0x611 k p s → q.state = 0x51 → gone = false → away = true → exec (.planActivate k) s = .next (s.refusal k p stRange (det 5 0) 0)) ∧
    (Applies 0x611 k p s → q.state = 0x51 → gone = false → away = false → 4 ≤ (planNos.filter fun i => (s.plan i).runs).length →
      exec (.planActivate k) s = .next (s.refusal k p stNospace 0 8)) ∧
    (∀ r, Applies 0x611 k p s → q.state = 0x51 → gone = false → away = false → (planNos.filter fun i => (s.plan i).runs).length < 4 →
      u.admission slot armed none = .error r → exec (.planActivate k) s = .next (refused r)) ∧
    (∀ r, Applies 0x611 k p s → q.state = 0x51 → gone = false → away = false → (planNos.filter fun i => (s.plan i).runs).length < 4 →
      u.admission slot armed none = .ok r → exec (.planActivate k) s = .next (a.setPlan slot armed)) ∧
    exec (.planStartInstant slot') s = .next (
      let x := s.plan slot'
      if x.state ≠ 0x52 then s
      else ((((s.passTo x.start).upPlan slot' fun y => { y with state := 0x53, count := 0, periodNs := y.start }).periodActs slot').closeOp
        0x611 slot' stOk { lo := wd (x.start % 1000000000), hi := wd (x.start / 1000000000) })) ∧
    (Applies 0x612 k p s → exec (.planDeactivate k) s = .next (
      if q.state = 0x52 then
        ((a.setPlan slot { q with state := 0x51 }).closeOp 0x611 slot stFault { canc := true }).closeNo p.hdr.no stOk {}
      else if q.state = 0x53 then a.setPlan slot { q with state := 0x54 }
      else s.refusal k p stState (wd q.state) 0)) ∧
    (Applies 0x613 k p s → exec (.planUnload k) s = .next (
      if q.state = 0x51 then (({ u with plans := Tab.erase s.plans slot } : State).freeCmds q.stored).final p.hdr stOk {}
      else s.refusal k p stState (wd q.state) 0))

/-- At a period instant an ACTIVE plan's waiting lists stop, its masked fences clear and its count rises; a RETIRING plan
becomes ADMITTED. A point of its kind, in its period and not yet launched, launches at its instant with ALIGN held and
the Halyard copies agreeing; any other command changes nothing. A LIST point starts its list, or the list waits behind
at most four, or is dropped; a pending start begins; a MOVER starts, waits for its list or is skipped; a SAMPLE opens
a set; a TELLTALE holds the stages and writes its golden output until its window ends; a SELFTEST offers a slice or
yields; a MONITOR arms, and at expiry is FLT_TT_OVERRUN. A bad mailbox write is dropped and FLT_MAILBOX, one that no
armed monitor awaits is dropped; a digest is compared with the one expected. (R71, R260, R275, R307, R311, R313, R317,
R318, R319, R320, R453, 12_time_triggered_execution.md) -/
def Obligations.LaunchPointsLaunchInTheirPeriods : Prop :=
  ∀ (s : State) (slot : Fin 8) (i : Nat) (pt : List Word) (e : Fin 8) (m : Fin 64) (data : List Byte) (d : Nat × Nat × Nat × Word) (sl : Nat),
    let p := s.plan slot
    let c := (p.count + 1) % 2 ^ 32
    let acts := (s.passTo (p.periodNs + p.period)).periodActs slot
    let due : Nat → List Word → Prop := fun kind x => s.launches = true ∧ (p.state = 0x53 ∨ p.state = 0x54) ∧ ptKind x = kind ∧
      ptIn x p.count = true ∧ p.inOrder i = true ∧ ¬ p.launched.contains (i, p.count) = true
    let row : Nat → Instr → State → Prop := fun kind b r =>
      (p.points[i]? = some pt → due kind pt → exec b s = .next r) ∧
      ((∀ x, p.points[i]? = some x → ¬ due kind x) → exec b s = .next s)
    let at' := p.periodNs + ptOfs pt
    let t := (s.passTo at').upPlan slot fun y => { y with launched := (i, y.count) :: y.launched }
    let g := ptEngine pt
    let n := (t.engine g).tq.length
    let job : Job := { hdr := { ctx := p.ctx }, ctx := p.ctx, cmds := (Tab.find p.lists i).getD [], plan := some (slot.val, i, p.count), begun := n == 0
                       launchNs := at', taken := t.now, route := t.jobRoutes p.ctx false }
    let put := t.upEngine g fun x => { x with tq := x.tq ++ [job] }
    let old := ((t.plan slot).movers.filter fun x => x.point = i).length
    let skipped := ((List.range old).foldl (fun v _ => v.skipMover slot) t).upPlan slot fun y => { y with movers := y.movers.filter fun x => x.point ≠ i }
    let f := fld (wat pt 2) 4 0
    let b := t.btOf f
    let held := t.upStream f fun y => { y with tele := some (slot.val, i, at' + (wat pt 3).toNat) }
    let watched := fld (wat pt 2) 5 0
    let every := p.period * ptDiv pt
    let guarded := if watched = t.actionMon ∧ fld (wat pt 2) 7 6 = 0 then
        t.upPlinth fun y => { y with actPeriod := every, actDue := at' + (wat pt 3).toNat + every } else t
    let sm := t.engine g
    let guard := fun (v : State) => v.guardFrom g v.now
    let x := s.monitor m
    let gone := ((((s.passPln x.expiry).setMonitor m { x with armed := false }).plnFault fltTtOverrun 2 m).upPlan x.slot fun y => { y with cntOverrun := y.cntOverrun + 1 }).event (40 + x.slot)
    let mw := fun (j : Nat) => wordAt data (4 * j)
    let bad : Prop := data.length < 16 ∨ fld (mw 0) 31 3 ≠ 0 ∨ (mw 2).toNat ≠ data.length ∨ mw 3 ≠ crc32c (data.drop 16)
    let sat := fun (a : Nat) => s.upMonitor a fun y => { y with satisfied := true, armed := false }
    let inst := fun (v : State) (els : Option (List Word)) => v.newInstance (fld (mw 0) 2 0) (mw 1).toNat false els
    let digs := s.upPlan sl fun y => { y with digests := y.digests.erase d }
    let told := digs.setMonitor m { digs.monitor m with armed := false, satisfied := true }
    exec (.periodInstant slot) s = .next (State.shutGo (
      if p.state = 0x53 then acts.upPlan slot fun y => { y with count := c, periodNs := p.periodNs + p.period, launched := y.launched.filter fun l => l.2 = c }
      else if p.state = 0x54 then (acts.upPlan slot fun y => { y with state := 0x51, movers := [] }).closeOp 0x612 slot stOk {}
      else s)) ∧
    row 1 (.launchList slot i) (
      if t.tst.engines.getLsbD g = true ∨ 5 ≤ n then t.dropStart g (slot, i, p.count)
      else if n = 0 then put else (put.upEngine g fun y => { y with cntTtLate := y.cntTtLate + 1 }).event (64 + 8 * g + 2)) ∧
    (∀ j l, (s.engine e).tq = j :: l → exec (.tqPendingStart e) s = .next (if j.begun = true then s else s.upEngine e fun y => { y with tq := { j with begun := true } :: l })) ∧
    row 2 (.launchMover slot i) (if bit (wat pt 2) 5 = true then skipped.moverTry slot i p.count pt else skipped.startMover slot i p.count pt) ∧
    (∀ w, p.movers.find? (fun w => w.point == i) = some w → exec (.moverDepStart slot i) s = .next (s.moverTry slot i w.count (p.points.getD i []))) ∧
    (p.movers.find? (fun w => w.point == i) = none → exec (.moverDepStart slot i) s = .next s) ∧
    row 3 (.launchSample slot i) (
      if (t.stream f).state ≠ 0x42 ∧ (t.stream f).state ≠ 0x43 then t
      else if (setNear (t.setsOf b) (t.stream f).cfg.tol (at' * 65536)).isSome then t
      else t.putSets b (insSet { t := at' * 65536, got := [] } (t.setsOf b))) ∧
    ((t.stream f).state = 0x40 → row 4 (.launchTelltale slot i) t) ∧
    (∀ bs, (t.stream f).state ≠ 0x40 → held.vrd (some mFe) p.ctx (ptVa pt 4) (held.goldenLen f p.ctx (ptVa pt 4)) = .ok bs →
      row 4 (.launchTelltale slot i) (held.golden f p.count (at' * 65536) bs)) ∧
    (s.toldBy slot i = none → exec (.telltaleWindowEnd slot i) s = .next s) ∧
    (∀ n w, s.toldBy slot i = some (n, w) → exec (.telltaleWindowEnd slot i) s = .next (
      ((s.passTo w).upStream n fun y => { y with tele := none }).passSets 64 (s.btOf n))) ∧
    row 5 (.launchSelftest slot i) (
      if t.sliceElsewhere g = true ∨ sm.slice = 2 ∨ t.sliceChoice at' ≠ some g then { t with tst := { t.tst with cntYield := t.tst.cntYield + 1 } }
      else (if sm.slice = 1 ∧ ¬ sm.sliceDp = true then t.upPlan sm.slicePlan fun y => { y with cntDefer := y.cntDefer + 1 } else t).upEngine g
        fun y => { y with slice := 1, slicePlan := slot, sliceDp := false, sliceGuard := (guard (if sm.slice = 1 ∧ ¬ sm.sliceDp = true then t.upPlan sm.slicePlan fun y => { y with cntDefer := y.cntDefer + 1 } else t)).getD 0 }) ∧
    row 6 (.launchMonitor slot i) (guarded.setMonitor watched
      { armed := true, slot := slot, point := i, count := p.count, watch := fld (wat pt 2) 7 6, wpoint := fld (wat pt 2) 17 8
        expiry := at' + (wat pt 3).toNat, expect := wat pt 4, order := 1 + guarded.monitors.foldl (fun a w => max a w.2.order) 0 }) ∧
    exec (.monitorExpiry m) s = .next (
      if ¬ x.armed = true then s
      else if m.val = (gone.periodMissed x.slot x.count).actionMon ∧ x.watch = 0 then (gone.periodMissed x.slot x.count).newInstance x.slot x.count true none
      else gone.periodMissed x.slot x.count) ∧
    exec (.mailboxWrite data false) s = .next { s with plinth := { s.plinth with cntBridge := s.plinth.cntBridge + 1 } } ∧
    (bad → exec (.mailboxWrite data true) s = .next (s.mailDrop.plnFault fltMailbox 0 0)) ∧
    (¬ bad → s.actionFor (fld (mw 0) 2 0) (mw 1).toNat = none → exec (.mailboxWrite data true) s = .next s.mailDrop) ∧
    (∀ a, ¬ bad → s.actionFor (fld (mw 0) 2 0) (mw 1).toNat = some a → exec (.mailboxWrite data true) s = .next (
      if a ≠ (sat a).actionMon then (sat a).mailDrop
      else match (sat a).trim.active with
        | none => inst (sat a) none
        | some im => match payloadEls im (wordsOf (data.drop 16)) with
          | some els => inst (sat a) (some els)
          | none => inst ((sat a).upTrim fun y => { y with cntBadAct := y.cntBadAct + 1 }) none)) ∧
    (planNos.findSome? (fun j => ((s.plan j).digests.find? fun w => w.1 == m.val).map fun w => (j, w)) = some (sl, d) →
      exec (.telltaleDigest m) s = .next (
        if (digs.monitor m).armed = true ∧ (digs.monitor m).watch = 2 ∧ (digs.monitor m).slot = sl ∧ (digs.monitor m).count = d.2.1 ∧
            (digs.monitor m).wpoint = d.2.2.1 ∧ digs.pnow < (digs.monitor m).expiry then
          if d.2.2.2 = (digs.monitor m).expect then told
          else (((told.plnFault fltTelltale 2 m).upPlan sl fun y => { y with cntTelltale := y.cntTelltale + 1 }).event (48 + sl)).periodMissed sl (digs.monitor m).count
        else digs))

/-- A due rotated DP engine stops issuing, and its guard instant is held. A slice that is offered, with its engine at rest
and no other running, starts, or is deferred where it could not end before its guard instant, the earlier of the one
held since it was offered and the next one, or, at Reef 3, 20 W do not fit; at the guard instant it is aborted and
counted; at its end its engine issues again, and a differing signature fences it. 100 ms without a completed slice are
FLT_TEST_STARVED and counted in every plan with a LIST point of the engine. DEV_SHUTDOWN enters SHUTDOWN and retires
the plans; TEST_RUN is refused in the states and for the blocks of R450; a finished block is re-initialised, its
result counted, and its fence set after a TEST_RUN. A loop-back takes one of four slots, or frees it; the rotation
mask names engines of DP partitions. (R321, R322, R445, R446, R447, R450, R453, R454, R455, R456, R457, R459) -/
def Obligations.BlocksAndEnginesAreTested : Prop :=
  ∀ (k : Nat) (p : Packet) (s : State) (e : Fin 8) (ok : Bool) (b : Fin 22) (dur loc : Nat) (sig : Word) (r : TestRun) (n : Nat) (l : LoopBack),
    let u := s.without k
    let a := s.accepted k p 0 0 0
    let x := s.engine e
    let guard := optMin (if x.sliceGuard = 0 then none else some x.sliceGuard) ((s.nextLaunch e [1] s.now).map fun t => t - 20000)
    let late : Bool := match guard with
      | some t => decide (t < s.now + sliceNs)
      | none => false
    let starts : Prop := x.slice = 1 ∧ s.sliceReady e = true ∧ s.engines.any (fun q => q.1 != e.val && q.2.slice == 2) = false
    let deferred := s.upEngine e fun y => { y with slice := 0, sliceGuard := 0 }
    let running := s.upEngine e fun y => { y with slice := 2, test := true, sliceGuard := guard.getD 0 }
    let aborted := ((s.passTo x.sliceGuard).upPlan x.slicePlan fun q => { q with cntAbort := q.cntAbort + 1 })
    let rest := (s.sliceOver e).upEngine e fun y => { y with lastSlice := (s.sliceOver e).now, starveFrom := (s.sliceOver e).now }
    let ended := ({ rest with tst := { rest.tst with
      cntSlice := rest.tst.cntSlice + 1, nextSlice := Tab.set rest.tst.nextSlice e ((Tab.get 0 rest.tst.nextSlice e + 1) % 64) } } : State).event (64 + 8 * e + 4)
    let t := s.passTo (x.starveFrom + 100000000)
    let starved := ((t.upEngine e fun y => { y with starveFrom := t.now }).fault fltTestStarved 0 255 e 0).event 353
    let bump := fun (q : Nat × Plan) =>
      if q.2.points.any (fun pt => ptKind pt == 1 && ptEngine pt == e.val) = true then (q.1, { q.2 with cntStarved := q.2.cntStarved + 1 }) else q
    let blocks := testList p
    let offered := s.passTo (x.lastSlice + s.tst.interval * 1000000)
    let code := s.sec.code
    let closed : Prop := code < 1 ∨ 5 < code
    let down : State := { a with tst := { a.tst with runs := a.tst.runs ++ [{ no := p.hdr.no, shut := true, todo := blocks }], phase := 1 } }
    let w := s.hal.words
    let res : TestRes := { result := if ok then 1 else 2, dur := wd dur, whereLo := if ok then 0 else wd loc, whereHi := if ok then 0 else wd (loc / 2 ^ 32)
                           time := (w.getD 0 0, w.getD 1 0, w.getD 2 0), sig := sig }
    let run : TestRun := { r with active := r.active.filter (· ≠ b.val), passed := r.passed + if ok then 1 else 0, failed := r.failed + if ok then 0 else 1
                                  results := Tab.set r.results b res }
    let again := s.reinit b
    let done : State := { again with tst := { again.tst with runs := again.tst.runs.map fun (q : TestRun) => if q.no = r.no then run else q, latest := Tab.set again.tst.latest b res } }
    let used := [0, 1, 2, 3].find? fun j => (Tab.get ({} : LoopBack) s.tst.loops j).depth != 0 &&
      (Tab.get ({} : LoopBack) s.tst.loops j).iface == p.f 4 2 0 && (Tab.get ({} : LoopBack) s.tst.loops j).index == p.f 4 10 4
    let slot := used.or ([0, 1, 2, 3].find? fun j => (Tab.get ({} : LoopBack) s.tst.loops j).depth == 0)
    let dp := fun (i : Nat) => match s.partOf i with
      | some q => !(s.part q).tt
      | none => false
    exec (.dpSliceDue e) s = .next (if s.tst.dpMask.getLsbD e = false ∨ s.tst.engines.getLsbD e = true ∨ x.slice ≠ 0 then s
      else offered.upEngine e fun y => { y with slice := 1, sliceDp := true
                                                sliceGuard := ((offered.nextLaunch e [1] offered.now).map fun t => t - 20000).getD 0 }) ∧
    (¬ starts → exec (.sliceStart e) s = .next s) ∧
    (starts → exec (.sliceStart e) s = .next (
      if late = true ∨ (s.cpw.reef = 3 ∧ 70000 < s.cpw.power) then
        (if x.sliceDp = true then deferred else deferred.upPlan x.slicePlan fun q => { q with cntDefer := q.cntDefer + 1 }).schedule
      else { running with tst := { running.tst with slice := true, engine := e } })) ∧
    exec (.sliceGuardAbort e) s = .next (if x.slice = 2 ∧ x.sliceGuard ≠ 0 then (aborted.sliceOver e).schedule else s) ∧
    (x.slice ≠ 2 → exec (.sliceEnd e ok) s = .next s) ∧
    (x.slice = 2 → x.sliceGuard = 0 ∨ s.now ≤ x.sliceGuard → exec (.sliceEnd e ok) s = .next ((if ok = true then ended else ended.sliceFence e).schedule)) ∧
    (x.slice = 2 → x.sliceGuard ≠ 0 → x.sliceGuard < s.now → exec (.sliceEnd e ok) s = .next (aborted.sliceOver e).schedule) ∧
    (s.slicesDue e = false → exec (.testStarved e) s = .next s) ∧
    (s.slicesDue e = true → exec (.testStarved e) s = .next { starved with plans := starved.plans.map bump }) ∧
    (Applies 0x007 k p s → exec (.devShutdown k) s = .next (
      if closed then s.refusal k p stState (wd code) 0
      else if s.plinth.mode = mPolicy ∧ s.planRuns = true then s.refusal k p stState (wd s.dev) 0
      else (down.enterDev devShutdown).retirePlans.shutGo)) ∧
    (Applies 0xA00 k p s → exec (.testRun k) s = .next (
      if closed then s.refusal k p stState (wd code) 0
      else if blocks.any u.testHeld = true then s.refusal k p stState (wd s.dev) 0
      else if blocks.any (fun i => s.tst.runs.any fun q => q.todo.contains i || q.active.contains i) = true then s.refusal k p stBusy 0 0
      else ({ a with tst := { a.tst with runs := a.tst.runs ++ [{ no := p.hdr.no, todo := blocks }] } } : State).testGo)) ∧
    (s.tst.runs.find? (fun q => q.active.contains b.val) = none → exec (.testBlockComplete b ok dur loc sig) s = .next s) ∧
    (s.tst.runs.find? (fun q => q.active.contains b.val) = some r → exec (.testBlockComplete b ok dur loc sig) s = .next (
      (if ok = true ∨ r.shut = true then done else done.fenceBlock b loc).testGo)) ∧
    (Applies 0xA02 k p s → closed → exec (.loopbackSet k) s = .next (s.refusal k p stState (wd code) 0)) ∧
    (Applies 0xA02 k p s → ¬ closed → p.f 4 14 12 = 0 → used = none → exec (.loopbackSet k) s = .next (s.refusal k p stState (wd s.dev) 0)) ∧
    (Applies 0xA02 k p s → ¬ closed → p.f 4 14 12 = 0 → used = some n → ∃ lo hi f, exec (.loopbackSet k) s =
      .next (({ u with tst := { s.tst with loops := Tab.erase s.tst.loops n }, free := f } : State).final p.hdr stOk { lo := lo, hi := hi })) ∧
    (Applies 0xA02 k p s → ¬ closed → p.f 4 14 12 ≠ 0 → u.loopOpen (p.f 4 2 0) (p.f 4 10 4) = false → exec (.loopbackSet k) s = .next (s.refusal k p stState (wd s.dev) 0)) ∧
    (Applies 0xA02 k p s → ¬ closed → p.f 4 14 12 ≠ 0 → u.loopOpen (p.f 4 2 0) (p.f 4 10 4) = true → slot = none → exec (.loopbackSet k) s = .next (s.refusal k p stNospace 0 0)) ∧
    (Applies 0xA02 k p s → ¬ closed → p.f 4 14 12 ≠ 0 → u.loopOpen (p.f 4 2 0) (p.f 4 10 4) = true → slot = some n →
      l = { iface := p.f 4 2 0, index := p.f 4 10 4, depth := p.f 4 14 12, pattern := p.f 4 17 16 } →
      exec (.loopbackSet k) s = .next (({ u with tst := { s.tst with loops := Tab.set s.tst.loops n l } } : State).final p.hdr stOk { lo := wd n })) ∧
    (Applies 0xA03 k p s → exec (.testRotateCfg k) s = .next (
      if (bitsOf 8 (p.f 4 7 0)).all dp = false then s.refusal k p stState (wd s.dev) 0
      else ({ u with tst := { s.tst with dpMask := BitVec.ofNat 8 (p.f 4 7 0), interval := p.f 4 23 8 } } : State).final p.hdr stOk {}))

/-- PLN_CONFIG is refused before Plinth has booted and while an object streams; else the object goes to staging and the
packet waits. At its verification it is ST_RANGE below 80 bytes, ST_AUTH where the signature or counter fails, refused
as its mode or content says, and else its counter is recorded and it is applied. PLN_MODE_SET is ST_AUTH without a
good signature block, ST_STATE in a mode or with a condition that forbids it, ST_BUSY behind another request, and else
the counter is recorded and the request stands; a rising RESTART edge turns a restart into a request, and 10 s without
one end it with ST_STATE. TRIM_TRACE_CFG needs its signature and no read in progress, and arms a new capture;
TRIM_TRACE_READ is refused while a capture is armed or a read goes on or for more records than are held, and is
answered when the oldest records are in host memory. (R338, R339, R345, R346, R347, R348, R426, 14_plinth_safety.md) -/
def Obligations.PlinthIsConfiguredAndItsModesAsked : Prop :=
  ∀ (k : Nat) (p : Packet) (s : State) (slot ctr : Nat) (r : Refuse) (ps : List Word) (ob : Nat) (o : OpenReq),
    let x := s.plinth
    let u := s.without k
    let m := p.f 4 2 0
    let sig := s.plnSig ((p.params.drop 1).take 20) 0 (wordBytes (p.w 4))
    let legal : Prop := (m = 0 ∧ x.mode = mMaq) ∨ (m = 1 ∧ x.mode = mPolicy) ∨ (m = 2 ∧ (x.mode = mInit ∨ x.mode = mStop)) ∨
      (m = 3 ∧ (x.mode = mPolicy ∨ x.mode = mMaq))
    let bars : Prop := x.booted = false ∨ ¬ legal ∨ (m = 0 ∧ (s.actionPlan = none ∨ x.shadow.take 10 ≠ List.replicate 10 true)) ∨
      (m = 2 ∧ (s.allVerified = false ∨ x.persist ≠ 0))
    let asked := (s.accepted k p 0 m 0).plnCounter slot ctr
    let n := p.f 4 6 0
    let tsig := s.plnSig ((p.params.drop (3 + n)).take 20) 7 (bytesOf (p.params.take (3 + n)))
    let t := { s with plinth := { x with staging := none } }
    let bs := t.rd (w64 (wat ps 1) (wat ps 2)) (wat ps 3).toNat
    let body := bs.take (bs.length - 80)
    let blk := wordsOf (bs.drop (bs.length - 80))
    let recs := s.trim.traceRecs.reverse.take o.val2
    let moved := s.wrHost (w64 (wat o.params 0) (wat o.params 1)) (bytesOf recs.flatten)
    (Applies 0x710 k p s → exec (.plnConfig k) s = .next (
      if x.booted = false then s.refusal k p stState (wd x.mode) 0
      else if x.staging.isSome then s.refusal k p stBusy 0 0
      else { s.held k p m 0 0 with plinth := { x with staging := some (m, p.params) } })) ∧
    (x.staging = none → exec .configObjectVerified s = .next s) ∧
    (x.staging = some (ob, ps) → bs.length < 80 → exec .configObjectVerified s = .next (t.closeOp 0x710 ob stRange {})) ∧
    (x.staging = some (ob, ps) → 80 ≤ bs.length → t.plnSig blk ob body = none → exec .configObjectVerified s = .next (t.closeOp 0x710 ob stAuth {})) ∧
    (x.staging = some (ob, ps) → 80 ≤ bs.length → t.plnSig blk ob body = some (slot, ctr) → t.refuseObject ob body = some r →
      exec .configObjectVerified s = .next (t.closeOp 0x710 ob r.1 { d0 := r.2.1, d1 := r.2.2 })) ∧
    (x.staging = some (ob, ps) → 80 ≤ bs.length → t.plnSig blk ob body = some (slot, ctr) → t.refuseObject ob body = none →
      exec .configObjectVerified s = .next (((t.accept 0x710 ob).plnCounter slot ctr).applyObject ob body blk)) ∧
    (Applies 0x711 k p s → sig = none → exec (.plnModeSet k) s = .next (s.refusal k p stAuth 0 0)) ∧
    (Applies 0x711 k p s → sig = some (slot, ctr) → bars → exec (.plnModeSet k) s = .next (s.refusal k p stState (wd x.mode) 0)) ∧
    (Applies 0x711 k p s → sig = some (slot, ctr) → ¬ bars → exec (.plnModeSet k) s = .next (
      if x.modeReq.isSome ∨ x.restart = true then s.refusal k p stBusy 0 0
      else if m = 2 then { asked with plinth := { asked.plinth with restart := true, restartAt := asked.pnow } }
      else { asked with plinth := { asked.plinth with modeReq := some m } })) ∧
    exec .plnRestartEdge s = .next (if x.restart = true ∧ x.persist = 0 then { s with plinth := { x with restart := false, modeReq := some 2 } } else s) ∧
    exec .restartWindowExpiry s = .next (
      let due := s.passPln (x.restartAt + 10000000000)
      if x.restart = true then ({ due with plinth := { due.plinth with restart := false } } : State).closeOp 0x711 0 stState { d0 := wd x.mode } else s) ∧
    (Applies 0x712 k p s → tsig = none → exec (.trimTraceCfg k) s = .next (s.refusal k p stAuth 0 0)) ∧
    (Applies 0x712 k p s → tsig = some (slot, ctr) → s.trim.trace = 3 → exec (.trimTraceCfg k) s = .next (s.refusal k p stBusy 0 0)) ∧
    (Applies 0x712 k p s → tsig = some (slot, ctr) → s.trim.trace ≠ 3 → exec (.trimTraceCfg k) s = .next (State.final
      { u.plnCounter slot ctr with trim := { s.trim with
        trace := 1, traceRecs := [], traceSeen := 0, traceLeft := none, traceFault := false
        traceCfg := { nodes := (p.params.drop 3).take n, mode := p.f 4 8 7, trigger := p.f 4 11 9
                      decim := p.f 4 19 12, samples := p.f 5 14 0, pre := p.f 5 30 16, arg := (p.w 6).toNat } } } p.hdr stOk {})) ∧
    (Applies 0x702 k p s → exec (.trimTraceRead k) s = .next (
      if s.trim.trace = 1 then s.refusal k p stState (wd x.mode) 0
      else if s.trim.trace = 3 then s.refusal k p stBusy 0 0
      else if s.trim.traceRecs.length < p.f 6 14 0 then s.refusal k p stRange (det 6 0) 0
      else let a := s.accepted k p 0 s.trim.trace (p.f 6 14 0)
        { a with trim := { a.trim with trace := 3 } })) ∧
    (s.openOf 0x702 0 = none → exec .trimTraceReadComplete s = .next s) ∧
    (s.openOf 0x702 0 = some o → exec .trimTraceReadComplete s = .next (
      ({ moved with trim := { moved.trim with trace := o.val } } : State).close o stOk { lo := wd recs.length, hi := wat (recs.headD []) 0 }))

/-- At a sample instant, with an image, a due replacement is made, the mode asked for is entered, the setpoint taken, the
ramp and the comparator go on, and the sample awaits its frames, or is skipped while the previous one runs. It starts
when every frame is there, or at the end of its wait, with absent nodes counted (R328); a started one ends with its
torques, frames, limits and trace; a late one is FLT_DEADLINE, and of class S0 at three in ten. A Maquette step takes
its codes and its grid, a stale grid as zeros; a grid older than depth_age is FLT_DEPTH_STALE, of class S1 beyond
depth_stop; at its end the result stands or is FLT_MAQUETTE; a late step is discarded with FLT_DEADLINE; a
known-answer test, 100 ms after the last and with no step running, that differs is FLT_MAQUETTE of class S1. Without
what they need these commands change nothing. (R324, R326, R327, R328, R329, R337, R346, R353, R355, R356, R357, R365) -/
def Obligations.TrimAndTheMaquetteRun : Prop :=
  ∀ (s : State) (im : TrimImage) (m : List Byte) (run : TrimRun) (ps : List Word) (t0 : Nat) (b0 b1 : List Int) (r : MaqResult),
    let x := s.trim
    let y := s.plinth
    let t := x.nextT
    let due := (s.passPln t).replaceDue t
    let timed := (due.upTrim fun z => { z with nextT := instantFrom im.period im.phase (t + 1) }).upTwin fun z => { z with hbAt := some (t + hbCheck) }
    let decided := (((timed.twinSample.takeModeReq.takeSetpoint im).rampStep im t).missDue t).decision im t
    let starts : Bool → State → State := fun late v =>
      let counted := im.nodes.foldl (fun (v : State) (n : Nat) => if (v.trim.present im run.t n).isNone = true then v.nodeAbsent im n
        else v.upTrim fun z => { z with miss := Tab.set z.miss n 0 }) v
      let begun : State := if late = true then counted.upTrim fun z => { z with cntStartLate := z.cntStartLate + 1 } else counted
      begun.trimLaw im run (begun.trim.measures im run.t)
    let ended := s.upTrim fun z =>
      { z with run := none, samples := z.samples + 1, lastCyc := run.cycles im % 65536, rx := z.prune im run.t, lastRegion := z.region }
    let tq := ended.sendTorques im run
    let us := sentU im run tq.1
    let kept := (ended.upTrim fun z => { z with uPrev := run.u, uSent := us, bPrev := run.b, altered := us != run.u }).upPlinth fun z =>
      { z with torque := tq.1.foldl (fun l p => Tab.set l p.1 p.2) z.torque, cntClamp := z.cntClamp + wd tq.2 }
    let sent := if run.bad = true ∨ run.late = true then ended else (kept.motorFrames im run tq.1).2.sendFrames im (kept.motorFrames im run tq.1).1
    let checked := sent.plinth.limits.foldl (fun (v : State) (e : List Word) => if v.overLimit e = true then v.plnFault fltLimit 3 0 else v) sent
    let noted : State := if run.late = true then checked else checked.upPlinth fun z => { z with deadHist := (false :: z.deadHist).take 10 }
    let dl := s.passPln (run.t + im.wait + 27000)
    let hist := (true :: dl.plinth.deadHist).take 10
    let missed := (dl.upTrim fun z => { z with run := some { run with late := true } }).upPlinth fun z => { z with deadHist := hist }
    let mi := s.passPln y.maqNext
    let age := mi.plinth.gridAge mi.plinth.maqNext
    let old := fld (mi.plinth.par 4) 15 0 * 1000000
    let worn := fld (mi.plinth.par 4) 31 16 * 1000000
    let stale := mi.plinth.grid.isNone || decide (old < age)
    let codes := (List.range im.ny).map fun i => match mi.trim.latestMeas (wat im.meas i) with
      | none => 0
      | some v => mqCode v (wordAt m ((mqH m 3).toNat + 4 * i))
    let cells := match mi.plinth.grid with
      | some g => if stale = true then List.replicate 4000 0 else g.map fun d => min ((d.toNat / 2 ^ fld (mqH m 1) 3 0 : Nat) : Int) 127
      | none => List.replicate 4000 0
    let step := mi.upPlinth fun z =>
      { z with maqRun := some (mi.plinth.maqNext, codes, cells), maqNext := mi.plinth.maqNext + 1000000
               depthAge := if z.grid.isNone = true then 0xFFFFFFFF else sat32 (age / 1000) }
    let done := s.upPlinth fun z => { z with maqRun := none }
    let hundred := s.passPln (y.katAt + 100000000)
    let tried := hundred.upPlinth fun z => { z with katAt := hundred.pnow }
    let kat := (mqH m 6).toNat
    let sums := mqRun m ((slice m kat im.ny).map sByte) ((slice m (kat + im.ny) 4000).map sByte)
    (x.active.or x.pend = none → exec .trimSampleInstant s = .next s) ∧
    (x.active.or x.pend ≠ none → due.trim.active = none → exec .trimSampleInstant s =
      .next (due.upTrim fun z => { z with nextT := t + ((z.pend.map fun i => i.period).getD 1) })) ∧
    (x.active.or x.pend ≠ none → due.trim.active = some im → exec .trimSampleInstant s = .next (
      if decided.trim.run.isSome = true then decided.upTrim fun z => { z with cntSkip := z.cntSkip + 1 }
      else decided.upTrim fun z => { z with run := some { t := t, set := decided.setpoint } })) ∧
    (x.active = some im → x.run = some run → run.started = false → im.nodes.all (fun n => (x.frameFor im run.t n).isSome) = true →
      exec .trimSampleStart s = .next (starts (decide (run.t < s.pnow)) s)) ∧
    (x.active = some im → x.run = some run → run.started = true ∨ im.nodes.all (fun n => (x.frameFor im run.t n).isSome) = false →
      exec .trimSampleStart s = .next s) ∧
    (x.active = some im → x.run = some run → exec .trimWaitExpiry s = .next (
      if run.started = true then s else starts (decide (0 < im.wait)) (s.passPln (run.t + im.wait)))) ∧
    (x.active = some im → x.run = some run → exec .trimSampleEnd s = .next (if run.started = true then noted.traceSample run x.lastRegion else s)) ∧
    (x.active = some im → x.run = some run → exec .trimDeadlineExpiry s = .next (
      if run.late = true ∨ run.bad = true then s
      else missed.plnFault fltDeadline (if 3 ≤ (hist.filter id).length then 4 else 0) 0)) ∧
    (x.run = none → exec .trimSampleStart s = .next s ∧ exec .trimWaitExpiry s = .next s ∧ exec .trimSampleEnd s = .next s ∧ exec .trimDeadlineExpiry s = .next s) ∧
    (y.params = some ps → y.model = some m → x.active = some im → exec .maquetteStepInstant s = .next (
      if step.plinth.grid.isSome = true ∧ worn < age then step.plnFault fltDepthStale 3 0
      else if step.plinth.grid.isSome = true ∧ old < age then step.plnFault fltDepthStale 0 0
      else step)) ∧
    (y.maqRun = some (t0, b0, b1) → y.model = some m → x.active = some im → done.maqResult im t0 (mqOut m (mqRun m b0 b1)) = some r →
      exec .maquetteStepEnd s = .next (done.upPlinth fun z => { z with maq := some r })) ∧
    (y.maqRun = some (t0, b0, b1) → y.model = some m → x.active = some im → done.maqResult im t0 (mqOut m (mqRun m b0 b1)) = none →
      exec .maquetteStepEnd s = .next (done.plnFault fltMaquette 0 0)) ∧
    (y.maqRun = some (t0, b0, b1) → exec .maquetteDeadline s = .next (
      ((s.passPln (t0 + 500000)).upPlinth fun z => { z with maqRun := none }).plnFault fltDeadline 0 1)) ∧
    (y.maqRun = none → exec .maquetteStepEnd s = .next s ∧ exec .maquetteDeadline s = .next s) ∧
    (y.model = some m → x.active = some im → exec .maquetteKat s = .next (
      if y.maqRun.isSome = true then s
      else if crc32c (sums.flatMap fun i => natBytes 5 (i % 2 ^ 40).toNat) = mqH m 7 then tried else tried.plnFault fltMaquette 3 0)) ∧
    (y.model = none → exec .maquetteStepInstant s = .next s ∧ exec .maquetteKat s = .next s)

/-- A lockstep mismatch, an uncorrectable SRAM error, a supply or clock fault, an output that differs from its command and
a test pulse (every 500 ms; its phase is the model's choice, log 177) that is not seen leave a record of class S0 with
Plinth's time, and in every mode Plinth STOPPED with both outputs in stop, no ramp, no instance to decide and no
request. A fault of class S1 (a free run that has lasted free_max, once) makes POLICY_LED and MAQUETTE_LED RAMPING and
changes no other mode. A correctable error is counted. SS1 follows SS0 after its delay; a ramp whose grace ends
without standstill stops with FLT_LIMIT. A reset leaves INIT with the outputs in stop and the replay counters; an
image that Plinth's checks accept boots it, and the store then holds its version; and without one by 500 ms of its own
time it stays in INIT. (R345, R346, R361, R362, R363, R364, R365, R366, R432, R466, R477, R484) -/
def Obligations.SafetyFaultsStopThePlinth : Prop :=
  ∀ (s : State) (pin : Fin 4) (manifest image key : List Byte),
    let y := s.plinth
    let rec' := fun (at' : State) (code cls unit : Nat) => ({ code := code, cls := cls, ctx := 255, unit := unit, sec := at'.pnow / 1000000000, ns := at'.pnow % 1000000000, frac := at'.plinth.time % 2 ^ 32 / 2 ^ 16, arg0 := 0, arg1 := 0, arg2 := 0 } : FaultRec)
    let stops : Instr → State → Nat → Nat → Prop := fun c at' code unit => ∃ t, exec c s = .next t ∧
      t.plinth.mode = 0x84 ∧ t.plinth.ss0 = true ∧ t.plinth.ss1 = true ∧ t.plinth.pins = 0 ∧ t.plinth.rampPend = false ∧
      t.plinth.modeReq = none ∧ t.plinth.restart = false ∧ t.plinth.inst = none ∧ t.plinth.next = none ∧ t.plinth.log = y.log.add (rec' at' code 4 unit)
    let pulse := s.passPln (s.pulseAt pin)
    let leads := y.mode = 0x81 ∨ y.mode = 0x82
    let pulsed := y.params.isSome = true ∧ bit (y.par 0) 14 = true ∧ y.pins.getLsbD pin = true
    let brake := s.passPln (y.ss0At + fld (y.par 5) 31 16 * 1000000)
    let grace := s.passPln (y.rampT0 + (fld (y.par 1) 15 0 + fld (y.par 1) 31 16) * 1000000)
    let slot := fld (wordAt manifest 0) 6 5
    let svn := fld (wordAt manifest 12) 7 0
    let good : Prop := ∃ k, s.fwKey slot = some k ∧ sha512 key = sha512 k ∧ manifestOk manifest key 1 s.sec.svnP = true ∧
      image.length = (wordAt manifest 8).toNat ∧ sha512 image = slice manifest 64 64
    stops .lockstepMismatch s 0x0501 0 ∧ stops (.plnSramError true) s 0x0502 0 ∧ stops .plnSupplyFault s 0x0503 0 ∧ stops .plnClockFault s 0x0504 0 ∧
    stops (.safeOutputMismatch pin) s 0x0506 pin ∧ (pulsed → stops (.testPulse pin false) pulse 0x0506 pin) ∧
    (pulsed → exec (.testPulse pin true) s = .next (pulse.out 2 (16 + pin) [])) ∧ (¬ pulsed → ∀ seen, exec (.testPulse pin seen) s = .next s) ∧
    exec (.plnSramError false) s = .next { s with plinth := { y with sramCorr := y.sramCorr + 1 } } ∧
    (∀ since, y.freeRun = true → y.freeSince = some since → y.params.isSome = true → ∃ t, exec .freeRunLimit s = .next t ∧
      t.plinth.log = y.log.add (rec' (s.passPln (since + fld (y.par 5) 15 0 * 1000000000)) 0x0505 3 0) ∧ t.plinth.freeSince = none ∧
      (leads → t.plinth.mode = 0x83 ∧ t.plinth.rampPend = true ∧ t.plinth.rampK = 0 ∧ t.plinth.inst = none ∧ t.plinth.next = none ∧ t.plinth.modeReq = none ∧
        t.plinth.ss0 = y.ss0 ∧ t.plinth.ss1 = y.ss1) ∧
      (¬ leads → t.plinth.mode = y.mode ∧ t.plinth.rampPend = y.rampPend ∧ t.plinth.ss0 = y.ss0 ∧ t.plinth.ss1 = y.ss1 ∧ t.plinth.modeReq = y.modeReq)) ∧
    exec .ss1Stop s = .next (if y.ss1Wait = true then brake.upPlinth fun z => { z with ss1 := true, ss1Wait := false, pins := z.pins &&& 3 } else s) ∧
    exec .ss0GraceExpiry s = .next (if y.mode = 0x83 ∧ y.rampPend = false ∧ y.ss0 = false then
      ((grace.upPlinth fun z => { z with ss0 := true, pins := z.pins &&& 12, ss1Wait := true, ss0At := grace.pnow, rampPend := false }).plnMode 0x84).plnFault fltLimit 3 0 else s) ∧
    (∃ t, exec .plnReset s = .next t ∧ t.plinth = { counters := y.counters, awaiting := true } ∧ t.plinth.mode = 0x80 ∧ t.plinth.ss0 = true ∧ t.plinth.ss1 = true ∧
      t.plinth.pins = 0 ∧ t.trim = {} ∧ t.monitors = []) ∧
    (y.awaiting = true → s.cpw.reef ≠ 4 → good → exec (.plinthBoot manifest image key) s = .next (({ s with
      plinth := { y with awaiting := false, booted := true }
      sec := { s.sec with verP := wordAt manifest 16, svnP := max s.sec.svnP svn, imgP := sha512 image } } : State).plnConfirm (wordAt manifest 16))) ∧
    (∀ v, s.cpw.coreHeld = false → s.store.writing = none → s.store.cur.hiP.toNat < v.toNat → s.plnConfirm v =
      { s with store := { s.store with
        cur := { s.store.cur with runP := v, hiP := v }
        writing := some { s.store.cur with runP := v, hiP := v, seq := s.store.cur.seq + 1 }, again := false
        bank0 := if s.store.bank then none else s.store.bank0, bank1 := if s.store.bank then s.store.bank1 else none } }) ∧
    (y.awaiting = true → s.cpw.reef ≠ 4 → ¬ good → exec (.plinthBoot manifest image key) s = .next { s with plinth := { y with awaiting := false } }) ∧
    (y.awaiting = false ∨ s.cpw.reef = 4 → exec (.plinthBoot manifest image key) s = .next s) ∧
    exec .plinthBootTimeout s = .next (if y.awaiting = true then (s.passPln 500000000).upPlinth fun z => { z with awaiting := false } else s)

/-- TWIN_LINK_UP trains from DOWN, or from LOST with the link down, unless the link failed its test. Training ends
INDEPENDENT with 16 or 8 lanes of a peer that authenticates; other lanes are FLT_LINK, a peer of the same side or
without proof ST_AUTH, both DOWN. TWIN_MODE_SET is ST_STATE where the mode is not legal, ST_BUSY behind another, and
waits; with both requests there and matching the pair changes its mode, or refuses it; 1 s without the peer's ends it
with ST_STATE. TWIN_HANDOVER needs SHADOW, the ACTIVE role and an eligible peer. A bad token or block is counted; a
good token is taken, and mirrors a stop; a good block of the own dimensions is adopted by the STANDBY. At a check, its
time after the last sample instant (whose length is the model's choice, log 178), an eligible STANDBY that saw neither
sign takes over, sends its held frames and is LOST; one sign alone is counted and FLT_TWIN_LOST. (R393, R394, R396,
R397, R401, R402, R403, R404, R405, R406, R408, R444) -/
def Obligations.TheTwinTrainsPairsAndTakesOver : Prop :=
  ∀ (k : Nat) (p : Packet) (s : State) (peer : PeerAuth) (facts : PeerFacts) (elig : Bool) (ws tok : List Word) (im : TrimImage) (o : OpenReq),
    let x := s.twin
    let legal := s.twinLegal (p.f 4 1 0)
    let a := s.accepted k p 0 0 0
    let down := s.upTwin fun x => { x with state := 0x90 }
    let asked := s.upTwin fun x => { x with peerReq := some facts, peerAt := s.hal.nowNs }
    let waited := s.passTo (x.reqAt + 1000000000)
    let w := wat o.params 0
    let prs := (List.range (fld w 11 8)).map fun i => (fld (wat o.params (1 + i)) 5 0, fld (wat o.params (1 + i)) 13 8)
    let both := asked.upTwin fun x => { x with peerReq := none }
    let fits := if fld w 1 0 = 1 then both.shadowFit facts else if fld w 1 0 = 2 then !facts.unfit && prs.all (fun q => both.splitFit q.1) else true
    let paired := both.upTwin fun x =>
      { x with state := if fld w 1 0 = 0 then 0x92 else if fld w 1 0 = 1 then 0x93 else 0x94, pairs := if fld w 1 0 = 2 then prs else []
               role := if fld w 1 0 = 1 then bit w 2 else true, eligible := false, adopted := 0, adoptedNow := false, prefixes := [], peerPrefixes := []
               peerMode := if fld w 1 0 = 1 then facts.plnMode else x.peerMode }
    let bad := s.upTwin fun x => { x with cntBad := x.cntBad + 1 }
    let taken := s.upTwin fun x => { x with token := some ws, peerMode := fld (wat ws 0) 15 8, rej := fld (wat ws 3) 17 0 }
    let mirrored := if bit (wat ws 0) 6 = true then
        if fld (wat ws 0) 15 8 = 0x83 then taken.plnS1 else if fld (wat ws 0) 15 8 = 0x84 then taken.plnS0 else taken
      else taken
    let whole := ws.length ≠ 0 ∧ wat ws (ws.length - 1) = crcWords (ws.take (ws.length - 1))
    let own := x.role = false ∧ fld (wat ws 0) 7 0 = im.nx ∧ fld (wat ws 0) 15 8 = im.nu ∧ fld (wat ws 0) 22 16 = im.outNodes.length ∧
      ws.length = 2 + im.nx + im.nu + im.outNodes.length
    let at' := (s.passPln (x.hbAt.getD 0)).upTwin fun x => { x with hbAt := none }
    let seen := at'.upTwin fun x => { x with token := none, edge := false }
    let checked := if wat tok 2 = seen.twin.frameCrc then seen else seen.upTwin fun x => { x with cntDiverge := x.cntDiverge + 1 }
    let cleared := checked.upPlinth fun y => { y with txHold := [] }
    let missed := fun (v : State) => (v.upTwin fun x => { x with cntHbMiss := x.cntHbMiss + 1 }).plnFault fltTwinLost 0 0
    let released := seen.plinth.txHold.foldl (fun (v : State) (f : Nat × EthFrame) => v.queueFrame f.1 7 f.2) (seen.upPlinth fun y => { y with txHold := [] })
    let took := (released.upTwin fun x =>
      { x with role := true, eligible := false, aliveOut := !x.aliveOut, cntTakeover := x.cntTakeover + 1, state := 0x95 }).plnFault fltTwinLost 0 0
    (Applies 0x800 k p s → exec (.twinLinkUp k) s = .next (
      if s.tst.shrFail = false ∧ (x.state = 0x90 ∨ (x.state = 0x95 ∧ x.up = false)) then
        a.upTwin fun x => { x with state := 0x91, side := p.f 4 0 0 == 1, peerKey := bytesOf ((p.params.drop 1).take 8), preset := if p.hdr.expert = true then p.f 13 3 0 else 0, boost := if p.hdr.expert = true then p.f 13 7 4 else 0 }
      else s.refusal k p stState (wd x.state) 0)) ∧
    exec (.twinTrainingComplete peer) s = .next (
      if x.state ≠ 0x91 then s
      else if peer.lanes ≠ 16 ∧ peer.lanes ≠ 8 then down.closeOp 0x800 0 stFault { fault := fltLink }
      else if peer.side = x.side ∨ peer.refused = true ∨ edVerify x.peerKey peer.sig peer.nonce = false then down.closeOp 0x800 0 stAuth {}
      else (s.upTwin fun x => { x with state := 0x92, lanes := peer.lanes, up := true }).closeOp 0x800 0 stOk { lo := wd peer.lanes }) ∧
    (Applies 0x801 k p s → exec (.twinModeSet k) s = .next (
      if legal = false then s.refusal k p stState (wd x.state) 0
      else if (s.openOf 0x801 0).isSome = true then s.refusal k p stBusy 0 0
      else (a.upTwin fun x => { x with reqAt := a.hal.nowNs }).twinTry)) ∧
    (s.openOf 0x801 0 = none → exec (.twinPeerModeRequest facts) s = .next asked) ∧
    (s.openOf 0x801 0 = some o → reqMatch (fld w 1 0) (bit w 2) prs facts = false → exec (.twinPeerModeRequest facts) s = .next asked) ∧
    (s.openOf 0x801 0 = some o → reqMatch (fld w 1 0) (bit w 2) prs facts = true → exec (.twinPeerModeRequest facts) s = .next (
      if both.twinLegal (fld w 1 0) = false ∨ fits = false then both.close o stState { d0 := wd both.twin.state } else paired.close o stOk {})) ∧
    exec .twinModeTimeout s = .next (if (s.openOf 0x801 0).isNone = true then s
      else (waited.upTwin fun x => { x with peerReq := none }).closeOp 0x801 0 stState { d0 := wd x.state }) ∧
    (Applies 0x803 k p s → exec (.twinHandover k elig) s = .next (
      if x.state = 0x93 ∧ x.role = true ∧ elig = true ∧ x.handover = 0 then a.upTwin fun x => { x with handover := 1 }
      else s.refusal k p stState (wd x.state) 0)) ∧
    (wat ws 7 ≠ crcWords (ws.take 7) → exec (.heartbeatTokenReceive ws) s = .next bad) ∧
    (wat ws 7 = crcWords (ws.take 7) → x.role = true → exec (.heartbeatTokenReceive ws) s = .next taken) ∧
    (wat ws 7 = crcWords (ws.take 7) → x.role = false → exec (.heartbeatTokenReceive ws) s = .next (mirrored.upTwin fun x =>
      { x with eligible := mirrored.twinEligible, handover := if bit (wat ws 0) 5 = true then 3 else x.handover })) ∧
    (¬ whole → exec (.stateBlockReceive ws) s = .next bad) ∧
    (whole → s.trim.active = some im → exec (.stateBlockReceive ws) s = .next (if own then s.adopt im ws else s)) ∧
    exec .twinAliveEdge s = .next { s with twin := { x with aliveIn := !x.aliveIn, edge := true } } ∧
    (x.hbAt = none → exec .heartbeatCheck s = .next s) ∧
    (x.hbAt ≠ none → x.role = true → exec .heartbeatCheck s = .next at') ∧
    (x.hbAt ≠ none → x.role = false → x.token = none → exec .heartbeatCheck s = .next (
      if x.edge = true then missed seen else if seen.twin.eligible = true then took.event 450 else seen)) ∧
    (x.hbAt ≠ none → x.role = false → x.token = some tok → exec .heartbeatCheck s = .next (if x.edge = true then cleared else missed cleared))

/-- A session packet waits while the session's work goes on, and is ST_BUSY while the service port holds the session.
UPD_OPEN wants IDLE and opens on a manifest that passes its checks; UPD_BLOCK wants RECEIVING or SUSPENDED, checks its
block, and programs it; at its end the block is received, or FLT_MEM_UNCORR. UPD_VERIFY wants COMPLETE; at its end the
image and manifest agree and it is VERIFIED, or ST_AUTH and IDLE. UPD_ACTIVATE is refused as R438 says, and at once or
at its instant the image is staged; a staged image that no longer agrees is ST_AUTH and IDLE, and the activation is
off where Plinth has left STOPPED meanwhile; else the store is to name its slot. UPD_ABORT wants an open session; the
tool's abort that waited for a block or a verification follows its end. A write of the store that ends is made once
more where its read-back failed, else it is over, and what waited goes on. (R45, R434, R435, R436, R437, R438, R440,
R441, R442, 18_security_boot_update.md) -/
def Obligations.UpdatesFollowTheirSession : Prop :=
  ∀ (k : Nat) (p : Packet) (s : State) (ok : Bool) (i : Nat) (data : List Byte) (t : Nat) (r : Refuse),
    let u := s.without k
    let x := s.upd
    let a := s.accepted k p 0 0 0
    let sess : Nat → Instr → State → Prop := fun op c v =>
      (Applies op k p s → s.svp.opened = true → (op ≠ 0x901 → s.updWorks = false) → exec c s = .next (s.refusal k p stBusy 0 0)) ∧
      (Applies op k p s → s.svp.opened = false → (op ≠ 0x901 → s.updWorks = false) → exec c s = .next v) ∧
      (op ≠ 0x901 → s.updWorks = true → exec c s = .next s)
    let m := s.rdHost (p.a 4) (p.f 6 17 0)
    let st := s.openStatus m
    let n := p.f 4 15 0
    let blk := s.rdHost (p.a 5) (p.f 7 16 0)
    let bst := s.blockStatus n blk
    let ab := s.accepted k p 0 n 0
    let slot := s.sessIdx
    let free := s.upUpd fun y => { y with busy := none }
    let good := free.upSlotOf slot fun y =>
      { y with blocks := Tab.set y.blocks i data, progress := if y.progress.contains i = true then y.progress else i :: y.progress }
    let lost := free.upSlotOf slot fun y => { y with blocks := Tab.erase y.blocks i }
    let agrees := sha512 (s.slotImage slot) = slice s.sessManifest 64 64
    let seen := s.upUpd fun y => { y with verifying := false }
    let named := s.storePut fun q => if q.sessTarget = 1 then { q with slotP := s.store.cur.sessSlot }
      else { q with slotC := s.store.cur.sessSlot, tries := 1, failA := q.failA && s.store.cur.sessSlot != 0, failB := q.failB && s.store.cur.sessSlot != 1 }
    sess 0x901 (.updOpen k) (
      if x.state ≠ 0x60 then s.refusal k p stState (wd x.state) 0
      else if st = stOk then (u.openSession m false).final p.hdr stOk { lo := wd (mfBlocks m) } else s.refusal k p st (openField m st) 0) ∧
    sess 0x902 (.updBlock k) (
      if x.state ≠ 0x61 ∧ x.state ≠ 0x62 then s.refusal k p stState (wd x.state) 0
      else if bst = stRange then s.refusal k p stRange (if mfBlocks s.sessManifest ≤ n then det 4 0 else det 7 0) 0
      else if bst = stAuth then (a.event 321).closeOp 0x902 0 stAuth {}
      else if (s.slotOf slot).progress.contains n = true then a.updReceived.closeOp 0x902 0 stOk { d1 := 1 }
      else (ab.updState 0x61).upUpd fun y => { y with busy := some (n, blk) }) ∧
    (x.busy = none → exec (.updBlockProgrammed ok) s = .next s) ∧
    (x.busy = some (i, data) → exec (.updBlockProgrammed ok) s = .next (
      if ok = true then (good.updReceived.updEnd 0x902 4 stOk {}).svpAborts
      else ((lost.fault fltMemUncorr 1 255 0 0).updEnd 0x902 4 stFault { fault := fltMemUncorr }).svpAborts)) ∧
    sess 0x903 (.updVerify k) (
      if x.state ≠ 0x63 then s.refusal k p stState (wd x.state) 0 else a.upUpd fun y => { y with verifying := true }) ∧
    exec .updVerifyComplete s = .next (
      if x.verifying = false then s
      else if agrees ∧ s.mfSigned s.sessManifest = true ∧ s.mfFresh s.sessManifest = true then ((seen.updState 0x64).updEnd 0x903 5 stOk {}).svpAborts
      else (seen.updEnd 0x903 5 stAuth {}).updIdle.svpAborts) ∧
    (s.activateRefusal = some r → sess 0x904 (.updActivate k) (s.refusal k p r.1 r.2.1 r.2.2)) ∧
    (s.activateRefusal = none → sess 0x904 (.updActivate k) (
      if p.hdr.expert = true then
        if timeNs p.params 4 < s.hal.nowNs + 1000000 then s.refusal k p stRange (det 4 0) 0
        else (a.updState 0x65).upUpd fun y => { y with atNs := some (timeNs p.params 4) }
      else (a.updState 0x65).upUpd fun y => { y with staging := true })) ∧
    (x.atNs = none → exec .updActivateInstant s = .next s) ∧
    (x.atNs = some t → exec .updActivateInstant s = .next ((s.passTo t).upUpd fun y => { y with atNs := none, staging := true })) ∧
    exec .updStagingComplete s = .next (
      if x.staging = false then s
      else if ¬ agrees then (s.updEnd 0x904 6 stAuth {}).updIdle
      else if s.plnShut = true then s.activateOff
      else named.upUpd fun y => { y with staging := false, acting := s.storeWaits }) ∧
    sess 0x905 (.updAbort k) (
      if x.state < 0x61 ∨ 0x64 < x.state then s.refusal k p stState (wd x.state) 0 else u.updAbort.final p.hdr stOk {}) ∧
    (s.store.writing = none → exec (.storeWriteComplete ok) s = .next s) ∧
    (∀ q, s.store.writing = some q → ok = true → exec (.storeWriteComplete true) s = .next (s.upStore fun y =>
      { y with writing := none, cur := { y.cur with seq := q.seq }, seq := wd q.seq, bank := !y.bank
               bank0 := if y.bank then some q else y.bank0, bank1 := if y.bank then y.bank1 else some q }).storeNext.updStored.testStored) ∧
    (∀ q, s.store.writing = some q → s.store.again = false → exec (.storeWriteComplete false) s = .next (s.upStore fun y => { y with again := true })) ∧
    (∀ q, s.store.writing = some q → s.store.again = true → exec (.storeWriteComplete false) s =
      .next (s.upStore fun y => { y with writing := none, fail := true }).storeNext.updStored.testStored)

/-- A tool frame that is bad, comes over a looped port, or is not answered in the present state changes nothing; any other
counts as the last valid one and has the effect of R439 and its answer: status, a piece of a manifest, a session
(FORCE takes it from the host), a chunk and with the last one the block's check, work that is answered at its end, an
abort, after the block or the verification under way, a transition with the reset after it, a fused key. SEC_ATTEST is
ST_STATE in BLANK, RMA and SCRAPPED, else the signed report is in host memory. LC_TRANSITION and DBG_SESSION need
their signatures; a transition not listed is ST_STATE, a listed one has its effect, and resets the die unless it is to
or from FIELD_DEBUG; a debug request outside FIELD_DEBUG is ST_STATE, and a hold belongs to an open session and to one
engine at a time (log 164). BOOT alone locks the tables. A session is aborted 5 s after its last valid frame. (R159,
R425, R426, R427, R429, R437, R438, R439, R440, 18_security_boot_update.md) -/
def Obligations.TheServicePortAndSecServe : Prop :=
  ∀ (k : Nat) (p : Packet) (s : State) (f : SvpFrame) (m : Fin 64) (v : Word) (c : Option (Nat × Nat)) (sig : Nat × Nat) (data : List Byte),
    let u := s.without k
    let a := s.accepted k p 0 0 0
    let now := s.upSvp fun x => { x with frameAt := s.hal.nowNs }
    let frame : Nat → Instr → State → Prop := fun typ b r =>
      (f.ok = true ∧ s.svpOpen typ = true ∧ s.looped 4 0 = false → exec b s = .next r) ∧
      (¬ (f.ok = true ∧ s.svpOpen typ = true ∧ s.looped 4 0 = false) → exec b s = .next s)
    let ans := fun (t : State) (st : Nat) => t.svpAnswer f.seq st
    let work := fun (typ code : Nat) (g : State) =>
      if s.svp.opened = false ∨ s.upd.state ≠ code ∨ s.updWorks = true then ans now stState
      else g.upSvp fun x => { x with pendSeq := x.pendSeq ++ [(typ, f.seq)] }
    let off := leNat (slice f.payload 0 4)
    let mf := assemble s.svp.manifest
    let ready := if s.upd.state = 0x60 then now else now.busyOpens.updAbort.upSvp fun x => { x with manifest := s.svp.manifest }
    let w := wordAt f.payload 0
    let i := fld w 15 0
    let put := now.upSvp fun x => { x with chunks := Tab.set x.chunks (16 * i + fld w 19 16) (f.payload.drop 4) }
    let whole := put.upSvp fun x => { x with chunks := x.chunks.filter fun c => c.1 / 16 ≠ i }
    let early := s.svp.opened = false ∨ s.upd.state ≠ 0x61
    let ill := f.payload.length < 4 ∨ 4100 < f.payload.length ∨ fld w 31 20 ≠ 0
    let lc := wordsOf (f.payload.drop 4)
    let illLc := f.payload.length ≠ 84 ∨ fld w 31 3 ≠ 0 ∨ fld w 2 0 = 7
    let cls := (f.payload.getD 0 0).toNat
    let slot := (f.payload.getD 1 0).toNat
    let key := slice f.payload 4 32
    let old := if cls = 0 then s.sec.fwKeys else if cls = 1 then s.sec.ownerKeys else s.sec.safetyKeys
    let secret := s.sec.lc = 0 ∨ s.sec.lc = 5 ∨ s.sec.lc = 6
    let dest := p.f 4 2 0
    let op := p.f 4 1 0
    let e := p.f 4 6 4
    let changed := ((a.ownerCount c).lcEffect dest).closeOp 0x910 0 stOk {}
    let counted := u.ownerCount (some sig)
    let dbg := s.ownerSig 6 ((p.params.drop 1).take 20) (wordBytes (p.w 4))
    let auth := s.lcAuth dest ((p.params.drop 1).take 20)
    frame 1 (.svpHello f) (now.out 3 0x83 (natBytes 1 s.sec.code ++ (if secret then List.replicate 32 0 else identityKey) ++
      wordBytes s.sec.verC ++ wordBytes s.sec.verP ++ natBytes 1 s.upd.state)) ∧
    frame 2 (.svpManifest f) (
      if f.payload.length < 4 ∨ 4100 < f.payload.length ∨ 131264 < off + (f.payload.length - 4) then ans now stRange
      else ans (now.upSvp fun x => { x with manifest := Tab.set x.manifest off (f.payload.drop 4) }) stOk) ∧
    frame 3 (.svpOpen f) (
      if s.svp.opened = true then ans now stState
      else if s.upd.state ≠ 0x60 ∧ f.flags % 2 = 0 then ans now stBusy
      else if ready.openStatus mf = stOk then ans ((ready.openSession mf true).upSvp fun x => { x with opened := true }) stOk
      else ans ready (ready.openStatus mf)) ∧
    (put.svpBlock i = none → frame 4 (.svpData f) (
      if early then ans now stState else if ill then ans now stFormat else if mfBlocks s.sessManifest ≤ i then ans now stRange
      else if (s.slotOf s.sessIdx).progress.contains i = true then ans now stOk else if s.upd.busy.isSome = true then ans now stBusy
      else ans put stOk)) ∧
    (put.svpBlock i = some data → frame 4 (.svpData f) (
      if early then ans now stState else if ill then ans now stFormat else if mfBlocks s.sessManifest ≤ i then ans now stRange
      else if (s.slotOf s.sessIdx).progress.contains i = true then ans now stOk else if s.upd.busy.isSome = true then ans now stBusy
      else if whole.blockStatus i data = stOk then
        (whole.upUpd fun x => { x with busy := some (i, data) }).upSvp fun x => { x with pendSeq := x.pendSeq ++ [(4, f.seq)] }
      else ans (if whole.blockStatus i data = stAuth then whole.event 321 else whole) (whole.blockStatus i data))) ∧
    frame 5 (.svpVerify f) (work 5 0x63 (now.upUpd fun x => { x with verifying := true })) ∧
    frame 6 (.svpActivate f) (
      if s.dev = devShutdown ∨ s.activateRefusal.isSome = true then ans now stState
      else work 6 0x64 ((now.updState 0x65).upUpd fun x => { x with staging := true })) ∧
    frame 7 (.svpAbort f) (if s.svp.opened = false ∨ s.upd.state < 0x61 ∨ 0x64 < s.upd.state then ans now stState
      else if s.updWorks = true then now.upSvp fun x => { x with pendSeq := x.pendSeq ++ [(7, f.seq)] } else ans now.updAbort stOk) ∧
    (s.lcAuth (fld w 2 0) lc = none → frame 8 (.svpLc f) (if illLc then ans now stFormat else ans now stAuth)) ∧
    (s.lcAuth (fld w 2 0) lc = some c → frame 8 (.svpLc f) (
      if illLc then ans now stFormat else if lcListed s.sec.code (fld w 2 0) true = false then ans now stState
      else (ans ((now.ownerCount c).lcEffect (fld w 2 0)) stOk).resetSoon)) ∧
    frame 9 (.svpProvision f) (
      if f.payload.length ≠ 36 ∨ 2 < cls ∨ slice f.payload 2 2 ≠ [0, 0] then ans now stFormat
      else if 3 < slot then ans now stRange
      else if (if cls = 0 then s.sec.lc ≠ 1 else s.sec.lc ≠ 2) ∨ (Tab.find old slot).isSome = true then ans now stState
      else ans (now.upSec fun x =>
        { x with fwKeys := if cls = 0 then Tab.set x.fwKeys slot key else x.fwKeys
                 ownerKeys := if cls = 1 then Tab.set x.ownerKeys slot key else x.ownerKeys
                 safetyKeys := if cls = 2 then Tab.set x.safetyKeys slot key else x.safetyKeys }) stOk) ∧
    exec .svpSessionTimeout s = .next (if s.svp.opened = true then
      (s.passTo (s.svp.frameAt + 5000000000)).updAbort.upSvp fun x => { x with pendSeq := [] } else s) ∧
    (Applies 0x900 k p s → exec (.secAttest k) s = .next (
      if secret then s.refusal k p stState (wd s.sec.code) 0
      else (u.wrHost (p.a 12) (s.report (bytesOf (p.params.take 8)) ++ edSign identitySeed (s.report (bytesOf (p.params.take 8))))).final p.hdr stOk {})) ∧
    (Applies 0x910 k p s → auth = none → exec (.lcTransition k) s = .next (s.refusal k p stAuth 0 0)) ∧
    (Applies 0x910 k p s → auth = some c → exec (.lcTransition k) s = .next (
      if lcListed s.sec.code dest false = false then s.refusal k p stState (wd s.sec.code) 0
      else if dest = 4 ∨ (s.sec.debug = true ∧ dest = 3) then changed else changed.resetSoon)) ∧
    (Applies 0x911 k p s → dbg = none → exec (.dbgSession k) s = .next (s.refusal k p stAuth 0 0)) ∧
    (Applies 0x911 k p s → dbg = some sig → exec (.dbgSession k) s = .next (
      if s.sec.debug = false then s.refusal k p stState (wd s.sec.code) 0
      else if op = 2 ∧ counted.sec.session = false then s.refusal k p stState (wd counted.sec.code) 0
      else if op = 2 ∧ (engNos.any fun d => d != e && (counted.engine d).resHold) = true then s.refusal k p stBusy 0 0
      else (if op = 0 then (if counted.sec.session = true then counted else (counted.upSec fun x => { x with session := true }).event 322)
        else if op = 1 then counted.dbgEnd
        else if op = 2 then counted.upEngine e fun x => { x with resHold := true, resSince := counted.hal.nowNs }
        else counted.holdRelease e).final p.hdr stOk {})) ∧
    (Granted m 0x2500004 true s → exec (.secLockWrite m v) s = .next (if m.val = 48 ∧ bit v 0 = true then s.upSec fun x => { x with locked := true } else s)) ∧
    (Denied m 0x2500004 true s → exec (.secLockWrite m v) s = .next (s.refusedAccess m 1 0x2500004 true))
end

