-- ==== Sys2Proof/Laws/Access.lean ====
section
/-! SUPPORT. What a register access comes to, by what the access table says of it. -/

namespace Sys2Proof.Machine

variable {m off : Nat} {write : Bool} {g : State → State} {s : State}

/-- An access that is granted has its effect. -/
theorem checked_granted (h : Granted m off write s) : s.checked m off write g = g s :=
  (if_neg (by simp [h.1])).trans ((if_neg (by simp [h.2.1])).trans (if_pos h.2.2))

/-- One of the host in D3hot is an unsupported request. -/
theorem checked_asleep (h : Asleep m s) : s.checked m off write g = s.hostUr := if_pos h

/-- One that is denied is a violation. -/
theorem checked_denied (h : Denied m off write s) : s.checked m off write g = s.refusedAccess m 1 off write :=
  (if_neg (by simp [h.1])).trans ((if_neg (by simp [h.2.1])).trans (if_neg (by simp [h.2.2])))

end Sys2Proof.Machine
end

