-- ==== Sys2Proof/Laws/Answer.lean ====
section
/-! SUPPORT. Answers of packet meanings. -/

namespace Sys2Proof.Machine

/-- A choice on an option of a meaning. -/
theorem after_matchOption {α : Type} (s : State) (k : Nat) (p : Packet) (o : Option α) (a : Ans) (f : α → Ans) :
    s.after k p (match o with | none => a | some x => f x) = match o with | none => s.after k p a | some x => s.after k p (f x) := by
  cases o <;> rfl

/-- A packet that cannot be applied yet. -/
theorem after_hold (s : State) (k : Nat) (p : Packet) : s.after k p .hold = s := rfl

/-- A condition that refuses. -/
theorem refuse_yes {c : Bool} {st : Nat} {d : Word} {a : Ans} (h : c = true) : refuseIf c st d a = .refuse st d 0 := by subst h; rfl

/-- One that does not. -/
theorem refuse_no {c : Bool} {st : Nat} {d : Word} {a : Ans} (h : c = false) : refuseIf c st d a = a := by subst h; rfl

end Sys2Proof.Machine
end

