-- ==== Sys2Proof/Laws/Command.lean ====
section
/-! SUPPORT. What a list command's row comes to. -/

namespace Sys2Proof.Machine

variable {op i : Nat} {e : Fin 8} {q : Fin 5} {env : Env} {body : Cx → State → Res} {x : Cx} {s t : State}

/-- The issue of a command. -/
theorem issue_says (h : Issues op e q i s) :
    s.issue op e q i env body = State.settle (s.cx e q i env) (match s.begun e q i env with
      | (t, some a) => Res.uncorr t a
      | (t, none) => body (s.cx e q i env) t) := by
  unfold State.issue
  refine (if_pos h).trans ?_
  generalize s.begun e q i env = p
  obtain ⟨t, _ | a⟩ := p <;> rfl

/-- A command whose operands are readable has the effect of its body. -/
theorem runCommand_runs (h : Runs op e q i env x t s) :
    runCommand op e q i env body s = .next (State.settle x (body x t)) := by
  obtain ⟨h1, h2, h3⟩ := h
  unfold runCommand
  rw [issue_says h1, h2, h3]

/-- One that meets an uncorrectable word or operand stops its job. -/
theorem runCommand_uncorr {a : Nat} (h : Issues op e q i s) (h1 : s.begun e q i env = (t, some a)) :
    runCommand op e q i env body s = .next (State.settle (s.cx e q i env) (Res.uncorr t a)) := by
  unfold runCommand
  rw [issue_says h, h1]

/-- A command that does not issue changes nothing. -/
theorem runCommand_idle (h : ¬ Issues op e q i s) : runCommand op e q i env body s = .next s := by
  unfold runCommand State.issue
  exact congrArg Host.Outcome.next (if_neg h)

end Sys2Proof.Machine
end

