-- ==== Sys2Proof/Laws/State.lean ====
section
/-! SUPPORT. What each update of the state changes: tables, then the state's parts, then the rows of its tables. A lemma that
ends in frame lists every field that stays. -/

namespace Sys2Proof.Machine

/-- The row just written is read back. -/
@[simp] theorem Tab.get_set {α : Type} (d : α) (t : List (Nat × α)) (i : Nat) (x : α) : Tab.get d (Tab.set t i x) i = x := by
  induction t with
  | nil => simp [Tab.set, Tab.get]
  | cons c t ih =>
    obtain ⟨k, y⟩ := c
    unfold Tab.set
    split
    · simp [Tab.get]
    · split
      · simp [Tab.get]
      · rename_i h _
        simp [Tab.get, h, ih]

/-- Every other row is as before. -/
theorem Tab.get_set_other {α : Type} (d : α) (t : List (Nat × α)) (i j : Nat) (x : α) (h : i ≠ j) :
    Tab.get d (Tab.set t i x) j = Tab.get d t j := by
  induction t with
  | nil => simp [Tab.set, Tab.get, h]
  | cons c t ih =>
    obtain ⟨k, y⟩ := c
    unfold Tab.set
    split
    · rename_i hk
      simp [Tab.get, h, hk]
    · split
      · simp [Tab.get, h]
      · simp [Tab.get, ih]

/-- The same of a row that may be absent. -/
@[simp] theorem Tab.find_set {α : Type} (t : List (Nat × α)) (i : Nat) (x : α) : Tab.find (Tab.set t i x) i = some x := by
  induction t with
  | nil => simp [Tab.set, Tab.find]
  | cons c t ih =>
    obtain ⟨k, y⟩ := c
    unfold Tab.set
    split
    · simp [Tab.find]
    · split
      · simp [Tab.find]
      · rename_i h _
        simp [Tab.find, h, ih]

/-- And of every other. -/
theorem Tab.find_set_other {α : Type} (t : List (Nat × α)) (i j : Nat) (x : α) (h : i ≠ j) :
    Tab.find (Tab.set t i x) j = Tab.find t j := by
  induction t with
  | nil => simp [Tab.set, Tab.find, h]
  | cons c t ih =>
    obtain ⟨k, y⟩ := c
    unfold Tab.set
    split
    · rename_i hk
      simp [Tab.find, h, hk]
    · split
      · simp [Tab.find, h]
      · simp [Tab.find, ih]

/-- A row dropped reads as the default. -/
@[simp] theorem Tab.get_erase {α : Type} (d : α) (t : List (Nat × α)) (i : Nat) : Tab.get d (Tab.erase t i) i = d := by
  induction t with
  | nil => rfl
  | cons c t ih =>
    obtain ⟨k, y⟩ := c
    by_cases h : k = i
    · subst h
      simpa [Tab.erase, List.filter_cons] using ih
    · simpa [Tab.erase, List.filter_cons, h, Tab.get] using ih

/-- And the others are as before. -/
theorem Tab.get_erase_other {α : Type} (d : α) (t : List (Nat × α)) (i j : Nat) (h : i ≠ j) :
    Tab.get d (Tab.erase t i) j = Tab.get d t j := by
  induction t with
  | nil => rfl
  | cons c t ih =>
    obtain ⟨k, y⟩ := c
    by_cases hk : k = i
    · subst hk
      simpa [Tab.erase, List.filter_cons, Tab.get, h] using ih
    · by_cases hj : k = j
      · subst hj
        simp [Tab.erase, hk, Tab.get]
      · simpa [Tab.erase, List.filter_cons, hk, Tab.get, hj] using ih

/-- The part is what the function makes of it. -/
@[simp] theorem State.upHif_hif (s : State) (g : Hif → Hif) : (s.upHif g).hif = g s.hif := rfl

/-- What stays. -/
@[simp] theorem State.upHif_frame (s : State) (g : Hif → Hif) :
    (s.upHif g).dev = s.dev ∧ (s.upHif g).clients = s.clients ∧ (s.upHif g).partitions = s.partitions ∧
    (s.upHif g).ctxs = s.ctxs ∧ (s.upHif g).engines = s.engines ∧ (s.upHif g).transfers = s.transfers ∧
    (s.upHif g).xferNo = s.xferNo ∧ (s.upHif g).taken = s.taken ∧ (s.upHif g).takenNo = s.takenNo ∧
    (s.upHif g).opens = s.opens ∧ (s.upHif g).discard = s.discard ∧ (s.upHif g).mem = s.mem ∧
    (s.upHif g).psmUse = s.psmUse ∧ (s.upHif g).psmc = s.psmc ∧ (s.upHif g).commons = s.commons ∧
    (s.upHif g).xlt = s.xlt ∧ (s.upHif g).kvDir = s.kvDir ∧ (s.upHif g).kvSeqs = s.kvSeqs ∧ (s.upHif g).kv = s.kv ∧
    (s.upHif g).sch = s.sch ∧ (s.upHif g).steps = s.steps ∧ (s.upHif g).fe = s.fe ∧ (s.upHif g).hal = s.hal ∧
    (s.upHif g).plans = s.plans ∧ (s.upHif g).monitors = s.monitors ∧ (s.upHif g).log = s.log ∧
    (s.upHif g).trim = s.trim ∧ (s.upHif g).plinth = s.plinth ∧ (s.upHif g).twin = s.twin ∧ (s.upHif g).evc = s.evc ∧
    (s.upHif g).sec = s.sec ∧ (s.upHif g).upd = s.upd ∧ (s.upHif g).svp = s.svp ∧ (s.upHif g).store = s.store ∧
    (s.upHif g).flash = s.flash ∧ (s.upHif g).tst = s.tst ∧ (s.upHif g).cpw = s.cpw ∧ (s.upHif g).cmdUse = s.cmdUse ∧
    (s.upHif g).bus = s.bus ∧ (s.upHif g).outs = s.outs ∧ (s.upHif g).free = s.free ∧ (s.upHif g).pending = s.pending := by
  and_intros <;> rfl

/-- The part is what the function makes of it. -/
@[simp] theorem State.upPsmc_psmc (s : State) (g : Psmc → Psmc) : (s.upPsmc g).psmc = g s.psmc := rfl

/-- What stays. -/
@[simp] theorem State.upPsmc_frame (s : State) (g : Psmc → Psmc) :
    (s.upPsmc g).hif = s.hif ∧ (s.upPsmc g).dev = s.dev ∧ (s.upPsmc g).clients = s.clients ∧
    (s.upPsmc g).partitions = s.partitions ∧ (s.upPsmc g).ctxs = s.ctxs ∧ (s.upPsmc g).engines = s.engines ∧
    (s.upPsmc g).transfers = s.transfers ∧ (s.upPsmc g).xferNo = s.xferNo ∧ (s.upPsmc g).taken = s.taken ∧
    (s.upPsmc g).takenNo = s.takenNo ∧ (s.upPsmc g).opens = s.opens ∧ (s.upPsmc g).discard = s.discard ∧
    (s.upPsmc g).mem = s.mem ∧ (s.upPsmc g).psmUse = s.psmUse ∧ (s.upPsmc g).commons = s.commons ∧
    (s.upPsmc g).xlt = s.xlt ∧ (s.upPsmc g).kvDir = s.kvDir ∧ (s.upPsmc g).kvSeqs = s.kvSeqs ∧
    (s.upPsmc g).kv = s.kv ∧ (s.upPsmc g).sch = s.sch ∧ (s.upPsmc g).steps = s.steps ∧ (s.upPsmc g).fe = s.fe ∧
    (s.upPsmc g).hal = s.hal ∧ (s.upPsmc g).plans = s.plans ∧ (s.upPsmc g).monitors = s.monitors ∧
    (s.upPsmc g).log = s.log ∧ (s.upPsmc g).trim = s.trim ∧ (s.upPsmc g).plinth = s.plinth ∧
    (s.upPsmc g).twin = s.twin ∧ (s.upPsmc g).evc = s.evc ∧ (s.upPsmc g).sec = s.sec ∧ (s.upPsmc g).upd = s.upd ∧
    (s.upPsmc g).svp = s.svp ∧ (s.upPsmc g).store = s.store ∧ (s.upPsmc g).flash = s.flash ∧
    (s.upPsmc g).tst = s.tst ∧ (s.upPsmc g).cpw = s.cpw ∧ (s.upPsmc g).cmdUse = s.cmdUse ∧ (s.upPsmc g).bus = s.bus ∧
    (s.upPsmc g).outs = s.outs ∧ (s.upPsmc g).free = s.free ∧ (s.upPsmc g).pending = s.pending := by
  and_intros <;> rfl

/-- The part is what the function makes of it. -/
@[simp] theorem State.upCommons_commons (s : State) (g : Commons → Commons) : (s.upCommons g).commons = g s.commons := rfl

/-- What stays. -/
@[simp] theorem State.upCommons_frame (s : State) (g : Commons → Commons) :
    (s.upCommons g).hif = s.hif ∧ (s.upCommons g).dev = s.dev ∧ (s.upCommons g).clients = s.clients ∧
    (s.upCommons g).partitions = s.partitions ∧ (s.upCommons g).ctxs = s.ctxs ∧ (s.upCommons g).engines = s.engines ∧
    (s.upCommons g).transfers = s.transfers ∧ (s.upCommons g).xferNo = s.xferNo ∧ (s.upCommons g).taken = s.taken ∧
    (s.upCommons g).takenNo = s.takenNo ∧ (s.upCommons g).opens = s.opens ∧ (s.upCommons g).discard = s.discard ∧
    (s.upCommons g).mem = s.mem ∧ (s.upCommons g).psmUse = s.psmUse ∧ (s.upCommons g).psmc = s.psmc ∧
    (s.upCommons g).xlt = s.xlt ∧ (s.upCommons g).kvDir = s.kvDir ∧ (s.upCommons g).kvSeqs = s.kvSeqs ∧
    (s.upCommons g).kv = s.kv ∧ (s.upCommons g).sch = s.sch ∧ (s.upCommons g).steps = s.steps ∧
    (s.upCommons g).fe = s.fe ∧ (s.upCommons g).hal = s.hal ∧ (s.upCommons g).plans = s.plans ∧
    (s.upCommons g).monitors = s.monitors ∧ (s.upCommons g).log = s.log ∧ (s.upCommons g).trim = s.trim ∧
    (s.upCommons g).plinth = s.plinth ∧ (s.upCommons g).twin = s.twin ∧ (s.upCommons g).evc = s.evc ∧
    (s.upCommons g).sec = s.sec ∧ (s.upCommons g).upd = s.upd ∧ (s.upCommons g).svp = s.svp ∧
    (s.upCommons g).store = s.store ∧ (s.upCommons g).flash = s.flash ∧ (s.upCommons g).tst = s.tst ∧
    (s.upCommons g).cpw = s.cpw ∧ (s.upCommons g).cmdUse = s.cmdUse ∧ (s.upCommons g).bus = s.bus ∧
    (s.upCommons g).outs = s.outs ∧ (s.upCommons g).free = s.free ∧ (s.upCommons g).pending = s.pending := by
  and_intros <;> rfl

/-- The part is what the function makes of it. -/
@[simp] theorem State.upXlt_xlt (s : State) (g : Xlt → Xlt) : (s.upXlt g).xlt = g s.xlt := rfl

/-- What stays. -/
@[simp] theorem State.upXlt_frame (s : State) (g : Xlt → Xlt) :
    (s.upXlt g).hif = s.hif ∧ (s.upXlt g).dev = s.dev ∧ (s.upXlt g).clients = s.clients ∧
    (s.upXlt g).partitions = s.partitions ∧ (s.upXlt g).ctxs = s.ctxs ∧ (s.upXlt g).engines = s.engines ∧
    (s.upXlt g).transfers = s.transfers ∧ (s.upXlt g).xferNo = s.xferNo ∧ (s.upXlt g).taken = s.taken ∧
    (s.upXlt g).takenNo = s.takenNo ∧ (s.upXlt g).opens = s.opens ∧ (s.upXlt g).discard = s.discard ∧
    (s.upXlt g).mem = s.mem ∧ (s.upXlt g).psmUse = s.psmUse ∧ (s.upXlt g).psmc = s.psmc ∧
    (s.upXlt g).commons = s.commons ∧ (s.upXlt g).kvDir = s.kvDir ∧ (s.upXlt g).kvSeqs = s.kvSeqs ∧
    (s.upXlt g).kv = s.kv ∧ (s.upXlt g).sch = s.sch ∧ (s.upXlt g).steps = s.steps ∧ (s.upXlt g).fe = s.fe ∧
    (s.upXlt g).hal = s.hal ∧ (s.upXlt g).plans = s.plans ∧ (s.upXlt g).monitors = s.monitors ∧
    (s.upXlt g).log = s.log ∧ (s.upXlt g).trim = s.trim ∧ (s.upXlt g).plinth = s.plinth ∧ (s.upXlt g).twin = s.twin ∧
    (s.upXlt g).evc = s.evc ∧ (s.upXlt g).sec = s.sec ∧ (s.upXlt g).upd = s.upd ∧ (s.upXlt g).svp = s.svp ∧
    (s.upXlt g).store = s.store ∧ (s.upXlt g).flash = s.flash ∧ (s.upXlt g).tst = s.tst ∧ (s.upXlt g).cpw = s.cpw ∧
    (s.upXlt g).cmdUse = s.cmdUse ∧ (s.upXlt g).bus = s.bus ∧ (s.upXlt g).outs = s.outs ∧ (s.upXlt g).free = s.free ∧
    (s.upXlt g).pending = s.pending := by
  and_intros <;> rfl

/-- The part is what the function makes of it. -/
@[simp] theorem State.upFe_fe (s : State) (g : Fe → Fe) : (s.upFe g).fe = g s.fe := rfl

/-- What stays. -/
@[simp] theorem State.upFe_frame (s : State) (g : Fe → Fe) :
    (s.upFe g).hif = s.hif ∧ (s.upFe g).dev = s.dev ∧ (s.upFe g).clients = s.clients ∧
    (s.upFe g).partitions = s.partitions ∧ (s.upFe g).ctxs = s.ctxs ∧ (s.upFe g).engines = s.engines ∧
    (s.upFe g).transfers = s.transfers ∧ (s.upFe g).xferNo = s.xferNo ∧ (s.upFe g).taken = s.taken ∧
    (s.upFe g).takenNo = s.takenNo ∧ (s.upFe g).opens = s.opens ∧ (s.upFe g).discard = s.discard ∧
    (s.upFe g).mem = s.mem ∧ (s.upFe g).psmUse = s.psmUse ∧ (s.upFe g).psmc = s.psmc ∧
    (s.upFe g).commons = s.commons ∧ (s.upFe g).xlt = s.xlt ∧ (s.upFe g).kvDir = s.kvDir ∧
    (s.upFe g).kvSeqs = s.kvSeqs ∧ (s.upFe g).kv = s.kv ∧ (s.upFe g).sch = s.sch ∧ (s.upFe g).steps = s.steps ∧
    (s.upFe g).hal = s.hal ∧ (s.upFe g).plans = s.plans ∧ (s.upFe g).monitors = s.monitors ∧ (s.upFe g).log = s.log ∧
    (s.upFe g).trim = s.trim ∧ (s.upFe g).plinth = s.plinth ∧ (s.upFe g).twin = s.twin ∧ (s.upFe g).evc = s.evc ∧
    (s.upFe g).sec = s.sec ∧ (s.upFe g).upd = s.upd ∧ (s.upFe g).svp = s.svp ∧ (s.upFe g).store = s.store ∧
    (s.upFe g).flash = s.flash ∧ (s.upFe g).tst = s.tst ∧ (s.upFe g).cpw = s.cpw ∧ (s.upFe g).cmdUse = s.cmdUse ∧
    (s.upFe g).bus = s.bus ∧ (s.upFe g).outs = s.outs ∧ (s.upFe g).free = s.free ∧ (s.upFe g).pending = s.pending := by
  and_intros <;> rfl

/-- The part is what the function makes of it. -/
@[simp] theorem State.upHal_hal (s : State) (g : Hal → Hal) : (s.upHal g).hal = g s.hal := rfl

/-- What stays. -/
@[simp] theorem State.upHal_frame (s : State) (g : Hal → Hal) :
    (s.upHal g).hif = s.hif ∧ (s.upHal g).dev = s.dev ∧ (s.upHal g).clients = s.clients ∧
    (s.upHal g).partitions = s.partitions ∧ (s.upHal g).ctxs = s.ctxs ∧ (s.upHal g).engines = s.engines ∧
    (s.upHal g).transfers = s.transfers ∧ (s.upHal g).xferNo = s.xferNo ∧ (s.upHal g).taken = s.taken ∧
    (s.upHal g).takenNo = s.takenNo ∧ (s.upHal g).opens = s.opens ∧ (s.upHal g).discard = s.discard ∧
    (s.upHal g).mem = s.mem ∧ (s.upHal g).psmUse = s.psmUse ∧ (s.upHal g).psmc = s.psmc ∧
    (s.upHal g).commons = s.commons ∧ (s.upHal g).xlt = s.xlt ∧ (s.upHal g).kvDir = s.kvDir ∧
    (s.upHal g).kvSeqs = s.kvSeqs ∧ (s.upHal g).kv = s.kv ∧ (s.upHal g).sch = s.sch ∧ (s.upHal g).steps = s.steps ∧
    (s.upHal g).fe = s.fe ∧ (s.upHal g).plans = s.plans ∧ (s.upHal g).monitors = s.monitors ∧
    (s.upHal g).log = s.log ∧ (s.upHal g).trim = s.trim ∧ (s.upHal g).plinth = s.plinth ∧ (s.upHal g).twin = s.twin ∧
    (s.upHal g).evc = s.evc ∧ (s.upHal g).sec = s.sec ∧ (s.upHal g).upd = s.upd ∧ (s.upHal g).svp = s.svp ∧
    (s.upHal g).store = s.store ∧ (s.upHal g).flash = s.flash ∧ (s.upHal g).tst = s.tst ∧ (s.upHal g).cpw = s.cpw ∧
    (s.upHal g).cmdUse = s.cmdUse ∧ (s.upHal g).bus = s.bus ∧ (s.upHal g).outs = s.outs ∧ (s.upHal g).free = s.free ∧
    (s.upHal g).pending = s.pending := by
  and_intros <;> rfl

/-- The part is what the function makes of it. -/
@[simp] theorem State.upTrim_trim (s : State) (g : Trim → Trim) : (s.upTrim g).trim = g s.trim := rfl

/-- What stays. -/
@[simp] theorem State.upTrim_frame (s : State) (g : Trim → Trim) :
    (s.upTrim g).hif = s.hif ∧ (s.upTrim g).dev = s.dev ∧ (s.upTrim g).clients = s.clients ∧
    (s.upTrim g).partitions = s.partitions ∧ (s.upTrim g).ctxs = s.ctxs ∧ (s.upTrim g).engines = s.engines ∧
    (s.upTrim g).transfers = s.transfers ∧ (s.upTrim g).xferNo = s.xferNo ∧ (s.upTrim g).taken = s.taken ∧
    (s.upTrim g).takenNo = s.takenNo ∧ (s.upTrim g).opens = s.opens ∧ (s.upTrim g).discard = s.discard ∧
    (s.upTrim g).mem = s.mem ∧ (s.upTrim g).psmUse = s.psmUse ∧ (s.upTrim g).psmc = s.psmc ∧
    (s.upTrim g).commons = s.commons ∧ (s.upTrim g).xlt = s.xlt ∧ (s.upTrim g).kvDir = s.kvDir ∧
    (s.upTrim g).kvSeqs = s.kvSeqs ∧ (s.upTrim g).kv = s.kv ∧ (s.upTrim g).sch = s.sch ∧
    (s.upTrim g).steps = s.steps ∧ (s.upTrim g).fe = s.fe ∧ (s.upTrim g).hal = s.hal ∧ (s.upTrim g).plans = s.plans ∧
    (s.upTrim g).monitors = s.monitors ∧ (s.upTrim g).log = s.log ∧ (s.upTrim g).plinth = s.plinth ∧
    (s.upTrim g).twin = s.twin ∧ (s.upTrim g).evc = s.evc ∧ (s.upTrim g).sec = s.sec ∧ (s.upTrim g).upd = s.upd ∧
    (s.upTrim g).svp = s.svp ∧ (s.upTrim g).store = s.store ∧ (s.upTrim g).flash = s.flash ∧
    (s.upTrim g).tst = s.tst ∧ (s.upTrim g).cpw = s.cpw ∧ (s.upTrim g).cmdUse = s.cmdUse ∧ (s.upTrim g).bus = s.bus ∧
    (s.upTrim g).outs = s.outs ∧ (s.upTrim g).free = s.free ∧ (s.upTrim g).pending = s.pending := by
  and_intros <;> rfl

/-- The part is what the function makes of it. -/
@[simp] theorem State.upPlinth_plinth (s : State) (g : Plinth → Plinth) : (s.upPlinth g).plinth = g s.plinth := rfl

/-- What stays. -/
@[simp] theorem State.upPlinth_frame (s : State) (g : Plinth → Plinth) :
    (s.upPlinth g).hif = s.hif ∧ (s.upPlinth g).dev = s.dev ∧ (s.upPlinth g).clients = s.clients ∧
    (s.upPlinth g).partitions = s.partitions ∧ (s.upPlinth g).ctxs = s.ctxs ∧ (s.upPlinth g).engines = s.engines ∧
    (s.upPlinth g).transfers = s.transfers ∧ (s.upPlinth g).xferNo = s.xferNo ∧ (s.upPlinth g).taken = s.taken ∧
    (s.upPlinth g).takenNo = s.takenNo ∧ (s.upPlinth g).opens = s.opens ∧ (s.upPlinth g).discard = s.discard ∧
    (s.upPlinth g).mem = s.mem ∧ (s.upPlinth g).psmUse = s.psmUse ∧ (s.upPlinth g).psmc = s.psmc ∧
    (s.upPlinth g).commons = s.commons ∧ (s.upPlinth g).xlt = s.xlt ∧ (s.upPlinth g).kvDir = s.kvDir ∧
    (s.upPlinth g).kvSeqs = s.kvSeqs ∧ (s.upPlinth g).kv = s.kv ∧ (s.upPlinth g).sch = s.sch ∧
    (s.upPlinth g).steps = s.steps ∧ (s.upPlinth g).fe = s.fe ∧ (s.upPlinth g).hal = s.hal ∧
    (s.upPlinth g).plans = s.plans ∧ (s.upPlinth g).monitors = s.monitors ∧ (s.upPlinth g).log = s.log ∧
    (s.upPlinth g).trim = s.trim ∧ (s.upPlinth g).twin = s.twin ∧ (s.upPlinth g).evc = s.evc ∧
    (s.upPlinth g).sec = s.sec ∧ (s.upPlinth g).upd = s.upd ∧ (s.upPlinth g).svp = s.svp ∧
    (s.upPlinth g).store = s.store ∧ (s.upPlinth g).flash = s.flash ∧ (s.upPlinth g).tst = s.tst ∧
    (s.upPlinth g).cpw = s.cpw ∧ (s.upPlinth g).cmdUse = s.cmdUse ∧ (s.upPlinth g).bus = s.bus ∧
    (s.upPlinth g).outs = s.outs ∧ (s.upPlinth g).free = s.free ∧ (s.upPlinth g).pending = s.pending := by
  and_intros <;> rfl

/-- The part is what the function makes of it. -/
@[simp] theorem State.upTwin_twin (s : State) (g : Twin → Twin) : (s.upTwin g).twin = g s.twin := rfl

/-- What stays. -/
@[simp] theorem State.upTwin_frame (s : State) (g : Twin → Twin) :
    (s.upTwin g).hif = s.hif ∧ (s.upTwin g).dev = s.dev ∧ (s.upTwin g).clients = s.clients ∧
    (s.upTwin g).partitions = s.partitions ∧ (s.upTwin g).ctxs = s.ctxs ∧ (s.upTwin g).engines = s.engines ∧
    (s.upTwin g).transfers = s.transfers ∧ (s.upTwin g).xferNo = s.xferNo ∧ (s.upTwin g).taken = s.taken ∧
    (s.upTwin g).takenNo = s.takenNo ∧ (s.upTwin g).opens = s.opens ∧ (s.upTwin g).discard = s.discard ∧
    (s.upTwin g).mem = s.mem ∧ (s.upTwin g).psmUse = s.psmUse ∧ (s.upTwin g).psmc = s.psmc ∧
    (s.upTwin g).commons = s.commons ∧ (s.upTwin g).xlt = s.xlt ∧ (s.upTwin g).kvDir = s.kvDir ∧
    (s.upTwin g).kvSeqs = s.kvSeqs ∧ (s.upTwin g).kv = s.kv ∧ (s.upTwin g).sch = s.sch ∧
    (s.upTwin g).steps = s.steps ∧ (s.upTwin g).fe = s.fe ∧ (s.upTwin g).hal = s.hal ∧ (s.upTwin g).plans = s.plans ∧
    (s.upTwin g).monitors = s.monitors ∧ (s.upTwin g).log = s.log ∧ (s.upTwin g).trim = s.trim ∧
    (s.upTwin g).plinth = s.plinth ∧ (s.upTwin g).evc = s.evc ∧ (s.upTwin g).sec = s.sec ∧ (s.upTwin g).upd = s.upd ∧
    (s.upTwin g).svp = s.svp ∧ (s.upTwin g).store = s.store ∧ (s.upTwin g).flash = s.flash ∧
    (s.upTwin g).tst = s.tst ∧ (s.upTwin g).cpw = s.cpw ∧ (s.upTwin g).cmdUse = s.cmdUse ∧ (s.upTwin g).bus = s.bus ∧
    (s.upTwin g).outs = s.outs ∧ (s.upTwin g).free = s.free ∧ (s.upTwin g).pending = s.pending := by
  and_intros <;> rfl

/-- The part is what the function makes of it. -/
@[simp] theorem State.upEvc_evc (s : State) (g : Evc → Evc) : (s.upEvc g).evc = g s.evc := rfl

/-- What stays. -/
@[simp] theorem State.upEvc_frame (s : State) (g : Evc → Evc) :
    (s.upEvc g).hif = s.hif ∧ (s.upEvc g).dev = s.dev ∧ (s.upEvc g).clients = s.clients ∧
    (s.upEvc g).partitions = s.partitions ∧ (s.upEvc g).ctxs = s.ctxs ∧ (s.upEvc g).engines = s.engines ∧
    (s.upEvc g).transfers = s.transfers ∧ (s.upEvc g).xferNo = s.xferNo ∧ (s.upEvc g).taken = s.taken ∧
    (s.upEvc g).takenNo = s.takenNo ∧ (s.upEvc g).opens = s.opens ∧ (s.upEvc g).discard = s.discard ∧
    (s.upEvc g).mem = s.mem ∧ (s.upEvc g).psmUse = s.psmUse ∧ (s.upEvc g).psmc = s.psmc ∧
    (s.upEvc g).commons = s.commons ∧ (s.upEvc g).xlt = s.xlt ∧ (s.upEvc g).kvDir = s.kvDir ∧
    (s.upEvc g).kvSeqs = s.kvSeqs ∧ (s.upEvc g).kv = s.kv ∧ (s.upEvc g).sch = s.sch ∧ (s.upEvc g).steps = s.steps ∧
    (s.upEvc g).fe = s.fe ∧ (s.upEvc g).hal = s.hal ∧ (s.upEvc g).plans = s.plans ∧
    (s.upEvc g).monitors = s.monitors ∧ (s.upEvc g).log = s.log ∧ (s.upEvc g).trim = s.trim ∧
    (s.upEvc g).plinth = s.plinth ∧ (s.upEvc g).twin = s.twin ∧ (s.upEvc g).sec = s.sec ∧ (s.upEvc g).upd = s.upd ∧
    (s.upEvc g).svp = s.svp ∧ (s.upEvc g).store = s.store ∧ (s.upEvc g).flash = s.flash ∧ (s.upEvc g).tst = s.tst ∧
    (s.upEvc g).cpw = s.cpw ∧ (s.upEvc g).cmdUse = s.cmdUse ∧ (s.upEvc g).bus = s.bus ∧ (s.upEvc g).outs = s.outs ∧
    (s.upEvc g).free = s.free ∧ (s.upEvc g).pending = s.pending := by
  and_intros <;> rfl

/-- The part is what the function makes of it. -/
@[simp] theorem State.upSec_sec (s : State) (g : Sec → Sec) : (s.upSec g).sec = g s.sec := rfl

/-- What stays. -/
@[simp] theorem State.upSec_frame (s : State) (g : Sec → Sec) :
    (s.upSec g).hif = s.hif ∧ (s.upSec g).dev = s.dev ∧ (s.upSec g).clients = s.clients ∧
    (s.upSec g).partitions = s.partitions ∧ (s.upSec g).ctxs = s.ctxs ∧ (s.upSec g).engines = s.engines ∧
    (s.upSec g).transfers = s.transfers ∧ (s.upSec g).xferNo = s.xferNo ∧ (s.upSec g).taken = s.taken ∧
    (s.upSec g).takenNo = s.takenNo ∧ (s.upSec g).opens = s.opens ∧ (s.upSec g).discard = s.discard ∧
    (s.upSec g).mem = s.mem ∧ (s.upSec g).psmUse = s.psmUse ∧ (s.upSec g).psmc = s.psmc ∧
    (s.upSec g).commons = s.commons ∧ (s.upSec g).xlt = s.xlt ∧ (s.upSec g).kvDir = s.kvDir ∧
    (s.upSec g).kvSeqs = s.kvSeqs ∧ (s.upSec g).kv = s.kv ∧ (s.upSec g).sch = s.sch ∧ (s.upSec g).steps = s.steps ∧
    (s.upSec g).fe = s.fe ∧ (s.upSec g).hal = s.hal ∧ (s.upSec g).plans = s.plans ∧
    (s.upSec g).monitors = s.monitors ∧ (s.upSec g).log = s.log ∧ (s.upSec g).trim = s.trim ∧
    (s.upSec g).plinth = s.plinth ∧ (s.upSec g).twin = s.twin ∧ (s.upSec g).evc = s.evc ∧ (s.upSec g).upd = s.upd ∧
    (s.upSec g).svp = s.svp ∧ (s.upSec g).store = s.store ∧ (s.upSec g).flash = s.flash ∧ (s.upSec g).tst = s.tst ∧
    (s.upSec g).cpw = s.cpw ∧ (s.upSec g).cmdUse = s.cmdUse ∧ (s.upSec g).bus = s.bus ∧ (s.upSec g).outs = s.outs ∧
    (s.upSec g).free = s.free ∧ (s.upSec g).pending = s.pending := by
  and_intros <;> rfl

/-- The part is what the function makes of it. -/
@[simp] theorem State.upUpd_upd (s : State) (g : Upd → Upd) : (s.upUpd g).upd = g s.upd := rfl

/-- What stays. -/
@[simp] theorem State.upUpd_frame (s : State) (g : Upd → Upd) :
    (s.upUpd g).hif = s.hif ∧ (s.upUpd g).dev = s.dev ∧ (s.upUpd g).clients = s.clients ∧
    (s.upUpd g).partitions = s.partitions ∧ (s.upUpd g).ctxs = s.ctxs ∧ (s.upUpd g).engines = s.engines ∧
    (s.upUpd g).transfers = s.transfers ∧ (s.upUpd g).xferNo = s.xferNo ∧ (s.upUpd g).taken = s.taken ∧
    (s.upUpd g).takenNo = s.takenNo ∧ (s.upUpd g).opens = s.opens ∧ (s.upUpd g).discard = s.discard ∧
    (s.upUpd g).mem = s.mem ∧ (s.upUpd g).psmUse = s.psmUse ∧ (s.upUpd g).psmc = s.psmc ∧
    (s.upUpd g).commons = s.commons ∧ (s.upUpd g).xlt = s.xlt ∧ (s.upUpd g).kvDir = s.kvDir ∧
    (s.upUpd g).kvSeqs = s.kvSeqs ∧ (s.upUpd g).kv = s.kv ∧ (s.upUpd g).sch = s.sch ∧ (s.upUpd g).steps = s.steps ∧
    (s.upUpd g).fe = s.fe ∧ (s.upUpd g).hal = s.hal ∧ (s.upUpd g).plans = s.plans ∧
    (s.upUpd g).monitors = s.monitors ∧ (s.upUpd g).log = s.log ∧ (s.upUpd g).trim = s.trim ∧
    (s.upUpd g).plinth = s.plinth ∧ (s.upUpd g).twin = s.twin ∧ (s.upUpd g).evc = s.evc ∧ (s.upUpd g).sec = s.sec ∧
    (s.upUpd g).svp = s.svp ∧ (s.upUpd g).store = s.store ∧ (s.upUpd g).flash = s.flash ∧ (s.upUpd g).tst = s.tst ∧
    (s.upUpd g).cpw = s.cpw ∧ (s.upUpd g).cmdUse = s.cmdUse ∧ (s.upUpd g).bus = s.bus ∧ (s.upUpd g).outs = s.outs ∧
    (s.upUpd g).free = s.free ∧ (s.upUpd g).pending = s.pending := by
  and_intros <;> rfl

/-- The part is what the function makes of it. -/
@[simp] theorem State.upSvp_svp (s : State) (g : Svp → Svp) : (s.upSvp g).svp = g s.svp := rfl

/-- What stays. -/
@[simp] theorem State.upSvp_frame (s : State) (g : Svp → Svp) :
    (s.upSvp g).hif = s.hif ∧ (s.upSvp g).dev = s.dev ∧ (s.upSvp g).clients = s.clients ∧
    (s.upSvp g).partitions = s.partitions ∧ (s.upSvp g).ctxs = s.ctxs ∧ (s.upSvp g).engines = s.engines ∧
    (s.upSvp g).transfers = s.transfers ∧ (s.upSvp g).xferNo = s.xferNo ∧ (s.upSvp g).taken = s.taken ∧
    (s.upSvp g).takenNo = s.takenNo ∧ (s.upSvp g).opens = s.opens ∧ (s.upSvp g).discard = s.discard ∧
    (s.upSvp g).mem = s.mem ∧ (s.upSvp g).psmUse = s.psmUse ∧ (s.upSvp g).psmc = s.psmc ∧
    (s.upSvp g).commons = s.commons ∧ (s.upSvp g).xlt = s.xlt ∧ (s.upSvp g).kvDir = s.kvDir ∧
    (s.upSvp g).kvSeqs = s.kvSeqs ∧ (s.upSvp g).kv = s.kv ∧ (s.upSvp g).sch = s.sch ∧ (s.upSvp g).steps = s.steps ∧
    (s.upSvp g).fe = s.fe ∧ (s.upSvp g).hal = s.hal ∧ (s.upSvp g).plans = s.plans ∧
    (s.upSvp g).monitors = s.monitors ∧ (s.upSvp g).log = s.log ∧ (s.upSvp g).trim = s.trim ∧
    (s.upSvp g).plinth = s.plinth ∧ (s.upSvp g).twin = s.twin ∧ (s.upSvp g).evc = s.evc ∧ (s.upSvp g).sec = s.sec ∧
    (s.upSvp g).upd = s.upd ∧ (s.upSvp g).store = s.store ∧ (s.upSvp g).flash = s.flash ∧ (s.upSvp g).tst = s.tst ∧
    (s.upSvp g).cpw = s.cpw ∧ (s.upSvp g).cmdUse = s.cmdUse ∧ (s.upSvp g).bus = s.bus ∧ (s.upSvp g).outs = s.outs ∧
    (s.upSvp g).free = s.free ∧ (s.upSvp g).pending = s.pending := by
  and_intros <;> rfl

/-- The part is what the function makes of it. -/
@[simp] theorem State.upStore_store (s : State) (g : Store → Store) : (s.upStore g).store = g s.store := rfl

/-- What stays. -/
@[simp] theorem State.upStore_frame (s : State) (g : Store → Store) :
    (s.upStore g).hif = s.hif ∧ (s.upStore g).dev = s.dev ∧ (s.upStore g).clients = s.clients ∧
    (s.upStore g).partitions = s.partitions ∧ (s.upStore g).ctxs = s.ctxs ∧ (s.upStore g).engines = s.engines ∧
    (s.upStore g).transfers = s.transfers ∧ (s.upStore g).xferNo = s.xferNo ∧ (s.upStore g).taken = s.taken ∧
    (s.upStore g).takenNo = s.takenNo ∧ (s.upStore g).opens = s.opens ∧ (s.upStore g).discard = s.discard ∧
    (s.upStore g).mem = s.mem ∧ (s.upStore g).psmUse = s.psmUse ∧ (s.upStore g).psmc = s.psmc ∧
    (s.upStore g).commons = s.commons ∧ (s.upStore g).xlt = s.xlt ∧ (s.upStore g).kvDir = s.kvDir ∧
    (s.upStore g).kvSeqs = s.kvSeqs ∧ (s.upStore g).kv = s.kv ∧ (s.upStore g).sch = s.sch ∧
    (s.upStore g).steps = s.steps ∧ (s.upStore g).fe = s.fe ∧ (s.upStore g).hal = s.hal ∧
    (s.upStore g).plans = s.plans ∧ (s.upStore g).monitors = s.monitors ∧ (s.upStore g).log = s.log ∧
    (s.upStore g).trim = s.trim ∧ (s.upStore g).plinth = s.plinth ∧ (s.upStore g).twin = s.twin ∧
    (s.upStore g).evc = s.evc ∧ (s.upStore g).sec = s.sec ∧ (s.upStore g).upd = s.upd ∧ (s.upStore g).svp = s.svp ∧
    (s.upStore g).flash = s.flash ∧ (s.upStore g).tst = s.tst ∧ (s.upStore g).cpw = s.cpw ∧
    (s.upStore g).cmdUse = s.cmdUse ∧ (s.upStore g).bus = s.bus ∧ (s.upStore g).outs = s.outs ∧
    (s.upStore g).free = s.free ∧ (s.upStore g).pending = s.pending := by
  and_intros <;> rfl

/-- The part is what the function makes of it. -/
@[simp] theorem State.upTst_tst (s : State) (g : Tst → Tst) : (s.upTst g).tst = g s.tst := rfl

/-- What stays. -/
@[simp] theorem State.upTst_frame (s : State) (g : Tst → Tst) :
    (s.upTst g).hif = s.hif ∧ (s.upTst g).dev = s.dev ∧ (s.upTst g).clients = s.clients ∧
    (s.upTst g).partitions = s.partitions ∧ (s.upTst g).ctxs = s.ctxs ∧ (s.upTst g).engines = s.engines ∧
    (s.upTst g).transfers = s.transfers ∧ (s.upTst g).xferNo = s.xferNo ∧ (s.upTst g).taken = s.taken ∧
    (s.upTst g).takenNo = s.takenNo ∧ (s.upTst g).opens = s.opens ∧ (s.upTst g).discard = s.discard ∧
    (s.upTst g).mem = s.mem ∧ (s.upTst g).psmUse = s.psmUse ∧ (s.upTst g).psmc = s.psmc ∧
    (s.upTst g).commons = s.commons ∧ (s.upTst g).xlt = s.xlt ∧ (s.upTst g).kvDir = s.kvDir ∧
    (s.upTst g).kvSeqs = s.kvSeqs ∧ (s.upTst g).kv = s.kv ∧ (s.upTst g).sch = s.sch ∧ (s.upTst g).steps = s.steps ∧
    (s.upTst g).fe = s.fe ∧ (s.upTst g).hal = s.hal ∧ (s.upTst g).plans = s.plans ∧
    (s.upTst g).monitors = s.monitors ∧ (s.upTst g).log = s.log ∧ (s.upTst g).trim = s.trim ∧
    (s.upTst g).plinth = s.plinth ∧ (s.upTst g).twin = s.twin ∧ (s.upTst g).evc = s.evc ∧ (s.upTst g).sec = s.sec ∧
    (s.upTst g).upd = s.upd ∧ (s.upTst g).svp = s.svp ∧ (s.upTst g).store = s.store ∧ (s.upTst g).flash = s.flash ∧
    (s.upTst g).cpw = s.cpw ∧ (s.upTst g).cmdUse = s.cmdUse ∧ (s.upTst g).bus = s.bus ∧ (s.upTst g).outs = s.outs ∧
    (s.upTst g).free = s.free ∧ (s.upTst g).pending = s.pending := by
  and_intros <;> rfl

/-- The part is what the function makes of it. -/
@[simp] theorem State.upCpw_cpw (s : State) (g : Cpw → Cpw) : (s.upCpw g).cpw = g s.cpw := rfl

/-- What stays. -/
@[simp] theorem State.upCpw_frame (s : State) (g : Cpw → Cpw) :
    (s.upCpw g).hif = s.hif ∧ (s.upCpw g).dev = s.dev ∧ (s.upCpw g).clients = s.clients ∧
    (s.upCpw g).partitions = s.partitions ∧ (s.upCpw g).ctxs = s.ctxs ∧ (s.upCpw g).engines = s.engines ∧
    (s.upCpw g).transfers = s.transfers ∧ (s.upCpw g).xferNo = s.xferNo ∧ (s.upCpw g).taken = s.taken ∧
    (s.upCpw g).takenNo = s.takenNo ∧ (s.upCpw g).opens = s.opens ∧ (s.upCpw g).discard = s.discard ∧
    (s.upCpw g).mem = s.mem ∧ (s.upCpw g).psmUse = s.psmUse ∧ (s.upCpw g).psmc = s.psmc ∧
    (s.upCpw g).commons = s.commons ∧ (s.upCpw g).xlt = s.xlt ∧ (s.upCpw g).kvDir = s.kvDir ∧
    (s.upCpw g).kvSeqs = s.kvSeqs ∧ (s.upCpw g).kv = s.kv ∧ (s.upCpw g).sch = s.sch ∧ (s.upCpw g).steps = s.steps ∧
    (s.upCpw g).fe = s.fe ∧ (s.upCpw g).hal = s.hal ∧ (s.upCpw g).plans = s.plans ∧
    (s.upCpw g).monitors = s.monitors ∧ (s.upCpw g).log = s.log ∧ (s.upCpw g).trim = s.trim ∧
    (s.upCpw g).plinth = s.plinth ∧ (s.upCpw g).twin = s.twin ∧ (s.upCpw g).evc = s.evc ∧ (s.upCpw g).sec = s.sec ∧
    (s.upCpw g).upd = s.upd ∧ (s.upCpw g).svp = s.svp ∧ (s.upCpw g).store = s.store ∧ (s.upCpw g).flash = s.flash ∧
    (s.upCpw g).tst = s.tst ∧ (s.upCpw g).cmdUse = s.cmdUse ∧ (s.upCpw g).bus = s.bus ∧ (s.upCpw g).outs = s.outs ∧
    (s.upCpw g).free = s.free ∧ (s.upCpw g).pending = s.pending := by
  and_intros <;> rfl

/-- The row written is read back. -/
@[simp] theorem State.setClient_client (s : State) (i : Nat) (x : Client) : (s.setClient i x).client i = x :=
  Tab.get_set _ _ _ _

/-- Other rows are as before. -/
theorem State.setClient_other (s : State) (i j : Nat) (x : Client) (h : i ≠ j) : (s.setClient i x).client j = s.client j :=
  Tab.get_set_other _ _ _ _ _ h

/-- The row changed is read back. -/
@[simp] theorem State.upClient_client (s : State) (i : Nat) (g : Client → Client) : (s.upClient i g).client i = g (s.client i) :=
  Tab.get_set _ _ _ _

/-- Other rows are as before. -/
theorem State.upClient_other (s : State) (i j : Nat) (g : Client → Client) (h : i ≠ j) : (s.upClient i g).client j = s.client j :=
  Tab.get_set_other _ _ _ _ _ h

/-- What stays. -/
@[simp] theorem State.setClient_frame (s : State) (i : Nat) (x : Client) :
    (s.setClient i x).hif = s.hif ∧ (s.setClient i x).dev = s.dev ∧ (s.setClient i x).partitions = s.partitions ∧
    (s.setClient i x).ctxs = s.ctxs ∧ (s.setClient i x).engines = s.engines ∧
    (s.setClient i x).transfers = s.transfers ∧ (s.setClient i x).xferNo = s.xferNo ∧
    (s.setClient i x).taken = s.taken ∧ (s.setClient i x).takenNo = s.takenNo ∧ (s.setClient i x).opens = s.opens ∧
    (s.setClient i x).discard = s.discard ∧ (s.setClient i x).mem = s.mem ∧ (s.setClient i x).psmUse = s.psmUse ∧
    (s.setClient i x).psmc = s.psmc ∧ (s.setClient i x).commons = s.commons ∧ (s.setClient i x).xlt = s.xlt ∧
    (s.setClient i x).kvDir = s.kvDir ∧ (s.setClient i x).kvSeqs = s.kvSeqs ∧ (s.setClient i x).kv = s.kv ∧
    (s.setClient i x).sch = s.sch ∧ (s.setClient i x).steps = s.steps ∧ (s.setClient i x).fe = s.fe ∧
    (s.setClient i x).hal = s.hal ∧ (s.setClient i x).plans = s.plans ∧ (s.setClient i x).monitors = s.monitors ∧
    (s.setClient i x).log = s.log ∧ (s.setClient i x).trim = s.trim ∧ (s.setClient i x).plinth = s.plinth ∧
    (s.setClient i x).twin = s.twin ∧ (s.setClient i x).evc = s.evc ∧ (s.setClient i x).sec = s.sec ∧
    (s.setClient i x).upd = s.upd ∧ (s.setClient i x).svp = s.svp ∧ (s.setClient i x).store = s.store ∧
    (s.setClient i x).flash = s.flash ∧ (s.setClient i x).tst = s.tst ∧ (s.setClient i x).cpw = s.cpw ∧
    (s.setClient i x).cmdUse = s.cmdUse ∧ (s.setClient i x).bus = s.bus ∧ (s.setClient i x).outs = s.outs ∧
    (s.setClient i x).free = s.free ∧ (s.setClient i x).pending = s.pending := by
  and_intros <;> rfl

/-- What stays. -/
@[simp] theorem State.upClient_frame (s : State) (i : Nat) (g : Client → Client) :
    (s.upClient i g).hif = s.hif ∧ (s.upClient i g).dev = s.dev ∧ (s.upClient i g).partitions = s.partitions ∧
    (s.upClient i g).ctxs = s.ctxs ∧ (s.upClient i g).engines = s.engines ∧
    (s.upClient i g).transfers = s.transfers ∧ (s.upClient i g).xferNo = s.xferNo ∧
    (s.upClient i g).taken = s.taken ∧ (s.upClient i g).takenNo = s.takenNo ∧ (s.upClient i g).opens = s.opens ∧
    (s.upClient i g).discard = s.discard ∧ (s.upClient i g).mem = s.mem ∧ (s.upClient i g).psmUse = s.psmUse ∧
    (s.upClient i g).psmc = s.psmc ∧ (s.upClient i g).commons = s.commons ∧ (s.upClient i g).xlt = s.xlt ∧
    (s.upClient i g).kvDir = s.kvDir ∧ (s.upClient i g).kvSeqs = s.kvSeqs ∧ (s.upClient i g).kv = s.kv ∧
    (s.upClient i g).sch = s.sch ∧ (s.upClient i g).steps = s.steps ∧ (s.upClient i g).fe = s.fe ∧
    (s.upClient i g).hal = s.hal ∧ (s.upClient i g).plans = s.plans ∧ (s.upClient i g).monitors = s.monitors ∧
    (s.upClient i g).log = s.log ∧ (s.upClient i g).trim = s.trim ∧ (s.upClient i g).plinth = s.plinth ∧
    (s.upClient i g).twin = s.twin ∧ (s.upClient i g).evc = s.evc ∧ (s.upClient i g).sec = s.sec ∧
    (s.upClient i g).upd = s.upd ∧ (s.upClient i g).svp = s.svp ∧ (s.upClient i g).store = s.store ∧
    (s.upClient i g).flash = s.flash ∧ (s.upClient i g).tst = s.tst ∧ (s.upClient i g).cpw = s.cpw ∧
    (s.upClient i g).cmdUse = s.cmdUse ∧ (s.upClient i g).bus = s.bus ∧ (s.upClient i g).outs = s.outs ∧
    (s.upClient i g).free = s.free ∧ (s.upClient i g).pending = s.pending := by
  and_intros <;> rfl

/-- The row written is read back. -/
@[simp] theorem State.setPart_part (s : State) (i : Nat) (x : Partition) : (s.setPart i x).part i = x :=
  Tab.get_set _ _ _ _

/-- Other rows are as before. -/
theorem State.setPart_other (s : State) (i j : Nat) (x : Partition) (h : i ≠ j) : (s.setPart i x).part j = s.part j :=
  Tab.get_set_other _ _ _ _ _ h

/-- The row changed is read back. -/
@[simp] theorem State.upPart_part (s : State) (i : Nat) (g : Partition → Partition) : (s.upPart i g).part i = g (s.part i) :=
  Tab.get_set _ _ _ _

/-- Other rows are as before. -/
theorem State.upPart_other (s : State) (i j : Nat) (g : Partition → Partition) (h : i ≠ j) : (s.upPart i g).part j = s.part j :=
  Tab.get_set_other _ _ _ _ _ h

/-- What stays. -/
@[simp] theorem State.setPart_frame (s : State) (i : Nat) (x : Partition) :
    (s.setPart i x).hif = s.hif ∧ (s.setPart i x).dev = s.dev ∧ (s.setPart i x).clients = s.clients ∧
    (s.setPart i x).ctxs = s.ctxs ∧ (s.setPart i x).engines = s.engines ∧ (s.setPart i x).transfers = s.transfers ∧
    (s.setPart i x).xferNo = s.xferNo ∧ (s.setPart i x).taken = s.taken ∧ (s.setPart i x).takenNo = s.takenNo ∧
    (s.setPart i x).opens = s.opens ∧ (s.setPart i x).discard = s.discard ∧ (s.setPart i x).mem = s.mem ∧
    (s.setPart i x).psmUse = s.psmUse ∧ (s.setPart i x).psmc = s.psmc ∧ (s.setPart i x).commons = s.commons ∧
    (s.setPart i x).xlt = s.xlt ∧ (s.setPart i x).kvDir = s.kvDir ∧ (s.setPart i x).kvSeqs = s.kvSeqs ∧
    (s.setPart i x).kv = s.kv ∧ (s.setPart i x).sch = s.sch ∧ (s.setPart i x).steps = s.steps ∧
    (s.setPart i x).fe = s.fe ∧ (s.setPart i x).hal = s.hal ∧ (s.setPart i x).plans = s.plans ∧
    (s.setPart i x).monitors = s.monitors ∧ (s.setPart i x).log = s.log ∧ (s.setPart i x).trim = s.trim ∧
    (s.setPart i x).plinth = s.plinth ∧ (s.setPart i x).twin = s.twin ∧ (s.setPart i x).evc = s.evc ∧
    (s.setPart i x).sec = s.sec ∧ (s.setPart i x).upd = s.upd ∧ (s.setPart i x).svp = s.svp ∧
    (s.setPart i x).store = s.store ∧ (s.setPart i x).flash = s.flash ∧ (s.setPart i x).tst = s.tst ∧
    (s.setPart i x).cpw = s.cpw ∧ (s.setPart i x).cmdUse = s.cmdUse ∧ (s.setPart i x).bus = s.bus ∧
    (s.setPart i x).outs = s.outs ∧ (s.setPart i x).free = s.free ∧ (s.setPart i x).pending = s.pending := by
  and_intros <;> rfl

/-- What stays. -/
@[simp] theorem State.upPart_frame (s : State) (i : Nat) (g : Partition → Partition) :
    (s.upPart i g).hif = s.hif ∧ (s.upPart i g).dev = s.dev ∧ (s.upPart i g).clients = s.clients ∧
    (s.upPart i g).ctxs = s.ctxs ∧ (s.upPart i g).engines = s.engines ∧ (s.upPart i g).transfers = s.transfers ∧
    (s.upPart i g).xferNo = s.xferNo ∧ (s.upPart i g).taken = s.taken ∧ (s.upPart i g).takenNo = s.takenNo ∧
    (s.upPart i g).opens = s.opens ∧ (s.upPart i g).discard = s.discard ∧ (s.upPart i g).mem = s.mem ∧
    (s.upPart i g).psmUse = s.psmUse ∧ (s.upPart i g).psmc = s.psmc ∧ (s.upPart i g).commons = s.commons ∧
    (s.upPart i g).xlt = s.xlt ∧ (s.upPart i g).kvDir = s.kvDir ∧ (s.upPart i g).kvSeqs = s.kvSeqs ∧
    (s.upPart i g).kv = s.kv ∧ (s.upPart i g).sch = s.sch ∧ (s.upPart i g).steps = s.steps ∧
    (s.upPart i g).fe = s.fe ∧ (s.upPart i g).hal = s.hal ∧ (s.upPart i g).plans = s.plans ∧
    (s.upPart i g).monitors = s.monitors ∧ (s.upPart i g).log = s.log ∧ (s.upPart i g).trim = s.trim ∧
    (s.upPart i g).plinth = s.plinth ∧ (s.upPart i g).twin = s.twin ∧ (s.upPart i g).evc = s.evc ∧
    (s.upPart i g).sec = s.sec ∧ (s.upPart i g).upd = s.upd ∧ (s.upPart i g).svp = s.svp ∧
    (s.upPart i g).store = s.store ∧ (s.upPart i g).flash = s.flash ∧ (s.upPart i g).tst = s.tst ∧
    (s.upPart i g).cpw = s.cpw ∧ (s.upPart i g).cmdUse = s.cmdUse ∧ (s.upPart i g).bus = s.bus ∧
    (s.upPart i g).outs = s.outs ∧ (s.upPart i g).free = s.free ∧ (s.upPart i g).pending = s.pending := by
  and_intros <;> rfl

/-- The row written is read back. -/
@[simp] theorem State.setCtx_ctx (s : State) (i : Nat) (x : Ctx) : (s.setCtx i x).ctx i = x :=
  Tab.get_set _ _ _ _

/-- Other rows are as before. -/
theorem State.setCtx_other (s : State) (i j : Nat) (x : Ctx) (h : i ≠ j) : (s.setCtx i x).ctx j = s.ctx j :=
  Tab.get_set_other _ _ _ _ _ h

/-- The row changed is read back. -/
@[simp] theorem State.upCtx_ctx (s : State) (i : Nat) (g : Ctx → Ctx) : (s.upCtx i g).ctx i = g (s.ctx i) :=
  Tab.get_set _ _ _ _

/-- Other rows are as before. -/
theorem State.upCtx_other (s : State) (i j : Nat) (g : Ctx → Ctx) (h : i ≠ j) : (s.upCtx i g).ctx j = s.ctx j :=
  Tab.get_set_other _ _ _ _ _ h

/-- What stays. -/
@[simp] theorem State.setCtx_frame (s : State) (i : Nat) (x : Ctx) :
    (s.setCtx i x).hif = s.hif ∧ (s.setCtx i x).dev = s.dev ∧ (s.setCtx i x).clients = s.clients ∧
    (s.setCtx i x).partitions = s.partitions ∧ (s.setCtx i x).engines = s.engines ∧
    (s.setCtx i x).transfers = s.transfers ∧ (s.setCtx i x).xferNo = s.xferNo ∧ (s.setCtx i x).taken = s.taken ∧
    (s.setCtx i x).takenNo = s.takenNo ∧ (s.setCtx i x).opens = s.opens ∧ (s.setCtx i x).discard = s.discard ∧
    (s.setCtx i x).mem = s.mem ∧ (s.setCtx i x).psmUse = s.psmUse ∧ (s.setCtx i x).psmc = s.psmc ∧
    (s.setCtx i x).commons = s.commons ∧ (s.setCtx i x).xlt = s.xlt ∧ (s.setCtx i x).kvDir = s.kvDir ∧
    (s.setCtx i x).kvSeqs = s.kvSeqs ∧ (s.setCtx i x).kv = s.kv ∧ (s.setCtx i x).sch = s.sch ∧
    (s.setCtx i x).steps = s.steps ∧ (s.setCtx i x).fe = s.fe ∧ (s.setCtx i x).hal = s.hal ∧
    (s.setCtx i x).plans = s.plans ∧ (s.setCtx i x).monitors = s.monitors ∧ (s.setCtx i x).log = s.log ∧
    (s.setCtx i x).trim = s.trim ∧ (s.setCtx i x).plinth = s.plinth ∧ (s.setCtx i x).twin = s.twin ∧
    (s.setCtx i x).evc = s.evc ∧ (s.setCtx i x).sec = s.sec ∧ (s.setCtx i x).upd = s.upd ∧
    (s.setCtx i x).svp = s.svp ∧ (s.setCtx i x).store = s.store ∧ (s.setCtx i x).flash = s.flash ∧
    (s.setCtx i x).tst = s.tst ∧ (s.setCtx i x).cpw = s.cpw ∧ (s.setCtx i x).cmdUse = s.cmdUse ∧
    (s.setCtx i x).bus = s.bus ∧ (s.setCtx i x).outs = s.outs ∧ (s.setCtx i x).free = s.free ∧
    (s.setCtx i x).pending = s.pending := by
  and_intros <;> rfl

/-- What stays. -/
@[simp] theorem State.upCtx_frame (s : State) (i : Nat) (g : Ctx → Ctx) :
    (s.upCtx i g).hif = s.hif ∧ (s.upCtx i g).dev = s.dev ∧ (s.upCtx i g).clients = s.clients ∧
    (s.upCtx i g).partitions = s.partitions ∧ (s.upCtx i g).engines = s.engines ∧
    (s.upCtx i g).transfers = s.transfers ∧ (s.upCtx i g).xferNo = s.xferNo ∧ (s.upCtx i g).taken = s.taken ∧
    (s.upCtx i g).takenNo = s.takenNo ∧ (s.upCtx i g).opens = s.opens ∧ (s.upCtx i g).discard = s.discard ∧
    (s.upCtx i g).mem = s.mem ∧ (s.upCtx i g).psmUse = s.psmUse ∧ (s.upCtx i g).psmc = s.psmc ∧
    (s.upCtx i g).commons = s.commons ∧ (s.upCtx i g).xlt = s.xlt ∧ (s.upCtx i g).kvDir = s.kvDir ∧
    (s.upCtx i g).kvSeqs = s.kvSeqs ∧ (s.upCtx i g).kv = s.kv ∧ (s.upCtx i g).sch = s.sch ∧
    (s.upCtx i g).steps = s.steps ∧ (s.upCtx i g).fe = s.fe ∧ (s.upCtx i g).hal = s.hal ∧
    (s.upCtx i g).plans = s.plans ∧ (s.upCtx i g).monitors = s.monitors ∧ (s.upCtx i g).log = s.log ∧
    (s.upCtx i g).trim = s.trim ∧ (s.upCtx i g).plinth = s.plinth ∧ (s.upCtx i g).twin = s.twin ∧
    (s.upCtx i g).evc = s.evc ∧ (s.upCtx i g).sec = s.sec ∧ (s.upCtx i g).upd = s.upd ∧ (s.upCtx i g).svp = s.svp ∧
    (s.upCtx i g).store = s.store ∧ (s.upCtx i g).flash = s.flash ∧ (s.upCtx i g).tst = s.tst ∧
    (s.upCtx i g).cpw = s.cpw ∧ (s.upCtx i g).cmdUse = s.cmdUse ∧ (s.upCtx i g).bus = s.bus ∧
    (s.upCtx i g).outs = s.outs ∧ (s.upCtx i g).free = s.free ∧ (s.upCtx i g).pending = s.pending := by
  and_intros <;> rfl

/-- The row written is read back. -/
@[simp] theorem State.setEngine_engine (s : State) (i : Nat) (x : Engine) : (s.setEngine i x).engine i = x :=
  Tab.get_set _ _ _ _

/-- Other rows are as before. -/
theorem State.setEngine_other (s : State) (i j : Nat) (x : Engine) (h : i ≠ j) : (s.setEngine i x).engine j = s.engine j :=
  Tab.get_set_other _ _ _ _ _ h

/-- The row changed is read back. -/
@[simp] theorem State.upEngine_engine (s : State) (i : Nat) (g : Engine → Engine) : (s.upEngine i g).engine i = g (s.engine i) :=
  Tab.get_set _ _ _ _

/-- Other rows are as before. -/
theorem State.upEngine_other (s : State) (i j : Nat) (g : Engine → Engine) (h : i ≠ j) : (s.upEngine i g).engine j = s.engine j :=
  Tab.get_set_other _ _ _ _ _ h

/-- What stays. -/
@[simp] theorem State.setEngine_frame (s : State) (i : Nat) (x : Engine) :
    (s.setEngine i x).hif = s.hif ∧ (s.setEngine i x).dev = s.dev ∧ (s.setEngine i x).clients = s.clients ∧
    (s.setEngine i x).partitions = s.partitions ∧ (s.setEngine i x).ctxs = s.ctxs ∧
    (s.setEngine i x).transfers = s.transfers ∧ (s.setEngine i x).xferNo = s.xferNo ∧
    (s.setEngine i x).taken = s.taken ∧ (s.setEngine i x).takenNo = s.takenNo ∧ (s.setEngine i x).opens = s.opens ∧
    (s.setEngine i x).discard = s.discard ∧ (s.setEngine i x).mem = s.mem ∧ (s.setEngine i x).psmUse = s.psmUse ∧
    (s.setEngine i x).psmc = s.psmc ∧ (s.setEngine i x).commons = s.commons ∧ (s.setEngine i x).xlt = s.xlt ∧
    (s.setEngine i x).kvDir = s.kvDir ∧ (s.setEngine i x).kvSeqs = s.kvSeqs ∧ (s.setEngine i x).kv = s.kv ∧
    (s.setEngine i x).sch = s.sch ∧ (s.setEngine i x).steps = s.steps ∧ (s.setEngine i x).fe = s.fe ∧
    (s.setEngine i x).hal = s.hal ∧ (s.setEngine i x).plans = s.plans ∧ (s.setEngine i x).monitors = s.monitors ∧
    (s.setEngine i x).log = s.log ∧ (s.setEngine i x).trim = s.trim ∧ (s.setEngine i x).plinth = s.plinth ∧
    (s.setEngine i x).twin = s.twin ∧ (s.setEngine i x).evc = s.evc ∧ (s.setEngine i x).sec = s.sec ∧
    (s.setEngine i x).upd = s.upd ∧ (s.setEngine i x).svp = s.svp ∧ (s.setEngine i x).store = s.store ∧
    (s.setEngine i x).flash = s.flash ∧ (s.setEngine i x).tst = s.tst ∧ (s.setEngine i x).cpw = s.cpw ∧
    (s.setEngine i x).cmdUse = s.cmdUse ∧ (s.setEngine i x).bus = s.bus ∧ (s.setEngine i x).outs = s.outs ∧
    (s.setEngine i x).free = s.free ∧ (s.setEngine i x).pending = s.pending := by
  and_intros <;> rfl

/-- What stays. -/
@[simp] theorem State.upEngine_frame (s : State) (i : Nat) (g : Engine → Engine) :
    (s.upEngine i g).hif = s.hif ∧ (s.upEngine i g).dev = s.dev ∧ (s.upEngine i g).clients = s.clients ∧
    (s.upEngine i g).partitions = s.partitions ∧ (s.upEngine i g).ctxs = s.ctxs ∧
    (s.upEngine i g).transfers = s.transfers ∧ (s.upEngine i g).xferNo = s.xferNo ∧
    (s.upEngine i g).taken = s.taken ∧ (s.upEngine i g).takenNo = s.takenNo ∧ (s.upEngine i g).opens = s.opens ∧
    (s.upEngine i g).discard = s.discard ∧ (s.upEngine i g).mem = s.mem ∧ (s.upEngine i g).psmUse = s.psmUse ∧
    (s.upEngine i g).psmc = s.psmc ∧ (s.upEngine i g).commons = s.commons ∧ (s.upEngine i g).xlt = s.xlt ∧
    (s.upEngine i g).kvDir = s.kvDir ∧ (s.upEngine i g).kvSeqs = s.kvSeqs ∧ (s.upEngine i g).kv = s.kv ∧
    (s.upEngine i g).sch = s.sch ∧ (s.upEngine i g).steps = s.steps ∧ (s.upEngine i g).fe = s.fe ∧
    (s.upEngine i g).hal = s.hal ∧ (s.upEngine i g).plans = s.plans ∧ (s.upEngine i g).monitors = s.monitors ∧
    (s.upEngine i g).log = s.log ∧ (s.upEngine i g).trim = s.trim ∧ (s.upEngine i g).plinth = s.plinth ∧
    (s.upEngine i g).twin = s.twin ∧ (s.upEngine i g).evc = s.evc ∧ (s.upEngine i g).sec = s.sec ∧
    (s.upEngine i g).upd = s.upd ∧ (s.upEngine i g).svp = s.svp ∧ (s.upEngine i g).store = s.store ∧
    (s.upEngine i g).flash = s.flash ∧ (s.upEngine i g).tst = s.tst ∧ (s.upEngine i g).cpw = s.cpw ∧
    (s.upEngine i g).cmdUse = s.cmdUse ∧ (s.upEngine i g).bus = s.bus ∧ (s.upEngine i g).outs = s.outs ∧
    (s.upEngine i g).free = s.free ∧ (s.upEngine i g).pending = s.pending := by
  and_intros <;> rfl

/-- The row written is read back. -/
@[simp] theorem State.setSeq_seq (s : State) (i : Nat) (x : Seq) : (s.setSeq i x).seq i = x :=
  Tab.get_set _ _ _ _

/-- Other rows are as before. -/
theorem State.setSeq_other (s : State) (i j : Nat) (x : Seq) (h : i ≠ j) : (s.setSeq i x).seq j = s.seq j :=
  Tab.get_set_other _ _ _ _ _ h

/-- The row changed is read back. -/
@[simp] theorem State.upSeq_seq (s : State) (i : Nat) (g : Seq → Seq) : (s.upSeq i g).seq i = g (s.seq i) :=
  Tab.get_set _ _ _ _

/-- Other rows are as before. -/
theorem State.upSeq_other (s : State) (i j : Nat) (g : Seq → Seq) (h : i ≠ j) : (s.upSeq i g).seq j = s.seq j :=
  Tab.get_set_other _ _ _ _ _ h

/-- What stays. -/
@[simp] theorem State.setSeq_frame (s : State) (i : Nat) (x : Seq) :
    (s.setSeq i x).hif = s.hif ∧ (s.setSeq i x).dev = s.dev ∧ (s.setSeq i x).clients = s.clients ∧
    (s.setSeq i x).partitions = s.partitions ∧ (s.setSeq i x).ctxs = s.ctxs ∧ (s.setSeq i x).engines = s.engines ∧
    (s.setSeq i x).transfers = s.transfers ∧ (s.setSeq i x).xferNo = s.xferNo ∧ (s.setSeq i x).taken = s.taken ∧
    (s.setSeq i x).takenNo = s.takenNo ∧ (s.setSeq i x).opens = s.opens ∧ (s.setSeq i x).discard = s.discard ∧
    (s.setSeq i x).mem = s.mem ∧ (s.setSeq i x).psmUse = s.psmUse ∧ (s.setSeq i x).psmc = s.psmc ∧
    (s.setSeq i x).commons = s.commons ∧ (s.setSeq i x).xlt = s.xlt ∧ (s.setSeq i x).kvDir = s.kvDir ∧
    (s.setSeq i x).kv = s.kv ∧ (s.setSeq i x).sch = s.sch ∧ (s.setSeq i x).steps = s.steps ∧
    (s.setSeq i x).fe = s.fe ∧ (s.setSeq i x).hal = s.hal ∧ (s.setSeq i x).plans = s.plans ∧
    (s.setSeq i x).monitors = s.monitors ∧ (s.setSeq i x).log = s.log ∧ (s.setSeq i x).trim = s.trim ∧
    (s.setSeq i x).plinth = s.plinth ∧ (s.setSeq i x).twin = s.twin ∧ (s.setSeq i x).evc = s.evc ∧
    (s.setSeq i x).sec = s.sec ∧ (s.setSeq i x).upd = s.upd ∧ (s.setSeq i x).svp = s.svp ∧
    (s.setSeq i x).store = s.store ∧ (s.setSeq i x).flash = s.flash ∧ (s.setSeq i x).tst = s.tst ∧
    (s.setSeq i x).cpw = s.cpw ∧ (s.setSeq i x).cmdUse = s.cmdUse ∧ (s.setSeq i x).bus = s.bus ∧
    (s.setSeq i x).outs = s.outs ∧ (s.setSeq i x).free = s.free ∧ (s.setSeq i x).pending = s.pending := by
  and_intros <;> rfl

/-- What stays. -/
@[simp] theorem State.upSeq_frame (s : State) (i : Nat) (g : Seq → Seq) :
    (s.upSeq i g).hif = s.hif ∧ (s.upSeq i g).dev = s.dev ∧ (s.upSeq i g).clients = s.clients ∧
    (s.upSeq i g).partitions = s.partitions ∧ (s.upSeq i g).ctxs = s.ctxs ∧ (s.upSeq i g).engines = s.engines ∧
    (s.upSeq i g).transfers = s.transfers ∧ (s.upSeq i g).xferNo = s.xferNo ∧ (s.upSeq i g).taken = s.taken ∧
    (s.upSeq i g).takenNo = s.takenNo ∧ (s.upSeq i g).opens = s.opens ∧ (s.upSeq i g).discard = s.discard ∧
    (s.upSeq i g).mem = s.mem ∧ (s.upSeq i g).psmUse = s.psmUse ∧ (s.upSeq i g).psmc = s.psmc ∧
    (s.upSeq i g).commons = s.commons ∧ (s.upSeq i g).xlt = s.xlt ∧ (s.upSeq i g).kvDir = s.kvDir ∧
    (s.upSeq i g).kv = s.kv ∧ (s.upSeq i g).sch = s.sch ∧ (s.upSeq i g).steps = s.steps ∧ (s.upSeq i g).fe = s.fe ∧
    (s.upSeq i g).hal = s.hal ∧ (s.upSeq i g).plans = s.plans ∧ (s.upSeq i g).monitors = s.monitors ∧
    (s.upSeq i g).log = s.log ∧ (s.upSeq i g).trim = s.trim ∧ (s.upSeq i g).plinth = s.plinth ∧
    (s.upSeq i g).twin = s.twin ∧ (s.upSeq i g).evc = s.evc ∧ (s.upSeq i g).sec = s.sec ∧ (s.upSeq i g).upd = s.upd ∧
    (s.upSeq i g).svp = s.svp ∧ (s.upSeq i g).store = s.store ∧ (s.upSeq i g).flash = s.flash ∧
    (s.upSeq i g).tst = s.tst ∧ (s.upSeq i g).cpw = s.cpw ∧ (s.upSeq i g).cmdUse = s.cmdUse ∧
    (s.upSeq i g).bus = s.bus ∧ (s.upSeq i g).outs = s.outs ∧ (s.upSeq i g).free = s.free ∧
    (s.upSeq i g).pending = s.pending := by
  and_intros <;> rfl

/-- The row written is read back. -/
@[simp] theorem State.setDir_dir (s : State) (i : Nat) (x : DirEntry) : (s.setDir i x).dir i = x :=
  Tab.get_set _ _ _ _

/-- Other rows are as before. -/
theorem State.setDir_other (s : State) (i j : Nat) (x : DirEntry) (h : i ≠ j) : (s.setDir i x).dir j = s.dir j :=
  Tab.get_set_other _ _ _ _ _ h

/-- The row changed is read back. -/
@[simp] theorem State.upDir_dir (s : State) (i : Nat) (g : DirEntry → DirEntry) : (s.upDir i g).dir i = g (s.dir i) :=
  Tab.get_set _ _ _ _

/-- Other rows are as before. -/
theorem State.upDir_other (s : State) (i j : Nat) (g : DirEntry → DirEntry) (h : i ≠ j) : (s.upDir i g).dir j = s.dir j :=
  Tab.get_set_other _ _ _ _ _ h

/-- What stays. -/
@[simp] theorem State.setDir_frame (s : State) (i : Nat) (x : DirEntry) :
    (s.setDir i x).hif = s.hif ∧ (s.setDir i x).dev = s.dev ∧ (s.setDir i x).clients = s.clients ∧
    (s.setDir i x).partitions = s.partitions ∧ (s.setDir i x).ctxs = s.ctxs ∧ (s.setDir i x).engines = s.engines ∧
    (s.setDir i x).transfers = s.transfers ∧ (s.setDir i x).xferNo = s.xferNo ∧ (s.setDir i x).taken = s.taken ∧
    (s.setDir i x).takenNo = s.takenNo ∧ (s.setDir i x).opens = s.opens ∧ (s.setDir i x).discard = s.discard ∧
    (s.setDir i x).mem = s.mem ∧ (s.setDir i x).psmUse = s.psmUse ∧ (s.setDir i x).psmc = s.psmc ∧
    (s.setDir i x).commons = s.commons ∧ (s.setDir i x).xlt = s.xlt ∧ (s.setDir i x).kvSeqs = s.kvSeqs ∧
    (s.setDir i x).kv = s.kv ∧ (s.setDir i x).sch = s.sch ∧ (s.setDir i x).steps = s.steps ∧
    (s.setDir i x).fe = s.fe ∧ (s.setDir i x).hal = s.hal ∧ (s.setDir i x).plans = s.plans ∧
    (s.setDir i x).monitors = s.monitors ∧ (s.setDir i x).log = s.log ∧ (s.setDir i x).trim = s.trim ∧
    (s.setDir i x).plinth = s.plinth ∧ (s.setDir i x).twin = s.twin ∧ (s.setDir i x).evc = s.evc ∧
    (s.setDir i x).sec = s.sec ∧ (s.setDir i x).upd = s.upd ∧ (s.setDir i x).svp = s.svp ∧
    (s.setDir i x).store = s.store ∧ (s.setDir i x).flash = s.flash ∧ (s.setDir i x).tst = s.tst ∧
    (s.setDir i x).cpw = s.cpw ∧ (s.setDir i x).cmdUse = s.cmdUse ∧ (s.setDir i x).bus = s.bus ∧
    (s.setDir i x).outs = s.outs ∧ (s.setDir i x).free = s.free ∧ (s.setDir i x).pending = s.pending := by
  and_intros <;> rfl

/-- What stays. -/
@[simp] theorem State.upDir_frame (s : State) (i : Nat) (g : DirEntry → DirEntry) :
    (s.upDir i g).hif = s.hif ∧ (s.upDir i g).dev = s.dev ∧ (s.upDir i g).clients = s.clients ∧
    (s.upDir i g).partitions = s.partitions ∧ (s.upDir i g).ctxs = s.ctxs ∧ (s.upDir i g).engines = s.engines ∧
    (s.upDir i g).transfers = s.transfers ∧ (s.upDir i g).xferNo = s.xferNo ∧ (s.upDir i g).taken = s.taken ∧
    (s.upDir i g).takenNo = s.takenNo ∧ (s.upDir i g).opens = s.opens ∧ (s.upDir i g).discard = s.discard ∧
    (s.upDir i g).mem = s.mem ∧ (s.upDir i g).psmUse = s.psmUse ∧ (s.upDir i g).psmc = s.psmc ∧
    (s.upDir i g).commons = s.commons ∧ (s.upDir i g).xlt = s.xlt ∧ (s.upDir i g).kvSeqs = s.kvSeqs ∧
    (s.upDir i g).kv = s.kv ∧ (s.upDir i g).sch = s.sch ∧ (s.upDir i g).steps = s.steps ∧ (s.upDir i g).fe = s.fe ∧
    (s.upDir i g).hal = s.hal ∧ (s.upDir i g).plans = s.plans ∧ (s.upDir i g).monitors = s.monitors ∧
    (s.upDir i g).log = s.log ∧ (s.upDir i g).trim = s.trim ∧ (s.upDir i g).plinth = s.plinth ∧
    (s.upDir i g).twin = s.twin ∧ (s.upDir i g).evc = s.evc ∧ (s.upDir i g).sec = s.sec ∧ (s.upDir i g).upd = s.upd ∧
    (s.upDir i g).svp = s.svp ∧ (s.upDir i g).store = s.store ∧ (s.upDir i g).flash = s.flash ∧
    (s.upDir i g).tst = s.tst ∧ (s.upDir i g).cpw = s.cpw ∧ (s.upDir i g).cmdUse = s.cmdUse ∧
    (s.upDir i g).bus = s.bus ∧ (s.upDir i g).outs = s.outs ∧ (s.upDir i g).free = s.free ∧
    (s.upDir i g).pending = s.pending := by
  and_intros <;> rfl

/-- The row written is read back. -/
@[simp] theorem State.setStep_step (s : State) (i : Nat) (x : Step) : (s.setStep i x).step i = x :=
  Tab.get_set _ _ _ _

/-- Other rows are as before. -/
theorem State.setStep_other (s : State) (i j : Nat) (x : Step) (h : i ≠ j) : (s.setStep i x).step j = s.step j :=
  Tab.get_set_other _ _ _ _ _ h

/-- The row changed is read back. -/
@[simp] theorem State.upStep_step (s : State) (i : Nat) (g : Step → Step) : (s.upStep i g).step i = g (s.step i) :=
  Tab.get_set _ _ _ _

/-- Other rows are as before. -/
theorem State.upStep_other (s : State) (i j : Nat) (g : Step → Step) (h : i ≠ j) : (s.upStep i g).step j = s.step j :=
  Tab.get_set_other _ _ _ _ _ h

/-- What stays. -/
@[simp] theorem State.setStep_frame (s : State) (i : Nat) (x : Step) :
    (s.setStep i x).hif = s.hif ∧ (s.setStep i x).dev = s.dev ∧ (s.setStep i x).clients = s.clients ∧
    (s.setStep i x).partitions = s.partitions ∧ (s.setStep i x).ctxs = s.ctxs ∧ (s.setStep i x).engines = s.engines ∧
    (s.setStep i x).transfers = s.transfers ∧ (s.setStep i x).xferNo = s.xferNo ∧ (s.setStep i x).taken = s.taken ∧
    (s.setStep i x).takenNo = s.takenNo ∧ (s.setStep i x).opens = s.opens ∧ (s.setStep i x).discard = s.discard ∧
    (s.setStep i x).mem = s.mem ∧ (s.setStep i x).psmUse = s.psmUse ∧ (s.setStep i x).psmc = s.psmc ∧
    (s.setStep i x).commons = s.commons ∧ (s.setStep i x).xlt = s.xlt ∧ (s.setStep i x).kvDir = s.kvDir ∧
    (s.setStep i x).kvSeqs = s.kvSeqs ∧ (s.setStep i x).kv = s.kv ∧ (s.setStep i x).sch = s.sch ∧
    (s.setStep i x).fe = s.fe ∧ (s.setStep i x).hal = s.hal ∧ (s.setStep i x).plans = s.plans ∧
    (s.setStep i x).monitors = s.monitors ∧ (s.setStep i x).log = s.log ∧ (s.setStep i x).trim = s.trim ∧
    (s.setStep i x).plinth = s.plinth ∧ (s.setStep i x).twin = s.twin ∧ (s.setStep i x).evc = s.evc ∧
    (s.setStep i x).sec = s.sec ∧ (s.setStep i x).upd = s.upd ∧ (s.setStep i x).svp = s.svp ∧
    (s.setStep i x).store = s.store ∧ (s.setStep i x).flash = s.flash ∧ (s.setStep i x).tst = s.tst ∧
    (s.setStep i x).cpw = s.cpw ∧ (s.setStep i x).cmdUse = s.cmdUse ∧ (s.setStep i x).bus = s.bus ∧
    (s.setStep i x).outs = s.outs ∧ (s.setStep i x).free = s.free ∧ (s.setStep i x).pending = s.pending := by
  and_intros <;> rfl

/-- What stays. -/
@[simp] theorem State.upStep_frame (s : State) (i : Nat) (g : Step → Step) :
    (s.upStep i g).hif = s.hif ∧ (s.upStep i g).dev = s.dev ∧ (s.upStep i g).clients = s.clients ∧
    (s.upStep i g).partitions = s.partitions ∧ (s.upStep i g).ctxs = s.ctxs ∧ (s.upStep i g).engines = s.engines ∧
    (s.upStep i g).transfers = s.transfers ∧ (s.upStep i g).xferNo = s.xferNo ∧ (s.upStep i g).taken = s.taken ∧
    (s.upStep i g).takenNo = s.takenNo ∧ (s.upStep i g).opens = s.opens ∧ (s.upStep i g).discard = s.discard ∧
    (s.upStep i g).mem = s.mem ∧ (s.upStep i g).psmUse = s.psmUse ∧ (s.upStep i g).psmc = s.psmc ∧
    (s.upStep i g).commons = s.commons ∧ (s.upStep i g).xlt = s.xlt ∧ (s.upStep i g).kvDir = s.kvDir ∧
    (s.upStep i g).kvSeqs = s.kvSeqs ∧ (s.upStep i g).kv = s.kv ∧ (s.upStep i g).sch = s.sch ∧
    (s.upStep i g).fe = s.fe ∧ (s.upStep i g).hal = s.hal ∧ (s.upStep i g).plans = s.plans ∧
    (s.upStep i g).monitors = s.monitors ∧ (s.upStep i g).log = s.log ∧ (s.upStep i g).trim = s.trim ∧
    (s.upStep i g).plinth = s.plinth ∧ (s.upStep i g).twin = s.twin ∧ (s.upStep i g).evc = s.evc ∧
    (s.upStep i g).sec = s.sec ∧ (s.upStep i g).upd = s.upd ∧ (s.upStep i g).svp = s.svp ∧
    (s.upStep i g).store = s.store ∧ (s.upStep i g).flash = s.flash ∧ (s.upStep i g).tst = s.tst ∧
    (s.upStep i g).cpw = s.cpw ∧ (s.upStep i g).cmdUse = s.cmdUse ∧ (s.upStep i g).bus = s.bus ∧
    (s.upStep i g).outs = s.outs ∧ (s.upStep i g).free = s.free ∧ (s.upStep i g).pending = s.pending := by
  and_intros <;> rfl

/-- The row written is read back. -/
@[simp] theorem State.setPlan_plan (s : State) (i : Nat) (x : Plan) : (s.setPlan i x).plan i = x :=
  Tab.get_set _ _ _ _

/-- Other rows are as before. -/
theorem State.setPlan_other (s : State) (i j : Nat) (x : Plan) (h : i ≠ j) : (s.setPlan i x).plan j = s.plan j :=
  Tab.get_set_other _ _ _ _ _ h

/-- The row changed is read back. -/
@[simp] theorem State.upPlan_plan (s : State) (i : Nat) (g : Plan → Plan) : (s.upPlan i g).plan i = g (s.plan i) :=
  Tab.get_set _ _ _ _

/-- Other rows are as before. -/
theorem State.upPlan_other (s : State) (i j : Nat) (g : Plan → Plan) (h : i ≠ j) : (s.upPlan i g).plan j = s.plan j :=
  Tab.get_set_other _ _ _ _ _ h

/-- What stays. -/
@[simp] theorem State.setPlan_frame (s : State) (i : Nat) (x : Plan) :
    (s.setPlan i x).hif = s.hif ∧ (s.setPlan i x).dev = s.dev ∧ (s.setPlan i x).clients = s.clients ∧
    (s.setPlan i x).partitions = s.partitions ∧ (s.setPlan i x).ctxs = s.ctxs ∧ (s.setPlan i x).engines = s.engines ∧
    (s.setPlan i x).transfers = s.transfers ∧ (s.setPlan i x).xferNo = s.xferNo ∧ (s.setPlan i x).taken = s.taken ∧
    (s.setPlan i x).takenNo = s.takenNo ∧ (s.setPlan i x).opens = s.opens ∧ (s.setPlan i x).discard = s.discard ∧
    (s.setPlan i x).mem = s.mem ∧ (s.setPlan i x).psmUse = s.psmUse ∧ (s.setPlan i x).psmc = s.psmc ∧
    (s.setPlan i x).commons = s.commons ∧ (s.setPlan i x).xlt = s.xlt ∧ (s.setPlan i x).kvDir = s.kvDir ∧
    (s.setPlan i x).kvSeqs = s.kvSeqs ∧ (s.setPlan i x).kv = s.kv ∧ (s.setPlan i x).sch = s.sch ∧
    (s.setPlan i x).steps = s.steps ∧ (s.setPlan i x).fe = s.fe ∧ (s.setPlan i x).hal = s.hal ∧
    (s.setPlan i x).monitors = s.monitors ∧ (s.setPlan i x).log = s.log ∧ (s.setPlan i x).trim = s.trim ∧
    (s.setPlan i x).plinth = s.plinth ∧ (s.setPlan i x).twin = s.twin ∧ (s.setPlan i x).evc = s.evc ∧
    (s.setPlan i x).sec = s.sec ∧ (s.setPlan i x).upd = s.upd ∧ (s.setPlan i x).svp = s.svp ∧
    (s.setPlan i x).store = s.store ∧ (s.setPlan i x).flash = s.flash ∧ (s.setPlan i x).tst = s.tst ∧
    (s.setPlan i x).cpw = s.cpw ∧ (s.setPlan i x).cmdUse = s.cmdUse ∧ (s.setPlan i x).bus = s.bus ∧
    (s.setPlan i x).outs = s.outs ∧ (s.setPlan i x).free = s.free ∧ (s.setPlan i x).pending = s.pending := by
  and_intros <;> rfl

/-- What stays. -/
@[simp] theorem State.upPlan_frame (s : State) (i : Nat) (g : Plan → Plan) :
    (s.upPlan i g).hif = s.hif ∧ (s.upPlan i g).dev = s.dev ∧ (s.upPlan i g).clients = s.clients ∧
    (s.upPlan i g).partitions = s.partitions ∧ (s.upPlan i g).ctxs = s.ctxs ∧ (s.upPlan i g).engines = s.engines ∧
    (s.upPlan i g).transfers = s.transfers ∧ (s.upPlan i g).xferNo = s.xferNo ∧ (s.upPlan i g).taken = s.taken ∧
    (s.upPlan i g).takenNo = s.takenNo ∧ (s.upPlan i g).opens = s.opens ∧ (s.upPlan i g).discard = s.discard ∧
    (s.upPlan i g).mem = s.mem ∧ (s.upPlan i g).psmUse = s.psmUse ∧ (s.upPlan i g).psmc = s.psmc ∧
    (s.upPlan i g).commons = s.commons ∧ (s.upPlan i g).xlt = s.xlt ∧ (s.upPlan i g).kvDir = s.kvDir ∧
    (s.upPlan i g).kvSeqs = s.kvSeqs ∧ (s.upPlan i g).kv = s.kv ∧ (s.upPlan i g).sch = s.sch ∧
    (s.upPlan i g).steps = s.steps ∧ (s.upPlan i g).fe = s.fe ∧ (s.upPlan i g).hal = s.hal ∧
    (s.upPlan i g).monitors = s.monitors ∧ (s.upPlan i g).log = s.log ∧ (s.upPlan i g).trim = s.trim ∧
    (s.upPlan i g).plinth = s.plinth ∧ (s.upPlan i g).twin = s.twin ∧ (s.upPlan i g).evc = s.evc ∧
    (s.upPlan i g).sec = s.sec ∧ (s.upPlan i g).upd = s.upd ∧ (s.upPlan i g).svp = s.svp ∧
    (s.upPlan i g).store = s.store ∧ (s.upPlan i g).flash = s.flash ∧ (s.upPlan i g).tst = s.tst ∧
    (s.upPlan i g).cpw = s.cpw ∧ (s.upPlan i g).cmdUse = s.cmdUse ∧ (s.upPlan i g).bus = s.bus ∧
    (s.upPlan i g).outs = s.outs ∧ (s.upPlan i g).free = s.free ∧ (s.upPlan i g).pending = s.pending := by
  and_intros <;> rfl

/-- The row written is read back. -/
@[simp] theorem State.setMonitor_monitor (s : State) (i : Nat) (x : Monitor) : (s.setMonitor i x).monitor i = x :=
  Tab.get_set _ _ _ _

/-- Other rows are as before. -/
theorem State.setMonitor_other (s : State) (i j : Nat) (x : Monitor) (h : i ≠ j) : (s.setMonitor i x).monitor j = s.monitor j :=
  Tab.get_set_other _ _ _ _ _ h

/-- The row changed is read back. -/
@[simp] theorem State.upMonitor_monitor (s : State) (i : Nat) (g : Monitor → Monitor) : (s.upMonitor i g).monitor i = g (s.monitor i) :=
  Tab.get_set _ _ _ _

/-- Other rows are as before. -/
theorem State.upMonitor_other (s : State) (i j : Nat) (g : Monitor → Monitor) (h : i ≠ j) : (s.upMonitor i g).monitor j = s.monitor j :=
  Tab.get_set_other _ _ _ _ _ h

/-- What stays. -/
@[simp] theorem State.setMonitor_frame (s : State) (i : Nat) (x : Monitor) :
    (s.setMonitor i x).hif = s.hif ∧ (s.setMonitor i x).dev = s.dev ∧ (s.setMonitor i x).clients = s.clients ∧
    (s.setMonitor i x).partitions = s.partitions ∧ (s.setMonitor i x).ctxs = s.ctxs ∧
    (s.setMonitor i x).engines = s.engines ∧ (s.setMonitor i x).transfers = s.transfers ∧
    (s.setMonitor i x).xferNo = s.xferNo ∧ (s.setMonitor i x).taken = s.taken ∧
    (s.setMonitor i x).takenNo = s.takenNo ∧ (s.setMonitor i x).opens = s.opens ∧
    (s.setMonitor i x).discard = s.discard ∧ (s.setMonitor i x).mem = s.mem ∧ (s.setMonitor i x).psmUse = s.psmUse ∧
    (s.setMonitor i x).psmc = s.psmc ∧ (s.setMonitor i x).commons = s.commons ∧ (s.setMonitor i x).xlt = s.xlt ∧
    (s.setMonitor i x).kvDir = s.kvDir ∧ (s.setMonitor i x).kvSeqs = s.kvSeqs ∧ (s.setMonitor i x).kv = s.kv ∧
    (s.setMonitor i x).sch = s.sch ∧ (s.setMonitor i x).steps = s.steps ∧ (s.setMonitor i x).fe = s.fe ∧
    (s.setMonitor i x).hal = s.hal ∧ (s.setMonitor i x).plans = s.plans ∧ (s.setMonitor i x).log = s.log ∧
    (s.setMonitor i x).trim = s.trim ∧ (s.setMonitor i x).plinth = s.plinth ∧ (s.setMonitor i x).twin = s.twin ∧
    (s.setMonitor i x).evc = s.evc ∧ (s.setMonitor i x).sec = s.sec ∧ (s.setMonitor i x).upd = s.upd ∧
    (s.setMonitor i x).svp = s.svp ∧ (s.setMonitor i x).store = s.store ∧ (s.setMonitor i x).flash = s.flash ∧
    (s.setMonitor i x).tst = s.tst ∧ (s.setMonitor i x).cpw = s.cpw ∧ (s.setMonitor i x).cmdUse = s.cmdUse ∧
    (s.setMonitor i x).bus = s.bus ∧ (s.setMonitor i x).outs = s.outs ∧ (s.setMonitor i x).free = s.free ∧
    (s.setMonitor i x).pending = s.pending := by
  and_intros <;> rfl

/-- What stays. -/
@[simp] theorem State.upMonitor_frame (s : State) (i : Nat) (g : Monitor → Monitor) :
    (s.upMonitor i g).hif = s.hif ∧ (s.upMonitor i g).dev = s.dev ∧ (s.upMonitor i g).clients = s.clients ∧
    (s.upMonitor i g).partitions = s.partitions ∧ (s.upMonitor i g).ctxs = s.ctxs ∧
    (s.upMonitor i g).engines = s.engines ∧ (s.upMonitor i g).transfers = s.transfers ∧
    (s.upMonitor i g).xferNo = s.xferNo ∧ (s.upMonitor i g).taken = s.taken ∧ (s.upMonitor i g).takenNo = s.takenNo ∧
    (s.upMonitor i g).opens = s.opens ∧ (s.upMonitor i g).discard = s.discard ∧ (s.upMonitor i g).mem = s.mem ∧
    (s.upMonitor i g).psmUse = s.psmUse ∧ (s.upMonitor i g).psmc = s.psmc ∧ (s.upMonitor i g).commons = s.commons ∧
    (s.upMonitor i g).xlt = s.xlt ∧ (s.upMonitor i g).kvDir = s.kvDir ∧ (s.upMonitor i g).kvSeqs = s.kvSeqs ∧
    (s.upMonitor i g).kv = s.kv ∧ (s.upMonitor i g).sch = s.sch ∧ (s.upMonitor i g).steps = s.steps ∧
    (s.upMonitor i g).fe = s.fe ∧ (s.upMonitor i g).hal = s.hal ∧ (s.upMonitor i g).plans = s.plans ∧
    (s.upMonitor i g).log = s.log ∧ (s.upMonitor i g).trim = s.trim ∧ (s.upMonitor i g).plinth = s.plinth ∧
    (s.upMonitor i g).twin = s.twin ∧ (s.upMonitor i g).evc = s.evc ∧ (s.upMonitor i g).sec = s.sec ∧
    (s.upMonitor i g).upd = s.upd ∧ (s.upMonitor i g).svp = s.svp ∧ (s.upMonitor i g).store = s.store ∧
    (s.upMonitor i g).flash = s.flash ∧ (s.upMonitor i g).tst = s.tst ∧ (s.upMonitor i g).cpw = s.cpw ∧
    (s.upMonitor i g).cmdUse = s.cmdUse ∧ (s.upMonitor i g).bus = s.bus ∧ (s.upMonitor i g).outs = s.outs ∧
    (s.upMonitor i g).free = s.free ∧ (s.upMonitor i g).pending = s.pending := by
  and_intros <;> rfl

/-- The row written is read back. -/
@[simp] theorem State.setSlotOf_slotOf (s : State) (i : Nat) (x : FlashSlot) : (s.setSlotOf i x).slotOf i = x :=
  Tab.get_set _ _ _ _

/-- Other rows are as before. -/
theorem State.setSlotOf_other (s : State) (i j : Nat) (x : FlashSlot) (h : i ≠ j) : (s.setSlotOf i x).slotOf j = s.slotOf j :=
  Tab.get_set_other _ _ _ _ _ h

/-- The row changed is read back. -/
@[simp] theorem State.upSlotOf_slotOf (s : State) (i : Nat) (g : FlashSlot → FlashSlot) : (s.upSlotOf i g).slotOf i = g (s.slotOf i) :=
  Tab.get_set _ _ _ _

/-- Other rows are as before. -/
theorem State.upSlotOf_other (s : State) (i j : Nat) (g : FlashSlot → FlashSlot) (h : i ≠ j) : (s.upSlotOf i g).slotOf j = s.slotOf j :=
  Tab.get_set_other _ _ _ _ _ h

/-- What stays. -/
@[simp] theorem State.setSlotOf_frame (s : State) (i : Nat) (x : FlashSlot) :
    (s.setSlotOf i x).hif = s.hif ∧ (s.setSlotOf i x).dev = s.dev ∧ (s.setSlotOf i x).clients = s.clients ∧
    (s.setSlotOf i x).partitions = s.partitions ∧ (s.setSlotOf i x).ctxs = s.ctxs ∧
    (s.setSlotOf i x).engines = s.engines ∧ (s.setSlotOf i x).transfers = s.transfers ∧
    (s.setSlotOf i x).xferNo = s.xferNo ∧ (s.setSlotOf i x).taken = s.taken ∧ (s.setSlotOf i x).takenNo = s.takenNo ∧
    (s.setSlotOf i x).opens = s.opens ∧ (s.setSlotOf i x).discard = s.discard ∧ (s.setSlotOf i x).mem = s.mem ∧
    (s.setSlotOf i x).psmUse = s.psmUse ∧ (s.setSlotOf i x).psmc = s.psmc ∧ (s.setSlotOf i x).commons = s.commons ∧
    (s.setSlotOf i x).xlt = s.xlt ∧ (s.setSlotOf i x).kvDir = s.kvDir ∧ (s.setSlotOf i x).kvSeqs = s.kvSeqs ∧
    (s.setSlotOf i x).kv = s.kv ∧ (s.setSlotOf i x).sch = s.sch ∧ (s.setSlotOf i x).steps = s.steps ∧
    (s.setSlotOf i x).fe = s.fe ∧ (s.setSlotOf i x).hal = s.hal ∧ (s.setSlotOf i x).plans = s.plans ∧
    (s.setSlotOf i x).monitors = s.monitors ∧ (s.setSlotOf i x).log = s.log ∧ (s.setSlotOf i x).trim = s.trim ∧
    (s.setSlotOf i x).plinth = s.plinth ∧ (s.setSlotOf i x).twin = s.twin ∧ (s.setSlotOf i x).evc = s.evc ∧
    (s.setSlotOf i x).sec = s.sec ∧ (s.setSlotOf i x).upd = s.upd ∧ (s.setSlotOf i x).svp = s.svp ∧
    (s.setSlotOf i x).store = s.store ∧ (s.setSlotOf i x).tst = s.tst ∧ (s.setSlotOf i x).cpw = s.cpw ∧
    (s.setSlotOf i x).cmdUse = s.cmdUse ∧ (s.setSlotOf i x).bus = s.bus ∧ (s.setSlotOf i x).outs = s.outs ∧
    (s.setSlotOf i x).free = s.free ∧ (s.setSlotOf i x).pending = s.pending := by
  and_intros <;> rfl

/-- What stays. -/
@[simp] theorem State.upSlotOf_frame (s : State) (i : Nat) (g : FlashSlot → FlashSlot) :
    (s.upSlotOf i g).hif = s.hif ∧ (s.upSlotOf i g).dev = s.dev ∧ (s.upSlotOf i g).clients = s.clients ∧
    (s.upSlotOf i g).partitions = s.partitions ∧ (s.upSlotOf i g).ctxs = s.ctxs ∧
    (s.upSlotOf i g).engines = s.engines ∧ (s.upSlotOf i g).transfers = s.transfers ∧
    (s.upSlotOf i g).xferNo = s.xferNo ∧ (s.upSlotOf i g).taken = s.taken ∧ (s.upSlotOf i g).takenNo = s.takenNo ∧
    (s.upSlotOf i g).opens = s.opens ∧ (s.upSlotOf i g).discard = s.discard ∧ (s.upSlotOf i g).mem = s.mem ∧
    (s.upSlotOf i g).psmUse = s.psmUse ∧ (s.upSlotOf i g).psmc = s.psmc ∧ (s.upSlotOf i g).commons = s.commons ∧
    (s.upSlotOf i g).xlt = s.xlt ∧ (s.upSlotOf i g).kvDir = s.kvDir ∧ (s.upSlotOf i g).kvSeqs = s.kvSeqs ∧
    (s.upSlotOf i g).kv = s.kv ∧ (s.upSlotOf i g).sch = s.sch ∧ (s.upSlotOf i g).steps = s.steps ∧
    (s.upSlotOf i g).fe = s.fe ∧ (s.upSlotOf i g).hal = s.hal ∧ (s.upSlotOf i g).plans = s.plans ∧
    (s.upSlotOf i g).monitors = s.monitors ∧ (s.upSlotOf i g).log = s.log ∧ (s.upSlotOf i g).trim = s.trim ∧
    (s.upSlotOf i g).plinth = s.plinth ∧ (s.upSlotOf i g).twin = s.twin ∧ (s.upSlotOf i g).evc = s.evc ∧
    (s.upSlotOf i g).sec = s.sec ∧ (s.upSlotOf i g).upd = s.upd ∧ (s.upSlotOf i g).svp = s.svp ∧
    (s.upSlotOf i g).store = s.store ∧ (s.upSlotOf i g).tst = s.tst ∧ (s.upSlotOf i g).cpw = s.cpw ∧
    (s.upSlotOf i g).cmdUse = s.cmdUse ∧ (s.upSlotOf i g).bus = s.bus ∧ (s.upSlotOf i g).outs = s.outs ∧
    (s.upSlotOf i g).free = s.free ∧ (s.upSlotOf i g).pending = s.pending := by
  and_intros <;> rfl

/-- The row written is read back. -/
@[simp] theorem State.setRing_ring (s : State) (i : Nat) (x : Ring) : (s.setRing i x).ring i = x :=
  Tab.get_set _ _ _ _

/-- Other rows are as before. -/
theorem State.setRing_other (s : State) (i j : Nat) (x : Ring) (h : i ≠ j) : (s.setRing i x).ring j = s.ring j :=
  Tab.get_set_other _ _ _ _ _ h

/-- The row changed is read back. -/
@[simp] theorem State.upRing_ring (s : State) (i : Nat) (g : Ring → Ring) : (s.upRing i g).ring i = g (s.ring i) :=
  Tab.get_set _ _ _ _

/-- Other rows are as before. -/
theorem State.upRing_other (s : State) (i j : Nat) (g : Ring → Ring) (h : i ≠ j) : (s.upRing i g).ring j = s.ring j :=
  Tab.get_set_other _ _ _ _ _ h

/-- What stays. -/
@[simp] theorem State.setRing_frame (s : State) (i : Nat) (x : Ring) :
    (s.setRing i x).dev = s.dev ∧ (s.setRing i x).clients = s.clients ∧ (s.setRing i x).partitions = s.partitions ∧
    (s.setRing i x).ctxs = s.ctxs ∧ (s.setRing i x).engines = s.engines ∧ (s.setRing i x).transfers = s.transfers ∧
    (s.setRing i x).xferNo = s.xferNo ∧ (s.setRing i x).taken = s.taken ∧ (s.setRing i x).takenNo = s.takenNo ∧
    (s.setRing i x).opens = s.opens ∧ (s.setRing i x).discard = s.discard ∧ (s.setRing i x).mem = s.mem ∧
    (s.setRing i x).psmUse = s.psmUse ∧ (s.setRing i x).psmc = s.psmc ∧ (s.setRing i x).commons = s.commons ∧
    (s.setRing i x).xlt = s.xlt ∧ (s.setRing i x).kvDir = s.kvDir ∧ (s.setRing i x).kvSeqs = s.kvSeqs ∧
    (s.setRing i x).kv = s.kv ∧ (s.setRing i x).sch = s.sch ∧ (s.setRing i x).steps = s.steps ∧
    (s.setRing i x).fe = s.fe ∧ (s.setRing i x).hal = s.hal ∧ (s.setRing i x).plans = s.plans ∧
    (s.setRing i x).monitors = s.monitors ∧ (s.setRing i x).log = s.log ∧ (s.setRing i x).trim = s.trim ∧
    (s.setRing i x).plinth = s.plinth ∧ (s.setRing i x).twin = s.twin ∧ (s.setRing i x).evc = s.evc ∧
    (s.setRing i x).sec = s.sec ∧ (s.setRing i x).upd = s.upd ∧ (s.setRing i x).svp = s.svp ∧
    (s.setRing i x).store = s.store ∧ (s.setRing i x).flash = s.flash ∧ (s.setRing i x).tst = s.tst ∧
    (s.setRing i x).cpw = s.cpw ∧ (s.setRing i x).cmdUse = s.cmdUse ∧ (s.setRing i x).bus = s.bus ∧
    (s.setRing i x).outs = s.outs ∧ (s.setRing i x).free = s.free ∧ (s.setRing i x).pending = s.pending ∧
    (s.setRing i x).hif.ready = s.hif.ready ∧ (s.setRing i x).hif.linkUp = s.hif.linkUp ∧
    (s.setRing i x).hif.rate = s.hif.rate ∧ (s.setRing i x).hif.width = s.hif.width ∧
    (s.setRing i x).hif.d3hot = s.hif.d3hot ∧ (s.setRing i x).hif.apEnable = s.hif.apEnable ∧
    (s.setRing i x).hif.pause = s.hif.pause ∧ (s.setRing i x).hif.bar2Base = s.hif.bar2Base ∧
    (s.setRing i x).hif.bar2Size = s.hif.bar2Size ∧ (s.setRing i x).hif.bar2Master = s.hif.bar2Master ∧
    (s.setRing i x).hif.bar2Enable = s.hif.bar2Enable ∧ (s.setRing i x).hif.msix = s.hif.msix ∧
    (s.setRing i x).hif.pba = s.hif.pba ∧ (s.setRing i x).hif.maxPayload = s.hif.maxPayload ∧
    (s.setRing i x).hif.aerPoisoned = s.hif.aerPoisoned ∧ (s.setRing i x).hif.aerUnsupported = s.hif.aerUnsupported ∧
    (s.setRing i x).hif.aerMalformed = s.hif.aerMalformed ∧ (s.setRing i x).hif.sealOrder = s.hif.sealOrder ∧
    (s.setRing i x).hif.rrNext = s.hif.rrNext ∧ (s.setRing i x).hif.apertures = s.hif.apertures := by
  and_intros <;> rfl

/-- What stays. -/
@[simp] theorem State.upRing_frame (s : State) (i : Nat) (g : Ring → Ring) :
    (s.upRing i g).dev = s.dev ∧ (s.upRing i g).clients = s.clients ∧ (s.upRing i g).partitions = s.partitions ∧
    (s.upRing i g).ctxs = s.ctxs ∧ (s.upRing i g).engines = s.engines ∧ (s.upRing i g).transfers = s.transfers ∧
    (s.upRing i g).xferNo = s.xferNo ∧ (s.upRing i g).taken = s.taken ∧ (s.upRing i g).takenNo = s.takenNo ∧
    (s.upRing i g).opens = s.opens ∧ (s.upRing i g).discard = s.discard ∧ (s.upRing i g).mem = s.mem ∧
    (s.upRing i g).psmUse = s.psmUse ∧ (s.upRing i g).psmc = s.psmc ∧ (s.upRing i g).commons = s.commons ∧
    (s.upRing i g).xlt = s.xlt ∧ (s.upRing i g).kvDir = s.kvDir ∧ (s.upRing i g).kvSeqs = s.kvSeqs ∧
    (s.upRing i g).kv = s.kv ∧ (s.upRing i g).sch = s.sch ∧ (s.upRing i g).steps = s.steps ∧
    (s.upRing i g).fe = s.fe ∧ (s.upRing i g).hal = s.hal ∧ (s.upRing i g).plans = s.plans ∧
    (s.upRing i g).monitors = s.monitors ∧ (s.upRing i g).log = s.log ∧ (s.upRing i g).trim = s.trim ∧
    (s.upRing i g).plinth = s.plinth ∧ (s.upRing i g).twin = s.twin ∧ (s.upRing i g).evc = s.evc ∧
    (s.upRing i g).sec = s.sec ∧ (s.upRing i g).upd = s.upd ∧ (s.upRing i g).svp = s.svp ∧
    (s.upRing i g).store = s.store ∧ (s.upRing i g).flash = s.flash ∧ (s.upRing i g).tst = s.tst ∧
    (s.upRing i g).cpw = s.cpw ∧ (s.upRing i g).cmdUse = s.cmdUse ∧ (s.upRing i g).bus = s.bus ∧
    (s.upRing i g).outs = s.outs ∧ (s.upRing i g).free = s.free ∧ (s.upRing i g).pending = s.pending ∧
    (s.upRing i g).hif.ready = s.hif.ready ∧ (s.upRing i g).hif.linkUp = s.hif.linkUp ∧
    (s.upRing i g).hif.rate = s.hif.rate ∧ (s.upRing i g).hif.width = s.hif.width ∧
    (s.upRing i g).hif.d3hot = s.hif.d3hot ∧ (s.upRing i g).hif.apEnable = s.hif.apEnable ∧
    (s.upRing i g).hif.pause = s.hif.pause ∧ (s.upRing i g).hif.bar2Base = s.hif.bar2Base ∧
    (s.upRing i g).hif.bar2Size = s.hif.bar2Size ∧ (s.upRing i g).hif.bar2Master = s.hif.bar2Master ∧
    (s.upRing i g).hif.bar2Enable = s.hif.bar2Enable ∧ (s.upRing i g).hif.msix = s.hif.msix ∧
    (s.upRing i g).hif.pba = s.hif.pba ∧ (s.upRing i g).hif.maxPayload = s.hif.maxPayload ∧
    (s.upRing i g).hif.aerPoisoned = s.hif.aerPoisoned ∧ (s.upRing i g).hif.aerUnsupported = s.hif.aerUnsupported ∧
    (s.upRing i g).hif.aerMalformed = s.hif.aerMalformed ∧ (s.upRing i g).hif.sealOrder = s.hif.sealOrder ∧
    (s.upRing i g).hif.rrNext = s.hif.rrNext ∧ (s.upRing i g).hif.apertures = s.hif.apertures := by
  and_intros <;> rfl

/-- The row written is read back. -/
@[simp] theorem State.setAp_ap (s : State) (i : Nat) (x : Aperture) : (s.setAp i x).ap i = x :=
  Tab.get_set _ _ _ _

/-- Other rows are as before. -/
theorem State.setAp_other (s : State) (i j : Nat) (x : Aperture) (h : i ≠ j) : (s.setAp i x).ap j = s.ap j :=
  Tab.get_set_other _ _ _ _ _ h

/-- The row changed is read back. -/
@[simp] theorem State.upAp_ap (s : State) (i : Nat) (g : Aperture → Aperture) : (s.upAp i g).ap i = g (s.ap i) :=
  Tab.get_set _ _ _ _

/-- Other rows are as before. -/
theorem State.upAp_other (s : State) (i j : Nat) (g : Aperture → Aperture) (h : i ≠ j) : (s.upAp i g).ap j = s.ap j :=
  Tab.get_set_other _ _ _ _ _ h

/-- What stays. -/
@[simp] theorem State.setAp_frame (s : State) (i : Nat) (x : Aperture) :
    (s.setAp i x).dev = s.dev ∧ (s.setAp i x).clients = s.clients ∧ (s.setAp i x).partitions = s.partitions ∧
    (s.setAp i x).ctxs = s.ctxs ∧ (s.setAp i x).engines = s.engines ∧ (s.setAp i x).transfers = s.transfers ∧
    (s.setAp i x).xferNo = s.xferNo ∧ (s.setAp i x).taken = s.taken ∧ (s.setAp i x).takenNo = s.takenNo ∧
    (s.setAp i x).opens = s.opens ∧ (s.setAp i x).discard = s.discard ∧ (s.setAp i x).mem = s.mem ∧
    (s.setAp i x).psmUse = s.psmUse ∧ (s.setAp i x).psmc = s.psmc ∧ (s.setAp i x).commons = s.commons ∧
    (s.setAp i x).xlt = s.xlt ∧ (s.setAp i x).kvDir = s.kvDir ∧ (s.setAp i x).kvSeqs = s.kvSeqs ∧
    (s.setAp i x).kv = s.kv ∧ (s.setAp i x).sch = s.sch ∧ (s.setAp i x).steps = s.steps ∧ (s.setAp i x).fe = s.fe ∧
    (s.setAp i x).hal = s.hal ∧ (s.setAp i x).plans = s.plans ∧ (s.setAp i x).monitors = s.monitors ∧
    (s.setAp i x).log = s.log ∧ (s.setAp i x).trim = s.trim ∧ (s.setAp i x).plinth = s.plinth ∧
    (s.setAp i x).twin = s.twin ∧ (s.setAp i x).evc = s.evc ∧ (s.setAp i x).sec = s.sec ∧ (s.setAp i x).upd = s.upd ∧
    (s.setAp i x).svp = s.svp ∧ (s.setAp i x).store = s.store ∧ (s.setAp i x).flash = s.flash ∧
    (s.setAp i x).tst = s.tst ∧ (s.setAp i x).cpw = s.cpw ∧ (s.setAp i x).cmdUse = s.cmdUse ∧
    (s.setAp i x).bus = s.bus ∧ (s.setAp i x).outs = s.outs ∧ (s.setAp i x).free = s.free ∧
    (s.setAp i x).pending = s.pending ∧ (s.setAp i x).hif.ready = s.hif.ready ∧
    (s.setAp i x).hif.linkUp = s.hif.linkUp ∧ (s.setAp i x).hif.rate = s.hif.rate ∧
    (s.setAp i x).hif.width = s.hif.width ∧ (s.setAp i x).hif.d3hot = s.hif.d3hot ∧
    (s.setAp i x).hif.apEnable = s.hif.apEnable ∧ (s.setAp i x).hif.pause = s.hif.pause ∧
    (s.setAp i x).hif.bar2Base = s.hif.bar2Base ∧ (s.setAp i x).hif.bar2Size = s.hif.bar2Size ∧
    (s.setAp i x).hif.bar2Master = s.hif.bar2Master ∧ (s.setAp i x).hif.bar2Enable = s.hif.bar2Enable ∧
    (s.setAp i x).hif.msix = s.hif.msix ∧ (s.setAp i x).hif.pba = s.hif.pba ∧
    (s.setAp i x).hif.maxPayload = s.hif.maxPayload ∧ (s.setAp i x).hif.aerPoisoned = s.hif.aerPoisoned ∧
    (s.setAp i x).hif.aerUnsupported = s.hif.aerUnsupported ∧ (s.setAp i x).hif.aerMalformed = s.hif.aerMalformed ∧
    (s.setAp i x).hif.sealOrder = s.hif.sealOrder ∧ (s.setAp i x).hif.rrNext = s.hif.rrNext ∧
    (s.setAp i x).hif.rings = s.hif.rings := by
  and_intros <;> rfl

/-- What stays. -/
@[simp] theorem State.upAp_frame (s : State) (i : Nat) (g : Aperture → Aperture) :
    (s.upAp i g).dev = s.dev ∧ (s.upAp i g).clients = s.clients ∧ (s.upAp i g).partitions = s.partitions ∧
    (s.upAp i g).ctxs = s.ctxs ∧ (s.upAp i g).engines = s.engines ∧ (s.upAp i g).transfers = s.transfers ∧
    (s.upAp i g).xferNo = s.xferNo ∧ (s.upAp i g).taken = s.taken ∧ (s.upAp i g).takenNo = s.takenNo ∧
    (s.upAp i g).opens = s.opens ∧ (s.upAp i g).discard = s.discard ∧ (s.upAp i g).mem = s.mem ∧
    (s.upAp i g).psmUse = s.psmUse ∧ (s.upAp i g).psmc = s.psmc ∧ (s.upAp i g).commons = s.commons ∧
    (s.upAp i g).xlt = s.xlt ∧ (s.upAp i g).kvDir = s.kvDir ∧ (s.upAp i g).kvSeqs = s.kvSeqs ∧
    (s.upAp i g).kv = s.kv ∧ (s.upAp i g).sch = s.sch ∧ (s.upAp i g).steps = s.steps ∧ (s.upAp i g).fe = s.fe ∧
    (s.upAp i g).hal = s.hal ∧ (s.upAp i g).plans = s.plans ∧ (s.upAp i g).monitors = s.monitors ∧
    (s.upAp i g).log = s.log ∧ (s.upAp i g).trim = s.trim ∧ (s.upAp i g).plinth = s.plinth ∧
    (s.upAp i g).twin = s.twin ∧ (s.upAp i g).evc = s.evc ∧ (s.upAp i g).sec = s.sec ∧ (s.upAp i g).upd = s.upd ∧
    (s.upAp i g).svp = s.svp ∧ (s.upAp i g).store = s.store ∧ (s.upAp i g).flash = s.flash ∧
    (s.upAp i g).tst = s.tst ∧ (s.upAp i g).cpw = s.cpw ∧ (s.upAp i g).cmdUse = s.cmdUse ∧ (s.upAp i g).bus = s.bus ∧
    (s.upAp i g).outs = s.outs ∧ (s.upAp i g).free = s.free ∧ (s.upAp i g).pending = s.pending ∧
    (s.upAp i g).hif.ready = s.hif.ready ∧ (s.upAp i g).hif.linkUp = s.hif.linkUp ∧
    (s.upAp i g).hif.rate = s.hif.rate ∧ (s.upAp i g).hif.width = s.hif.width ∧
    (s.upAp i g).hif.d3hot = s.hif.d3hot ∧ (s.upAp i g).hif.apEnable = s.hif.apEnable ∧
    (s.upAp i g).hif.pause = s.hif.pause ∧ (s.upAp i g).hif.bar2Base = s.hif.bar2Base ∧
    (s.upAp i g).hif.bar2Size = s.hif.bar2Size ∧ (s.upAp i g).hif.bar2Master = s.hif.bar2Master ∧
    (s.upAp i g).hif.bar2Enable = s.hif.bar2Enable ∧ (s.upAp i g).hif.msix = s.hif.msix ∧
    (s.upAp i g).hif.pba = s.hif.pba ∧ (s.upAp i g).hif.maxPayload = s.hif.maxPayload ∧
    (s.upAp i g).hif.aerPoisoned = s.hif.aerPoisoned ∧ (s.upAp i g).hif.aerUnsupported = s.hif.aerUnsupported ∧
    (s.upAp i g).hif.aerMalformed = s.hif.aerMalformed ∧ (s.upAp i g).hif.sealOrder = s.hif.sealOrder ∧
    (s.upAp i g).hif.rrNext = s.hif.rrNext ∧ (s.upAp i g).hif.rings = s.hif.rings := by
  and_intros <;> rfl

/-- The row written is read back. -/
@[simp] theorem State.setStream_stream (s : State) (i : Nat) (x : Stream) : (s.setStream i x).stream i = x :=
  Tab.get_set _ _ _ _

/-- Other rows are as before. -/
theorem State.setStream_other (s : State) (i j : Nat) (x : Stream) (h : i ≠ j) : (s.setStream i x).stream j = s.stream j :=
  Tab.get_set_other _ _ _ _ _ h

/-- The row changed is read back. -/
@[simp] theorem State.upStream_stream (s : State) (i : Nat) (g : Stream → Stream) : (s.upStream i g).stream i = g (s.stream i) :=
  Tab.get_set _ _ _ _

/-- Other rows are as before. -/
theorem State.upStream_other (s : State) (i j : Nat) (g : Stream → Stream) (h : i ≠ j) : (s.upStream i g).stream j = s.stream j :=
  Tab.get_set_other _ _ _ _ _ h

/-- What stays. -/
@[simp] theorem State.setStream_frame (s : State) (i : Nat) (x : Stream) :
    (s.setStream i x).hif = s.hif ∧ (s.setStream i x).dev = s.dev ∧ (s.setStream i x).clients = s.clients ∧
    (s.setStream i x).partitions = s.partitions ∧ (s.setStream i x).ctxs = s.ctxs ∧
    (s.setStream i x).engines = s.engines ∧ (s.setStream i x).transfers = s.transfers ∧
    (s.setStream i x).xferNo = s.xferNo ∧ (s.setStream i x).taken = s.taken ∧ (s.setStream i x).takenNo = s.takenNo ∧
    (s.setStream i x).opens = s.opens ∧ (s.setStream i x).discard = s.discard ∧ (s.setStream i x).mem = s.mem ∧
    (s.setStream i x).psmUse = s.psmUse ∧ (s.setStream i x).psmc = s.psmc ∧ (s.setStream i x).commons = s.commons ∧
    (s.setStream i x).xlt = s.xlt ∧ (s.setStream i x).kvDir = s.kvDir ∧ (s.setStream i x).kvSeqs = s.kvSeqs ∧
    (s.setStream i x).kv = s.kv ∧ (s.setStream i x).sch = s.sch ∧ (s.setStream i x).steps = s.steps ∧
    (s.setStream i x).hal = s.hal ∧ (s.setStream i x).plans = s.plans ∧ (s.setStream i x).monitors = s.monitors ∧
    (s.setStream i x).log = s.log ∧ (s.setStream i x).trim = s.trim ∧ (s.setStream i x).plinth = s.plinth ∧
    (s.setStream i x).twin = s.twin ∧ (s.setStream i x).evc = s.evc ∧ (s.setStream i x).sec = s.sec ∧
    (s.setStream i x).upd = s.upd ∧ (s.setStream i x).svp = s.svp ∧ (s.setStream i x).store = s.store ∧
    (s.setStream i x).flash = s.flash ∧ (s.setStream i x).tst = s.tst ∧ (s.setStream i x).cpw = s.cpw ∧
    (s.setStream i x).cmdUse = s.cmdUse ∧ (s.setStream i x).bus = s.bus ∧ (s.setStream i x).outs = s.outs ∧
    (s.setStream i x).free = s.free ∧ (s.setStream i x).pending = s.pending ∧ (s.setStream i x).fe.cphy = s.fe.cphy ∧
    (s.setStream i x).fe.jpegBusy = s.fe.jpegBusy ∧ (s.setStream i x).fe.ports = s.fe.ports ∧
    (s.setStream i x).fe.groups = s.fe.groups ∧ (s.setStream i x).fe.cleats = s.fe.cleats := by
  and_intros <;> rfl

/-- What stays. -/
@[simp] theorem State.upStream_frame (s : State) (i : Nat) (g : Stream → Stream) :
    (s.upStream i g).hif = s.hif ∧ (s.upStream i g).dev = s.dev ∧ (s.upStream i g).clients = s.clients ∧
    (s.upStream i g).partitions = s.partitions ∧ (s.upStream i g).ctxs = s.ctxs ∧
    (s.upStream i g).engines = s.engines ∧ (s.upStream i g).transfers = s.transfers ∧
    (s.upStream i g).xferNo = s.xferNo ∧ (s.upStream i g).taken = s.taken ∧ (s.upStream i g).takenNo = s.takenNo ∧
    (s.upStream i g).opens = s.opens ∧ (s.upStream i g).discard = s.discard ∧ (s.upStream i g).mem = s.mem ∧
    (s.upStream i g).psmUse = s.psmUse ∧ (s.upStream i g).psmc = s.psmc ∧ (s.upStream i g).commons = s.commons ∧
    (s.upStream i g).xlt = s.xlt ∧ (s.upStream i g).kvDir = s.kvDir ∧ (s.upStream i g).kvSeqs = s.kvSeqs ∧
    (s.upStream i g).kv = s.kv ∧ (s.upStream i g).sch = s.sch ∧ (s.upStream i g).steps = s.steps ∧
    (s.upStream i g).hal = s.hal ∧ (s.upStream i g).plans = s.plans ∧ (s.upStream i g).monitors = s.monitors ∧
    (s.upStream i g).log = s.log ∧ (s.upStream i g).trim = s.trim ∧ (s.upStream i g).plinth = s.plinth ∧
    (s.upStream i g).twin = s.twin ∧ (s.upStream i g).evc = s.evc ∧ (s.upStream i g).sec = s.sec ∧
    (s.upStream i g).upd = s.upd ∧ (s.upStream i g).svp = s.svp ∧ (s.upStream i g).store = s.store ∧
    (s.upStream i g).flash = s.flash ∧ (s.upStream i g).tst = s.tst ∧ (s.upStream i g).cpw = s.cpw ∧
    (s.upStream i g).cmdUse = s.cmdUse ∧ (s.upStream i g).bus = s.bus ∧ (s.upStream i g).outs = s.outs ∧
    (s.upStream i g).free = s.free ∧ (s.upStream i g).pending = s.pending ∧ (s.upStream i g).fe.cphy = s.fe.cphy ∧
    (s.upStream i g).fe.jpegBusy = s.fe.jpegBusy ∧ (s.upStream i g).fe.ports = s.fe.ports ∧
    (s.upStream i g).fe.groups = s.fe.groups ∧ (s.upStream i g).fe.cleats = s.fe.cleats := by
  and_intros <;> rfl

/-- The row written is read back. -/
@[simp] theorem State.setGroup_group (s : State) (i : Nat) (x : Group) : (s.setGroup i x).group i = x :=
  Tab.get_set _ _ _ _

/-- Other rows are as before. -/
theorem State.setGroup_other (s : State) (i j : Nat) (x : Group) (h : i ≠ j) : (s.setGroup i x).group j = s.group j :=
  Tab.get_set_other _ _ _ _ _ h

/-- The row changed is read back. -/
@[simp] theorem State.upGroup_group (s : State) (i : Nat) (g : Group → Group) : (s.upGroup i g).group i = g (s.group i) :=
  Tab.get_set _ _ _ _

/-- Other rows are as before. -/
theorem State.upGroup_other (s : State) (i j : Nat) (g : Group → Group) (h : i ≠ j) : (s.upGroup i g).group j = s.group j :=
  Tab.get_set_other _ _ _ _ _ h

/-- What stays. -/
@[simp] theorem State.setGroup_frame (s : State) (i : Nat) (x : Group) :
    (s.setGroup i x).hif = s.hif ∧ (s.setGroup i x).dev = s.dev ∧ (s.setGroup i x).clients = s.clients ∧
    (s.setGroup i x).partitions = s.partitions ∧ (s.setGroup i x).ctxs = s.ctxs ∧
    (s.setGroup i x).engines = s.engines ∧ (s.setGroup i x).transfers = s.transfers ∧
    (s.setGroup i x).xferNo = s.xferNo ∧ (s.setGroup i x).taken = s.taken ∧ (s.setGroup i x).takenNo = s.takenNo ∧
    (s.setGroup i x).opens = s.opens ∧ (s.setGroup i x).discard = s.discard ∧ (s.setGroup i x).mem = s.mem ∧
    (s.setGroup i x).psmUse = s.psmUse ∧ (s.setGroup i x).psmc = s.psmc ∧ (s.setGroup i x).commons = s.commons ∧
    (s.setGroup i x).xlt = s.xlt ∧ (s.setGroup i x).kvDir = s.kvDir ∧ (s.setGroup i x).kvSeqs = s.kvSeqs ∧
    (s.setGroup i x).kv = s.kv ∧ (s.setGroup i x).sch = s.sch ∧ (s.setGroup i x).steps = s.steps ∧
    (s.setGroup i x).hal = s.hal ∧ (s.setGroup i x).plans = s.plans ∧ (s.setGroup i x).monitors = s.monitors ∧
    (s.setGroup i x).log = s.log ∧ (s.setGroup i x).trim = s.trim ∧ (s.setGroup i x).plinth = s.plinth ∧
    (s.setGroup i x).twin = s.twin ∧ (s.setGroup i x).evc = s.evc ∧ (s.setGroup i x).sec = s.sec ∧
    (s.setGroup i x).upd = s.upd ∧ (s.setGroup i x).svp = s.svp ∧ (s.setGroup i x).store = s.store ∧
    (s.setGroup i x).flash = s.flash ∧ (s.setGroup i x).tst = s.tst ∧ (s.setGroup i x).cpw = s.cpw ∧
    (s.setGroup i x).cmdUse = s.cmdUse ∧ (s.setGroup i x).bus = s.bus ∧ (s.setGroup i x).outs = s.outs ∧
    (s.setGroup i x).free = s.free ∧ (s.setGroup i x).pending = s.pending ∧ (s.setGroup i x).fe.cphy = s.fe.cphy ∧
    (s.setGroup i x).fe.jpegBusy = s.fe.jpegBusy ∧ (s.setGroup i x).fe.ports = s.fe.ports ∧
    (s.setGroup i x).fe.streams = s.fe.streams ∧ (s.setGroup i x).fe.cleats = s.fe.cleats := by
  and_intros <;> rfl

/-- What stays. -/
@[simp] theorem State.upGroup_frame (s : State) (i : Nat) (g : Group → Group) :
    (s.upGroup i g).hif = s.hif ∧ (s.upGroup i g).dev = s.dev ∧ (s.upGroup i g).clients = s.clients ∧
    (s.upGroup i g).partitions = s.partitions ∧ (s.upGroup i g).ctxs = s.ctxs ∧ (s.upGroup i g).engines = s.engines ∧
    (s.upGroup i g).transfers = s.transfers ∧ (s.upGroup i g).xferNo = s.xferNo ∧ (s.upGroup i g).taken = s.taken ∧
    (s.upGroup i g).takenNo = s.takenNo ∧ (s.upGroup i g).opens = s.opens ∧ (s.upGroup i g).discard = s.discard ∧
    (s.upGroup i g).mem = s.mem ∧ (s.upGroup i g).psmUse = s.psmUse ∧ (s.upGroup i g).psmc = s.psmc ∧
    (s.upGroup i g).commons = s.commons ∧ (s.upGroup i g).xlt = s.xlt ∧ (s.upGroup i g).kvDir = s.kvDir ∧
    (s.upGroup i g).kvSeqs = s.kvSeqs ∧ (s.upGroup i g).kv = s.kv ∧ (s.upGroup i g).sch = s.sch ∧
    (s.upGroup i g).steps = s.steps ∧ (s.upGroup i g).hal = s.hal ∧ (s.upGroup i g).plans = s.plans ∧
    (s.upGroup i g).monitors = s.monitors ∧ (s.upGroup i g).log = s.log ∧ (s.upGroup i g).trim = s.trim ∧
    (s.upGroup i g).plinth = s.plinth ∧ (s.upGroup i g).twin = s.twin ∧ (s.upGroup i g).evc = s.evc ∧
    (s.upGroup i g).sec = s.sec ∧ (s.upGroup i g).upd = s.upd ∧ (s.upGroup i g).svp = s.svp ∧
    (s.upGroup i g).store = s.store ∧ (s.upGroup i g).flash = s.flash ∧ (s.upGroup i g).tst = s.tst ∧
    (s.upGroup i g).cpw = s.cpw ∧ (s.upGroup i g).cmdUse = s.cmdUse ∧ (s.upGroup i g).bus = s.bus ∧
    (s.upGroup i g).outs = s.outs ∧ (s.upGroup i g).free = s.free ∧ (s.upGroup i g).pending = s.pending ∧
    (s.upGroup i g).fe.cphy = s.fe.cphy ∧ (s.upGroup i g).fe.jpegBusy = s.fe.jpegBusy ∧
    (s.upGroup i g).fe.ports = s.fe.ports ∧ (s.upGroup i g).fe.streams = s.fe.streams ∧
    (s.upGroup i g).fe.cleats = s.fe.cleats := by
  and_intros <;> rfl

/-- The row written is read back. -/
@[simp] theorem State.setCsi_csi (s : State) (i : Nat) (x : CsiPort) : (s.setCsi i x).csi i = x :=
  Tab.get_set _ _ _ _

/-- Other rows are as before. -/
theorem State.setCsi_other (s : State) (i j : Nat) (x : CsiPort) (h : i ≠ j) : (s.setCsi i x).csi j = s.csi j :=
  Tab.get_set_other _ _ _ _ _ h

/-- The row changed is read back. -/
@[simp] theorem State.upCsi_csi (s : State) (i : Nat) (g : CsiPort → CsiPort) : (s.upCsi i g).csi i = g (s.csi i) :=
  Tab.get_set _ _ _ _

/-- Other rows are as before. -/
theorem State.upCsi_other (s : State) (i j : Nat) (g : CsiPort → CsiPort) (h : i ≠ j) : (s.upCsi i g).csi j = s.csi j :=
  Tab.get_set_other _ _ _ _ _ h

/-- What stays. -/
@[simp] theorem State.setCsi_frame (s : State) (i : Nat) (x : CsiPort) :
    (s.setCsi i x).hif = s.hif ∧ (s.setCsi i x).dev = s.dev ∧ (s.setCsi i x).clients = s.clients ∧
    (s.setCsi i x).partitions = s.partitions ∧ (s.setCsi i x).ctxs = s.ctxs ∧ (s.setCsi i x).engines = s.engines ∧
    (s.setCsi i x).transfers = s.transfers ∧ (s.setCsi i x).xferNo = s.xferNo ∧ (s.setCsi i x).taken = s.taken ∧
    (s.setCsi i x).takenNo = s.takenNo ∧ (s.setCsi i x).opens = s.opens ∧ (s.setCsi i x).discard = s.discard ∧
    (s.setCsi i x).mem = s.mem ∧ (s.setCsi i x).psmUse = s.psmUse ∧ (s.setCsi i x).psmc = s.psmc ∧
    (s.setCsi i x).commons = s.commons ∧ (s.setCsi i x).xlt = s.xlt ∧ (s.setCsi i x).kvDir = s.kvDir ∧
    (s.setCsi i x).kvSeqs = s.kvSeqs ∧ (s.setCsi i x).kv = s.kv ∧ (s.setCsi i x).sch = s.sch ∧
    (s.setCsi i x).steps = s.steps ∧ (s.setCsi i x).hal = s.hal ∧ (s.setCsi i x).plans = s.plans ∧
    (s.setCsi i x).monitors = s.monitors ∧ (s.setCsi i x).log = s.log ∧ (s.setCsi i x).trim = s.trim ∧
    (s.setCsi i x).plinth = s.plinth ∧ (s.setCsi i x).twin = s.twin ∧ (s.setCsi i x).evc = s.evc ∧
    (s.setCsi i x).sec = s.sec ∧ (s.setCsi i x).upd = s.upd ∧ (s.setCsi i x).svp = s.svp ∧
    (s.setCsi i x).store = s.store ∧ (s.setCsi i x).flash = s.flash ∧ (s.setCsi i x).tst = s.tst ∧
    (s.setCsi i x).cpw = s.cpw ∧ (s.setCsi i x).cmdUse = s.cmdUse ∧ (s.setCsi i x).bus = s.bus ∧
    (s.setCsi i x).outs = s.outs ∧ (s.setCsi i x).free = s.free ∧ (s.setCsi i x).pending = s.pending ∧
    (s.setCsi i x).fe.cphy = s.fe.cphy ∧ (s.setCsi i x).fe.jpegBusy = s.fe.jpegBusy ∧
    (s.setCsi i x).fe.streams = s.fe.streams ∧ (s.setCsi i x).fe.groups = s.fe.groups ∧
    (s.setCsi i x).fe.cleats = s.fe.cleats := by
  and_intros <;> rfl

/-- What stays. -/
@[simp] theorem State.upCsi_frame (s : State) (i : Nat) (g : CsiPort → CsiPort) :
    (s.upCsi i g).hif = s.hif ∧ (s.upCsi i g).dev = s.dev ∧ (s.upCsi i g).clients = s.clients ∧
    (s.upCsi i g).partitions = s.partitions ∧ (s.upCsi i g).ctxs = s.ctxs ∧ (s.upCsi i g).engines = s.engines ∧
    (s.upCsi i g).transfers = s.transfers ∧ (s.upCsi i g).xferNo = s.xferNo ∧ (s.upCsi i g).taken = s.taken ∧
    (s.upCsi i g).takenNo = s.takenNo ∧ (s.upCsi i g).opens = s.opens ∧ (s.upCsi i g).discard = s.discard ∧
    (s.upCsi i g).mem = s.mem ∧ (s.upCsi i g).psmUse = s.psmUse ∧ (s.upCsi i g).psmc = s.psmc ∧
    (s.upCsi i g).commons = s.commons ∧ (s.upCsi i g).xlt = s.xlt ∧ (s.upCsi i g).kvDir = s.kvDir ∧
    (s.upCsi i g).kvSeqs = s.kvSeqs ∧ (s.upCsi i g).kv = s.kv ∧ (s.upCsi i g).sch = s.sch ∧
    (s.upCsi i g).steps = s.steps ∧ (s.upCsi i g).hal = s.hal ∧ (s.upCsi i g).plans = s.plans ∧
    (s.upCsi i g).monitors = s.monitors ∧ (s.upCsi i g).log = s.log ∧ (s.upCsi i g).trim = s.trim ∧
    (s.upCsi i g).plinth = s.plinth ∧ (s.upCsi i g).twin = s.twin ∧ (s.upCsi i g).evc = s.evc ∧
    (s.upCsi i g).sec = s.sec ∧ (s.upCsi i g).upd = s.upd ∧ (s.upCsi i g).svp = s.svp ∧
    (s.upCsi i g).store = s.store ∧ (s.upCsi i g).flash = s.flash ∧ (s.upCsi i g).tst = s.tst ∧
    (s.upCsi i g).cpw = s.cpw ∧ (s.upCsi i g).cmdUse = s.cmdUse ∧ (s.upCsi i g).bus = s.bus ∧
    (s.upCsi i g).outs = s.outs ∧ (s.upCsi i g).free = s.free ∧ (s.upCsi i g).pending = s.pending ∧
    (s.upCsi i g).fe.cphy = s.fe.cphy ∧ (s.upCsi i g).fe.jpegBusy = s.fe.jpegBusy ∧
    (s.upCsi i g).fe.streams = s.fe.streams ∧ (s.upCsi i g).fe.groups = s.fe.groups ∧
    (s.upCsi i g).fe.cleats = s.fe.cleats := by
  and_intros <;> rfl

/-- The row written is read back. -/
@[simp] theorem State.setHport_hport (s : State) (i : Nat) (x : HalPort) : (s.setHport i x).hport i = x :=
  Tab.get_set _ _ _ _

/-- Other rows are as before. -/
theorem State.setHport_other (s : State) (i j : Nat) (x : HalPort) (h : i ≠ j) : (s.setHport i x).hport j = s.hport j :=
  Tab.get_set_other _ _ _ _ _ h

/-- The row changed is read back. -/
@[simp] theorem State.upHport_hport (s : State) (i : Nat) (g : HalPort → HalPort) : (s.upHport i g).hport i = g (s.hport i) :=
  Tab.get_set _ _ _ _

/-- Other rows are as before. -/
theorem State.upHport_other (s : State) (i j : Nat) (g : HalPort → HalPort) (h : i ≠ j) : (s.upHport i g).hport j = s.hport j :=
  Tab.get_set_other _ _ _ _ _ h

/-- What stays. -/
@[simp] theorem State.setHport_frame (s : State) (i : Nat) (x : HalPort) :
    (s.setHport i x).hif = s.hif ∧ (s.setHport i x).dev = s.dev ∧ (s.setHport i x).clients = s.clients ∧
    (s.setHport i x).partitions = s.partitions ∧ (s.setHport i x).ctxs = s.ctxs ∧
    (s.setHport i x).engines = s.engines ∧ (s.setHport i x).transfers = s.transfers ∧
    (s.setHport i x).xferNo = s.xferNo ∧ (s.setHport i x).taken = s.taken ∧ (s.setHport i x).takenNo = s.takenNo ∧
    (s.setHport i x).opens = s.opens ∧ (s.setHport i x).discard = s.discard ∧ (s.setHport i x).mem = s.mem ∧
    (s.setHport i x).psmUse = s.psmUse ∧ (s.setHport i x).psmc = s.psmc ∧ (s.setHport i x).commons = s.commons ∧
    (s.setHport i x).xlt = s.xlt ∧ (s.setHport i x).kvDir = s.kvDir ∧ (s.setHport i x).kvSeqs = s.kvSeqs ∧
    (s.setHport i x).kv = s.kv ∧ (s.setHport i x).sch = s.sch ∧ (s.setHport i x).steps = s.steps ∧
    (s.setHport i x).fe = s.fe ∧ (s.setHport i x).plans = s.plans ∧ (s.setHport i x).monitors = s.monitors ∧
    (s.setHport i x).log = s.log ∧ (s.setHport i x).trim = s.trim ∧ (s.setHport i x).plinth = s.plinth ∧
    (s.setHport i x).twin = s.twin ∧ (s.setHport i x).evc = s.evc ∧ (s.setHport i x).sec = s.sec ∧
    (s.setHport i x).upd = s.upd ∧ (s.setHport i x).svp = s.svp ∧ (s.setHport i x).store = s.store ∧
    (s.setHport i x).flash = s.flash ∧ (s.setHport i x).tst = s.tst ∧ (s.setHport i x).cpw = s.cpw ∧
    (s.setHport i x).cmdUse = s.cmdUse ∧ (s.setHport i x).bus = s.bus ∧ (s.setHport i x).outs = s.outs ∧
    (s.setHport i x).free = s.free ∧ (s.setHport i x).pending = s.pending ∧ (s.setHport i x).hal.sec = s.hal.sec ∧
    (s.setHport i x).hal.ns = s.hal.ns ∧ (s.setHport i x).hal.f = s.hal.f ∧ (s.setHport i x).hal.hclk = s.hal.hclk ∧
    (s.setHport i x).hal.inc = s.hal.inc ∧ (s.setHport i x).hal.mode = s.hal.mode ∧
    (s.setHport i x).hal.pref = s.hal.pref ∧ (s.setHport i x).hal.revert = s.hal.revert ∧
    (s.setHport i x).hal.stepOk = s.hal.stepOk ∧ (s.setHport i x).hal.source = s.hal.source ∧
    (s.setHport i x).hal.holdover = s.hal.holdover ∧ (s.setHport i x).hal.slewing = s.hal.slewing ∧
    (s.setHport i x).hal.stepped = s.hal.stepped ∧ (s.setHport i x).hal.stepRefused = s.hal.stepRefused ∧
    (s.setHport i x).hal.switchBlocked = s.hal.switchBlocked ∧ (s.setHport i x).hal.copyFail = s.hal.copyFail ∧
    (s.setHport i x).hal.slew = s.hal.slew ∧ (s.setHport i x).hal.maxNs = s.hal.maxNs ∧
    (s.setHport i x).hal.setNs = s.hal.setNs ∧ (s.setHport i x).hal.setLo = s.hal.setLo ∧
    (s.setHport i x).hal.setHi = s.hal.setHi ∧ (s.setHport i x).hal.cntSwitch = s.hal.cntSwitch ∧
    (s.setHport i x).hal.cntStep = s.hal.cntStep ∧ (s.setHport i x).hal.cntIncrIgn = s.hal.cntIncrIgn ∧
    (s.setHport i x).hal.acquired = s.hal.acquired ∧ (s.setHport i x).hal.pend = s.hal.pend ∧
    (s.setHport i x).hal.snaps = s.hal.snaps ∧ (s.setHport i x).hal.domains = s.hal.domains := by
  and_intros <;> rfl

/-- What stays. -/
@[simp] theorem State.upHport_frame (s : State) (i : Nat) (g : HalPort → HalPort) :
    (s.upHport i g).hif = s.hif ∧ (s.upHport i g).dev = s.dev ∧ (s.upHport i g).clients = s.clients ∧
    (s.upHport i g).partitions = s.partitions ∧ (s.upHport i g).ctxs = s.ctxs ∧ (s.upHport i g).engines = s.engines ∧
    (s.upHport i g).transfers = s.transfers ∧ (s.upHport i g).xferNo = s.xferNo ∧ (s.upHport i g).taken = s.taken ∧
    (s.upHport i g).takenNo = s.takenNo ∧ (s.upHport i g).opens = s.opens ∧ (s.upHport i g).discard = s.discard ∧
    (s.upHport i g).mem = s.mem ∧ (s.upHport i g).psmUse = s.psmUse ∧ (s.upHport i g).psmc = s.psmc ∧
    (s.upHport i g).commons = s.commons ∧ (s.upHport i g).xlt = s.xlt ∧ (s.upHport i g).kvDir = s.kvDir ∧
    (s.upHport i g).kvSeqs = s.kvSeqs ∧ (s.upHport i g).kv = s.kv ∧ (s.upHport i g).sch = s.sch ∧
    (s.upHport i g).steps = s.steps ∧ (s.upHport i g).fe = s.fe ∧ (s.upHport i g).plans = s.plans ∧
    (s.upHport i g).monitors = s.monitors ∧ (s.upHport i g).log = s.log ∧ (s.upHport i g).trim = s.trim ∧
    (s.upHport i g).plinth = s.plinth ∧ (s.upHport i g).twin = s.twin ∧ (s.upHport i g).evc = s.evc ∧
    (s.upHport i g).sec = s.sec ∧ (s.upHport i g).upd = s.upd ∧ (s.upHport i g).svp = s.svp ∧
    (s.upHport i g).store = s.store ∧ (s.upHport i g).flash = s.flash ∧ (s.upHport i g).tst = s.tst ∧
    (s.upHport i g).cpw = s.cpw ∧ (s.upHport i g).cmdUse = s.cmdUse ∧ (s.upHport i g).bus = s.bus ∧
    (s.upHport i g).outs = s.outs ∧ (s.upHport i g).free = s.free ∧ (s.upHport i g).pending = s.pending ∧
    (s.upHport i g).hal.sec = s.hal.sec ∧ (s.upHport i g).hal.ns = s.hal.ns ∧ (s.upHport i g).hal.f = s.hal.f ∧
    (s.upHport i g).hal.hclk = s.hal.hclk ∧ (s.upHport i g).hal.inc = s.hal.inc ∧
    (s.upHport i g).hal.mode = s.hal.mode ∧ (s.upHport i g).hal.pref = s.hal.pref ∧
    (s.upHport i g).hal.revert = s.hal.revert ∧ (s.upHport i g).hal.stepOk = s.hal.stepOk ∧
    (s.upHport i g).hal.source = s.hal.source ∧ (s.upHport i g).hal.holdover = s.hal.holdover ∧
    (s.upHport i g).hal.slewing = s.hal.slewing ∧ (s.upHport i g).hal.stepped = s.hal.stepped ∧
    (s.upHport i g).hal.stepRefused = s.hal.stepRefused ∧ (s.upHport i g).hal.switchBlocked = s.hal.switchBlocked ∧
    (s.upHport i g).hal.copyFail = s.hal.copyFail ∧ (s.upHport i g).hal.slew = s.hal.slew ∧
    (s.upHport i g).hal.maxNs = s.hal.maxNs ∧ (s.upHport i g).hal.setNs = s.hal.setNs ∧
    (s.upHport i g).hal.setLo = s.hal.setLo ∧ (s.upHport i g).hal.setHi = s.hal.setHi ∧
    (s.upHport i g).hal.cntSwitch = s.hal.cntSwitch ∧ (s.upHport i g).hal.cntStep = s.hal.cntStep ∧
    (s.upHport i g).hal.cntIncrIgn = s.hal.cntIncrIgn ∧ (s.upHport i g).hal.acquired = s.hal.acquired ∧
    (s.upHport i g).hal.pend = s.hal.pend ∧ (s.upHport i g).hal.snaps = s.hal.snaps ∧
    (s.upHport i g).hal.domains = s.hal.domains := by
  and_intros <;> rfl

/-- The row written is read back. -/
@[simp] theorem State.setDomain_domain (s : State) (i : Nat) (x : Domain) : (s.setDomain i x).domain i = x :=
  Tab.get_set _ _ _ _

/-- Other rows are as before. -/
theorem State.setDomain_other (s : State) (i j : Nat) (x : Domain) (h : i ≠ j) : (s.setDomain i x).domain j = s.domain j :=
  Tab.get_set_other _ _ _ _ _ h

/-- The row changed is read back. -/
@[simp] theorem State.upDomain_domain (s : State) (i : Nat) (g : Domain → Domain) : (s.upDomain i g).domain i = g (s.domain i) :=
  Tab.get_set _ _ _ _

/-- Other rows are as before. -/
theorem State.upDomain_other (s : State) (i j : Nat) (g : Domain → Domain) (h : i ≠ j) : (s.upDomain i g).domain j = s.domain j :=
  Tab.get_set_other _ _ _ _ _ h

/-- What stays. -/
@[simp] theorem State.setDomain_frame (s : State) (i : Nat) (x : Domain) :
    (s.setDomain i x).hif = s.hif ∧ (s.setDomain i x).dev = s.dev ∧ (s.setDomain i x).clients = s.clients ∧
    (s.setDomain i x).partitions = s.partitions ∧ (s.setDomain i x).ctxs = s.ctxs ∧
    (s.setDomain i x).engines = s.engines ∧ (s.setDomain i x).transfers = s.transfers ∧
    (s.setDomain i x).xferNo = s.xferNo ∧ (s.setDomain i x).taken = s.taken ∧ (s.setDomain i x).takenNo = s.takenNo ∧
    (s.setDomain i x).opens = s.opens ∧ (s.setDomain i x).discard = s.discard ∧ (s.setDomain i x).mem = s.mem ∧
    (s.setDomain i x).psmUse = s.psmUse ∧ (s.setDomain i x).psmc = s.psmc ∧ (s.setDomain i x).commons = s.commons ∧
    (s.setDomain i x).xlt = s.xlt ∧ (s.setDomain i x).kvDir = s.kvDir ∧ (s.setDomain i x).kvSeqs = s.kvSeqs ∧
    (s.setDomain i x).kv = s.kv ∧ (s.setDomain i x).sch = s.sch ∧ (s.setDomain i x).steps = s.steps ∧
    (s.setDomain i x).fe = s.fe ∧ (s.setDomain i x).plans = s.plans ∧ (s.setDomain i x).monitors = s.monitors ∧
    (s.setDomain i x).log = s.log ∧ (s.setDomain i x).trim = s.trim ∧ (s.setDomain i x).plinth = s.plinth ∧
    (s.setDomain i x).twin = s.twin ∧ (s.setDomain i x).evc = s.evc ∧ (s.setDomain i x).sec = s.sec ∧
    (s.setDomain i x).upd = s.upd ∧ (s.setDomain i x).svp = s.svp ∧ (s.setDomain i x).store = s.store ∧
    (s.setDomain i x).flash = s.flash ∧ (s.setDomain i x).tst = s.tst ∧ (s.setDomain i x).cpw = s.cpw ∧
    (s.setDomain i x).cmdUse = s.cmdUse ∧ (s.setDomain i x).bus = s.bus ∧ (s.setDomain i x).outs = s.outs ∧
    (s.setDomain i x).free = s.free ∧ (s.setDomain i x).pending = s.pending ∧ (s.setDomain i x).hal.sec = s.hal.sec ∧
    (s.setDomain i x).hal.ns = s.hal.ns ∧ (s.setDomain i x).hal.f = s.hal.f ∧
    (s.setDomain i x).hal.hclk = s.hal.hclk ∧ (s.setDomain i x).hal.inc = s.hal.inc ∧
    (s.setDomain i x).hal.mode = s.hal.mode ∧ (s.setDomain i x).hal.pref = s.hal.pref ∧
    (s.setDomain i x).hal.revert = s.hal.revert ∧ (s.setDomain i x).hal.stepOk = s.hal.stepOk ∧
    (s.setDomain i x).hal.source = s.hal.source ∧ (s.setDomain i x).hal.holdover = s.hal.holdover ∧
    (s.setDomain i x).hal.slewing = s.hal.slewing ∧ (s.setDomain i x).hal.stepped = s.hal.stepped ∧
    (s.setDomain i x).hal.stepRefused = s.hal.stepRefused ∧
    (s.setDomain i x).hal.switchBlocked = s.hal.switchBlocked ∧ (s.setDomain i x).hal.copyFail = s.hal.copyFail ∧
    (s.setDomain i x).hal.slew = s.hal.slew ∧ (s.setDomain i x).hal.maxNs = s.hal.maxNs ∧
    (s.setDomain i x).hal.setNs = s.hal.setNs ∧ (s.setDomain i x).hal.setLo = s.hal.setLo ∧
    (s.setDomain i x).hal.setHi = s.hal.setHi ∧ (s.setDomain i x).hal.cntSwitch = s.hal.cntSwitch ∧
    (s.setDomain i x).hal.cntStep = s.hal.cntStep ∧ (s.setDomain i x).hal.cntIncrIgn = s.hal.cntIncrIgn ∧
    (s.setDomain i x).hal.acquired = s.hal.acquired ∧ (s.setDomain i x).hal.pend = s.hal.pend ∧
    (s.setDomain i x).hal.snaps = s.hal.snaps ∧ (s.setDomain i x).hal.ports = s.hal.ports := by
  and_intros <;> rfl

/-- What stays. -/
@[simp] theorem State.upDomain_frame (s : State) (i : Nat) (g : Domain → Domain) :
    (s.upDomain i g).hif = s.hif ∧ (s.upDomain i g).dev = s.dev ∧ (s.upDomain i g).clients = s.clients ∧
    (s.upDomain i g).partitions = s.partitions ∧ (s.upDomain i g).ctxs = s.ctxs ∧
    (s.upDomain i g).engines = s.engines ∧ (s.upDomain i g).transfers = s.transfers ∧
    (s.upDomain i g).xferNo = s.xferNo ∧ (s.upDomain i g).taken = s.taken ∧ (s.upDomain i g).takenNo = s.takenNo ∧
    (s.upDomain i g).opens = s.opens ∧ (s.upDomain i g).discard = s.discard ∧ (s.upDomain i g).mem = s.mem ∧
    (s.upDomain i g).psmUse = s.psmUse ∧ (s.upDomain i g).psmc = s.psmc ∧ (s.upDomain i g).commons = s.commons ∧
    (s.upDomain i g).xlt = s.xlt ∧ (s.upDomain i g).kvDir = s.kvDir ∧ (s.upDomain i g).kvSeqs = s.kvSeqs ∧
    (s.upDomain i g).kv = s.kv ∧ (s.upDomain i g).sch = s.sch ∧ (s.upDomain i g).steps = s.steps ∧
    (s.upDomain i g).fe = s.fe ∧ (s.upDomain i g).plans = s.plans ∧ (s.upDomain i g).monitors = s.monitors ∧
    (s.upDomain i g).log = s.log ∧ (s.upDomain i g).trim = s.trim ∧ (s.upDomain i g).plinth = s.plinth ∧
    (s.upDomain i g).twin = s.twin ∧ (s.upDomain i g).evc = s.evc ∧ (s.upDomain i g).sec = s.sec ∧
    (s.upDomain i g).upd = s.upd ∧ (s.upDomain i g).svp = s.svp ∧ (s.upDomain i g).store = s.store ∧
    (s.upDomain i g).flash = s.flash ∧ (s.upDomain i g).tst = s.tst ∧ (s.upDomain i g).cpw = s.cpw ∧
    (s.upDomain i g).cmdUse = s.cmdUse ∧ (s.upDomain i g).bus = s.bus ∧ (s.upDomain i g).outs = s.outs ∧
    (s.upDomain i g).free = s.free ∧ (s.upDomain i g).pending = s.pending ∧ (s.upDomain i g).hal.sec = s.hal.sec ∧
    (s.upDomain i g).hal.ns = s.hal.ns ∧ (s.upDomain i g).hal.f = s.hal.f ∧ (s.upDomain i g).hal.hclk = s.hal.hclk ∧
    (s.upDomain i g).hal.inc = s.hal.inc ∧ (s.upDomain i g).hal.mode = s.hal.mode ∧
    (s.upDomain i g).hal.pref = s.hal.pref ∧ (s.upDomain i g).hal.revert = s.hal.revert ∧
    (s.upDomain i g).hal.stepOk = s.hal.stepOk ∧ (s.upDomain i g).hal.source = s.hal.source ∧
    (s.upDomain i g).hal.holdover = s.hal.holdover ∧ (s.upDomain i g).hal.slewing = s.hal.slewing ∧
    (s.upDomain i g).hal.stepped = s.hal.stepped ∧ (s.upDomain i g).hal.stepRefused = s.hal.stepRefused ∧
    (s.upDomain i g).hal.switchBlocked = s.hal.switchBlocked ∧ (s.upDomain i g).hal.copyFail = s.hal.copyFail ∧
    (s.upDomain i g).hal.slew = s.hal.slew ∧ (s.upDomain i g).hal.maxNs = s.hal.maxNs ∧
    (s.upDomain i g).hal.setNs = s.hal.setNs ∧ (s.upDomain i g).hal.setLo = s.hal.setLo ∧
    (s.upDomain i g).hal.setHi = s.hal.setHi ∧ (s.upDomain i g).hal.cntSwitch = s.hal.cntSwitch ∧
    (s.upDomain i g).hal.cntStep = s.hal.cntStep ∧ (s.upDomain i g).hal.cntIncrIgn = s.hal.cntIncrIgn ∧
    (s.upDomain i g).hal.acquired = s.hal.acquired ∧ (s.upDomain i g).hal.pend = s.hal.pend ∧
    (s.upDomain i g).hal.snaps = s.hal.snaps ∧ (s.upDomain i g).hal.ports = s.hal.ports := by
  and_intros <;> rfl

/-- What stays. -/
@[simp] theorem State.wr_frame (s : State) (a : Nat) (bs : List Byte) :
    (s.wr a bs).hif = s.hif ∧ (s.wr a bs).dev = s.dev ∧ (s.wr a bs).clients = s.clients ∧
    (s.wr a bs).partitions = s.partitions ∧ (s.wr a bs).ctxs = s.ctxs ∧ (s.wr a bs).engines = s.engines ∧
    (s.wr a bs).transfers = s.transfers ∧ (s.wr a bs).xferNo = s.xferNo ∧ (s.wr a bs).taken = s.taken ∧
    (s.wr a bs).takenNo = s.takenNo ∧ (s.wr a bs).opens = s.opens ∧ (s.wr a bs).discard = s.discard ∧
    (s.wr a bs).psmUse = s.psmUse ∧ (s.wr a bs).psmc = s.psmc ∧ (s.wr a bs).commons = s.commons ∧
    (s.wr a bs).xlt = s.xlt ∧ (s.wr a bs).kvDir = s.kvDir ∧ (s.wr a bs).kvSeqs = s.kvSeqs ∧ (s.wr a bs).kv = s.kv ∧
    (s.wr a bs).sch = s.sch ∧ (s.wr a bs).steps = s.steps ∧ (s.wr a bs).fe = s.fe ∧ (s.wr a bs).hal = s.hal ∧
    (s.wr a bs).plans = s.plans ∧ (s.wr a bs).monitors = s.monitors ∧ (s.wr a bs).log = s.log ∧
    (s.wr a bs).trim = s.trim ∧ (s.wr a bs).plinth = s.plinth ∧ (s.wr a bs).twin = s.twin ∧ (s.wr a bs).evc = s.evc ∧
    (s.wr a bs).sec = s.sec ∧ (s.wr a bs).upd = s.upd ∧ (s.wr a bs).svp = s.svp ∧ (s.wr a bs).store = s.store ∧
    (s.wr a bs).flash = s.flash ∧ (s.wr a bs).tst = s.tst ∧ (s.wr a bs).cpw = s.cpw ∧ (s.wr a bs).cmdUse = s.cmdUse ∧
    (s.wr a bs).bus = s.bus ∧ (s.wr a bs).outs = s.outs ∧ (s.wr a bs).free = s.free ∧ (s.wr a bs).pending = s.pending := by
  and_intros <;> rfl

/-- What stays. -/
@[simp] theorem State.wrHost_frame (s : State) (a : Nat) (bs : List Byte) :
    (s.wrHost a bs).hif = s.hif ∧ (s.wrHost a bs).dev = s.dev ∧ (s.wrHost a bs).clients = s.clients ∧
    (s.wrHost a bs).partitions = s.partitions ∧ (s.wrHost a bs).ctxs = s.ctxs ∧ (s.wrHost a bs).engines = s.engines ∧
    (s.wrHost a bs).transfers = s.transfers ∧ (s.wrHost a bs).xferNo = s.xferNo ∧ (s.wrHost a bs).taken = s.taken ∧
    (s.wrHost a bs).takenNo = s.takenNo ∧ (s.wrHost a bs).opens = s.opens ∧ (s.wrHost a bs).discard = s.discard ∧
    (s.wrHost a bs).psmUse = s.psmUse ∧ (s.wrHost a bs).psmc = s.psmc ∧ (s.wrHost a bs).commons = s.commons ∧
    (s.wrHost a bs).xlt = s.xlt ∧ (s.wrHost a bs).kvDir = s.kvDir ∧ (s.wrHost a bs).kvSeqs = s.kvSeqs ∧
    (s.wrHost a bs).kv = s.kv ∧ (s.wrHost a bs).sch = s.sch ∧ (s.wrHost a bs).steps = s.steps ∧
    (s.wrHost a bs).fe = s.fe ∧ (s.wrHost a bs).hal = s.hal ∧ (s.wrHost a bs).plans = s.plans ∧
    (s.wrHost a bs).monitors = s.monitors ∧ (s.wrHost a bs).log = s.log ∧ (s.wrHost a bs).trim = s.trim ∧
    (s.wrHost a bs).plinth = s.plinth ∧ (s.wrHost a bs).twin = s.twin ∧ (s.wrHost a bs).evc = s.evc ∧
    (s.wrHost a bs).sec = s.sec ∧ (s.wrHost a bs).upd = s.upd ∧ (s.wrHost a bs).svp = s.svp ∧
    (s.wrHost a bs).store = s.store ∧ (s.wrHost a bs).flash = s.flash ∧ (s.wrHost a bs).tst = s.tst ∧
    (s.wrHost a bs).cpw = s.cpw ∧ (s.wrHost a bs).cmdUse = s.cmdUse ∧ (s.wrHost a bs).bus = s.bus ∧
    (s.wrHost a bs).outs = s.outs ∧ (s.wrHost a bs).free = s.free ∧ (s.wrHost a bs).pending = s.pending := by
  and_intros <;> rfl

/-- What stays. -/
@[simp] theorem State.zero_frame (s : State) (a n : Nat) :
    (s.zero a n).hif = s.hif ∧ (s.zero a n).dev = s.dev ∧ (s.zero a n).clients = s.clients ∧
    (s.zero a n).partitions = s.partitions ∧ (s.zero a n).ctxs = s.ctxs ∧ (s.zero a n).engines = s.engines ∧
    (s.zero a n).transfers = s.transfers ∧ (s.zero a n).xferNo = s.xferNo ∧ (s.zero a n).taken = s.taken ∧
    (s.zero a n).takenNo = s.takenNo ∧ (s.zero a n).opens = s.opens ∧ (s.zero a n).discard = s.discard ∧
    (s.zero a n).psmUse = s.psmUse ∧ (s.zero a n).psmc = s.psmc ∧ (s.zero a n).commons = s.commons ∧
    (s.zero a n).xlt = s.xlt ∧ (s.zero a n).kvDir = s.kvDir ∧ (s.zero a n).kvSeqs = s.kvSeqs ∧
    (s.zero a n).kv = s.kv ∧ (s.zero a n).sch = s.sch ∧ (s.zero a n).steps = s.steps ∧ (s.zero a n).fe = s.fe ∧
    (s.zero a n).hal = s.hal ∧ (s.zero a n).plans = s.plans ∧ (s.zero a n).monitors = s.monitors ∧
    (s.zero a n).log = s.log ∧ (s.zero a n).trim = s.trim ∧ (s.zero a n).plinth = s.plinth ∧
    (s.zero a n).twin = s.twin ∧ (s.zero a n).evc = s.evc ∧ (s.zero a n).sec = s.sec ∧ (s.zero a n).upd = s.upd ∧
    (s.zero a n).svp = s.svp ∧ (s.zero a n).store = s.store ∧ (s.zero a n).flash = s.flash ∧
    (s.zero a n).tst = s.tst ∧ (s.zero a n).cpw = s.cpw ∧ (s.zero a n).cmdUse = s.cmdUse ∧ (s.zero a n).bus = s.bus ∧
    (s.zero a n).outs = s.outs ∧ (s.zero a n).free = s.free ∧ (s.zero a n).pending = s.pending := by
  and_intros <;> rfl

/-- What stays. -/
@[simp] theorem State.out_frame (s : State) (k d : Nat) (bs : List Byte) :
    (s.out k d bs).hif = s.hif ∧ (s.out k d bs).dev = s.dev ∧ (s.out k d bs).clients = s.clients ∧
    (s.out k d bs).partitions = s.partitions ∧ (s.out k d bs).ctxs = s.ctxs ∧ (s.out k d bs).engines = s.engines ∧
    (s.out k d bs).transfers = s.transfers ∧ (s.out k d bs).xferNo = s.xferNo ∧ (s.out k d bs).taken = s.taken ∧
    (s.out k d bs).takenNo = s.takenNo ∧ (s.out k d bs).opens = s.opens ∧ (s.out k d bs).discard = s.discard ∧
    (s.out k d bs).mem = s.mem ∧ (s.out k d bs).psmUse = s.psmUse ∧ (s.out k d bs).psmc = s.psmc ∧
    (s.out k d bs).commons = s.commons ∧ (s.out k d bs).xlt = s.xlt ∧ (s.out k d bs).kvDir = s.kvDir ∧
    (s.out k d bs).kvSeqs = s.kvSeqs ∧ (s.out k d bs).kv = s.kv ∧ (s.out k d bs).sch = s.sch ∧
    (s.out k d bs).steps = s.steps ∧ (s.out k d bs).fe = s.fe ∧ (s.out k d bs).hal = s.hal ∧
    (s.out k d bs).plans = s.plans ∧ (s.out k d bs).monitors = s.monitors ∧ (s.out k d bs).log = s.log ∧
    (s.out k d bs).trim = s.trim ∧ (s.out k d bs).plinth = s.plinth ∧ (s.out k d bs).twin = s.twin ∧
    (s.out k d bs).evc = s.evc ∧ (s.out k d bs).sec = s.sec ∧ (s.out k d bs).upd = s.upd ∧
    (s.out k d bs).svp = s.svp ∧ (s.out k d bs).store = s.store ∧ (s.out k d bs).flash = s.flash ∧
    (s.out k d bs).tst = s.tst ∧ (s.out k d bs).cpw = s.cpw ∧ (s.out k d bs).cmdUse = s.cmdUse ∧
    (s.out k d bs).bus = s.bus ∧ (s.out k d bs).free = s.free ∧ (s.out k d bs).pending = s.pending := by
  and_intros <;> rfl

/-- What stays. -/
@[simp] theorem State.busAns_frame (s : State) (st : Nat) (bs : List Byte) :
    (s.busAns st bs).hif = s.hif ∧ (s.busAns st bs).dev = s.dev ∧ (s.busAns st bs).clients = s.clients ∧
    (s.busAns st bs).partitions = s.partitions ∧ (s.busAns st bs).ctxs = s.ctxs ∧
    (s.busAns st bs).engines = s.engines ∧ (s.busAns st bs).transfers = s.transfers ∧
    (s.busAns st bs).xferNo = s.xferNo ∧ (s.busAns st bs).taken = s.taken ∧ (s.busAns st bs).takenNo = s.takenNo ∧
    (s.busAns st bs).opens = s.opens ∧ (s.busAns st bs).discard = s.discard ∧ (s.busAns st bs).mem = s.mem ∧
    (s.busAns st bs).psmUse = s.psmUse ∧ (s.busAns st bs).psmc = s.psmc ∧ (s.busAns st bs).commons = s.commons ∧
    (s.busAns st bs).xlt = s.xlt ∧ (s.busAns st bs).kvDir = s.kvDir ∧ (s.busAns st bs).kvSeqs = s.kvSeqs ∧
    (s.busAns st bs).kv = s.kv ∧ (s.busAns st bs).sch = s.sch ∧ (s.busAns st bs).steps = s.steps ∧
    (s.busAns st bs).fe = s.fe ∧ (s.busAns st bs).hal = s.hal ∧ (s.busAns st bs).plans = s.plans ∧
    (s.busAns st bs).monitors = s.monitors ∧ (s.busAns st bs).log = s.log ∧ (s.busAns st bs).trim = s.trim ∧
    (s.busAns st bs).plinth = s.plinth ∧ (s.busAns st bs).twin = s.twin ∧ (s.busAns st bs).evc = s.evc ∧
    (s.busAns st bs).sec = s.sec ∧ (s.busAns st bs).upd = s.upd ∧ (s.busAns st bs).svp = s.svp ∧
    (s.busAns st bs).store = s.store ∧ (s.busAns st bs).flash = s.flash ∧ (s.busAns st bs).tst = s.tst ∧
    (s.busAns st bs).cpw = s.cpw ∧ (s.busAns st bs).cmdUse = s.cmdUse ∧ (s.busAns st bs).outs = s.outs ∧
    (s.busAns st bs).free = s.free ∧ (s.busAns st bs).pending = s.pending := by
  and_intros <;> rfl

/-- What stays. -/
@[simp] theorem State.busWord_frame (s : State) (w : Word) :
    (s.busWord w).hif = s.hif ∧ (s.busWord w).dev = s.dev ∧ (s.busWord w).clients = s.clients ∧
    (s.busWord w).partitions = s.partitions ∧ (s.busWord w).ctxs = s.ctxs ∧ (s.busWord w).engines = s.engines ∧
    (s.busWord w).transfers = s.transfers ∧ (s.busWord w).xferNo = s.xferNo ∧ (s.busWord w).taken = s.taken ∧
    (s.busWord w).takenNo = s.takenNo ∧ (s.busWord w).opens = s.opens ∧ (s.busWord w).discard = s.discard ∧
    (s.busWord w).mem = s.mem ∧ (s.busWord w).psmUse = s.psmUse ∧ (s.busWord w).psmc = s.psmc ∧
    (s.busWord w).commons = s.commons ∧ (s.busWord w).xlt = s.xlt ∧ (s.busWord w).kvDir = s.kvDir ∧
    (s.busWord w).kvSeqs = s.kvSeqs ∧ (s.busWord w).kv = s.kv ∧ (s.busWord w).sch = s.sch ∧
    (s.busWord w).steps = s.steps ∧ (s.busWord w).fe = s.fe ∧ (s.busWord w).hal = s.hal ∧
    (s.busWord w).plans = s.plans ∧ (s.busWord w).monitors = s.monitors ∧ (s.busWord w).log = s.log ∧
    (s.busWord w).trim = s.trim ∧ (s.busWord w).plinth = s.plinth ∧ (s.busWord w).twin = s.twin ∧
    (s.busWord w).evc = s.evc ∧ (s.busWord w).sec = s.sec ∧ (s.busWord w).upd = s.upd ∧ (s.busWord w).svp = s.svp ∧
    (s.busWord w).store = s.store ∧ (s.busWord w).flash = s.flash ∧ (s.busWord w).tst = s.tst ∧
    (s.busWord w).cpw = s.cpw ∧ (s.busWord w).cmdUse = s.cmdUse ∧ (s.busWord w).outs = s.outs ∧
    (s.busWord w).free = s.free ∧ (s.busWord w).pending = s.pending := by
  and_intros <;> rfl

/-- What stays. -/
@[simp] theorem State.draw_frame (s : State) :
    s.draw.2.hif = s.hif ∧ s.draw.2.dev = s.dev ∧ s.draw.2.clients = s.clients ∧ s.draw.2.partitions = s.partitions ∧
    s.draw.2.ctxs = s.ctxs ∧ s.draw.2.engines = s.engines ∧ s.draw.2.transfers = s.transfers ∧
    s.draw.2.xferNo = s.xferNo ∧ s.draw.2.taken = s.taken ∧ s.draw.2.takenNo = s.takenNo ∧ s.draw.2.opens = s.opens ∧
    s.draw.2.discard = s.discard ∧ s.draw.2.mem = s.mem ∧ s.draw.2.psmUse = s.psmUse ∧ s.draw.2.psmc = s.psmc ∧
    s.draw.2.commons = s.commons ∧ s.draw.2.xlt = s.xlt ∧ s.draw.2.kvDir = s.kvDir ∧ s.draw.2.kvSeqs = s.kvSeqs ∧
    s.draw.2.kv = s.kv ∧ s.draw.2.sch = s.sch ∧ s.draw.2.steps = s.steps ∧ s.draw.2.fe = s.fe ∧
    s.draw.2.hal = s.hal ∧ s.draw.2.plans = s.plans ∧ s.draw.2.monitors = s.monitors ∧ s.draw.2.log = s.log ∧
    s.draw.2.trim = s.trim ∧ s.draw.2.plinth = s.plinth ∧ s.draw.2.twin = s.twin ∧ s.draw.2.evc = s.evc ∧
    s.draw.2.sec = s.sec ∧ s.draw.2.upd = s.upd ∧ s.draw.2.svp = s.svp ∧ s.draw.2.store = s.store ∧
    s.draw.2.flash = s.flash ∧ s.draw.2.tst = s.tst ∧ s.draw.2.cpw = s.cpw ∧ s.draw.2.cmdUse = s.cmdUse ∧
    s.draw.2.bus = s.bus ∧ s.draw.2.outs = s.outs ∧ s.draw.2.pending = s.pending := by
  and_intros <;> rfl

/-- What stays. -/
@[simp] theorem State.drawBytes_frame (s : State) (n : Nat) :
    (s.drawBytes n).2.hif = s.hif ∧ (s.drawBytes n).2.dev = s.dev ∧ (s.drawBytes n).2.clients = s.clients ∧
    (s.drawBytes n).2.partitions = s.partitions ∧ (s.drawBytes n).2.ctxs = s.ctxs ∧
    (s.drawBytes n).2.engines = s.engines ∧ (s.drawBytes n).2.transfers = s.transfers ∧
    (s.drawBytes n).2.xferNo = s.xferNo ∧ (s.drawBytes n).2.taken = s.taken ∧ (s.drawBytes n).2.takenNo = s.takenNo ∧
    (s.drawBytes n).2.opens = s.opens ∧ (s.drawBytes n).2.discard = s.discard ∧ (s.drawBytes n).2.mem = s.mem ∧
    (s.drawBytes n).2.psmUse = s.psmUse ∧ (s.drawBytes n).2.psmc = s.psmc ∧ (s.drawBytes n).2.commons = s.commons ∧
    (s.drawBytes n).2.xlt = s.xlt ∧ (s.drawBytes n).2.kvDir = s.kvDir ∧ (s.drawBytes n).2.kvSeqs = s.kvSeqs ∧
    (s.drawBytes n).2.kv = s.kv ∧ (s.drawBytes n).2.sch = s.sch ∧ (s.drawBytes n).2.steps = s.steps ∧
    (s.drawBytes n).2.fe = s.fe ∧ (s.drawBytes n).2.hal = s.hal ∧ (s.drawBytes n).2.plans = s.plans ∧
    (s.drawBytes n).2.monitors = s.monitors ∧ (s.drawBytes n).2.log = s.log ∧ (s.drawBytes n).2.trim = s.trim ∧
    (s.drawBytes n).2.plinth = s.plinth ∧ (s.drawBytes n).2.twin = s.twin ∧ (s.drawBytes n).2.evc = s.evc ∧
    (s.drawBytes n).2.sec = s.sec ∧ (s.drawBytes n).2.upd = s.upd ∧ (s.drawBytes n).2.svp = s.svp ∧
    (s.drawBytes n).2.store = s.store ∧ (s.drawBytes n).2.flash = s.flash ∧ (s.drawBytes n).2.tst = s.tst ∧
    (s.drawBytes n).2.cpw = s.cpw ∧ (s.drawBytes n).2.cmdUse = s.cmdUse ∧ (s.drawBytes n).2.bus = s.bus ∧
    (s.drawBytes n).2.outs = s.outs ∧ (s.drawBytes n).2.pending = s.pending := by
  and_intros <;> rfl

end Sys2Proof.Machine
end

