-- ==== Sys2Proof/Laws/Event.lean ====
section
/-! SUPPORT. What an event does: messages held in the PBA, the event controller, and what leaves the device. -/

namespace Sys2Proof.Machine

/-- Everything that a message does: it is sent, or its bit is set in the PBA. -/
theorem State.msix_says (s : State) (v : Nat) :
    ∃ p e o, s.msix v = { s with hif := { s.hif with pba := p }, evc := e, outs := o } := by
  unfold State.msix
  dsimp only
  split
  · exact ⟨_, s.evc, s.outs, rfl⟩
  · exact ⟨s.hif.pba, s.evc, _, rfl⟩

/-- A message that is held. -/
theorem State.msix_held (s : State) (v : Nat) (h : (s.msixEntry v).masked = true ∨ s.hif.d3hot = true) :
    s.msix v = s.upHif fun h => { h with pba := if h.pba.contains v then h.pba else v :: h.pba } := if_pos h

/-- A message that is sent. -/
theorem State.msix_sent (s : State) (v : Nat) (h : ¬ ((s.msixEntry v).masked = true ∨ s.hif.d3hot = true)) :
    s.msix v = s.out 0 v (natBytes 8 (s.msixEntry v).addr ++ wordBytes (s.msixEntry v).data) := if_neg h

/-- Everything that the host bridge does. -/
theorem State.evcBridge_says (s : State) (g : Nat) :
    ∃ p e o, s.evcBridge g = { s with hif := { s.hif with pba := p }, evc := e, outs := o } := by
  unfold State.evcBridge
  dsimp only
  split
  · obtain ⟨p, e, o, h⟩ := State.msix_says (s.upEvc fun v => { v with latch := setBit v.latch g true, brgCnt := v.brgCnt + 1 })
      (Tab.get 0 s.evc.vector g)
    exact ⟨p, e, o, h⟩
  · exact ⟨s.hif.pba, s.evc, s.outs, rfl⟩

/-- Everything that waking the processors does. -/
theorem State.evcWake_says (s : State) (n : Nat) :
    ∃ p e o, s.evcWake n = { s with hif := { s.hif with pba := p }, evc := e, outs := o } := by
  unfold State.evcWake
  split
  · generalize List.range 4 = l
    suffices h : ∀ (l : List Nat) (t : State), (∃ e o, t = { s with evc := e, outs := o }) →
        ∃ e o, l.foldl (fun (t : State) k =>
          if t.evc.sleep.getLsbD k && (t.evc.target n).testBit k then
            (t.upEvc fun v => { v with sleep := setBit v.sleep k false }).out 6 k []
          else t) t = { s with evc := e, outs := o } by
      obtain ⟨e, o, h⟩ := h l s ⟨s.evc, s.outs, rfl⟩
      exact ⟨s.hif.pba, e, o, h⟩
    intro l
    induction l with
    | nil => exact fun t h => h
    | cons k l ih =>
      rintro t ⟨e, o, rfl⟩
      refine ih _ ?_
      beta_reduce
      split
      · exact ⟨_, _, rfl⟩
      · exact ⟨e, o, rfl⟩
  · exact ⟨s.hif.pba, s.evc, s.outs, rfl⟩

/-- Everything that an event does. -/
theorem State.event_says (s : State) (n : Nat) :
    ∃ p e o, s.event n = { s with hif := { s.hif with pba := p }, evc := e, outs := o } := by
  unfold State.event
  split
  · obtain ⟨p, e, o, h⟩ := State.evcWake_says (s.upEvc fun v =>
      { v with pend := Tab.set v.pend (n / 32) (Tab.get 0 v.pend (n / 32) ||| wd (2 ^ (n % 32))) }) n
    obtain ⟨p', e', o', h'⟩ := State.evcBridge_says ((s.upEvc fun v =>
      { v with pend := Tab.set v.pend (n / 32) (Tab.get 0 v.pend (n / 32) ||| wd (2 ^ (n % 32))) }).evcWake n) (n / 32)
    rw [h] at h'
    exact ⟨p', e', o', (congrArg (fun t => State.evcBridge t (n / 32)) h).trans h'⟩
  · exact ⟨s.hif.pba, s.evc, s.outs, rfl⟩

/-- What stays, field by field. -/
@[simp] theorem State.msix_frame (s : State) (v : Nat) :
    (s.msix v).dev = s.dev ∧ (s.msix v).clients = s.clients ∧ (s.msix v).partitions = s.partitions ∧
    (s.msix v).ctxs = s.ctxs ∧ (s.msix v).engines = s.engines ∧ (s.msix v).transfers = s.transfers ∧
    (s.msix v).xferNo = s.xferNo ∧ (s.msix v).taken = s.taken ∧ (s.msix v).takenNo = s.takenNo ∧
    (s.msix v).opens = s.opens ∧ (s.msix v).discard = s.discard ∧ (s.msix v).mem = s.mem ∧
    (s.msix v).psmUse = s.psmUse ∧ (s.msix v).psmc = s.psmc ∧ (s.msix v).commons = s.commons ∧
    (s.msix v).xlt = s.xlt ∧ (s.msix v).kvDir = s.kvDir ∧ (s.msix v).kvSeqs = s.kvSeqs ∧ (s.msix v).kv = s.kv ∧
    (s.msix v).sch = s.sch ∧ (s.msix v).steps = s.steps ∧ (s.msix v).fe = s.fe ∧ (s.msix v).hal = s.hal ∧
    (s.msix v).plans = s.plans ∧ (s.msix v).monitors = s.monitors ∧ (s.msix v).log = s.log ∧
    (s.msix v).trim = s.trim ∧ (s.msix v).plinth = s.plinth ∧ (s.msix v).twin = s.twin ∧ (s.msix v).sec = s.sec ∧
    (s.msix v).upd = s.upd ∧ (s.msix v).svp = s.svp ∧ (s.msix v).store = s.store ∧ (s.msix v).flash = s.flash ∧
    (s.msix v).tst = s.tst ∧ (s.msix v).cpw = s.cpw ∧ (s.msix v).cmdUse = s.cmdUse ∧ (s.msix v).bus = s.bus ∧
    (s.msix v).free = s.free ∧ (s.msix v).pending = s.pending ∧ (s.msix v).hif.ready = s.hif.ready ∧
    (s.msix v).hif.linkUp = s.hif.linkUp ∧ (s.msix v).hif.rate = s.hif.rate ∧ (s.msix v).hif.width = s.hif.width ∧
    (s.msix v).hif.d3hot = s.hif.d3hot ∧ (s.msix v).hif.apEnable = s.hif.apEnable ∧
    (s.msix v).hif.pause = s.hif.pause ∧ (s.msix v).hif.bar2Base = s.hif.bar2Base ∧
    (s.msix v).hif.bar2Size = s.hif.bar2Size ∧ (s.msix v).hif.bar2Master = s.hif.bar2Master ∧
    (s.msix v).hif.bar2Enable = s.hif.bar2Enable ∧ (s.msix v).hif.msix = s.hif.msix ∧
    (s.msix v).hif.maxPayload = s.hif.maxPayload ∧ (s.msix v).hif.aerPoisoned = s.hif.aerPoisoned ∧
    (s.msix v).hif.aerUnsupported = s.hif.aerUnsupported ∧ (s.msix v).hif.aerMalformed = s.hif.aerMalformed ∧
    (s.msix v).hif.sealOrder = s.hif.sealOrder ∧ (s.msix v).hif.rrNext = s.hif.rrNext ∧
    (s.msix v).hif.rings = s.hif.rings ∧ (s.msix v).hif.apertures = s.hif.apertures := by
  obtain ⟨p, v, o, h⟩ := State.msix_says s v
  rw [h]
  and_intros <;> rfl

/-- What stays, field by field. -/
@[simp] theorem State.evcBridge_frame (s : State) (g : Nat) :
    (s.evcBridge g).dev = s.dev ∧ (s.evcBridge g).clients = s.clients ∧ (s.evcBridge g).partitions = s.partitions ∧
    (s.evcBridge g).ctxs = s.ctxs ∧ (s.evcBridge g).engines = s.engines ∧ (s.evcBridge g).transfers = s.transfers ∧
    (s.evcBridge g).xferNo = s.xferNo ∧ (s.evcBridge g).taken = s.taken ∧ (s.evcBridge g).takenNo = s.takenNo ∧
    (s.evcBridge g).opens = s.opens ∧ (s.evcBridge g).discard = s.discard ∧ (s.evcBridge g).mem = s.mem ∧
    (s.evcBridge g).psmUse = s.psmUse ∧ (s.evcBridge g).psmc = s.psmc ∧ (s.evcBridge g).commons = s.commons ∧
    (s.evcBridge g).xlt = s.xlt ∧ (s.evcBridge g).kvDir = s.kvDir ∧ (s.evcBridge g).kvSeqs = s.kvSeqs ∧
    (s.evcBridge g).kv = s.kv ∧ (s.evcBridge g).sch = s.sch ∧ (s.evcBridge g).steps = s.steps ∧
    (s.evcBridge g).fe = s.fe ∧ (s.evcBridge g).hal = s.hal ∧ (s.evcBridge g).plans = s.plans ∧
    (s.evcBridge g).monitors = s.monitors ∧ (s.evcBridge g).log = s.log ∧ (s.evcBridge g).trim = s.trim ∧
    (s.evcBridge g).plinth = s.plinth ∧ (s.evcBridge g).twin = s.twin ∧ (s.evcBridge g).sec = s.sec ∧
    (s.evcBridge g).upd = s.upd ∧ (s.evcBridge g).svp = s.svp ∧ (s.evcBridge g).store = s.store ∧
    (s.evcBridge g).flash = s.flash ∧ (s.evcBridge g).tst = s.tst ∧ (s.evcBridge g).cpw = s.cpw ∧
    (s.evcBridge g).cmdUse = s.cmdUse ∧ (s.evcBridge g).bus = s.bus ∧ (s.evcBridge g).free = s.free ∧
    (s.evcBridge g).pending = s.pending ∧ (s.evcBridge g).hif.ready = s.hif.ready ∧
    (s.evcBridge g).hif.linkUp = s.hif.linkUp ∧ (s.evcBridge g).hif.rate = s.hif.rate ∧
    (s.evcBridge g).hif.width = s.hif.width ∧ (s.evcBridge g).hif.d3hot = s.hif.d3hot ∧
    (s.evcBridge g).hif.apEnable = s.hif.apEnable ∧ (s.evcBridge g).hif.pause = s.hif.pause ∧
    (s.evcBridge g).hif.bar2Base = s.hif.bar2Base ∧ (s.evcBridge g).hif.bar2Size = s.hif.bar2Size ∧
    (s.evcBridge g).hif.bar2Master = s.hif.bar2Master ∧ (s.evcBridge g).hif.bar2Enable = s.hif.bar2Enable ∧
    (s.evcBridge g).hif.msix = s.hif.msix ∧ (s.evcBridge g).hif.maxPayload = s.hif.maxPayload ∧
    (s.evcBridge g).hif.aerPoisoned = s.hif.aerPoisoned ∧ (s.evcBridge g).hif.aerUnsupported = s.hif.aerUnsupported ∧
    (s.evcBridge g).hif.aerMalformed = s.hif.aerMalformed ∧ (s.evcBridge g).hif.sealOrder = s.hif.sealOrder ∧
    (s.evcBridge g).hif.rrNext = s.hif.rrNext ∧ (s.evcBridge g).hif.rings = s.hif.rings ∧
    (s.evcBridge g).hif.apertures = s.hif.apertures := by
  obtain ⟨p, v, o, h⟩ := State.evcBridge_says s g
  rw [h]
  and_intros <;> rfl

/-- What stays, field by field. -/
@[simp] theorem State.evcWake_frame (s : State) (n : Nat) :
    (s.evcWake n).dev = s.dev ∧ (s.evcWake n).clients = s.clients ∧ (s.evcWake n).partitions = s.partitions ∧
    (s.evcWake n).ctxs = s.ctxs ∧ (s.evcWake n).engines = s.engines ∧ (s.evcWake n).transfers = s.transfers ∧
    (s.evcWake n).xferNo = s.xferNo ∧ (s.evcWake n).taken = s.taken ∧ (s.evcWake n).takenNo = s.takenNo ∧
    (s.evcWake n).opens = s.opens ∧ (s.evcWake n).discard = s.discard ∧ (s.evcWake n).mem = s.mem ∧
    (s.evcWake n).psmUse = s.psmUse ∧ (s.evcWake n).psmc = s.psmc ∧ (s.evcWake n).commons = s.commons ∧
    (s.evcWake n).xlt = s.xlt ∧ (s.evcWake n).kvDir = s.kvDir ∧ (s.evcWake n).kvSeqs = s.kvSeqs ∧
    (s.evcWake n).kv = s.kv ∧ (s.evcWake n).sch = s.sch ∧ (s.evcWake n).steps = s.steps ∧ (s.evcWake n).fe = s.fe ∧
    (s.evcWake n).hal = s.hal ∧ (s.evcWake n).plans = s.plans ∧ (s.evcWake n).monitors = s.monitors ∧
    (s.evcWake n).log = s.log ∧ (s.evcWake n).trim = s.trim ∧ (s.evcWake n).plinth = s.plinth ∧
    (s.evcWake n).twin = s.twin ∧ (s.evcWake n).sec = s.sec ∧ (s.evcWake n).upd = s.upd ∧ (s.evcWake n).svp = s.svp ∧
    (s.evcWake n).store = s.store ∧ (s.evcWake n).flash = s.flash ∧ (s.evcWake n).tst = s.tst ∧
    (s.evcWake n).cpw = s.cpw ∧ (s.evcWake n).cmdUse = s.cmdUse ∧ (s.evcWake n).bus = s.bus ∧
    (s.evcWake n).free = s.free ∧ (s.evcWake n).pending = s.pending ∧ (s.evcWake n).hif.ready = s.hif.ready ∧
    (s.evcWake n).hif.linkUp = s.hif.linkUp ∧ (s.evcWake n).hif.rate = s.hif.rate ∧
    (s.evcWake n).hif.width = s.hif.width ∧ (s.evcWake n).hif.d3hot = s.hif.d3hot ∧
    (s.evcWake n).hif.apEnable = s.hif.apEnable ∧ (s.evcWake n).hif.pause = s.hif.pause ∧
    (s.evcWake n).hif.bar2Base = s.hif.bar2Base ∧ (s.evcWake n).hif.bar2Size = s.hif.bar2Size ∧
    (s.evcWake n).hif.bar2Master = s.hif.bar2Master ∧ (s.evcWake n).hif.bar2Enable = s.hif.bar2Enable ∧
    (s.evcWake n).hif.msix = s.hif.msix ∧ (s.evcWake n).hif.maxPayload = s.hif.maxPayload ∧
    (s.evcWake n).hif.aerPoisoned = s.hif.aerPoisoned ∧ (s.evcWake n).hif.aerUnsupported = s.hif.aerUnsupported ∧
    (s.evcWake n).hif.aerMalformed = s.hif.aerMalformed ∧ (s.evcWake n).hif.sealOrder = s.hif.sealOrder ∧
    (s.evcWake n).hif.rrNext = s.hif.rrNext ∧ (s.evcWake n).hif.rings = s.hif.rings ∧
    (s.evcWake n).hif.apertures = s.hif.apertures := by
  obtain ⟨p, v, o, h⟩ := State.evcWake_says s n
  rw [h]
  and_intros <;> rfl

/-- What stays, field by field. -/
@[simp] theorem State.event_frame (s : State) (n : Nat) :
    (s.event n).dev = s.dev ∧ (s.event n).clients = s.clients ∧ (s.event n).partitions = s.partitions ∧
    (s.event n).ctxs = s.ctxs ∧ (s.event n).engines = s.engines ∧ (s.event n).transfers = s.transfers ∧
    (s.event n).xferNo = s.xferNo ∧ (s.event n).taken = s.taken ∧ (s.event n).takenNo = s.takenNo ∧
    (s.event n).opens = s.opens ∧ (s.event n).discard = s.discard ∧ (s.event n).mem = s.mem ∧
    (s.event n).psmUse = s.psmUse ∧ (s.event n).psmc = s.psmc ∧ (s.event n).commons = s.commons ∧
    (s.event n).xlt = s.xlt ∧ (s.event n).kvDir = s.kvDir ∧ (s.event n).kvSeqs = s.kvSeqs ∧ (s.event n).kv = s.kv ∧
    (s.event n).sch = s.sch ∧ (s.event n).steps = s.steps ∧ (s.event n).fe = s.fe ∧ (s.event n).hal = s.hal ∧
    (s.event n).plans = s.plans ∧ (s.event n).monitors = s.monitors ∧ (s.event n).log = s.log ∧
    (s.event n).trim = s.trim ∧ (s.event n).plinth = s.plinth ∧ (s.event n).twin = s.twin ∧ (s.event n).sec = s.sec ∧
    (s.event n).upd = s.upd ∧ (s.event n).svp = s.svp ∧ (s.event n).store = s.store ∧ (s.event n).flash = s.flash ∧
    (s.event n).tst = s.tst ∧ (s.event n).cpw = s.cpw ∧ (s.event n).cmdUse = s.cmdUse ∧ (s.event n).bus = s.bus ∧
    (s.event n).free = s.free ∧ (s.event n).pending = s.pending ∧ (s.event n).hif.ready = s.hif.ready ∧
    (s.event n).hif.linkUp = s.hif.linkUp ∧ (s.event n).hif.rate = s.hif.rate ∧ (s.event n).hif.width = s.hif.width ∧
    (s.event n).hif.d3hot = s.hif.d3hot ∧ (s.event n).hif.apEnable = s.hif.apEnable ∧
    (s.event n).hif.pause = s.hif.pause ∧ (s.event n).hif.bar2Base = s.hif.bar2Base ∧
    (s.event n).hif.bar2Size = s.hif.bar2Size ∧ (s.event n).hif.bar2Master = s.hif.bar2Master ∧
    (s.event n).hif.bar2Enable = s.hif.bar2Enable ∧ (s.event n).hif.msix = s.hif.msix ∧
    (s.event n).hif.maxPayload = s.hif.maxPayload ∧ (s.event n).hif.aerPoisoned = s.hif.aerPoisoned ∧
    (s.event n).hif.aerUnsupported = s.hif.aerUnsupported ∧ (s.event n).hif.aerMalformed = s.hif.aerMalformed ∧
    (s.event n).hif.sealOrder = s.hif.sealOrder ∧ (s.event n).hif.rrNext = s.hif.rrNext ∧
    (s.event n).hif.rings = s.hif.rings ∧ (s.event n).hif.apertures = s.hif.apertures := by
  obtain ⟨p, v, o, h⟩ := State.event_says s n
  rw [h]
  and_intros <;> rfl

/-- Rows of the rings and the apertures stay. -/
@[simp] theorem State.event_rows (s : State) (n i : Nat) : (s.event n).ring i = s.ring i ∧ (s.event n).ap i = s.ap i := by
  obtain ⟨p, e, o, h⟩ := State.event_says s n
  rw [h]
  exact ⟨rfl, rfl⟩

end Sys2Proof.Machine
end

