-- ==== Sys2Proof/Laws/Reply.lean ====
section
/-! SUPPORT. What a reply does: rings, apertures, events; nothing else. -/

namespace Sys2Proof.Machine

/-- What stays, field by field. -/
@[simp] theorem State.countRefusal_frame (s : State) (n st : Nat) :
    (s.countRefusal n st).dev = s.dev ∧ (s.countRefusal n st).clients = s.clients ∧
    (s.countRefusal n st).partitions = s.partitions ∧ (s.countRefusal n st).ctxs = s.ctxs ∧
    (s.countRefusal n st).engines = s.engines ∧ (s.countRefusal n st).transfers = s.transfers ∧
    (s.countRefusal n st).xferNo = s.xferNo ∧ (s.countRefusal n st).taken = s.taken ∧
    (s.countRefusal n st).takenNo = s.takenNo ∧ (s.countRefusal n st).opens = s.opens ∧
    (s.countRefusal n st).discard = s.discard ∧ (s.countRefusal n st).mem = s.mem ∧
    (s.countRefusal n st).psmUse = s.psmUse ∧ (s.countRefusal n st).psmc = s.psmc ∧
    (s.countRefusal n st).commons = s.commons ∧ (s.countRefusal n st).xlt = s.xlt ∧
    (s.countRefusal n st).kvDir = s.kvDir ∧ (s.countRefusal n st).kvSeqs = s.kvSeqs ∧
    (s.countRefusal n st).kv = s.kv ∧ (s.countRefusal n st).sch = s.sch ∧ (s.countRefusal n st).steps = s.steps ∧
    (s.countRefusal n st).fe = s.fe ∧ (s.countRefusal n st).hal = s.hal ∧ (s.countRefusal n st).plans = s.plans ∧
    (s.countRefusal n st).monitors = s.monitors ∧ (s.countRefusal n st).log = s.log ∧
    (s.countRefusal n st).trim = s.trim ∧ (s.countRefusal n st).plinth = s.plinth ∧
    (s.countRefusal n st).twin = s.twin ∧ (s.countRefusal n st).sec = s.sec ∧ (s.countRefusal n st).upd = s.upd ∧
    (s.countRefusal n st).svp = s.svp ∧ (s.countRefusal n st).store = s.store ∧
    (s.countRefusal n st).flash = s.flash ∧ (s.countRefusal n st).tst = s.tst ∧ (s.countRefusal n st).cpw = s.cpw ∧
    (s.countRefusal n st).cmdUse = s.cmdUse ∧ (s.countRefusal n st).bus = s.bus ∧
    (s.countRefusal n st).free = s.free ∧ (s.countRefusal n st).pending = s.pending ∧
    (s.countRefusal n st).hif.ready = s.hif.ready ∧ (s.countRefusal n st).hif.linkUp = s.hif.linkUp ∧
    (s.countRefusal n st).hif.rate = s.hif.rate ∧ (s.countRefusal n st).hif.width = s.hif.width ∧
    (s.countRefusal n st).hif.d3hot = s.hif.d3hot ∧ (s.countRefusal n st).hif.apEnable = s.hif.apEnable ∧
    (s.countRefusal n st).hif.pause = s.hif.pause ∧ (s.countRefusal n st).hif.bar2Base = s.hif.bar2Base ∧
    (s.countRefusal n st).hif.bar2Size = s.hif.bar2Size ∧ (s.countRefusal n st).hif.bar2Master = s.hif.bar2Master ∧
    (s.countRefusal n st).hif.bar2Enable = s.hif.bar2Enable ∧ (s.countRefusal n st).hif.msix = s.hif.msix ∧
    (s.countRefusal n st).hif.maxPayload = s.hif.maxPayload ∧
    (s.countRefusal n st).hif.aerPoisoned = s.hif.aerPoisoned ∧
    (s.countRefusal n st).hif.aerUnsupported = s.hif.aerUnsupported ∧
    (s.countRefusal n st).hif.aerMalformed = s.hif.aerMalformed ∧
    (s.countRefusal n st).hif.sealOrder = s.hif.sealOrder ∧ (s.countRefusal n st).hif.rrNext = s.hif.rrNext := by
  unfold State.countRefusal
  and_intros <;> simp

/-- What stays, field by field. -/
@[simp] theorem State.countFinal_frame (s : State) (n st : Nat) :
    (s.countFinal n st).dev = s.dev ∧ (s.countFinal n st).clients = s.clients ∧
    (s.countFinal n st).partitions = s.partitions ∧ (s.countFinal n st).ctxs = s.ctxs ∧
    (s.countFinal n st).engines = s.engines ∧ (s.countFinal n st).transfers = s.transfers ∧
    (s.countFinal n st).xferNo = s.xferNo ∧ (s.countFinal n st).taken = s.taken ∧
    (s.countFinal n st).takenNo = s.takenNo ∧ (s.countFinal n st).opens = s.opens ∧
    (s.countFinal n st).discard = s.discard ∧ (s.countFinal n st).mem = s.mem ∧
    (s.countFinal n st).psmUse = s.psmUse ∧ (s.countFinal n st).psmc = s.psmc ∧
    (s.countFinal n st).commons = s.commons ∧ (s.countFinal n st).xlt = s.xlt ∧ (s.countFinal n st).kvDir = s.kvDir ∧
    (s.countFinal n st).kvSeqs = s.kvSeqs ∧ (s.countFinal n st).kv = s.kv ∧ (s.countFinal n st).sch = s.sch ∧
    (s.countFinal n st).steps = s.steps ∧ (s.countFinal n st).fe = s.fe ∧ (s.countFinal n st).hal = s.hal ∧
    (s.countFinal n st).plans = s.plans ∧ (s.countFinal n st).monitors = s.monitors ∧
    (s.countFinal n st).log = s.log ∧ (s.countFinal n st).trim = s.trim ∧ (s.countFinal n st).plinth = s.plinth ∧
    (s.countFinal n st).twin = s.twin ∧ (s.countFinal n st).sec = s.sec ∧ (s.countFinal n st).upd = s.upd ∧
    (s.countFinal n st).svp = s.svp ∧ (s.countFinal n st).store = s.store ∧ (s.countFinal n st).flash = s.flash ∧
    (s.countFinal n st).tst = s.tst ∧ (s.countFinal n st).cpw = s.cpw ∧ (s.countFinal n st).cmdUse = s.cmdUse ∧
    (s.countFinal n st).bus = s.bus ∧ (s.countFinal n st).free = s.free ∧ (s.countFinal n st).pending = s.pending ∧
    (s.countFinal n st).hif.ready = s.hif.ready ∧ (s.countFinal n st).hif.linkUp = s.hif.linkUp ∧
    (s.countFinal n st).hif.rate = s.hif.rate ∧ (s.countFinal n st).hif.width = s.hif.width ∧
    (s.countFinal n st).hif.d3hot = s.hif.d3hot ∧ (s.countFinal n st).hif.apEnable = s.hif.apEnable ∧
    (s.countFinal n st).hif.pause = s.hif.pause ∧ (s.countFinal n st).hif.bar2Base = s.hif.bar2Base ∧
    (s.countFinal n st).hif.bar2Size = s.hif.bar2Size ∧ (s.countFinal n st).hif.bar2Master = s.hif.bar2Master ∧
    (s.countFinal n st).hif.bar2Enable = s.hif.bar2Enable ∧ (s.countFinal n st).hif.msix = s.hif.msix ∧
    (s.countFinal n st).hif.maxPayload = s.hif.maxPayload ∧ (s.countFinal n st).hif.aerPoisoned = s.hif.aerPoisoned ∧
    (s.countFinal n st).hif.aerUnsupported = s.hif.aerUnsupported ∧
    (s.countFinal n st).hif.aerMalformed = s.hif.aerMalformed ∧ (s.countFinal n st).hif.sealOrder = s.hif.sealOrder ∧
    (s.countFinal n st).hif.rrNext = s.hif.rrNext := by
  unfold State.countFinal
  split
  · and_intros <;> simp
  · and_intros <;> rfl

/-- What stays, field by field. -/
@[simp] theorem State.pushReply_frame (s : State) (n : Nat) (r : Reply) :
    (s.pushReply n r).dev = s.dev ∧ (s.pushReply n r).clients = s.clients ∧
    (s.pushReply n r).partitions = s.partitions ∧ (s.pushReply n r).ctxs = s.ctxs ∧
    (s.pushReply n r).engines = s.engines ∧ (s.pushReply n r).transfers = s.transfers ∧
    (s.pushReply n r).xferNo = s.xferNo ∧ (s.pushReply n r).taken = s.taken ∧ (s.pushReply n r).takenNo = s.takenNo ∧
    (s.pushReply n r).opens = s.opens ∧ (s.pushReply n r).discard = s.discard ∧ (s.pushReply n r).mem = s.mem ∧
    (s.pushReply n r).psmUse = s.psmUse ∧ (s.pushReply n r).psmc = s.psmc ∧ (s.pushReply n r).commons = s.commons ∧
    (s.pushReply n r).xlt = s.xlt ∧ (s.pushReply n r).kvDir = s.kvDir ∧ (s.pushReply n r).kvSeqs = s.kvSeqs ∧
    (s.pushReply n r).kv = s.kv ∧ (s.pushReply n r).sch = s.sch ∧ (s.pushReply n r).steps = s.steps ∧
    (s.pushReply n r).fe = s.fe ∧ (s.pushReply n r).hal = s.hal ∧ (s.pushReply n r).plans = s.plans ∧
    (s.pushReply n r).monitors = s.monitors ∧ (s.pushReply n r).log = s.log ∧ (s.pushReply n r).trim = s.trim ∧
    (s.pushReply n r).plinth = s.plinth ∧ (s.pushReply n r).twin = s.twin ∧ (s.pushReply n r).sec = s.sec ∧
    (s.pushReply n r).upd = s.upd ∧ (s.pushReply n r).svp = s.svp ∧ (s.pushReply n r).store = s.store ∧
    (s.pushReply n r).flash = s.flash ∧ (s.pushReply n r).tst = s.tst ∧ (s.pushReply n r).cpw = s.cpw ∧
    (s.pushReply n r).cmdUse = s.cmdUse ∧ (s.pushReply n r).bus = s.bus ∧ (s.pushReply n r).free = s.free ∧
    (s.pushReply n r).pending = s.pending ∧ (s.pushReply n r).hif.ready = s.hif.ready ∧
    (s.pushReply n r).hif.linkUp = s.hif.linkUp ∧ (s.pushReply n r).hif.rate = s.hif.rate ∧
    (s.pushReply n r).hif.width = s.hif.width ∧ (s.pushReply n r).hif.d3hot = s.hif.d3hot ∧
    (s.pushReply n r).hif.apEnable = s.hif.apEnable ∧ (s.pushReply n r).hif.pause = s.hif.pause ∧
    (s.pushReply n r).hif.bar2Base = s.hif.bar2Base ∧ (s.pushReply n r).hif.bar2Size = s.hif.bar2Size ∧
    (s.pushReply n r).hif.bar2Master = s.hif.bar2Master ∧ (s.pushReply n r).hif.bar2Enable = s.hif.bar2Enable ∧
    (s.pushReply n r).hif.msix = s.hif.msix ∧ (s.pushReply n r).hif.maxPayload = s.hif.maxPayload ∧
    (s.pushReply n r).hif.aerPoisoned = s.hif.aerPoisoned ∧
    (s.pushReply n r).hif.aerUnsupported = s.hif.aerUnsupported ∧
    (s.pushReply n r).hif.aerMalformed = s.hif.aerMalformed ∧ (s.pushReply n r).hif.sealOrder = s.hif.sealOrder ∧
    (s.pushReply n r).hif.rrNext = s.hif.rrNext := by
  unfold State.pushReply
  dsimp only
  split
  · split
    · and_intros <;> rfl
    · and_intros <;> rfl
  · and_intros <;> rfl

/-- What stays, field by field. -/
@[simp] theorem State.unreserve_frame (s : State) (n : Nat) :
    (s.unreserve n).dev = s.dev ∧ (s.unreserve n).clients = s.clients ∧ (s.unreserve n).partitions = s.partitions ∧
    (s.unreserve n).ctxs = s.ctxs ∧ (s.unreserve n).engines = s.engines ∧ (s.unreserve n).transfers = s.transfers ∧
    (s.unreserve n).xferNo = s.xferNo ∧ (s.unreserve n).taken = s.taken ∧ (s.unreserve n).takenNo = s.takenNo ∧
    (s.unreserve n).opens = s.opens ∧ (s.unreserve n).discard = s.discard ∧ (s.unreserve n).mem = s.mem ∧
    (s.unreserve n).psmUse = s.psmUse ∧ (s.unreserve n).psmc = s.psmc ∧ (s.unreserve n).commons = s.commons ∧
    (s.unreserve n).xlt = s.xlt ∧ (s.unreserve n).kvDir = s.kvDir ∧ (s.unreserve n).kvSeqs = s.kvSeqs ∧
    (s.unreserve n).kv = s.kv ∧ (s.unreserve n).sch = s.sch ∧ (s.unreserve n).steps = s.steps ∧
    (s.unreserve n).fe = s.fe ∧ (s.unreserve n).hal = s.hal ∧ (s.unreserve n).plans = s.plans ∧
    (s.unreserve n).monitors = s.monitors ∧ (s.unreserve n).log = s.log ∧ (s.unreserve n).trim = s.trim ∧
    (s.unreserve n).plinth = s.plinth ∧ (s.unreserve n).twin = s.twin ∧ (s.unreserve n).sec = s.sec ∧
    (s.unreserve n).upd = s.upd ∧ (s.unreserve n).svp = s.svp ∧ (s.unreserve n).store = s.store ∧
    (s.unreserve n).flash = s.flash ∧ (s.unreserve n).tst = s.tst ∧ (s.unreserve n).cpw = s.cpw ∧
    (s.unreserve n).cmdUse = s.cmdUse ∧ (s.unreserve n).bus = s.bus ∧ (s.unreserve n).free = s.free ∧
    (s.unreserve n).pending = s.pending ∧ (s.unreserve n).hif.ready = s.hif.ready ∧
    (s.unreserve n).hif.linkUp = s.hif.linkUp ∧ (s.unreserve n).hif.rate = s.hif.rate ∧
    (s.unreserve n).hif.width = s.hif.width ∧ (s.unreserve n).hif.d3hot = s.hif.d3hot ∧
    (s.unreserve n).hif.apEnable = s.hif.apEnable ∧ (s.unreserve n).hif.pause = s.hif.pause ∧
    (s.unreserve n).hif.bar2Base = s.hif.bar2Base ∧ (s.unreserve n).hif.bar2Size = s.hif.bar2Size ∧
    (s.unreserve n).hif.bar2Master = s.hif.bar2Master ∧ (s.unreserve n).hif.bar2Enable = s.hif.bar2Enable ∧
    (s.unreserve n).hif.msix = s.hif.msix ∧ (s.unreserve n).hif.maxPayload = s.hif.maxPayload ∧
    (s.unreserve n).hif.aerPoisoned = s.hif.aerPoisoned ∧ (s.unreserve n).hif.aerUnsupported = s.hif.aerUnsupported ∧
    (s.unreserve n).hif.aerMalformed = s.hif.aerMalformed ∧ (s.unreserve n).hif.sealOrder = s.hif.sealOrder ∧
    (s.unreserve n).hif.rrNext = s.hif.rrNext := by
  and_intros <;> rfl

/-- What stays, field by field. -/
@[simp] theorem State.final_frame (s : State) (h : Hdr) (st : Nat) (f : RF) :
    (s.final h st f).dev = s.dev ∧ (s.final h st f).clients = s.clients ∧
    (s.final h st f).partitions = s.partitions ∧ (s.final h st f).ctxs = s.ctxs ∧
    (s.final h st f).engines = s.engines ∧ (s.final h st f).transfers = s.transfers ∧
    (s.final h st f).xferNo = s.xferNo ∧ (s.final h st f).taken = s.taken ∧ (s.final h st f).takenNo = s.takenNo ∧
    (s.final h st f).opens = s.opens ∧ (s.final h st f).discard = s.discard ∧ (s.final h st f).mem = s.mem ∧
    (s.final h st f).psmUse = s.psmUse ∧ (s.final h st f).psmc = s.psmc ∧ (s.final h st f).commons = s.commons ∧
    (s.final h st f).xlt = s.xlt ∧ (s.final h st f).kvDir = s.kvDir ∧ (s.final h st f).kvSeqs = s.kvSeqs ∧
    (s.final h st f).kv = s.kv ∧ (s.final h st f).sch = s.sch ∧ (s.final h st f).steps = s.steps ∧
    (s.final h st f).fe = s.fe ∧ (s.final h st f).hal = s.hal ∧ (s.final h st f).plans = s.plans ∧
    (s.final h st f).monitors = s.monitors ∧ (s.final h st f).log = s.log ∧ (s.final h st f).trim = s.trim ∧
    (s.final h st f).plinth = s.plinth ∧ (s.final h st f).twin = s.twin ∧ (s.final h st f).sec = s.sec ∧
    (s.final h st f).upd = s.upd ∧ (s.final h st f).svp = s.svp ∧ (s.final h st f).store = s.store ∧
    (s.final h st f).flash = s.flash ∧ (s.final h st f).tst = s.tst ∧ (s.final h st f).cpw = s.cpw ∧
    (s.final h st f).cmdUse = s.cmdUse ∧ (s.final h st f).bus = s.bus ∧ (s.final h st f).free = s.free ∧
    (s.final h st f).pending = s.pending ∧ (s.final h st f).hif.ready = s.hif.ready ∧
    (s.final h st f).hif.linkUp = s.hif.linkUp ∧ (s.final h st f).hif.rate = s.hif.rate ∧
    (s.final h st f).hif.width = s.hif.width ∧ (s.final h st f).hif.d3hot = s.hif.d3hot ∧
    (s.final h st f).hif.apEnable = s.hif.apEnable ∧ (s.final h st f).hif.pause = s.hif.pause ∧
    (s.final h st f).hif.bar2Base = s.hif.bar2Base ∧ (s.final h st f).hif.bar2Size = s.hif.bar2Size ∧
    (s.final h st f).hif.bar2Master = s.hif.bar2Master ∧ (s.final h st f).hif.bar2Enable = s.hif.bar2Enable ∧
    (s.final h st f).hif.msix = s.hif.msix ∧ (s.final h st f).hif.maxPayload = s.hif.maxPayload ∧
    (s.final h st f).hif.aerPoisoned = s.hif.aerPoisoned ∧
    (s.final h st f).hif.aerUnsupported = s.hif.aerUnsupported ∧
    (s.final h st f).hif.aerMalformed = s.hif.aerMalformed ∧ (s.final h st f).hif.sealOrder = s.hif.sealOrder ∧
    (s.final h st f).hif.rrNext = s.hif.rrNext := by
  unfold State.final
  dsimp only
  split
  · and_intros <;> simp
  · and_intros <;> simp

/-- What stays, field by field. -/
@[simp] theorem State.pendingReply_frame (s : State) (h : Hdr) :
    (s.pendingReply h).dev = s.dev ∧ (s.pendingReply h).clients = s.clients ∧
    (s.pendingReply h).partitions = s.partitions ∧ (s.pendingReply h).ctxs = s.ctxs ∧
    (s.pendingReply h).engines = s.engines ∧ (s.pendingReply h).transfers = s.transfers ∧
    (s.pendingReply h).xferNo = s.xferNo ∧ (s.pendingReply h).taken = s.taken ∧
    (s.pendingReply h).takenNo = s.takenNo ∧ (s.pendingReply h).opens = s.opens ∧
    (s.pendingReply h).discard = s.discard ∧ (s.pendingReply h).mem = s.mem ∧ (s.pendingReply h).psmUse = s.psmUse ∧
    (s.pendingReply h).psmc = s.psmc ∧ (s.pendingReply h).commons = s.commons ∧ (s.pendingReply h).xlt = s.xlt ∧
    (s.pendingReply h).kvDir = s.kvDir ∧ (s.pendingReply h).kvSeqs = s.kvSeqs ∧ (s.pendingReply h).kv = s.kv ∧
    (s.pendingReply h).sch = s.sch ∧ (s.pendingReply h).steps = s.steps ∧ (s.pendingReply h).fe = s.fe ∧
    (s.pendingReply h).hal = s.hal ∧ (s.pendingReply h).plans = s.plans ∧ (s.pendingReply h).monitors = s.monitors ∧
    (s.pendingReply h).log = s.log ∧ (s.pendingReply h).trim = s.trim ∧ (s.pendingReply h).plinth = s.plinth ∧
    (s.pendingReply h).twin = s.twin ∧ (s.pendingReply h).sec = s.sec ∧ (s.pendingReply h).upd = s.upd ∧
    (s.pendingReply h).svp = s.svp ∧ (s.pendingReply h).store = s.store ∧ (s.pendingReply h).flash = s.flash ∧
    (s.pendingReply h).tst = s.tst ∧ (s.pendingReply h).cpw = s.cpw ∧ (s.pendingReply h).cmdUse = s.cmdUse ∧
    (s.pendingReply h).bus = s.bus ∧ (s.pendingReply h).free = s.free ∧ (s.pendingReply h).pending = s.pending ∧
    (s.pendingReply h).hif.ready = s.hif.ready ∧ (s.pendingReply h).hif.linkUp = s.hif.linkUp ∧
    (s.pendingReply h).hif.rate = s.hif.rate ∧ (s.pendingReply h).hif.width = s.hif.width ∧
    (s.pendingReply h).hif.d3hot = s.hif.d3hot ∧ (s.pendingReply h).hif.apEnable = s.hif.apEnable ∧
    (s.pendingReply h).hif.pause = s.hif.pause ∧ (s.pendingReply h).hif.bar2Base = s.hif.bar2Base ∧
    (s.pendingReply h).hif.bar2Size = s.hif.bar2Size ∧ (s.pendingReply h).hif.bar2Master = s.hif.bar2Master ∧
    (s.pendingReply h).hif.bar2Enable = s.hif.bar2Enable ∧ (s.pendingReply h).hif.msix = s.hif.msix ∧
    (s.pendingReply h).hif.maxPayload = s.hif.maxPayload ∧ (s.pendingReply h).hif.aerPoisoned = s.hif.aerPoisoned ∧
    (s.pendingReply h).hif.aerUnsupported = s.hif.aerUnsupported ∧
    (s.pendingReply h).hif.aerMalformed = s.hif.aerMalformed ∧ (s.pendingReply h).hif.sealOrder = s.hif.sealOrder ∧
    (s.pendingReply h).hif.rrNext = s.hif.rrNext := by
  unfold State.pendingReply
  split
  · and_intros <;> rfl
  · and_intros <;> simp

/-- What stays, field by field. -/
@[simp] theorem State.close_frame (s : State) (q : OpenReq) (st : Nat) (f : RF) :
    (s.close q st f).dev = s.dev ∧ (s.close q st f).clients = s.clients ∧
    (s.close q st f).partitions = s.partitions ∧ (s.close q st f).ctxs = s.ctxs ∧
    (s.close q st f).engines = s.engines ∧ (s.close q st f).transfers = s.transfers ∧
    (s.close q st f).xferNo = s.xferNo ∧ (s.close q st f).taken = s.taken ∧ (s.close q st f).takenNo = s.takenNo ∧
    (s.close q st f).discard = s.discard ∧ (s.close q st f).mem = s.mem ∧ (s.close q st f).psmUse = s.psmUse ∧
    (s.close q st f).psmc = s.psmc ∧ (s.close q st f).commons = s.commons ∧ (s.close q st f).xlt = s.xlt ∧
    (s.close q st f).kvDir = s.kvDir ∧ (s.close q st f).kvSeqs = s.kvSeqs ∧ (s.close q st f).kv = s.kv ∧
    (s.close q st f).sch = s.sch ∧ (s.close q st f).steps = s.steps ∧ (s.close q st f).fe = s.fe ∧
    (s.close q st f).hal = s.hal ∧ (s.close q st f).plans = s.plans ∧ (s.close q st f).monitors = s.monitors ∧
    (s.close q st f).log = s.log ∧ (s.close q st f).trim = s.trim ∧ (s.close q st f).plinth = s.plinth ∧
    (s.close q st f).twin = s.twin ∧ (s.close q st f).sec = s.sec ∧ (s.close q st f).upd = s.upd ∧
    (s.close q st f).svp = s.svp ∧ (s.close q st f).store = s.store ∧ (s.close q st f).flash = s.flash ∧
    (s.close q st f).tst = s.tst ∧ (s.close q st f).cpw = s.cpw ∧ (s.close q st f).cmdUse = s.cmdUse ∧
    (s.close q st f).bus = s.bus ∧ (s.close q st f).free = s.free ∧ (s.close q st f).pending = s.pending ∧
    (s.close q st f).hif.ready = s.hif.ready ∧ (s.close q st f).hif.linkUp = s.hif.linkUp ∧
    (s.close q st f).hif.rate = s.hif.rate ∧ (s.close q st f).hif.width = s.hif.width ∧
    (s.close q st f).hif.d3hot = s.hif.d3hot ∧ (s.close q st f).hif.apEnable = s.hif.apEnable ∧
    (s.close q st f).hif.pause = s.hif.pause ∧ (s.close q st f).hif.bar2Base = s.hif.bar2Base ∧
    (s.close q st f).hif.bar2Size = s.hif.bar2Size ∧ (s.close q st f).hif.bar2Master = s.hif.bar2Master ∧
    (s.close q st f).hif.bar2Enable = s.hif.bar2Enable ∧ (s.close q st f).hif.msix = s.hif.msix ∧
    (s.close q st f).hif.maxPayload = s.hif.maxPayload ∧ (s.close q st f).hif.aerPoisoned = s.hif.aerPoisoned ∧
    (s.close q st f).hif.aerUnsupported = s.hif.aerUnsupported ∧
    (s.close q st f).hif.aerMalformed = s.hif.aerMalformed ∧ (s.close q st f).hif.sealOrder = s.hif.sealOrder ∧
    (s.close q st f).hif.rrNext = s.hif.rrNext := by
  unfold State.close
  and_intros <;> simp [State.dropOpen]

/-- What stays, field by field. -/
@[simp] theorem State.closeOp_frame (s : State) (op key st : Nat) (f : RF) :
    (s.closeOp op key st f).dev = s.dev ∧ (s.closeOp op key st f).clients = s.clients ∧
    (s.closeOp op key st f).partitions = s.partitions ∧ (s.closeOp op key st f).ctxs = s.ctxs ∧
    (s.closeOp op key st f).engines = s.engines ∧ (s.closeOp op key st f).transfers = s.transfers ∧
    (s.closeOp op key st f).xferNo = s.xferNo ∧ (s.closeOp op key st f).taken = s.taken ∧
    (s.closeOp op key st f).takenNo = s.takenNo ∧ (s.closeOp op key st f).discard = s.discard ∧
    (s.closeOp op key st f).mem = s.mem ∧ (s.closeOp op key st f).psmUse = s.psmUse ∧
    (s.closeOp op key st f).psmc = s.psmc ∧ (s.closeOp op key st f).commons = s.commons ∧
    (s.closeOp op key st f).xlt = s.xlt ∧ (s.closeOp op key st f).kvDir = s.kvDir ∧
    (s.closeOp op key st f).kvSeqs = s.kvSeqs ∧ (s.closeOp op key st f).kv = s.kv ∧
    (s.closeOp op key st f).sch = s.sch ∧ (s.closeOp op key st f).steps = s.steps ∧
    (s.closeOp op key st f).fe = s.fe ∧ (s.closeOp op key st f).hal = s.hal ∧
    (s.closeOp op key st f).plans = s.plans ∧ (s.closeOp op key st f).monitors = s.monitors ∧
    (s.closeOp op key st f).log = s.log ∧ (s.closeOp op key st f).trim = s.trim ∧
    (s.closeOp op key st f).plinth = s.plinth ∧ (s.closeOp op key st f).twin = s.twin ∧
    (s.closeOp op key st f).sec = s.sec ∧ (s.closeOp op key st f).upd = s.upd ∧ (s.closeOp op key st f).svp = s.svp ∧
    (s.closeOp op key st f).store = s.store ∧ (s.closeOp op key st f).flash = s.flash ∧
    (s.closeOp op key st f).tst = s.tst ∧ (s.closeOp op key st f).cpw = s.cpw ∧
    (s.closeOp op key st f).cmdUse = s.cmdUse ∧ (s.closeOp op key st f).bus = s.bus ∧
    (s.closeOp op key st f).free = s.free ∧ (s.closeOp op key st f).pending = s.pending ∧
    (s.closeOp op key st f).hif.ready = s.hif.ready ∧ (s.closeOp op key st f).hif.linkUp = s.hif.linkUp ∧
    (s.closeOp op key st f).hif.rate = s.hif.rate ∧ (s.closeOp op key st f).hif.width = s.hif.width ∧
    (s.closeOp op key st f).hif.d3hot = s.hif.d3hot ∧ (s.closeOp op key st f).hif.apEnable = s.hif.apEnable ∧
    (s.closeOp op key st f).hif.pause = s.hif.pause ∧ (s.closeOp op key st f).hif.bar2Base = s.hif.bar2Base ∧
    (s.closeOp op key st f).hif.bar2Size = s.hif.bar2Size ∧
    (s.closeOp op key st f).hif.bar2Master = s.hif.bar2Master ∧
    (s.closeOp op key st f).hif.bar2Enable = s.hif.bar2Enable ∧ (s.closeOp op key st f).hif.msix = s.hif.msix ∧
    (s.closeOp op key st f).hif.maxPayload = s.hif.maxPayload ∧
    (s.closeOp op key st f).hif.aerPoisoned = s.hif.aerPoisoned ∧
    (s.closeOp op key st f).hif.aerUnsupported = s.hif.aerUnsupported ∧
    (s.closeOp op key st f).hif.aerMalformed = s.hif.aerMalformed ∧
    (s.closeOp op key st f).hif.sealOrder = s.hif.sealOrder ∧ (s.closeOp op key st f).hif.rrNext = s.hif.rrNext := by
  unfold State.closeOp
  split
  · and_intros <;> simp
  · and_intros <;> rfl

/-- A state that agrees with another but in rings, events and what leaves. -/
theorem State.says_reply (s t : State) (h :
    t.dev = s.dev ∧ t.clients = s.clients ∧ t.partitions = s.partitions ∧ t.ctxs = s.ctxs ∧ t.engines = s.engines ∧
    t.transfers = s.transfers ∧ t.xferNo = s.xferNo ∧ t.taken = s.taken ∧ t.takenNo = s.takenNo ∧ t.opens = s.opens ∧
    t.discard = s.discard ∧ t.mem = s.mem ∧ t.psmUse = s.psmUse ∧ t.psmc = s.psmc ∧ t.commons = s.commons ∧
    t.xlt = s.xlt ∧ t.kvDir = s.kvDir ∧ t.kvSeqs = s.kvSeqs ∧ t.kv = s.kv ∧ t.sch = s.sch ∧ t.steps = s.steps ∧
    t.fe = s.fe ∧ t.hal = s.hal ∧ t.plans = s.plans ∧ t.monitors = s.monitors ∧ t.log = s.log ∧ t.trim = s.trim ∧
    t.plinth = s.plinth ∧ t.twin = s.twin ∧ t.sec = s.sec ∧ t.upd = s.upd ∧ t.svp = s.svp ∧ t.store = s.store ∧
    t.flash = s.flash ∧ t.tst = s.tst ∧ t.cpw = s.cpw ∧ t.cmdUse = s.cmdUse ∧ t.bus = s.bus ∧ t.free = s.free ∧
    t.pending = s.pending) :
    t = { s with hif := t.hif, evc := t.evc, outs := t.outs } := by
  cases s
  cases t
  simp only at h
  obtain ⟨rfl, rfl, rfl, rfl, rfl, rfl, rfl, rfl, rfl, rfl, rfl, rfl, rfl, rfl, rfl, rfl, rfl, rfl, rfl, rfl, rfl, rfl, rfl, rfl, rfl, rfl, rfl, rfl, rfl, rfl, rfl, rfl, rfl, rfl, rfl, rfl, rfl, rfl, rfl, rfl⟩ := h
  rfl

/-- Everything that it does. -/
theorem State.countRefusal_says (s : State) (n st : Nat) :
    { s.countRefusal n st with hif := s.hif, evc := s.evc, outs := s.outs } = s := by
  rw [State.says_reply s (s.countRefusal n st) (by simp)]

/-- Everything that it does. -/
theorem State.countFinal_says (s : State) (n st : Nat) :
    { s.countFinal n st with hif := s.hif, evc := s.evc, outs := s.outs } = s := by
  rw [State.says_reply s (s.countFinal n st) (by simp)]

/-- Everything that it does. -/
theorem State.pushReply_says (s : State) (n : Nat) (r : Reply) :
    { s.pushReply n r with hif := s.hif, evc := s.evc, outs := s.outs } = s := by
  rw [State.says_reply s (s.pushReply n r) (by simp)]

/-- Everything that it does. -/
theorem State.final_says (s : State) (h : Hdr) (st : Nat) (f : RF) :
    { s.final h st f with hif := s.hif, evc := s.evc, outs := s.outs } = s := by
  rw [State.says_reply s (s.final h st f) (by simp)]

/-- Everything that it does. -/
theorem State.pendingReply_says (s : State) (h : Hdr) :
    { s.pendingReply h with hif := s.hif, evc := s.evc, outs := s.outs } = s := by
  rw [State.says_reply s (s.pendingReply h) (by simp)]

/-- The rings after a count. -/
@[simp] theorem State.countFinal_ring (s : State) (n st j : Nat) : (s.countFinal n st).ring j = s.ring j := by
  unfold State.countFinal State.countRefusal
  split
  · simp [State.ring, State.upAp, State.setAp]
  · rfl

end Sys2Proof.Machine
end

