-- ==== Sys2Proof/Laws/Hosting.lean ====
section
/-! SUPPORT. Slots, reply records, messages, counters and register writes of the host interface. -/

namespace Sys2Proof.Machine

/-- A word of a slot after some words were written to it: the last written, else what stood there. -/
theorem putWords_get (t : List (Nat × Word)) (f : Nat) (ws : List Word) (k : Nat) :
    Tab.get 0 (putWords t f ws) k = if f ≤ k ∧ k < f + ws.length then wat ws (k - f) else Tab.get 0 t k := by
  induction ws generalizing t f with
  | nil => simp [putWords]
  | cons w ws ih =>
    unfold putWords
    rw [ih]
    by_cases h : f = k
    · subst h
      simp [wat]
    · by_cases h2 : f + 1 ≤ k ∧ k < f + 1 + ws.length
      · rw [if_pos h2, if_pos ⟨by omega, by simp only [List.length_cons]; omega⟩]
        unfold wat
        rw [show k - f = (k - (f + 1)) + 1 by omega]
        simp
      · rw [if_neg h2, if_neg (by simp only [List.length_cons]; omega), Tab.get_set_other _ _ _ _ _ h]

/-- A slot reads back what was put there. -/
theorem slot_setSlot (a : Aperture) (i : Nat) (x : Slot) (h : i < 3) : (a.setSlot i x).slot i = x := by
  have : i = 0 ∨ i = 1 ∨ i = 2 := by omega
  rcases this with rfl | rfl | rfl <;> rfl

/-- The last of two writes of a slot stands. -/
theorem setSlot_setSlot (a : Aperture) (i : Nat) (x y : Slot) : (a.setSlot i x).setSlot i y = a.setSlot i y := by
  unfold Aperture.setSlot
  split
  · rfl
  · split <;> rfl

/-- A slot window and the place in it, from an offset. -/
theorem slotAt (n i : Nat) (h : n < 16384) : (0x4000 * i + n) / 0x4000 = i ∧ (0x4000 * i + n) % 0x4000 = n := by omega

/-- Apertures stay as a ring changes. -/
theorem ap_up_ring (s : State) (r : Nat) (g : Ring → Ring) (n : Nat) : (s.upRing r g).ap n = s.ap n := rfl

/-- Rings stay as an aperture changes. -/
theorem ring_up_ap (s : State) (r : Nat) (g : Aperture → Aperture) (n : Nat) : (s.upAp r g).ring n = s.ring n := rfl

/-- A final status is counted by its kind, in its own aperture alone (R54). -/
theorem countFinal_ap (s : State) (n st : Nat) : ((s.countFinal n st).ap n).cntState = (if st = 0x10 then (s.ap n).cntState + 1 else (s.ap n).cntState) ∧
    ((s.countFinal n st).ap n).cntSeal = (if st = 0x13 then (s.ap n).cntSeal + 1 else (s.ap n).cntSeal) ∧
    ((s.countFinal n st).ap n).cntRefuse =
      (if (0x10 ≤ st ∧ st ≤ 0x16) ∧ st ≠ 0x10 ∧ st ≠ 0x13 then (s.ap n).cntRefuse + 1 else (s.ap n).cntRefuse) ∧
    (∀ m, m ≠ n → (s.countFinal n st).ap m = s.ap m) := by
  unfold State.countFinal
  by_cases h : stState ≤ st ∧ st ≤ stBusy
  · rw [if_pos h]
    unfold State.countRefusal
    simp only [State.event_rows]
    refine ⟨?_, ?_, ?_, fun m hm => State.upAp_other _ _ _ _ (Ne.symm hm)⟩ <;> rw [State.upAp_ap] <;>
      by_cases h1 : st = stState <;> by_cases h2 : st = stSeal <;> simp [h1, h2, stState, stSeal] <;> simp_all [stState, stSeal, stBusy]
  · rw [if_neg h]
    have h1 : st ≠ 0x10 := by rintro rfl; exact h (by decide)
    have h2 : st ≠ 0x13 := by rintro rfl; exact h (by decide)
    have h3 : ¬ (0x10 ≤ st ∧ st ≤ 0x16) := h
    refine ⟨?_, ?_, ?_, fun m hm => State.upAp_other _ _ _ _ (Ne.symm hm)⟩ <;> rw [State.upAp_ap] <;> simp only [h1, h2, h3, if_false, false_and] <;>
      (split; rfl; split; rfl; split <;> rfl)

/-- A bit of a word made of a number. -/
theorem bit_wd (n i : Nat) (hi : i < 32) : bit (wd n) i = decide (n / 2 ^ i % 2 = 1) := by
  unfold bit wd
  rw [BitVec.getLsbD_ofNat]
  simp [hi, Nat.testBit_eq_decide_div_mod_eq]

/-- A field of a word made of a number. -/
theorem fld_wd (n hi lo : Nat) (h : hi < 32) (h2 : lo ≤ hi) : fld (wd n) hi lo = n / 2 ^ lo % 2 ^ (hi + 1 - lo) := by
  unfold fld wd
  rw [BitVec.toNat_ofNat]
  obtain ⟨k, rfl⟩ : ∃ k, hi = lo + k := ⟨hi - lo, by omega⟩
  rw [show lo + k + 1 - lo = k + 1 by omega]
  rw [show (32 : Nat) = lo + (32 - lo) by omega, pow_add, Nat.mod_mul_right_div_self]
  rw [Nat.mod_mod_of_dvd]
  exact pow_dvd_pow 2 (by omega)

/-- Rings stay as a message goes out. -/
theorem msix_ring (s : State) (v j : Nat) : (s.msix v).ring j = s.ring j := by
  obtain ⟨p, e, o, h⟩ := State.msix_says s v
  rw [h]; rfl

/-- Nothing but the host interface, the event controller and what leaves the device changes with a message. -/
theorem msix_says' (s : State) (v : Nat) : { s.msix v with hif := s.hif, evc := s.evc, outs := s.outs } = s := by
  obtain ⟨p, e, o, h⟩ := State.msix_says s v
  rw [h]

/-- A granted read of the counter block answers through the master's own latch (R391). -/
theorem registerRead_sch (s : State) (m k same : Nat) (h : k < 0x500) (h4 : k % 4 = 0) (hg : Granted m (0x2400000 + k) false s) :
    s.registerRead m (0x2400000 + k) 4 same = s.schGet m k := by
  have b : (0x2400000 + k) / 0x100000 = 0x24 := by omega
  have r : (0x2400000 + k) % 0x100000 = k := by omega
  have f : (0x2400000 + k) % 4 = 0 := by omega
  unfold State.registerRead cfgBase
  rw [if_neg (by omega), if_neg (by simp [slotOff, b]), if_neg (by simp [barBad, barOccupied, evcKept, b, f]; omega), checked_granted hg]
  unfold State.readReg
  dsimp only
  rw [if_neg (by omega), if_neg (by omega), if_neg (by omega), if_neg (by omega), if_neg (by omega), if_pos b, r]

/-- The two counters of a client at their places (R391). -/
theorem schCounter_at (s : State) (c d : Nat) (hc : c < 16) (hd : d < 0x40) :
    s.schCounter (0x100 + 0x40 * c + d) = (s.client c).counter d := by
  unfold State.schCounter
  rw [if_pos (by omega), show (0x100 + 0x40 * c + d - 0x100) / 0x40 = c by omega, show (0x100 + 0x40 * c + d) % 0x40 = d by omega]

/-- A write of a register block that is neither a slot nor a HEAD register. -/
theorem registerWrite_plain (s : State) (m off len : Nat) (v same : Word) (h1 : off < cfgBase) (h2 : slotOff off = false) (h3 : headOff off = false) :
    s.registerWrite m off len v same = if barBad off len ∨ (m < 16 ∧ evcKept off) then s.hostUr
      else s.checked m off true fun s =>
        if m < 16 ∧ barReadOnly off then s.upHif fun h => { h with aerUnsupported := true }
        else if m < 16 ∧ evcShut off then s
        else s.writeReg m off v same := by
  unfold State.registerWrite
  rw [if_neg (by omega), if_neg (by rw [h2]; simp)]
  congr 1
  exact if_neg (by rw [h3]; simp)

/-- A granted write of a register outside the blocks that are read-only to its master. -/
theorem registerWrite_granted (s : State) (m off len : Nat) (v same : Word) (h1 : off < cfgBase) (h2 : slotOff off = false) (h3 : headOff off = false)
    (hb : barBad off len = false) (hk : m < 16 → evcKept off = false) (hg : Granted m off true s)
    (hr : m < 16 → barReadOnly off = false ∧ evcShut off = false) :
    s.registerWrite m off len v same = s.writeReg m off v same := by
  rw [registerWrite_plain s m off len v same h1 h2 h3, if_neg (by rintro (a | ⟨a, b⟩); rw [hb] at a; exact absurd a (by simp); rw [hk a] at b; exact absurd b (by simp)),
    checked_granted hg, if_neg (by rintro ⟨a, b⟩; rw [(hr a).1] at b; exact absurd b (by simp)),
    if_neg (by rintro ⟨a, b⟩; rw [(hr a).2] at b; exact absurd b (by simp))]

/-- What a counter set to the value of HAL_SET_* holds. -/
theorem target_parts (t b n f : Nat) (hn : n ≤ 999999999) (hf : f < 65536) (ht : t = (b * 1000000000 + n) * 2 ^ 32 + 2 ^ 16 * f) :
    t / 2 ^ 32 / 1000000000 = b ∧ t / 2 ^ 32 % 1000000000 = n ∧ t % 2 ^ 32 = 2 ^ 16 * f := by
  have h1 : t / 2 ^ 32 = b * 1000000000 + n := by omega
  have h2 : t % 2 ^ 32 = 2 ^ 16 * f := by omega
  generalize t / 2 ^ 32 = q at *
  exact ⟨by omega, by omega, h2⟩

/-- A manual step that falls due. -/
theorem take_set (h : Hal) (due t : Nat) : h.take { due := due, set := some t } = h.stepped' (h.setTotal t) := rfl

/-- The parts of HAL_NOW after a step. -/
theorem stepped_parts (h : Hal) (t a n f : Nat) (ht : t / 2 ^ 32 / 1000000000 = a ∧ t / 2 ^ 32 % 1000000000 = n ∧ t % 2 ^ 32 = f) :
    let h' := h.stepped' (h.setTotal t)
    h'.sec = a ∧ h'.ns = n ∧ h'.f = f ∧ h'.cntStep = h.cntStep + 1 ∧ h'.stepped = true ∧ h'.inc = h.inc ∧ h'.mode = h.mode :=
  ⟨ht.1, ht.2.1, ht.2.2, rfl, rfl, rfl, rfl⟩

/-- HAL_SET_* stands for a value that the counter can hold. -/
theorem target_says (h : Hal) (hns : h.setNs.toNat ≤ 999999999) :
    h.target / 2 ^ 32 / 1000000000 = h.setLo.toNat + 2 ^ 32 * fld h.setHi 15 0 ∧ h.target / 2 ^ 32 % 1000000000 = h.setNs.toNat ∧
      h.target % 2 ^ 32 = 2 ^ 16 * fld h.setHi 31 16 :=
  target_parts h.target _ h.setNs.toNat (fld h.setHi 31 16) hns (by unfold fld; exact Nat.mod_lt _ (by decide)) (Hal.target.eq_1 h)

/-- A manual step sets the counter. -/
theorem take_step (h : Hal) (due : Nat) (hns : h.setNs.toNat ≤ 999999999) :
    let h' := h.take { due := due, set := some h.target }
    h'.sec = h.setLo.toNat + 2 ^ 32 * fld h.setHi 15 0 ∧ h'.ns = h.setNs.toNat ∧ h'.f = 2 ^ 16 * fld h.setHi 31 16 ∧
      h'.cntStep = h.cntStep + 1 ∧ h'.stepped = true ∧ h'.inc = h.inc ∧ h'.mode = h.mode := by
  rw [take_set]
  exact stepped_parts h h.target _ _ _ (target_says h hns)

end Sys2Proof.Machine
end

