-- ==== Sys2Proof/Laws/Memory.lean ====
section
/-! SUPPORT. Memory: the canonical form is kept by every operation, a read gives what was written, and a write leaves every
other address alone. -/

namespace Sys2Proof.Machine

/-- The canonical form says: addresses strictly rising, no blank byte listed. -/
theorem Memory.wf_iff (m : List Host.Cell) :
    Memory.wf m = true ↔ m.Pairwise (fun c d => c.1 < d.1) ∧ ∀ c ∈ m, c.2 ≠ Memory.blank := by
  induction m with
  | nil => simp [Memory.wf]
  | cons c t ih =>
    obtain ⟨a, b⟩ := c
    cases t with
    | nil => simp [Memory.wf]
    | cons d u =>
      obtain ⟨a', b'⟩ := d
      simp only [Memory.wf, Bool.and_eq_true, decide_eq_true_eq, bne_iff_ne, ih]
      constructor
      · rintro ⟨⟨hlt, hb⟩, hp, hn⟩
        refine ⟨List.pairwise_cons.2 ⟨?_, hp⟩, ?_⟩
        · intro x hx
          rcases List.mem_cons.1 hx with rfl | hx
          · exact hlt
          · exact lt_trans hlt ((List.pairwise_cons.1 hp).1 x hx)
        · intro x hx
          rcases List.mem_cons.1 hx with rfl | hx
          · exact hb
          · exact hn x hx
      · rintro ⟨hp, hn⟩
        have h := List.pairwise_cons.1 hp
        exact ⟨⟨h.1 (a', b') (by simp), hn (a, b) (by simp)⟩, h.2, fun x hx => hn x (List.mem_cons_of_mem _ hx)⟩

/-- Dropping cells keeps the canonical form. -/
theorem Memory.wf_filter (m : List Host.Cell) (p : Host.Cell → Bool) (h : Memory.wf m = true) :
    Memory.wf (m.filter p) = true := by
  rw [Memory.wf_iff] at h ⊢
  exact ⟨h.1.filter p, fun c hc => h.2 c (List.mem_of_mem_filter hc)⟩

/-- The cells of bytes stand in their range and hold no blank byte. -/
theorem Memory.cells_mem (bs : List Byte) (a : Nat) :
    ∀ c ∈ Memory.cells a bs, a ≤ c.1 ∧ c.1 < a + bs.length ∧ c.2 ≠ Memory.blank := by
  induction bs generalizing a with
  | nil => simp [Memory.cells]
  | cons b t ih =>
    intro c hc
    unfold Memory.cells at hc
    split at hc
    · obtain ⟨h1, h2, h3⟩ := ih (a + 1) c hc
      exact ⟨by omega, by simp only [List.length_cons]; omega, h3⟩
    · rename_i hb
      rcases List.mem_cons.1 hc with rfl | hc
      · exact ⟨le_refl _, by simp, hb⟩
      · obtain ⟨h1, h2, h3⟩ := ih (a + 1) c hc
        exact ⟨by omega, by simp only [List.length_cons]; omega, h3⟩

/-- The cells of bytes are in order. -/
theorem Memory.cells_sorted (bs : List Byte) (a : Nat) : (Memory.cells a bs).Pairwise (fun c d => c.1 < d.1) := by
  induction bs generalizing a with
  | nil => simp [Memory.cells]
  | cons b t ih =>
    unfold Memory.cells
    split
    · exact ih (a + 1)
    · refine List.pairwise_cons.2 ⟨fun d hd => ?_, ih (a + 1)⟩
      have := (Memory.cells_mem t (a + 1) d hd).1
      exact this

/-- A write keeps the canonical form. -/
theorem Memory.wf_write (m : List Host.Cell) (a : Nat) (bs : List Byte) (h : Memory.wf m = true) :
    Memory.wf (Memory.write m a bs) = true := by
  rw [Memory.wf_iff] at h ⊢
  unfold Memory.write
  refine ⟨List.pairwise_append.2 ⟨List.pairwise_append.2 ⟨h.1.filter _, Memory.cells_sorted bs a, ?_⟩, h.1.filter _, ?_⟩, ?_⟩
  · intro x hx y hy
    have h1 := List.mem_filter.1 hx
    have h2 := Memory.cells_mem bs a y hy
    simp only [decide_eq_true_eq] at h1
    omega
  · intro x hx y hy
    have h2 := List.mem_filter.1 hy
    simp only [decide_eq_true_eq] at h2
    rcases List.mem_append.1 hx with hx | hx
    · have h1 := List.mem_filter.1 hx
      simp only [decide_eq_true_eq] at h1
      omega
    · have h1 := Memory.cells_mem bs a x hx
      omega
  · intro c hc
    rcases List.mem_append.1 hc with hc | hc
    · rcases List.mem_append.1 hc with hc | hc
      · exact h.2 c (List.mem_of_mem_filter hc)
      · exact (Memory.cells_mem bs a c hc).2.2
    · exact h.2 c (List.mem_of_mem_filter hc)

/-- Clearing keeps the canonical form. -/
theorem Memory.wf_clear (m : List Host.Cell) (a n : Nat) (h : Memory.wf m = true) :
    Memory.wf (Memory.clear m a n) = true := Memory.wf_filter m _ h

/-! ### Reading -/

/-- An address that no cell names reads as blank. -/
theorem Memory.read_absent (m : List Host.Cell) (a : Nat) (h : ∀ c ∈ m, c.1 ≠ a) : Memory.read m a = Memory.blank := by
  induction m with
  | nil => rfl
  | cons c t ih =>
    obtain ⟨k, x⟩ := c
    have hk : k ≠ a := h (k, x) (by simp)
    have := ih fun c hc => h c (List.mem_cons_of_mem _ hc)
    unfold Memory.read at this ⊢
    unfold Tab.get
    rw [if_neg hk, this]

/-- Where the first list does not name the address, a read of an append is a read of the second. -/
theorem Memory.read_append_right (l m : List Host.Cell) (a : Nat) (h : ∀ c ∈ l, c.1 ≠ a) :
    Memory.read (l ++ m) a = Memory.read m a := by
  induction l with
  | nil => rfl
  | cons c t ih =>
    obtain ⟨k, x⟩ := c
    have hk : k ≠ a := h (k, x) (by simp)
    have := ih fun c hc => h c (List.mem_cons_of_mem _ hc)
    unfold Memory.read at this ⊢
    rw [List.cons_append, Tab.get, if_neg hk, this]

/-- Where the second list does not name the address, a read of an append is a read of the first. -/
theorem Memory.read_append_left (l m : List Host.Cell) (a : Nat) (h : ∀ c ∈ m, c.1 ≠ a) :
    Memory.read (l ++ m) a = Memory.read l a := by
  induction l with
  | nil => exact Memory.read_absent m a h
  | cons c t ih =>
    obtain ⟨k, x⟩ := c
    unfold Memory.read at ih ⊢
    rw [List.cons_append, Tab.get, Tab.get]
    split
    · rfl
    · exact ih

/-- Dropping cells of other addresses leaves a read as it was. -/
theorem Memory.read_filter (m : List Host.Cell) (p : Host.Cell → Bool) (a : Nat) (h : ∀ c : Host.Cell, c.1 = a → p c = true) :
    Memory.read (m.filter p) a = Memory.read m a := by
  induction m with
  | nil => rfl
  | cons c t ih =>
    obtain ⟨k, x⟩ := c
    unfold Memory.read at ih ⊢
    by_cases hk : k = a
    · rw [List.filter_cons_of_pos (h _ hk), Tab.get, Tab.get, if_pos hk, if_pos hk]
    · rw [Tab.get, if_neg hk]
      by_cases hp : p (k, x) = true
      · rw [List.filter_cons_of_pos hp, Tab.get, if_neg hk, ih]
      · rw [List.filter_cons_of_neg hp, ih]

/-- The cells of bytes read as the bytes. -/
theorem Memory.read_cells (bs : List Byte) (a i : Nat) (h : i < bs.length) :
    Memory.read (Memory.cells a bs) (a + i) = bs.getD i 0 := by
  induction bs generalizing a i with
  | nil => simp at h
  | cons b t ih =>
    unfold Memory.cells
    cases i with
    | zero =>
      split
      · rename_i hb
        rw [Memory.read_absent]
        · simp [hb]
        · intro c hc
          have := (Memory.cells_mem t (a + 1) c hc).1
          omega
      · simp [Memory.read, Tab.get]
    | succ i =>
      have hi : i < t.length := by simpa using h
      have e : a + (i + 1) = a + 1 + i := by omega
      split
      · rw [e, ih (a + 1) i hi]; simp
      · have := ih (a + 1) i hi
        unfold Memory.read at this ⊢
        rw [Tab.get, if_neg (by omega), e, this]; simp

/-- A byte just written reads as it was written. -/
theorem Memory.read_write (m : List Host.Cell) (a : Nat) (bs : List Byte) (i : Nat) (h : i < bs.length) :
    Memory.read (Memory.write m a bs) (a + i) = bs.getD i 0 := by
  unfold Memory.write
  rw [Memory.read_append_left, Memory.read_append_right, Memory.read_cells bs a i h]
  · intro c hc
    have := (List.mem_filter.1 hc).2
    simp only [decide_eq_true_eq] at this
    omega
  · intro c hc
    have := (List.mem_filter.1 hc).2
    simp only [decide_eq_true_eq] at this
    omega

/-- A write leaves every address outside its bytes as it was. -/
theorem Memory.read_write_other (m : List Host.Cell) (a : Nat) (bs : List Byte) (b : Nat) (h : b < a ∨ a + bs.length ≤ b) :
    Memory.read (Memory.write m a bs) b = Memory.read m b := by
  have hc : ∀ c ∈ Memory.cells a bs, c.1 ≠ b := fun c hc => by
    have := Memory.cells_mem bs a c hc
    omega
  unfold Memory.write
  rcases h with h | h
  · rw [List.append_assoc, Memory.read_append_left, Memory.read_filter]
    · intro c hb; simp [hb, h]
    · intro c hm
      rcases List.mem_append.1 hm with hm | hm
      · exact hc c hm
      · have := (List.mem_filter.1 hm).2
        simp only [decide_eq_true_eq] at this
        omega
  · rw [Memory.read_append_right, Memory.read_filter]
    · intro c hb; simp [hb, h]
    · intro c hm
      rcases List.mem_append.1 hm with hm | hm
      · have := (List.mem_filter.1 hm).2
        simp only [decide_eq_true_eq] at this
        omega
      · exact hc c hm

/-- Clearing leaves every address outside its range as it was. -/
theorem Memory.read_clear_other (m : List Host.Cell) (a n b : Nat) (h : b < a ∨ a + n ≤ b) :
    Memory.read (Memory.clear m a n) b = Memory.read m b := by
  unfold Memory.clear
  apply Memory.read_filter
  intro c hc
  simp only [decide_eq_true_eq, hc]
  exact h

/-- A cleared byte reads as blank. -/
theorem Memory.read_clear (m : List Host.Cell) (a n b : Nat) (h : a ≤ b ∧ b < a + n) :
    Memory.read (Memory.clear m a n) b = Memory.blank := by
  apply Memory.read_absent
  intro c hc
  have := (List.mem_filter.1 hc).2
  simp only [decide_eq_true_eq] at this
  omega

end Sys2Proof.Machine
end

