-- ==== Sys2Proof/Laws/Packet.lean ====
section
/-! SUPPORT. What a packet row comes to, by what its meaning answers. -/

namespace Sys2Proof.Machine

variable {op k : Nat} {body : Packet → State → Ans} {s s' : State} {p : Packet}

/-- A packet that applies has the effect its meaning answers. -/
theorem runPacket_applies (h : Applies op k p s) :
    runPacket op k body s = .next (match body p (s.without k) with
      | .wait e l => { s with taken := s.taken.set k { p with waiting := true, eng := e, scrubs := l } }
      | .hold => s
      | a => (s.without k).answer p a) := by
  obtain ⟨⟨h1, h2, h3, h4⟩, h5, h6⟩ := h
  unfold runPacket State.applyPacket
  rw [h1]
  simp only [h2, h3, h4, ne_eq, not_true_eq_false, Bool.false_eq_true, or_self, if_false]
  rw [show ({ s with taken := s.taken.eraseIdx k } : State) = s.without k from rfl, h5, h6]
  all_goals rfl

/-- The same, by the answer's kind. -/
theorem runPacket_after (h : Applies op k p s) : runPacket op k body s = .next (s.after k p (body p (s.without k))) := by
  rw [runPacket_applies h]
  cases body p (s.without k) <;> rfl

/-- What each answer comes to. -/
@[simp] theorem after_refuse (s : State) (k : Nat) (p : Packet) (st : Nat) (d0 d1 : Word) :
    s.after k p (.refuse st d0 d1) = s.refusal k p st d0 d1 := rfl
/-- Done. -/
@[simp] theorem after_done (s t : State) (k : Nat) (p : Packet) (f : RF) (st : Nat) :
    s.after k p (.done t f st) = t.final p.hdr st f := rfl
/-- Accepted with ST_PENDING. -/
@[simp] theorem after_pend (s : State) (k : Nat) (p : Packet) (a b c : Nat) (g : State → State) :
    s.after k p (.pend a b c g) = g (s.accepted k p a b c) := rfl
/-- Accepted without it. -/
@[simp] theorem after_late (s : State) (k : Nat) (p : Packet) (a b c : Nat) (g : State → State) :
    s.after k p (.late a b c g) = g (s.held k p a b c) := rfl
/-- A refusal of the model's own form. -/
@[simp] theorem after_ofRefuse (s : State) (k : Nat) (p : Packet) (r : Refuse) :
    s.after k p (.ofRefuse r) = s.refusal k p r.1 r.2.1 r.2.2 := rfl
/-- A condition that refuses. -/
@[simp] theorem after_refuseIf (s : State) (k : Nat) (p : Packet) (c : Bool) (st : Nat) (d : Word) (a : Ans) :
    s.after k p (refuseIf c st d a) = if c then s.refusal k p st d 0 else s.after k p a := by
  cases c <;> rfl
/-- States in which an object allows a packet. -/
@[simp] theorem after_needState (s : State) (k : Nat) (p : Packet) (code : Nat) (l : List Nat) (a : Ans) :
    s.after k p (needState code l a) = if l.contains code then s.after k p a else s.refusal k p stState (wd code) 0 := by
  unfold needState
  split <;> rfl
/-- The same, refusal first. -/
theorem after_needNot (s : State) (k : Nat) (p : Packet) (code : Nat) (l : List Nat) (a : Ans) :
    s.after k p (needState code l a) = if l.contains code = false then s.refusal k p stState (wd code) 0 else s.after k p a := by
  rw [after_needState]
  cases l.contains code <;> rfl
/-- The same with one state. -/
theorem after_needOne (s : State) (k : Nat) (p : Packet) (code c : Nat) (a : Ans) :
    s.after k p (needState code [c] a) = if code ≠ c then s.refusal k p stState (wd code) 0 else s.after k p a := by
  rw [after_needState]
  by_cases h : code = c
  · subst h; simp
  · have : ¬ c = code := fun h' => h h'.symm
    simp [h]
/-- A condition of a meaning. -/
theorem after_ite (s : State) (k : Nat) (p : Packet) (c : Prop) [Decidable c] (a b : Ans) :
    s.after k p (if c then a else b) = if c then s.after k p a else s.after k p b := by
  split <;> rfl

/-- A meaning that is done answers with its final reply. -/
theorem runPacket_done {f : RF} {st : Nat} (h : Applies op k p s) (hb : body p (s.without k) = .done s' f st) :
    runPacket op k body s = .next (s'.final p.hdr st f) := by
  rw [runPacket_applies h, hb]; rfl

/-- A meaning that refuses answers with the refusal alone. -/
theorem runPacket_refuse {st : Nat} {d0 d1 : Word} (h : Applies op k p s)
    (hb : body p (s.without k) = .refuse st d0 d1) : runPacket op k body s = .next (s.refusal k p st d0 d1) := by
  rw [runPacket_applies h, hb]; rfl

/-- A meaning that accepts for later leaves the request open, sends ST_PENDING and begins its effect. -/
theorem runPacket_pend {key val val2 : Nat} {g : State → State} (h : Applies op k p s)
    (hb : body p (s.without k) = .pend key val val2 g) :
    runPacket op k body s = .next (g (s.accepted k p key val val2)) := by
  rw [runPacket_applies h, hb]; rfl

/-- The same without ST_PENDING. -/
theorem runPacket_late {key val val2 : Nat} {g : State → State} (h : Applies op k p s)
    (hb : body p (s.without k) = .late key val val2 g) : runPacket op k body s = .next (g (s.held k p key val val2)) := by
  rw [runPacket_applies h, hb]; rfl

/-- A basic CLEAT_ALLOC that waits stays in the taken list, marked. -/
theorem runPacket_wait {e : Nat} {l : List Nat} (h : Applies op k p s) (hb : body p (s.without k) = .wait e l) :
    runPacket op k body s = .next { s with taken := s.taken.set k { p with waiting := true, eng := e, scrubs := l } } := by
  rw [runPacket_applies h, hb]

/-- A packet that cannot be applied yet stays where it is. -/
theorem runPacket_hold (h : Applies op k p s) (hb : body p (s.without k) = .hold) : runPacket op k body s = .next s := by
  rw [runPacket_applies h, hb]

/-- A packet that check 10 refuses has no effect but the refusal. -/
theorem runPacket_barred {r : Refuse} (h : Barred op k p r s) :
    runPacket op k body s = .next (s.refusal k p r.1 r.2.1 r.2.2) := by
  obtain ⟨⟨h1, h2, h3, h4⟩, h5⟩ := h
  unfold runPacket State.applyPacket
  rw [h1]
  simp only [h2, h3, h4, ne_eq, not_true_eq_false, Bool.false_eq_true, or_self, if_false]
  rw [show ({ s with taken := s.taken.eraseIdx k } : State) = s.without k from rfl, h5]
  all_goals rfl

/-- The check of an object's owner comes before that of the context's state (R43). -/
theorem after_own (s : State) (k : Nat) (p : Packet) (code : Nat) (l : List Nat) (a : Ans) :
    s.after k p (ownThenState code l a) =
      if l.contains code = false then s.after k p (a.over (stState, wd code, 0)) else s.after k p a := by
  unfold ownThenState
  cases l.contains code <;> rfl

/-- An answer that does not refuse with ST_AUTH gives way to the refusal it is held against. -/
theorem over_other {a : Ans} {r : Refuse} (h : ∀ st d0 d1, a = .refuse st d0 d1 → st ≠ stAuth) : a.over r = .ofRefuse r := by
  unfold Ans.over
  split
  · exact if_neg (h _ _ _ rfl)
  · rfl

/-- An answer for an object that is there and its context's: of its refusals, ST_AUTH alone comes before that of the state. -/
theorem over_owned {there : Bool} {owner c : Nat} {d : Word} {a : Ans} {r : Refuse} (h : ∀ st d0 d1, a = .refuse st d0 d1 → st ≠ stAuth) :
    (if ¬ there = true then Ans.refuse stRange d else if owner ≠ c then .refuse stAuth else a).over r =
      if there = true ∧ owner ≠ c then .refuse stAuth else .ofRefuse r := by
  cases there with
  | false => rfl
  | true =>
    by_cases h1 : owner = c
    · rw [if_neg (by simp), if_neg (by simpa using h1), if_neg (by simp [h1])]
      exact over_other h
    · rw [if_neg (by simp), if_pos h1, if_pos ⟨rfl, h1⟩]
      rfl

/-- An answer held against a refusal of checks 11 and 12 is a refusal: its own with ST_AUTH, or that. -/
theorem over_refuses (a : Ans) (r : Refuse) :
    ∃ u : Refuse, a.over r = .refuse u.1 u.2.1 u.2.2 ∧ (u.1 = stAuth ∨ u = r) := by
  unfold Ans.over Ans.ofRefuse
  split
  · split
    · exact ⟨(_, _, _), rfl, .inl ‹_›⟩
    · exact ⟨r, rfl, .inr rfl⟩
  · exact ⟨r, rfl, .inr rfl⟩

/-- A packet that check 11 or 12 is to refuse has no effect but a refusal: that one, or ST_AUTH by its own check 10. -/
theorem runPacket_turned {r : Refuse} (h : Turned op k p r s) :
    ∃ u : Refuse, runPacket op k body s = .next (s.refusal k p u.1 u.2.1 u.2.2) ∧ (u.1 = stAuth ∨ u = r) := by
  obtain ⟨⟨h1, h2, h3, h4⟩, h5, h6⟩ := h
  obtain ⟨u, hu, hr⟩ := over_refuses (body p (s.without k)) r
  refine ⟨u, ?_, hr⟩
  unfold runPacket State.applyPacket
  rw [h1]
  simp only [h2, h3, h4, ne_eq, not_true_eq_false, Bool.false_eq_true, or_self, if_false]
  rw [show ({ s with taken := s.taken.eraseIdx k } : State) = s.without k from rfl, h5, h6]
  dsimp only
  rw [hu]
  rfl

/-- A packet of another opcode, one that waits for scrubs, and one that an earlier packet holds back change nothing. -/
theorem runPacket_idle (h : s.taken[k]? = some p) (hw : p.op ≠ op ∨ p.waiting = true ∨ s.mustWait k p = true) :
    runPacket op k body s = .next s := by
  unfold runPacket State.applyPacket
  rw [h]
  simp only
  rw [if_pos hw]

/-- A row that finds no packet at its place changes nothing. -/
theorem runPacket_none (h : s.taken[k]? = none) : runPacket op k body s = .next s := by
  unfold runPacket State.applyPacket
  rw [h]

/-- A packet row answers a next state. -/
theorem runPacket_next : ∃ t, runPacket op k body s = .next t := ⟨_, rfl⟩

end Sys2Proof.Machine
end

