-- ==== Sys2Proof/Laws/Pending.lean ====
section
/-! SUPPORT. The pending bits of the event controller after events. -/

namespace Sys2Proof.Machine

/-- The host bridge leaves the pending bits. -/
theorem evc_pend_bridge (s : State) (g : Nat) : (s.evcBridge g).evc.pend = s.evc.pend := by
  have hm : ∀ (u : State) v, (u.msix v).evc = u.evc := by
    intro u v
    by_cases h : (u.msixEntry v).masked = true ∨ u.hif.d3hot = true
    · rw [State.msix_held _ _ h]; rfl
    · rw [State.msix_sent _ _ h]; rfl
  unfold State.evcBridge
  dsimp only
  split
  · rw [hm]; rfl
  · rfl

/-- Waking the processors leaves the pending bits. -/
theorem evc_pend_wake (s : State) (n : Nat) : (s.evcWake n).evc.pend = s.evc.pend := by
  unfold State.evcWake
  split
  · generalize List.range 4 = l
    suffices h : ∀ (l : List Nat) (t : State), (l.foldl (fun (t : State) k =>
          if t.evc.sleep.getLsbD k && (t.evc.target n).testBit k then
            (t.upEvc fun v => { v with sleep := setBit v.sleep k false }).out 6 k []
          else t) t).evc.pend = t.evc.pend from h l s
    intro l
    induction l with
    | nil => exact fun t => rfl
    | cons k l ih =>
      intro t
      refine (ih _).trans ?_
      beta_reduce
      split <;> rfl
  · rfl

/-- An event of a named source makes it pending, and no other source. -/
theorem event_pend (s : State) (n : Nat) (h : evcNamed n = true) :
    (s.event n).evc.pend = Tab.set s.evc.pend (n / 32) (Tab.get 0 s.evc.pend (n / 32) ||| wd (2 ^ (n % 32))) := by
  unfold State.event
  rw [if_pos h]
  dsimp only
  rw [evc_pend_bridge, evc_pend_wake]
  rfl

/-- An event without a source does nothing. -/
theorem event_unnamed (s : State) (n : Nat) (h : ¬ evcNamed n = true) : s.event n = s := if_neg h

/-- A bit of a power of two. -/
theorem bit_one (i j : Nat) (hj : j < 32) : bit (wd (2 ^ i)) j = decide (i = j) := by
  unfold bit wd
  rw [BitVec.getLsbD_ofNat, Nat.testBit_two_pow]
  simp [hj]

/-- A pending bit after a run of events of one group: set by its own event, else as it was. -/
theorem events_bits (s : State) (g : Nat) (l : List Nat) (hl : ∀ i ∈ l, i < 32) (i : Nat) (hi : i < 32) (hn : evcNamed (32 * g + i) = true) :
    bit (Tab.get 0 (s.events (l.map (32 * g + ·))).evc.pend g) i = (decide (i ∈ l) || bit (Tab.get 0 s.evc.pend g) i) := by
  unfold State.events
  induction l generalizing s with
  | nil => simp
  | cons k l ih =>
    have hk : k < 32 := hl k (by simp)
    rw [List.map_cons, List.foldl_cons, ih _ (fun i hi => hl i (by simp [hi]))]
    by_cases h : evcNamed (32 * g + k) = true
    · rw [event_pend _ _ h]
      have e1 : (32 * g + k) / 32 = g := by omega
      have e2 : (32 * g + k) % 32 = k := by omega
      rw [e1, e2, Tab.get_set]
      have : bit (Tab.get 0 s.evc.pend g ||| wd (2 ^ k)) i = (bit (Tab.get 0 s.evc.pend g) i || bit (wd (2 ^ k)) i) := by
        unfold bit; rw [BitVec.getLsbD_or]
      rw [this, bit_one _ _ hi]
      by_cases hki : k = i
      · simp [hki]
      · have : ¬ i = k := fun h => hki h.symm
        simp [hki, this]
    · rw [event_unnamed _ _ h]
      have : ¬ i = k := by rintro rfl; exact h hn
      simp [this]

/-- A number among the bits that are set. -/
theorem mem_bitsOf (v : Word) (i : Nat) (hi : i < 32) : decide (i ∈ bitsOf 32 v.toNat) = bit v i := by
  unfold bitsOf bit
  have : v.getLsbD i = decide (v.toNat / 2 ^ i % 2 = 1) := by
    unfold BitVec.getLsbD
    exact Nat.testBit_eq_decide_div_mod_eq
  rw [this]
  simp [hi]

end Sys2Proof.Machine
end

