-- ==== Sys2Proof/Laws/Plinth.lean ====
section
/-! SUPPORT. Launch points, Trim samples, faults of Plinth, the twin's requests and writes of the store. -/

namespace Sys2Proof.Machine

/-- A launch point that launches now. -/
theorem launchPt_some {s : State} {slot i kind : Nat} {pt : List Word} (h : (s.plan slot).points[i]? = some pt)
    (h1 : s.launches = true ∧ ((s.plan slot).state = 0x53 ∨ (s.plan slot).state = 0x54) ∧ ptKind pt = kind ∧
      ptIn pt (s.plan slot).count = true ∧ (s.plan slot).inOrder i = true ∧ ¬ (s.plan slot).launched.contains (i, (s.plan slot).count) = true) :
    s.launchPt slot i kind = some pt := by
  unfold State.launchPt
  dsimp only
  rw [h]
  exact if_pos h1

/-- One that does not. -/
theorem launchPt_none {s : State} {slot i kind : Nat}
    (h : ∀ pt, (s.plan slot).points[i]? = some pt → ¬ (s.launches = true ∧
      ((s.plan slot).state = 0x53 ∨ (s.plan slot).state = 0x54) ∧ ptKind pt = kind ∧ ptIn pt (s.plan slot).count = true ∧
      (s.plan slot).inOrder i = true ∧ ¬ (s.plan slot).launched.contains (i, (s.plan slot).count) = true)) :
    s.launchPt slot i kind = none := by
  unfold State.launchPt
  dsimp only
  split
  · exact if_neg (h _ ‹_›)
  · rfl

/-- A sample instant with an image in force. -/
theorem trimInstant_some (s : State) (im : TrimImage) (h : s.trim.active.or s.trim.pend ≠ none) (h1 : ((s.passPln s.trim.nextT).replaceDue s.trim.nextT).trim.active = some im) :
    s.trimInstant = ((s.passPln s.trim.nextT).replaceDue s.trim.nextT).trimTake im s.trim.nextT := by
  unfold State.trimInstant
  rw [if_neg (by rw [Option.isNone_iff_eq_none]; exact h)]
  dsimp only
  rw [h1]

/-- One before the first image is in force. -/
theorem trimInstant_none (s : State) (h : s.trim.active.or s.trim.pend ≠ none) (h1 : ((s.passPln s.trim.nextT).replaceDue s.trim.nextT).trim.active = none) :
    s.trimInstant = ((s.passPln s.trim.nextT).replaceDue s.trim.nextT).upTrim fun x => { x with nextT := s.trim.nextT + ((x.pend.map (·.period)).getD 1) } := by
  unfold State.trimInstant
  rw [if_neg (by rw [Option.isNone_iff_eq_none]; exact h)]
  dsimp only
  rw [h1]

/-- The end of a sample, stage by stage. -/
theorem trimEnd_is (s : State) (im : TrimImage) (run : TrimRun) : s.trimEnd im run = (
    let ended := s.upTrim fun z =>
      { z with run := none, samples := z.samples + 1, lastCyc := run.cycles im % 65536, rx := z.prune im run.t, lastRegion := z.region }
    let tq := ended.sendTorques im run
    let us := sentU im run tq.1
    let kept := (ended.upTrim fun z => { z with uPrev := run.u, uSent := us, bPrev := run.b, altered := us != run.u }).upPlinth fun z =>
      { z with torque := tq.1.foldl (fun l p => Tab.set l p.1 p.2) z.torque, cntClamp := z.cntClamp + wd tq.2 }
    let sent := if run.bad = true ∨ run.late = true then ended else (kept.motorFrames im run tq.1).2.sendFrames im (kept.motorFrames im run tq.1).1
    let checked := sent.plinth.limits.foldl (fun (v : State) (e : List Word) => if v.overLimit e = true then v.plnFault fltLimit 3 0 else v) sent
    let noted := if run.late = true then checked else checked.upPlinth fun z => { z with deadHist := (false :: z.deadHist).take 10 }
    noted.traceSample run s.trim.lastRegion) := rfl

/-- A record of Plinth's log, and nothing else of Plinth. -/
theorem plnRecord_plinth (s : State) (code cls ctx unit : Nat) (a b c : Word) :
    (s.plnRecord code cls ctx unit a b c).plinth = { s.plinth with log := s.plinth.log.add { code := code, cls := cls, ctx := ctx, unit := unit, sec := s.pnow / 1000000000, ns := s.pnow % 1000000000, frac := s.plinth.time % 2 ^ 32 / 2 ^ 16, arg0 := a, arg1 := b, arg2 := c } } := by
  unfold State.plnRecord
  simp only [State.event_frame]

/-- The twin's note of a stop cause leaves Plinth's own state. -/
theorem twinCause_plinth (s : State) (code : Nat) : (s.twinCause code).plinth = s.plinth := by
  unfold State.twinCause
  split <;> rfl

/-- A request that a stop overtakes is gone. -/
theorem dropModeReq_plinth (s : State) : s.dropModeReq.plinth = { s.plinth with modeReq := none, restart := false } := by
  unfold State.dropModeReq
  dsimp only
  split
  · simp only [State.closeOp_frame]; rfl
  · rfl

/-- The mode that Plinth enters. -/
theorem plnMode_mode (s : State) (m : Nat) : (s.plnMode m).plinth.mode = m := by
  unfold State.plnMode
  split
  · assumption
  · dsimp only
    simp only [State.event_frame]; rfl

/-- What stays of Plinth as it enters another mode than POLICY_LED and MAQUETTE_LED. -/
theorem plnMode_keeps (s : State) (m : Nat) : (s.plnMode m).plinth.ss0 = s.plinth.ss0 ∧ (s.plnMode m).plinth.ss1 = s.plinth.ss1 ∧
    (s.plnMode m).plinth.pins = s.plinth.pins ∧ (s.plnMode m).plinth.rampPend = s.plinth.rampPend ∧ (s.plnMode m).plinth.rampK = s.plinth.rampK ∧
    (s.plnMode m).plinth.modeReq = s.plinth.modeReq ∧ (s.plnMode m).plinth.restart = s.plinth.restart ∧
    (s.plnMode m).plinth.inst = s.plinth.inst ∧ (s.plnMode m).plinth.next = s.plinth.next ∧ (s.plnMode m).plinth.log = s.plinth.log := by
  unfold State.plnMode
  split
  · exact ⟨rfl, rfl, rfl, rfl, rfl, rfl, rfl, rfl, rfl, rfl⟩
  · dsimp only
    simp only [State.event_frame]
    exact ⟨rfl, rfl, rfl, rfl, rfl, rfl, rfl, rfl, rfl, rfl⟩

/-- A fault of class S0: the record, and Plinth STOPPED with its outputs in stop (R345, R362, R364). -/
theorem plnFault_S0 (s : State) (code unit : Nat) :
    let t := s.plnFault code 4 unit
    t.plinth.mode = 0x84 ∧ t.plinth.ss0 = true ∧ t.plinth.ss1 = true ∧ t.plinth.pins = 0 ∧ t.plinth.rampPend = false ∧
      t.plinth.modeReq = none ∧ t.plinth.restart = false ∧ t.plinth.inst = none ∧ t.plinth.next = none ∧ t.plinth.log = s.plinth.log.add
      { code := code, cls := 4, ctx := 255, unit := unit, sec := s.pnow / 1000000000, ns := s.pnow % 1000000000, frac := s.plinth.time % 2 ^ 32 / 2 ^ 16, arg0 := 0, arg1 := 0, arg2 := 0 } := by
  intro t
  have e : t = (((s.plnRecord code 4 255 unit 0 0 0).twinCause code).upPlinth fun x => { x with next := none, rampPend := false, inst := none }).dropModeReq.stopOutputs.plnMode mStop := rfl
  have e1 := plnMode_keeps (((s.plnRecord code 4 255 unit 0 0 0).twinCause code).upPlinth fun x => { x with next := none, rampPend := false, inst := none }).dropModeReq.stopOutputs mStop
  rw [← e] at e1
  have e2 : (((s.plnRecord code 4 255 unit 0 0 0).twinCause code).upPlinth fun x => { x with next := none, rampPend := false, inst := none }).dropModeReq.stopOutputs.plinth =
      { ({ s.plinth with log := s.plinth.log.add { code := code, cls := 4, ctx := 255, unit := unit, sec := s.pnow / 1000000000, ns := s.pnow % 1000000000, frac := s.plinth.time % 2 ^ 32 / 2 ^ 16, arg0 := 0, arg1 := 0, arg2 := 0 } } : Plinth) with
        next := none, rampPend := false, inst := none, modeReq := none, restart := false, ss0 := true, ss1 := true, pins := 0, ss1Wait := false } := by
    unfold State.stopOutputs
    rw [State.upPlinth, dropModeReq_plinth]
    simp only [State.upPlinth, twinCause_plinth, plnRecord_plinth]
  rw [e2] at e1
  obtain ⟨h1, h2, h3, h4, -, h5, h6, h7, h8, h9⟩ := e1
  exact ⟨plnMode_mode _ _, h1, h2, h3, h4, h5, h6, h7, h8, h9⟩

/-- A mode request without the own one. -/
theorem twinTry_none (s : State) (h : s.openOf 0x801 0 = none) : s.twinTry = s := by
  unfold State.twinTry
  rw [h]

/-- Both requests. -/
theorem twinTry_some (s : State) (o : OpenReq) (peer : PeerFacts) (h : s.openOf 0x801 0 = some o) (h1 : s.twin.peerReq = some peer) :
    s.twinTry = if reqMatch (fld (wat o.params 0) 1 0) (bit (wat o.params 0) 2)
      ((List.range (fld (wat o.params 0) 11 8)).map fun i => (fld (wat o.params (1 + i)) 5 0, fld (wat o.params (1 + i)) 13 8)) peer ∧
        s.hal.nowNs ≤ s.twin.peerAt + 1000000000
      then s.twinEnter o peer else s := by
  unfold State.twinTry
  rw [h, h1]

/-- A write whose read-back failed once is made once more. -/
theorem storeDone_again (s : State) (q : StoreRec) (h : s.store.writing = some q) (h1 : s.store.again = false) :
    s.storeDone false = (false, s.upStore fun y => { y with again := true }) := by
  unfold State.storeDone
  rw [h]
  exact (if_neg Bool.false_ne_true).trans (if_pos (by rw [h1]; decide))

/-- One whose read-back failed twice leaves the record in memory only. -/
theorem storeDone_fails (s : State) (q : StoreRec) (h : s.store.writing = some q) (h1 : s.store.again = true) :
    s.storeDone false = (true, s.upStore fun y => { y with writing := none, fail := true }) := by
  unfold State.storeDone
  rw [h]
  exact (if_neg Bool.false_ne_true).trans (if_neg (by rw [h1]; decide))

end Sys2Proof.Machine
end

