-- ==== Sys2Proof/Laws/Power.lean ====
section
/-! SUPPORT. Time that passes, power updates and reset causes. -/

namespace Sys2Proof.Machine

/-- The counter reads what it was set to. -/
theorem Hal.total_setTotal (h : Hal) (n : Nat) : (h.setTotal n).total = n := by
  unfold Hal.total Hal.nowNs
  have h1 : (h.setTotal n).sec = n / 2 ^ 32 / 1000000000 := by unfold Hal.setTotal; rfl
  have h2 : (h.setTotal n).ns = n / 2 ^ 32 % 1000000000 := by unfold Hal.setTotal; rfl
  have h3 : (h.setTotal n).f = n % 2 ^ 32 := by unfold Hal.setTotal; rfl
  rw [h1, h2, h3]
  have e1 := Nat.div_add_mod (n / 2 ^ 32) 1000000000
  have e2 := Nat.div_add_mod n (2 ^ 32)
  rw [Nat.mul_comm (n / 2 ^ 32 / 1000000000), e1, Nat.mul_comm (n / 2 ^ 32), e2]

/-- XLT stays as time passes. -/
theorem passTo_xlt (s : State) (n : Nat) : (s.passTo n).xlt = s.xlt := by
  unfold State.passTo
  split
  · unfold State.pass; dsimp only; split <;> rfl
  · rfl

/-- A cause bit that was set reads as set. -/
theorem cause_set (x : BitVec 7) (i : Nat) (h : i < 7) : bit ((setBit x i true).setWidth 32) i = true := by
  unfold bit setBit
  rw [BitVec.getLsbD_setWidth, if_pos rfl, BitVec.getLsbD_or, BitVec.getLsbD_ofNat, Nat.testBit_two_pow_self]
  simp [h]; omega

/-- Everything a step of the DP scale can do (R469, R470). -/
theorem nextScale_says (k reef power cap free : Nat) (hk : k ≤ 64) :
    nextScale k reef power cap free ≤ 64 ∧ (reef = 3 → nextScale k reef power cap free = 0) ∧
      (reef ≠ 3 → nextScale k reef power cap free ≤ k + 4 ∧ k ≤ nextScale k reef power cap free + 4 ∧
        (cap < power → nextScale k reef power cap free < k ∨ nextScale k reef power cap free = 0) ∧
        (¬ cap < power → power * 10 ≤ cap * 9 → k < nextScale k reef power cap free ∨ nextScale k reef power cap free = 64)) := by
  unfold nextScale
  by_cases h1 : reef = 3
  · simp [h1]
  · rw [if_neg h1]
    by_cases h2 : cap < power
    · rw [if_pos h2]
      refine ⟨by omega, fun h => absurd h h1, fun _ => ⟨by omega, by omega, fun _ => by omega, fun h => absurd h2 h⟩⟩
    · rw [if_neg h2]
      by_cases h3 : power * 10 ≤ cap * 9
      · rw [if_pos h3]
        refine ⟨by omega, fun h => absurd h h1, fun _ => ⟨by omega, by omega, fun h => absurd h h2, fun _ _ => by omega⟩⟩
      · rw [if_neg h3]
        refine ⟨by omega, fun h => absurd h h1, fun _ => ⟨by omega, by omega, fun h => absurd h h2, fun _ h => absurd h h3⟩⟩

/-- CPW after an update. -/
def powerCpw (power free : Nat) (x : Cpw) : Cpw :=
  let overAt := decide (x.cap < power) && x.k == 0
  let n := if overAt then x.overUs + 1 else x.overUs
  { x with k := nextScale x.k x.reef power x.cap free
           overUs := if n = 10 then 0 else n, cntOver := if n = 10 then x.cntOver + 1 else x.cntOver }

/-- A power update outside a ramp. -/
theorem powerUpdate_plain (s : State) (power : Nat) (hr : s.cpw.ramping = false) :
    s.powerUpdate power = (((s.upCpw fun x => { x with power := power, peak := max x.peak power }).draw).2.upCpw
      fun x => powerCpw power (Config.freeWord s.free).toNat x).schedule := by
  unfold State.powerUpdate
  dsimp only
  rw [if_neg (by show ¬ s.cpw.ramping = true; simp [hr])]
  rfl

/-- What a change of CPW leaves. -/
theorem upCpw_frame2 (u : State) (g : Cpw → Cpw) (c : Cpw) (f : Nat) : ({ u.upCpw g with cpw := c, free := f } : State) = { u with cpw := c, free := f } := rfl

/-- What a free value leaves. -/
theorem draw_frame2 (u : State) (c : Cpw) (f : Nat) : ({ u.draw.2 with cpw := c, free := f } : State) = { u with cpw := c, free := f } := rfl

/-- What a power update leaves. -/
theorem powerUpdate_frame (s : State) (f1 f2 : Cpw → Cpw) : ({ (((s.upCpw f1).draw).2.upCpw f2) with cpw := s.cpw, free := s.free } : State) = s :=
  (upCpw_frame2 _ _ _ _).trans ((draw_frame2 _ _ _).trans (upCpw_frame2 s f1 s.cpw s.free))

/-- Ten updates above the cap at scale 0 are one overrun. -/
theorem powerCpw_over (power free : Nat) (x : Cpw) (h1 : x.cap < power) (h2 : x.k = 0) (h3 : x.overUs = 9) :
    (powerCpw power free x).cntOver = x.cntOver + 1 ∧ (powerCpw power free x).overUs = 0 := by
  unfold powerCpw
  simp [h1, h2, h3]

/-- T is the hotter of the two sensors. -/
theorem felt_max (b : Bool) (w : BitVec 12) (t : Int) (h1 : -2048 ≤ t) (h2 : t < 2048) :
    max (if b then BitVec.ofInt 12 t else BitVec.ofInt 12 (min t w.toInt)).toInt
      (if b then BitVec.ofInt 12 (min t w.toInt) else BitVec.ofInt 12 t).toInt = t := by
  have l : -2048 ≤ w.toInt ∧ w.toInt < 2048 := ⟨by have := BitVec.le_toInt w; simpa using this, by have := BitVec.toInt_lt (x := w); simpa using this⟩
  have k : ∀ i : Int, -2048 ≤ i → i < 2048 → (BitVec.ofInt 12 i).toInt = i := fun i a b => by
    rw [BitVec.toInt_ofInt]; exact Int.bmod_eq_of_le (by simpa using a) (by simpa using b)
  cases b
  · simp only [Bool.false_eq_true, if_false]
    rw [k t h1 h2, k (min t w.toInt) (by omega) (by omega)]; omega
  · simp only [if_true]
    rw [k t h1 h2, k (min t w.toInt) (by omega) (by omega)]; omega

end Sys2Proof.Machine
end

