-- ==== Sys2Proof/WellFormed.lean ====
section
/-! DEFINITION. Which commands are well-formed: the ranges of operands that their types leave open. -/

namespace Sys2Proof

/-- A command whose operands lie where the spec has them. -/
def Instr.wellFormed : Instr → Bool
  -- a write lies in the slots of its aperture (R35)
  | .slotWrite _ off ws _ => decide (off + 4 * ws.length ≤ 0xC000)
  | .packetIntake _ _ => true
  | .refusalReply _ _ => true
  | .replyRecordWrite _ => true
  | .moderationTimerExpiry _ => true
  | .msixVectorUnmask _ => true
  | .d3hotEntry => true
  | .d0Return => true
  | .flr => true
  | .linkDown => true
  | .perst => true
  | .poisonedTlpReceive _ => true
  -- a read asks for at least a byte (R32)
  | .bar2Read _ len _ => decide (0 < len)
  -- a write carries at least a byte (R32)
  | .bar2Write _ data => decide (0 < data.length)
  -- sizes are 256 MiB to 128 GiB (R28)
  | .bar2Resize size => decide (1 ≤ size ∧ size ≤ 512)
  | .hifApHeadWrite _ _ _ => true
  -- an offset of BAR0 or, behind it, of configuration space (R28, R31)
  | .registerWrite _ off v => decide (off < 0x4001000 ∧ 0 < v.len)
  -- an offset of BAR0 or, behind it, of configuration space (R28, R31)
  | .rcFieldRead _ off same => decide (off < 0x4001000 ∧ 0 < same.len)
  | .nop _ => true
  | .devInfo _ => true
  | .devRingSet _ => true
  | .devRingClear _ => true
  | .devReefSet _ => true
  | .devStats _ => true
  | .devFaultRead _ => true
  | .devShutdown _ => true
  | .devResetCompute _ => true
  | .coreResetDelay => true
  | .devClientCfg _ => true
  | .partCreate _ => true
  | .partResize _ => true
  | .partDelete _ => true
  | .ctxCreate _ => true
  | .ctxDestroy _ => true
  | .contextScrubComplete _ => true
  | .ctxSuspend _ => true
  | .ctxResume _ => true
  | .ctxModeSet _ => true
  | .ctxQuery _ => true
  | .memAlloc _ => true
  | .memFree _ => true
  | .memScrubComplete _ _ => true
  | .memMapHost _ => true
  | .memUnmap _ => true
  | .memCopy _ => true
  | .memFill _ => true
  -- errors met by one transfer (R183)
  | .transferComplete _ errs _ => decide (errs.length < 4294967296)
  | .cleatAlloc _ => true
  | .cleatAllocRetry _ => true
  | .cleatRelease _ => true
  | .cleatScrubComplete _ => true
  | .residueHoldExpiry _ => true
  | .xltFaultReply _ => true
  | .xltFaultTimeout _ _ => true
  | .commonsSplit _ => true
  | .commonsSplitComplete => true
  | .prefetchCfg _ => true
  | .jobSubmit _ => true
  | .jobCancel _ => true
  | .jobQuery _ => true
  | .jobStats _ => true
  | .fenceSignal _ => true
  | .fenceWait _ => true
  | .seqOpen _ => true
  | .seqClose _ => true
  -- a directory entry (R225)
  | .kvPageScrubComplete idx => decide (idx < 524288)
  | .seqStep _ => true
  | .stepEnd _ => true
  | .seqPreempt _ => true
  -- a sequence (R64)
  | .swapOutComplete seq => decide (seq.seq < 4096)
  | .seqRestore _ => true
  -- a sequence (R64)
  | .swapInComplete seq => decide (seq < 4096)
  | .seqFork _ => true
  | .kvBucketsSet _ => true
  | .kvDirQuery _ => true
  | .streamOpen _ => true
  | .streamClose _ => true
  | .streamStart _ => true
  | .streamStop _ => true
  | .streamStopComplete _ => true
  | .streamResume _ => true
  | .streamSkip _ => true
  | .meshLoad _ => true
  | .jpegDecode _ => true
  | .jpegDecodeComplete _ => true
  | .halCfg _ => true
  | .halQuery _ => true
  | .planLoad _ => true
  | .planActivate _ => true
  | .planStartInstant _ => true
  | .planDeactivate _ => true
  | .planUnload _ => true
  | .planQuery _ => true
  | .qbvCfg _ => true
  | .qbvListChange _ => true
  | .qbvGateEvent _ => true
  | .plnStatus _ => true
  | .plnFaultRead _ => true
  | .trimTraceRead _ => true
  | .plnConfig _ => true
  | .plnModeSet _ => true
  | .trimTraceCfg _ => true
  | .twinLinkUp _ => true
  | .twinTrainingComplete _ => true
  | .twinModeSet _ => true
  -- a mode (R396)
  | .twinPeerModeRequest peer => decide (peer.mode ≤ 2)
  | .twinModeTimeout => true
  | .twinQuery _ => true
  | .twinHandover _ _ => true
  | .secAttest _ => true
  | .updOpen _ => true
  | .updBlock _ => true
  | .updBlockProgrammed _ => true
  | .updVerify _ => true
  | .updActivate _ => true
  | .updActivateInstant => true
  | .updAbort _ => true
  | .updQuery _ => true
  | .lcTransition _ => true
  | .dbgSession _ => true
  | .testRun _ => true
  | .testBlockComplete _ _ _ _ _ => true
  | .testResult _ => true
  | .loopbackSet _ => true
  | .testRotateCfg _ => true
  -- an index of a list (R64)
  | .cmdNop _ _ i => decide (i < 1048575)
  -- an index of a list (R64)
  | .cmdFenceSignal _ _ i => decide (i < 1048575)
  -- an index of a list (R64)
  | .cmdFenceWait _ _ i => decide (i < 1048575)
  -- an index of a list (R64)
  | .launchWait _ _ i => decide (i < 1048575)
  -- an index of a list (R64)
  | .launchWaitExpiry _ _ i => decide (i < 1048575)
  -- an index of a list (R64)
  | .load _ _ i _ => decide (i < 1048575)
  -- an index of a list (R64)
  | .store _ _ i _ => decide (i < 1048575)
  -- an index of a list (R64)
  | .fill _ _ i _ => decide (i < 1048575)
  -- an index of a list (R64)
  | .matmul _ _ i _ => decide (i < 1048575)
  -- an index of a list (R64)
  | .conv _ _ i _ => decide (i < 1048575)
  -- an index of a list (R64)
  | .attention _ _ i _ => decide (i < 1048575)
  -- an index of a list (R64)
  | .kvAppend _ _ i _ => decide (i < 1048575)
  -- an index of a list (R64)
  | .vector _ _ i _ => decide (i < 1048575)
  -- an index of a list (R64)
  | .transform _ _ i _ => decide (i < 1048575)
  -- an index of a list (R64)
  | .chisel _ _ i _ => decide (i < 1048575)
  -- an index of a list (R64)
  | .commandComplete _ _ i => decide (i < 1048575)
  -- a burst of PSM (R169)
  | .patrolRead addr _ => decide (addr < 103079215104)
  | .psmLinkCrcFail _ _ => true
  | .periodInstant _ => true
  -- a launch point (R64)
  | .launchList _ point => decide (point < 1024)
  | .tqPendingStart _ => true
  -- a launch point (R64)
  | .launchMover _ point => decide (point < 1024)
  -- a launch point (R64)
  | .moverDepStart _ point => decide (point < 1024)
  | .mailboxWrite _ _ => true
  -- a launch point (R64)
  | .launchSample _ point => decide (point < 1024)
  -- a launch point (R64)
  | .launchTelltale _ point => decide (point < 1024)
  -- a launch point (R64)
  | .telltaleWindowEnd _ point => decide (point < 1024)
  -- a launch point (R64)
  | .launchSelftest _ point => decide (point < 1024)
  | .sliceStart _ => true
  | .sliceEnd _ _ => true
  | .sliceGuardAbort _ => true
  | .testStarved _ => true
  | .dpSliceDue _ => true
  -- a launch point (R64)
  | .launchMonitor _ point => decide (point < 1024)
  | .monitorExpiry _ => true
  | .telltaleDigest _ => true
  | .schPlacementTimer => true
  | .saveDrainComplete _ _ => true
  | .contextSaveComplete _ _ _ => true
  | .contextRestoreComplete _ _ _ => true
  | .remoteDrainTimeout _ _ => true
  -- a remote read is at most 4 KiB (R386)
  | .remoteReadCompletion _ _ data => decide (data.data.length ≤ 4096)
  | .remoteAccessRequest _ _ _ _ => true
  | .mirroredFenceSignal _ _ _ _ => true
  | .shroudLinkDown => true
  -- a mailbox prefix is 16 bytes (R401)
  | .shrPrefixReceive ws => decide (ws.length = 4)
  -- a header outcome (R250)
  | .csiFrameStart _ vc => decide (vc.ecc ≤ 2)
  -- a data type and a header outcome (R249)
  | .csiLongPacket _ _ dtype _ ecc _ => decide (dtype < 64 ∧ ecc ≤ 2)
  -- a header outcome (R250)
  | .csiFrameEnd _ vc => decide (vc.ecc ≤ 2)
  -- a data type and a header outcome (R249)
  | .csiGenericShortPacket _ vc dtype => decide (dtype < 64 ∧ vc.ecc ≤ 2)
  | .csiPortSilence _ => true
  | .fsyncPulse _ => true
  -- an Ethernet frame (R258)
  | .ratlineFrameReceive _ data _ => decide (data.length ≤ 9022)
  -- an Ethernet frame (R294)
  | .ethFrameReceive _ data _ => decide (data.length ≤ 9022)
  | .feSampleTake _ _ => true
  -- a stream or a group (R262)
  | .setDeadlineExpiry _ i => decide (i < 32)
  -- a stream or a group (R273)
  | .batchCommit _ i => decide (i < 32)
  -- a depth grid has 80 by 50 cells (R267)
  | .bridgeDepthGrid _ grid _ => decide (grid.length = 4000)
  | .ptpSyncReceive _ _ => true
  -- an outcome of the best-master algorithm (R290)
  | .ptpAnnounceReceive _ ann => decide (ann.choice ≤ 2)
  | .syncReceiptTimeout _ => true
  | .announceTimeout _ => true
  -- an Ethernet frame (R298)
  | .ethFrameQueue _ _ data _ => decide (data.length ≤ 9022)
  | .ethFrameTransmit _ => true
  | .halManualStep _ _ => true
  | .halModeWrite _ _ => true
  | .halIncrWrite _ _ _ => true
  | .halSnapRead _ => true
  | .copyCheck _ => true
  | .bridgeTimeUpdate _ _ _ => true
  | .freeRunEntry => true
  | .freeRunLimit => true
  | .trimSampleInstant => true
  | .trimSampleStart => true
  | .trimWaitExpiry => true
  | .trimSampleEnd => true
  | .trimDeadlineExpiry => true
  | .maquetteStepInstant => true
  | .maquetteStepEnd => true
  | .maquetteDeadline => true
  | .maquetteKat => true
  | .ss1Stop => true
  | .lockstepMismatch => true
  | .plnSramError _ => true
  | .plnSupplyFault => true
  | .plnClockFault => true
  | .safeOutputMismatch _ => true
  | .testPulse _ _ => true
  | .plnRestartEdge => true
  | .restartWindowExpiry => true
  | .plnReset => true
  | .plinthBoot _ _ _ => true
  | .plinthBootTimeout => true
  -- a token is 32 bytes (R402)
  | .heartbeatTokenReceive ws => decide (ws.length = 8)
  -- a state block is at most 980 bytes (R402)
  | .stateBlockReceive ws => decide (ws.length ≤ 245)
  | .twinAliveEdge => true
  | .heartbeatCheck => true
  | .evcClaimRead _ _ => true
  | .evcEoiWrite _ _ _ => true
  | .evcSetWrite _ _ _ => true
  | .evcPendWrite _ _ _ _ => true
  | .evcBrgLatchWrite _ _ => true
  | .evcDisableWrite _ _ => true
  | .holdoffExpiry _ => true
  -- an offset of the SCH block (R391)
  | .schCounterRead _ off => decide (off.off < 0x100000 ∧ 0 < off.len)
  | .powerOnReset => true
  | .coreResetRelease _ => true
  | .bootTryTimeout => true
  | .coreRailFault => true
  | .coreRailGood => true
  | .watchdogExpiry => true
  | .cpwWdogWrite _ _ => true
  | .wake => true
  | .reef4Entry => true
  -- mW in 20 bits (R475)
  | .powerManagerUpdate power => decide (power < 1048576)
  | .thermalLevelTimer _ => true
  | .thermalShutdown _ => true
  -- a domain of the clock table (R463)
  | .alignEpoch _ dom => decide (1 ≤ dom ∧ dom ≤ 25)
  | .pllLockLoss _ => true
  | .storeWriteComplete _ => true
  | .secLockWrite _ _ => true
  | .svpHello _ => true
  | .svpManifest _ => true
  | .svpOpen _ => true
  | .svpData _ => true
  | .svpVerify _ => true
  | .svpActivate _ => true
  | .svpAbort _ => true
  | .svpLc _ => true
  | .svpProvision _ => true
  | .svpSessionTimeout => true
  | .ss0GraceExpiry => true
  | .thermalWarnCrossing _ => true
  | .ethLinkChange _ _ => true
  -- a negotiated rate and width (R65)
  | .pcieLinkUp rate width => decide (rate ≤ 4 ∧ (width = 1 ∨ width = 2 ∨ width = 4 ∨ width = 8))
  | .csiPhyLock _ _ => true
  | .updVerifyComplete => true
  | .updStagingComplete => true
  | .trimTraceReadComplete => true
  | .configObjectVerified => true
  | .meshLoadComplete _ => true
  -- an address of 48 bits (R424)
  | .debugMasterAccess addr _ => decide (addr < 0x1000000000000)

end Sys2Proof
end

