-- ==== Sys2Proof/Tests/Slice0.lean ====
section
/-! SUPPORT. Tests: an ill-formed command for each check of WellFormed, small steps with the results the spec states, and for
every statement with hypotheses a state and operands that meet them. -/

namespace Sys2Proof.Tests

open Sys2Proof Sys2Proof.Machine

set_option Elab.async false

/-! ### Ill-formed commands -/

theorem test_slotWrite_illFormed : Instr.wellFormed (.slotWrite 0 0xC000 [0] true) = false := by decide
theorem test_bar2Read_illFormed : Instr.wellFormed (.bar2Read 0 0 []) = false := by decide
theorem test_bar2Write_illFormed : Instr.wellFormed (.bar2Write 0 []) = false := by decide
theorem test_bar2Resize_illFormed : Instr.wellFormed (.bar2Resize 513) = false := by decide
theorem test_registerWrite_illFormed : Instr.wellFormed (.registerWrite 0 0x4001000 ⟨0, 4, 0⟩) = false := by decide
theorem test_registerWrite_len_illFormed : Instr.wellFormed (.registerWrite 0 0 ⟨0, 0, 0⟩) = false := by decide
theorem test_rcFieldRead_illFormed : Instr.wellFormed (.rcFieldRead 0 0x4001000 ⟨4, 0⟩) = false := by decide
theorem test_rcFieldRead_len_illFormed : Instr.wellFormed (.rcFieldRead 0 0 ⟨0, 0⟩) = false := by decide
theorem test_transferComplete_illFormed : Instr.wellFormed (.transferComplete 0 (List.replicate 4294967296 { addr := 0, kind := .row }) []) = false := by simp only [Instr.wellFormed, List.length_replicate]; decide
theorem test_kvPageScrubComplete_illFormed : Instr.wellFormed (.kvPageScrubComplete 524288) = false := by decide
theorem test_swapOutComplete_illFormed : Instr.wellFormed (.swapOutComplete ⟨4096, []⟩) = false := by decide
theorem test_swapInComplete_illFormed : Instr.wellFormed (.swapInComplete 4096) = false := by decide
theorem test_twinPeerModeRequest_illFormed : Instr.wellFormed (.twinPeerModeRequest { mode := 3 }) = false := by decide
theorem test_cmdNop_illFormed : Instr.wellFormed (.cmdNop 0 0 1048575) = false := by decide
theorem test_cmdFenceSignal_illFormed : Instr.wellFormed (.cmdFenceSignal 0 0 1048575) = false := by decide
theorem test_cmdFenceWait_illFormed : Instr.wellFormed (.cmdFenceWait 0 0 1048575) = false := by decide
theorem test_launchWait_illFormed : Instr.wellFormed (.launchWait 0 0 1048575) = false := by decide
theorem test_launchWaitExpiry_illFormed : Instr.wellFormed (.launchWaitExpiry 0 0 1048575) = false := by decide
theorem test_commandComplete_illFormed : Instr.wellFormed (.commandComplete 0 0 1048575) = false := by decide
theorem test_load_illFormed : Instr.wellFormed (.load 0 0 1048575 {}) = false := by decide
theorem test_store_illFormed : Instr.wellFormed (.store 0 0 1048575 {}) = false := by decide
theorem test_fill_illFormed : Instr.wellFormed (.fill 0 0 1048575 {}) = false := by decide
theorem test_matmul_illFormed : Instr.wellFormed (.matmul 0 0 1048575 {}) = false := by decide
theorem test_conv_illFormed : Instr.wellFormed (.conv 0 0 1048575 {}) = false := by decide
theorem test_attention_illFormed : Instr.wellFormed (.attention 0 0 1048575 {}) = false := by decide
theorem test_kvAppend_illFormed : Instr.wellFormed (.kvAppend 0 0 1048575 {}) = false := by decide
theorem test_vector_illFormed : Instr.wellFormed (.vector 0 0 1048575 {}) = false := by decide
theorem test_transform_illFormed : Instr.wellFormed (.transform 0 0 1048575 {}) = false := by decide
theorem test_chisel_illFormed : Instr.wellFormed (.chisel 0 0 1048575 {}) = false := by decide
theorem test_patrolRead_illFormed : Instr.wellFormed (.patrolRead 103079215104 []) = false := by decide
theorem test_launchList_illFormed : Instr.wellFormed (.launchList 0 1024) = false := by decide
theorem test_launchMover_illFormed : Instr.wellFormed (.launchMover 0 1024) = false := by decide
theorem test_moverDepStart_illFormed : Instr.wellFormed (.moverDepStart 0 1024) = false := by decide
theorem test_launchSample_illFormed : Instr.wellFormed (.launchSample 0 1024) = false := by decide
theorem test_launchTelltale_illFormed : Instr.wellFormed (.launchTelltale 0 1024) = false := by decide
theorem test_telltaleWindowEnd_illFormed : Instr.wellFormed (.telltaleWindowEnd 0 1024) = false := by decide
theorem test_launchSelftest_illFormed : Instr.wellFormed (.launchSelftest 0 1024) = false := by decide
theorem test_launchMonitor_illFormed : Instr.wellFormed (.launchMonitor 0 1024) = false := by decide
theorem test_remoteReadCompletion_illFormed : Instr.wellFormed (.remoteReadCompletion 0 0 { data := List.replicate 4097 0 }) = false := by simp only [Instr.wellFormed, List.length_replicate]; decide
theorem test_shrPrefixReceive_illFormed : Instr.wellFormed (.shrPrefixReceive [0, 0, 0]) = false := by decide
theorem test_csiLongPacket_illFormed : Instr.wellFormed (.csiLongPacket 0 0 64 [] 0 true) = false := by decide
theorem test_csiLongPacket_ecc_illFormed : Instr.wellFormed (.csiLongPacket 0 0 0 [] 3 true) = false := by decide
theorem test_csiGenericShortPacket_illFormed : Instr.wellFormed (.csiGenericShortPacket 0 ⟨0, 0⟩ 64) = false := by decide
theorem test_csiGenericShortPacket_ecc_illFormed : Instr.wellFormed (.csiGenericShortPacket 0 ⟨0, 3⟩ 0) = false := by decide
theorem test_csiFrameStart_illFormed : Instr.wellFormed (.csiFrameStart 0 ⟨0, 3⟩) = false := by decide
theorem test_csiFrameEnd_illFormed : Instr.wellFormed (.csiFrameEnd 0 ⟨0, 3⟩) = false := by decide
theorem test_ratlineFrameReceive_illFormed : Instr.wellFormed (.ratlineFrameReceive 0 (List.replicate 9023 0) ⟨true, 0⟩) = false := by simp only [Instr.wellFormed, List.length_replicate]; decide
theorem test_ethFrameReceive_illFormed : Instr.wellFormed (.ethFrameReceive 0 (List.replicate 9023 0) ⟨true, 0⟩) = false := by simp only [Instr.wellFormed, List.length_replicate]; decide
theorem test_setDeadlineExpiry_illFormed : Instr.wellFormed (.setDeadlineExpiry true 32) = false := by decide
theorem test_batchCommit_illFormed : Instr.wellFormed (.batchCommit true 32) = false := by decide
theorem test_bridgeDepthGrid_illFormed : Instr.wellFormed (.bridgeDepthGrid 0 [] true) = false := by decide
theorem test_ptpAnnounceReceive_illFormed : Instr.wellFormed (.ptpAnnounceReceive 0 { choice := 3 }) = false := by decide
theorem test_ethFrameQueue_illFormed : Instr.wellFormed (.ethFrameQueue 0 0 (List.replicate 9023 0) false) = false := by simp only [Instr.wellFormed, List.length_replicate]; decide
theorem test_heartbeatTokenReceive_illFormed : Instr.wellFormed (.heartbeatTokenReceive [0]) = false := by decide
theorem test_stateBlockReceive_illFormed : Instr.wellFormed (.stateBlockReceive (List.replicate 246 0)) = false := by simp only [Instr.wellFormed, List.length_replicate]; decide
theorem test_schCounterRead_illFormed : Instr.wellFormed (.schCounterRead 0 ⟨0x100000, 4⟩) = false := by decide
theorem test_schCounterRead_len_illFormed : Instr.wellFormed (.schCounterRead 0 ⟨0, 0⟩) = false := by decide
theorem test_powerManagerUpdate_illFormed : Instr.wellFormed (.powerManagerUpdate 1048576) = false := by decide
theorem test_alignEpoch_illFormed : Instr.wellFormed (.alignEpoch true 0) = false := by decide
theorem test_alignEpoch_last_illFormed : Instr.wellFormed (.alignEpoch true 26) = false := by decide
theorem test_pcieLinkUp_illFormed : Instr.wellFormed (.pcieLinkUp 5 4) = false := by decide
theorem test_pcieLinkUp_width_illFormed : Instr.wellFormed (.pcieLinkUp 1 3) = false := by decide
theorem test_debugMasterAccess_illFormed : Instr.wellFormed (.debugMasterAccess 0x1000000000000 none) = false := by decide

/-! ### Small states -/

/-- An access table that opens every space to every master. -/
def openTable : List (Nat × AccEntry) :=
  (List.range 3).map fun k => (k, { base := 0, space := k, limit := 2 ^ 48 - 1, rmask := BitVec.allOnes 64, wmask := BitVec.allOnes 64 })

/-- A device that is READY: firmware runs, ring 0 stands at 0x1000 with 16 records, context 1 of client 0 in partition 0,
which has every engine, and the access table open. -/
def ready : State :=
  { State.reset with
    dev := devReady
    hif := { ready := true, apEnable := 1, rings := [(0, { registered := true, addr := 0x1000, k := 4 })] }
    cpw := { State.reset.cpw with coreOn := true, coreHeld := false }
    sec := { State.reset.sec with table := openTable, locked := true }
    partitions := [(0, { present := true, mask := 0xFF })]
    ctxs := [(1, { present := true, cls := 0, mask := 0xFF, mask0 := 0xFF })] }

/-- A packet. -/
def pk (op : Nat) (ctx : Nat := 255) (params : List Word := []) (expert : Bool := false) : Packet :=
  { hdr := { opcode := op, ctx := ctx, expert := expert }, params := params }

/-- A state whose one taken packet is `p`. -/
def on (s : State) (p : Packet) : State := { s with taken := [p] }

/-- The one taken packet applies. -/
theorem applies (op : Nat) (s : State) (p : Packet)
    (h : p.op = op ∧ p.waiting = false ∧ (on s p).mustWait 0 p = false ∧ ((on s p).without 0).objection p = none ∧
      ((on s p).without 0).bar p = none) : Applies op 0 p (on s p) := ⟨⟨rfl, h.1, h.2.1, h.2.2.1⟩, h.2.2.2⟩

/-- The one taken packet is due. -/
theorem due (op : Nat) (s : State) (p : Packet) (h : p.op = op ∧ p.waiting = false ∧ (on s p).mustWait 0 p = false) :
    Due op 0 p (on s p) := ⟨rfl, h⟩

/-! ### Witnesses of the statements' hypotheses -/

theorem witness_StepTakesFront : ({ State.reset with pending := [.wake] } : State).pending = Instr.wake :: [] := rfl

theorem witness_EmptyQueueTicks :
    (State.reset.pending = [] ∧ State.reset.halRuns = false) ∧ (ready.pending = [] ∧ ready.halRuns = true ∧ ready.hal.pend = []) := by
  decide

theorem witness_StepKeepsInvariant :
    let s : State := { ready with pending := [.d3hotEntry] }
    Inv s ∧ step s = .next { ready with hif := { ready.hif with d3hot := true } } :=
  ⟨⟨by unfold memOk; decide, by unfold devOk; decide, by unfold modeOk; decide, by unfold rateOk; decide,
    fun _ h => absurd h List.not_mem_nil⟩, rfl⟩

theorem witness_RefusedPacketsOnlyReply :
    let p := { pk 0x110 with hdr := { opcode := 0x110, ap := 5, ctx := 255 } }
    let q : Packet := { hdr := { opcode := 0x302, ctx := 1, cls := 2 } }
    (packetOf (.ctxCreate 0) = some (0x110, 0) ∧ Barred 0x110 0 p (stAuth, 0, 0) (on ready p) ∧ ¬ updHeld 0x110 (on ready p)) ∧
    (packetOf (.jobQuery 0) = some (0x302, 0) ∧ Turned 0x302 0 q (stFormat, det 2 16, 0) (on ready q) ∧ ¬ updHeld 0x302 (on ready q)) :=
  ⟨⟨rfl, ⟨due _ _ _ (by decide), by decide⟩, fun h => absurd h.1 (by decide)⟩,
    ⟨rfl, ⟨due _ _ _ (by decide), by decide⟩, fun h => absurd h.1 (by decide)⟩⟩

/-- A packet for each clause: a supervisor's opcode from aperture 3; a class the client may not use; no such context; another
client's context; another class than the context's; a device state that does not allow the opcode, with and without context. -/
theorem witness_AdmissionOrder :
    let p1 : Packet := { hdr := { opcode := 0x100, ap := 3, ctx := 255 } }
    let p2 : Packet := { hdr := { opcode := 0x000, ap := 3, ctx := 255 } }
    let p3 := pk 0x300 63
    let s4 : State := { ready with ctxs := [(0, { present := true, cls := 0, client := 15 })] }
    let p5 : Packet := { hdr := { opcode := 0x300, ctx := 1, cls := 2 } }
    let s6 : State := { ready with dev := devFaulted }
    (packetOf (.partCreate 0) = some (0x100, 0) ∧ Due 0x100 0 p1 (on ready p1) ∧ ¬ updHeld 0x100 (on ready p1) ∧ opSupervisor 0x100 = true ∧ p1.hdr.ap ≠ 0) ∧
    (Due 0 0 p2 (on ready p2) ∧ ¬ updHeld 0 (on ready p2) ∧ ¬ (opSupervisor 0 = true ∧ p2.hdr.ap ≠ 0) ∧ ((on ready p2).client 3).classes.getLsbD 0 = false) ∧
    (Due 0x300 0 p3 (on ready p3) ∧ ((on ready p3).client 0).classes.getLsbD 0 = true ∧ ((on ready p3).ctx 63).present = false ∧ (on ready p3).devLegal p3 = true) ∧
    (Due 0x300 0 (pk 0x300 0) (on s4 (pk 0x300 0)) ∧ (s4.ctx 0).present = true ∧ (s4.ctx 0).client ≠ 0 ∧ ¬ (opIsQuery 0x300 = true ∨ opEnds 0x300 = true)) ∧
    (Due 0x300 0 p5 (on ready p5) ∧ ((on ready p5).ctx 1).client = 0 ∧ ((on ready p5).ctx 1).cls ≠ 2) ∧
    (Due 0x300 0 (pk 0x300 1) (on s6 (pk 0x300 1)) ∧ (s6.ctx 1).client = 0 ∧ (s6.ctx 1).cls = 0 ∧ s6.devLegal (pk 0x300 1) = false) ∧
    (Due 0x009 0 (pk 0x009) (on s6 (pk 0x009)) ∧ s6.devLegal (pk 0x009) = false) :=
  ⟨⟨rfl, due _ _ _ (by decide), fun h => absurd h.1 (by decide), by decide, by decide⟩,
    ⟨due _ _ _ (by decide), fun h => absurd h.1 (by decide), by decide, by decide⟩,
    ⟨due _ _ _ (by decide), by decide, by decide, by decide⟩,
    ⟨due _ _ _ (by decide), by decide, by decide, by decide⟩,
    ⟨due _ _ _ (by decide), by decide, by decide⟩,
    ⟨due _ _ _ (by decide), by decide, by decide, by decide⟩,
    ⟨due _ _ _ (by decide), by decide⟩⟩

/-- Packet 1 waits behind packet 0 of the same context; with ORDERED behind one of its aperture, taken or open. -/
theorem witness_WaitingPackets :
    let p := pk 0x302 1
    let q := pk 0x000
    let o : Packet := { hdr := { opcode := 0x302, ctx := 63, ordered := true, no := 1 } }
    let s1 : State := { ready with taken := [p, p] }
    let s2 : State := { ready with taken := [q, o] }
    let s3 : State := { ready with taken := [q, o], opens := [{ hdr := { opcode := 0x203, no := 0 } }] }
    (packetOf (.jobQuery 1) = some (0x302, 1) ∧ s1.taken[1]? = some p ∧ s1.taken[0]? = some p ∧ p.waiting = false ∧ p.object ≠ none) ∧
    (s2.taken[1]? = some o ∧ s2.taken[0]? = some q ∧ o.hdr.ordered = true ∧ q.hdr.ap = o.hdr.ap) ∧
    (s3.taken[1]? = some o ∧ ∃ x ∈ s3.opens, x.hdr.ap = o.hdr.ap ∧ x.hdr.no < o.hdr.no) := by
  refine ⟨?_, ?_, rfl, _, List.mem_cons_self, ?_⟩ <;> decide

/-- The last word that fits a slot (4,094 words), and the largest payload. -/
theorem witness_SlotWriteExaminesTheSlot :
    ready.hif.d3hot = false ∧ 4 * (List.replicate 32 (0 : Word)).length ≤ ready.hif.maxPayload ∧ ready.apOn 0 = true ∧
      ((ready.ap 0).slot 2).busy = false ∧ 4062 + (List.replicate 32 (0 : Word)).length ≤ 4094 := by decide

/-- A write in D3hot; one longer than the payload; one just past the slots. -/
theorem witness_HostWritesTurnedAway :
    ({ ready with hif := { ready.hif with d3hot := true } } : State).hif.d3hot = true ∧
    ready.hif.maxPayload < 4 * (List.replicate 33 (0 : Word)).length ∧
    (ready.hif.d3hot = false ∧ 4 * [(0 : Word)].length ≤ ready.hif.maxPayload ∧ (0xC000 : Nat) ≤ 0xC000 ∧ 4094 < 0x3FFC % 0x4000 / 4 + 1) := by
  decide

/-- NOP sealed in slot 0 of aperture 0, with its CRC; the same with a wrong seal; a refusal that waits. -/
def nopWords : List Word := [0x10050000, 7, 0xFF, 0, crcWords [0x10050000, 7, 0xFF, 0]]

/-- The state with a snapshot in slot 0 of aperture 0. -/
def sealedWith (ws : List Word) (r : Option RefusalInfo := none) : State :=
  { ready with hif := { ready.hif with apertures := [(0, { slot0 := { snap := some ws, busy := true, refuse := r } })] } }

theorem witness_IntakeTakesPackets :
    let s := sealedWith nopWords
    let b := sealedWith [0x10050000, 7, 0xFF, 0, 0]
    ((s.ap 0).slot 0).snap = some nopWords ∧ s.hif.pause = false ∧ s.hif.ready = true ∧ s.hif.d3hot = false ∧ s.nextSlot 0 = some 0 ∧
    s.turnOf 0 = true ∧ s.intakeCheck 0 nopWords = none ∧ (s.taken.filter fun p => p.hdr.ap = 0).length < 64 ∧ 0 < (s.ring 0).holdFree ∧
    (b.nextSlot 0 = some 0 ∧ b.turnOf 0 = true ∧ b.intakeCheck 0 [0x10050000, 7, 0xFF, 0, 0] = some (stSeal, 0, 0)) ∧
    State.reset.hif.ready = false ∧
    ((({ sealedWith nopWords (some {}) with dev := 2 } : State).ap 0).slot 0).refuse = some {} := by decide +kernel

theorem witness_ReplyRecordLayout :
    let r : Reply := { hdr := { opcode := 0xFFF, ap := 15, ctx := 255 }, status := 255, fault := 0xFFFF }
    r.status < 2 ^ 8 ∧ r.hdr.opcode < 2 ^ 12 ∧ r.hdr.ap < 2 ^ 4 ∧ r.hdr.ctx < 2 ^ 8 ∧ r.fault < 2 ^ 16 := by decide

/-- A ring of 16 with one record waiting: at the last place, where the phase turns; full; empty. -/
theorem witness_ReplyRingKeepsItsOrder :
    let s : State := { ready with hif := { ready.hif with rings := [(0, { registered := true, k := 4, head := 1, tail := 15, wait := [{}] })] } }
    let f : State := { ready with hif := { ready.hif with rings := [(0, { registered := true, k := 4, head := 0, tail := 15, wait := [{}] })] } }
    ((s.ring 0).wait = {} :: [] ∧ (s.ring 0).registered = true ∧ ((s.ring 0).tail + 1) % 2 ^ 4 ≠ (s.ring 0).head ∧ s.hif.d3hot = false) ∧
    ((f.ring 0).tail + 1) % 2 ^ (f.ring 0).k = (f.ring 0).head ∧ (ready.ring 0).wait = [] ∧
    (s.apOn 0 = true ∧ s.underTest 0x40C010 = false ∧ s.allowed 0 1 0x40C010 4 true = true ∧ s.underTest 0x40C028 = false ∧ s.allowed 0 1 0x40C028 4 true = true) := by
  decide

theorem witness_MessagesAreSentOrHeld :
    ready.hif.d3hot = false ∧ ({ ready with hif := { ready.hif with d3hot := true } } : State).hif.d3hot = true := by decide

/-- Off BAR2; refused by the table; the last byte of BAR2, readable; an uncorrectable burst; a write that covers part of it. -/
theorem witness_Bar2ReachesPsm :
    let s : State := { ready with hif := { ready.hif with bar2Enable := true } }
    let u : State := { s with psmc := { s.psmc with uncorr := [0] } }
    let t : State := { s with sec := { s.sec with table := [] } }
    let a : Nat := 2 ^ 28 - 1
    (ready.hif.bar2Enable = false) ∧
    (¬ (s.hif.d3hot = true ∨ s.hif.bar2Enable = false ∨ s.hif.bar2Size * 2 ^ 28 < a + 1 ∨ 96 * 2 ^ 30 < s.hif.bar2Base * 2 ^ 28 + a + 1)) ∧
    (t.allowed t.hif.bar2Master 0 a 1 false = false ∧ t.allowed t.hif.bar2Master 0 a 1 true = false) ∧
    (s.allowed s.hif.bar2Master 0 a 1 false = true ∧ (s.eccRead s.hif.bar2Master 63 [] a 1).2 = none) ∧
    (u.allowed u.hif.bar2Master 0 0 1 false = true ∧ (u.eccRead u.hif.bar2Master 63 [] 0 1).2 ≠ none) ∧
    (s.allowed s.hif.bar2Master 0 a 1 true = true ∧ s.eccPartial a 1 = none) ∧
    (u.allowed u.hif.bar2Master 0 0 1 true = true ∧ u.eccPartial 0 1 ≠ none) := by decide

theorem witness_SchCountersLatch :
    Granted 0 (0x2400000 + 0x100) false ready ∧ Granted 0 (0x2400000 + (0x100 + 4)) false ready ∧
      Granted 63 (0x2400000 + (0x100 + 0x40 * 15 + 0x14)) false ready ∧ Granted 63 (0x2400000 + (0x100 + 0x40 * 15 + 0x14 + 4)) false ready := by
  unfold Granted; decide

/-- A misaligned offset, an access of 64 bits, the processors' registers, D3hot; a refused offset; a read-only block; a register
the host may not write; each register named, and the last entry of the access table. -/
theorem witness_RegisterWritesGoWhereTheMapSays :
    let t : State := { ready with sec := { ready.sec with table := [] } }
    let d : State := { ready with hif := { ready.hif with d3hot := true } }
    let plain := fun (off : Nat) => off < cfgBase ∧ slotOff off = false ∧ headOff off = false
    (plain 0x300009 ∧ barBad 0x300009 4 = true ∧ plain 0x300008 ∧ barBad 0x300008 8 = true ∧ plain 0x100338 ∧ evcKept 0x100338 = true ∧
      d.hif.d3hot = true) ∧
    (barBad 0x300008 4 = false ∧ evcKept 0x300008 = false ∧ Denied 0 0x300008 true t) ∧
    (plain 0x2400000 ∧ barBad 0x2400000 4 = false ∧ Granted 0 0x2400000 true ready ∧ barReadOnly 0x2400000 = true) ∧
    (plain 0x100180 ∧ barBad 0x100180 4 = false ∧ evcKept 0x100180 = false ∧ Granted 0 0x100180 true ready ∧ evcShut 0x100180 = true) ∧
    (Granted 0 0x300008 true ready ∧ barReadOnly 0x300008 = false ∧ evcShut 0x300008 = false ∧ Granted 0 0x30000C true ready ∧
      Granted 0 0x200010 true ready ∧ Granted 0 0x200030 true ready ∧ Granted 0 0x2700018 true ready) ∧
    (Granted 0 (0x2501000 + 32 * 127) true ready ∧ Granted 0 0x2501000 true { ready with sec := { ready.sec with locked := false } }) := by
  unfold Granted Denied; decide

theorem witness_EventsOfTheSameCycleAreKept :
    Granted 0 0x2700008 false ready ∧ Granted 0 0x22000A0 false ready ∧ Granted 0 0x200000 true ready ∧ Granted 0 0x2700024 true ready ∧
      Granted 20 (0x100140 + 4 * 15) true ready ∧ evcNamed 448 = true := by
  unfold Granted; decide

/-- Closed life-cycle state; a place that holds no word; PSM's first word, open in FIELD_DEBUG with a session. -/
theorem witness_DebugMasterReadsAndWrites :
    let s : State := { ready with sec := { ready.sec with lc := 1 } }
    ready.dbgOpen false = false ∧
    (s.dbgOpen false = true ∧ s.dbgOpen true = true ∧ s.allowed 47 0 0 4 false = true ∧ s.allowed 47 0 0 4 true = true ∧ s.devWord 0 = true ∧
      s.psmc.uncorr.contains (burstOf 0) = false ∧ s.psmc.spmUncorr.contains (burstOf 0) = false ∧ s.inScrub 0 = false) ∧
    (s.devWord (96 * 2 ^ 30) = false ∧ s.allowed 47 0 (96 * 2 ^ 30) 4 true = true) := by decide

/-- Each packet of a list, the one taken packet of the state, applies. -/
theorem allApply (s : State) (l : List Packet)
    (h : ∀ p ∈ l, p.waiting = false ∧ (on s p).mustWait 0 p = false ∧ ((on s p).without 0).objection p = none ∧
      ((on s p).without 0).bar p = none) :
    ∀ p ∈ l, Applies p.op 0 p (on s p) := fun p m => applies p.op s p ⟨rfl, h p m⟩

theorem witness_DeviceQueriesReport :
    ∀ p ∈ [pk 0x000, pk 0x001, pk 0x005, pk 0x006, pk 0x701, pk 0x700, pk 0x802], Applies p.op 0 p (on ready p) :=
  allApply _ _ (by decide +kernel)

theorem witness_ObjectQueriesReport :
    (∀ p ∈ [pk 0x115 1, pk 0x302 1, pk 0x303 1, pk 0x411, pk 0x411 255 [0x80000], pk 0x601, pk 0x614, pk 0xA01, pk 0x906],
      Applies p.op 0 p (on ready p)) ∧ (pk 0x411).f 4 19 19 = 0 ∧ (pk 0x411 255 [0x80000]).f 4 19 19 ≠ 0 :=
  ⟨allApply _ _ (by decide +kernel), by decide⟩

theorem witness_RingsAndClientsAreConfigured :
    ∀ p ∈ [pk 0x002, pk 0x003, pk 0x009], Applies p.op 0 p (on ready p) := allApply _ _ (by decide +kernel)

theorem witness_PartitionsAreCreatedResizedDeleted :
    ∀ p ∈ [pk 0x100, pk 0x101, pk 0x102], Applies p.op 0 p (on ready p) := allApply _ _ (by decide +kernel)

theorem witness_ResetsLeaveWhatTheSpecKeeps :
    let s : State := { ready with cpw := { ready.cpw with wdog := 1, resetDue := true } }
    (s.cpw.coreOn = true ∧ s.cpw.wdog ≠ 0 ∧ s.cpw.resetDue = true) ∧
      ({ ready with cpw := { ready.cpw with coreOn := false } } : State).cpw.coreOn = false ∧ State.reset.cpw.wdog = 0 ∧
      State.reset.cpw.resetDue = false ∧ 7 ≤ (7 : Fin 9).val := by decide

theorem witness_DeviceIsResetAndItsLevelSet :
    (∀ p ∈ [pk 0x004, pk 0x008], Applies p.op 0 p (on ready p)) ∧
      ({ ready with cpw := { ready.cpw with reefDue := true } } : State).cpw.reefDue = true ∧ ready.cpw.reefDue = false :=
  ⟨allApply _ _ (by decide +kernel), by decide⟩

/-- The core island powered and held; a part not provisioned; one with no image; one with an image that passes. -/
theorem witness_BootStartsTheDevice :
    let h : State := { State.reset with cpw := { State.reset.cpw with coreOn := true, coreHeld := true } }
    let n : State := { h with sec := { h.sec with lc := 1 } }
    let s1 : State := ({ h with sec := { h.sec with lc := 0 }, cpw := { h.cpw with coreHeld := false, flashRst := true, ethRst := true } } : State).storeLoad
    let n1 : State := ({ n with cpw := { n.cpw with coreHeld := false, flashRst := true, ethRst := true } } : State).storeLoad
    (h.cpw.coreOn = true ∧ h.cpw.coreHeld = true ∧ h.cpw.railBad = false ∧ h.store.writing = none) ∧ ready.cpw.coreHeld = false ∧
    s1.sec.lc = 0 ∧ (n1.sec.lc ≠ 0 ∧ n1.sec.lc ≠ 6 ∧ n1.bootChoice { activeOk := false, otherOk := false } = none ∧ n1.bootChoice {} = some (0, false)) ∧
    (n1.store.cur.tries = 0 ∧ (ready.hif.ready = true)) ∧
    (let t : State := { ready with hif := { ready.hif with ready := false }, dev := devInit
                                   store := { ready.store with cur := { tries := 1 } } }
     t.cpw.coreHeld = false ∧ t.store.cur.tries ≠ 0 ∧ t.hif.ready = false ∧ t.cpw.coreOn = true ∧ t.dev = devInit) ∧
    (6 : Fin 9).val < 7 ∧ 0 < (6 : Fin 9).val ∧ (ready.cpw.coreOn = true ∧ ready.cpw.coreHeld = false) := by decide +kernel

/-- `ready` with slot 0 of engine 0. -/
def inSlot (x : Eslot) (y : Engine := {}) : State := { ready with engines := [(0, { y with slot0 := x })] }

/-- Context 1 as `ready` has it, changed. -/
def with1 (s : State) (f : Ctx → Ctx) : State := { s with ctxs := [(1, f (s.ctx 1))] }

/-- A TT partition, and the packet that creates a context there; a DP context, pinned and not; a context to destroy, to scrub and
whose mode is set. -/
theorem witness_ContextsAreCreatedAndDestroyed :
    let t := with1 ready fun x => { x with scrubbing := true }
    let z : Packet := { hdr := { opcode := 0x110, cls := 2, ctx := 255, expert := true }, params := [0, 0x101] }
    let tt : State := { ready with partitions := [(0, { present := true, mask := 0xFF, tt := true })] }
    let dp : State := with1 ready fun x => { x with cls := 2 }
    let m : Packet := { hdr := { opcode := 0x114, cls := 2, ctx := 1 }, params := [1] }
    let new : Packet → Ctx := fun p => { present := true, client := 0, cls := 2, mask := p.f 5 7 0, mask0 := p.f 5 7 0, pinned := true, hdr := p.hdr, saveLen := secBytes }
    let made : State := ((on ready z).without 0).setCtx 0 (new z)
    let free : State → Prop := fun s => ctxNos.find? (fun i => !(s.ctx i).present) = some 0 ∧ s.heldBy 0 < (s.client 0).maxCtx
    ((∀ p ∈ [pk 0x110, pk 0x111 1, pk 0x114 1], Applies p.op 0 p (on ready p)) ∧
      ((t.ctx 1).scrubbing = true ∧ t.scrubWaits 1 = false) ∧ ((with1 t fun x => { x with jobs := [(0, [{}])] }).ctx 1).scrubbing = true ∧
      (with1 t fun x => { x with jobs := [(0, [{}])] }).scrubWaits 1 = true ∧ (ready.ctx 1).scrubbing = false) ∧
    (Applies 0x110 0 (pk 0x110) (on tt (pk 0x110)) ∧ free (on tt (pk 0x110)) ∧ engNos.all ((on tt (pk 0x110)).pinRoom true) = true) ∧
    (Applies 0x110 0 z (on ready z) ∧ free (on ready z) ∧ z.hdr.cls ≠ 0 ∧ (z.f 5 8 8 = 1 ∧ z.hdr.ap = 0 ∧ [0].all ((on ready z).pinRoom false) = true) ∧
      ((z.w 6).toNat + 2 ^ 32 * z.f 7 15 0 = 0) ∧ (∃ va, made.vaTakeTop 0 secBytes 65536 = some va ∧ (made.saveArea 0 va secBytes).isSome = true)) ∧
    ([0x20, 0x21, 0x22, 0x23].contains (ready.ctxCode 1) = true ∧ (ready.planOf 1 [0x52, 0x53] = none)) ∧
    ((t.ctx 1).maps = [] ∧ (t.opens.filter (scrubbedOpen 1)) = [] ∧ (t.opens.find? fun o => o.hdr.opcode == 0x111 && o.hdr.ctx == 1) = none) ∧
    (Applies 0x114 0 m (on dp m) ∧ m.f 4 0 0 = 1 ∧ (dp.ctx 1).cls ≠ 0 ∧ dp.ctxCode 1 = 0x20 ∧ dp.ctxHasJobs 1 = false) :=
  ⟨⟨allApply _ _ (by decide +kernel), by decide +kernel⟩, ⟨applies _ _ _ (by decide +kernel), by decide +kernel⟩,
    ⟨applies _ _ _ (by decide +kernel), by decide +kernel, by decide, by decide +kernel, by decide, _, rfl, by decide +kernel⟩,
    by decide +kernel, by decide +kernel, ⟨applies _ _ _ (by decide +kernel), by decide +kernel⟩⟩

theorem witness_SuspensionsSaveAndResume :
    let s := inSlot { ctx := some 1, draining := true }
    (∀ p ∈ [pk 0x112 1, pk 0x113 1], Applies p.op 0 p (on ready p)) ∧
      ((ready.engine 0).slot 0).ctx = none ∧ (((s.engine 0).slot 0).ctx = some 1 ∧ ((s.engine 0).slot 0).draining = true) :=
  ⟨allApply _ _ (by decide +kernel), by decide⟩

/-- Nothing under way; a save held by a fault; one whose hold set's residue differs; a save of no cleat; one whose cleat's word is uncorrectable; one whose section is
not mapped, and one whose page holds an uncorrectable burst; a restore without a mover; a restore of no cleat. -/
theorem witness_GroupsAreSavedAndRestored :
    let x : Eslot := { ctx := some 1, saving := true, mover := some 0 }
    let s := inSlot x
    let h := with1 s fun y => { y with faults := [{ save := true, job := switchJob 0 0 }] }
    let y : Engine := { cleats := [(0, { state := 1, owner := 1, banks := 1, size := 1 })] }
    let g := inSlot x y
    let pieces := ((g.liveGroup 1 0).flatMap fun p => p.2.pieces 0 0 (64 * p.2.size))
    let n := ((pieces.getD 0 (0, 0)).1) / 64 * 64
    let bad : State := { g with psmc := { g.psmc with spmUncorr := [n] } }
    let u : State := { with1 g fun y => { y with maps := [{ va := 0, len := 4096, runs := [{ va := 0, pa := 0x1000, len := 4096 }] }] } with
      psmc := { g.psmc with uncorr := [0x1000] }, xlt := { g.xlt with tlbs := [(mMover 0, [(0, { ctx := 1, lo := 0, len := 4096 })])] } }
    let w := inSlot x { qs := [(0, { hold := { held := true, m := 1 } })] }
    let r := inSlot { restoring := some 1 }
    let d := with1 (inSlot { restoring := some 1, mover := some 0 }) fun y => { y with saved := [{ present := true }] }
    (((ready.engine 0).slot 0).ctx = none ∧ ((ready.engine 0).slot 0).restoring = none) ∧
    (((h.engine 0).slot 0).ctx = some 1 ∧ ((h.engine 0).slot 0).saving = true ∧ h.switchHeld 1 0 0 = true) ∧
    (w.switchHeld 1 0 0 = false ∧ ((w.engine 0).qs' 0).hold.held = true ∧ ([0].any fun i => decide (i < ((w.engine 0).qs' 0).hold.m)) = true) ∧
    (s.switchHeld 1 0 0 = false ∧ ((s.engine 0).qs' 0).hold.held = false ∧ (s.eccReads (mMover 0) 1 [] []).2 = none ∧
      ((s.walks (mMover 0) 1 [] true []).putSection 1 0 0 []).2.2 = .fin) ∧
    (bad.switchHeld 1 0 0 = false ∧ (bad.eccReads (mMover 0) 1 [] pieces).2 = some n) ∧
    ((g.eccReads (mMover 0) 1 [] pieces).2 = none ∧ ∃ f, ((g.walks (mMover 0) 1 [] true [(0, 1)]).putSection 1 0 0 [(0, [0])]).2.2 = .miss f) ∧
    ((u.eccReads (mMover 0) 1 [] pieces).2 = none ∧ ((u.walks (mMover 0) 1 [] true [(0, 1)]).putSection 1 0 0 [(0, [0])]).2.2 = .unc) ∧
    (((r.engine 0).slot 0).restoring = some 1 ∧ ((r.engine 0).slot 0).mover = none) ∧
    (((d.engine 0).slot 0).restoring = some 1 ∧ ((d.engine 0).slot 0).mover = some 0 ∧ d.savedOn 1 0 = some { present := true } ∧
      d.switchHeld 1 0 0 = false ∧ placeGroup ((d.engine 0).occupied false) (d.group' 1 0) = some [] ∧
      (d.walks (mMover 0) 1 [] false []).getSection 1 ((d.ctx 1).section 0) 0 [] = .ok [] ∧
      (d.walks (mMover 0) 1 [] false []).xlates (some (mMover 0)) 1 false [] = .ok []) := by
  refine ⟨by decide, by decide, by decide, by decide +kernel, by decide +kernel, ⟨by decide +kernel, _, rfl⟩, by decide +kernel, by decide, by decide,
    by decide, by decide, by decide, by decide, rfl, rfl⟩

theorem witness_ThePeersMessagesTakeEffect :
    let s := inSlot {} { remotes := [{ tag := 0, ctx := 1 }, { tag := 1, ctx := 1, redirect := true }] }
    let t : State := { ready with twin := { ready.twin with state := twSplit, pairs := [(1, 2)], up := true } }
    let f := with1 t fun x => { x with faults := [{ job := peerJob }] }
    ((ready.engine 0).remotes.find? fun r => r.tag == 0) = none ∧
    ((s.engine 0).remotes.find? fun r => r.tag == 0) = some { tag := 0, ctx := 1 } ∧
    ((s.engine 0).remotes.find? fun r => r.tag == 1) = some { tag := 1, ctx := 1, redirect := true } ∧
    ready.peerOf 1 = none ∧ t.peerOf 1 = some 2 ∧ (((f.ctx 1).faults.any fun f => f.job == peerJob) = true) ∧
    ((t.ctx 1).faults.any fun f => f.job == peerJob) = false ∧ (∃ u, t.vwr none 1 0 [] = .ok u) ∧ ((s.eccPartials []).isSome = false) ∧
    (∃ w pr, t.vwr none 1 0 [1] = .error (.miss w pr)) ∧ (∃ w pr, t.xlates none 1 false (pagesOf 0 1) = .error (.miss w pr)) ∧
    (t.xlates none 1 false (pagesOf 0 0) = .ok [] ∧ (t.eccReads mFe 1 [] []).2 = none) ∧ ready.twin.up = false ∧ t.twin.up = true := by
  refine ⟨by decide, by decide, by decide, by decide, by decide, by decide, by decide, ⟨_, rfl⟩, by decide, ⟨_, _, rfl⟩, ⟨_, _, rfl⟩,
    ⟨rfl, by decide⟩, by decide, by decide⟩

theorem witness_MemoryIsAllocatedMappedAndFreed :
    let e := pk 0x200 1 [1, 0, 1] true
    (∀ p ∈ [e, pk 0x200 1 [1], pk 0x202 1, pk 0x201 1, pk 0x203 1], Applies p.op 0 p (on ready p)) ∧
      (e.hdr.expert = true ∧ e.f 6 1 0 = 1) ∧ (pk 0x200 1 [1]).hdr.expert = false :=
  ⟨allApply _ _ (by decide +kernel), by decide⟩

theorem witness_TransfersMoveMemory :
    let x : Transfer := { id := 1, hdr := { opcode := 0x205, ctx := 1 }, len := 64, fill := some 1 }
    let t : State := { ready with transfers := [x] }
    let w : State := { ready with transfers := [{ x with stalled := true }] }
    (∀ p ∈ [pk 0x204 1, pk 0x205 1], Applies p.op 0 p (on ready p)) ∧
      ready.transfers.find? (fun x => x.id == 1) = none ∧
      (t.transfers.find? (fun x => x.id == 1) = some x ∧ t.xferWaits x = false) ∧ w.xferWaits { x with stalled := true } = true :=
  ⟨allApply _ _ (by decide +kernel), by decide⟩

theorem witness_CleatsAreAllocatedAndReleased :
    let q : Packet := { pk 0x210 1 [1] with waiting := true, eng := 3 }
    (∀ p ∈ [pk 0x210 1 [1] true, pk 0x210 1 [1], pk 0x211 1], Applies p.op 0 p (on ready p)) ∧
      (ready.taken.findIdx? fun q => q.waiting && q.eng == 3) = none ∧
      (((on ready q).taken.findIdx? fun q => q.waiting && q.eng == 3) = some 0 ∧ (on ready q).taken[0]? = some q) :=
  ⟨allApply _ _ (by decide +kernel), by decide⟩

theorem witness_TheCommonsIsSplit :
    (∀ p ∈ [pk 0x230, pk 0x231 1], Applies p.op 0 p (on ready p)) ∧ ready.commons.changing = false ∧
      ({ ready with commons := { changing := true } } : State).commons.changing = true :=
  ⟨allApply _ _ (by decide +kernel), by decide⟩

theorem witness_TranslationFaultsAreAnswered :
    let p := pk 0x220 1
    let n := with1 ready fun x => { x with faults := [{ id := 1 }] }
    let f := with1 ready fun x => { x with faults := [{ id := 0 }] }
    (Applies 0x220 0 p (on ready p) ∧ ready.ctxCode 1 ≠ 0x22) ∧
    (Applies 0x220 0 p (on n p) ∧ n.ctxCode 1 = 0x22 ∧ (n.ctx 1).faults.find? (fun g => g.id == p.f 4 7 0) = none) ∧
    (Applies 0x220 0 p (on f p) ∧ f.ctxCode 1 = 0x22 ∧ (f.ctx 1).faults.find? (fun g => g.id == p.f 4 7 0) = some { id := 0 }) :=
  ⟨⟨applies _ _ _ (by decide), by decide⟩, ⟨applies _ _ _ (by decide), by decide⟩, applies _ _ _ (by decide), by decide⟩

theorem witness_UnansweredFaultsTimeOut :
    let f : State := { with1 ready fun x => { x with faults := [{ id := 0 }] } with xlt := { ready.xlt with timeout := 1 } }
    ready.xlt.timeout = 0 ∧ ((f.ctx 1).faults.find? fun g => g.id == 1) = none ∧
      f.xlt.timeout ≠ 0 ∧ ((f.ctx 1).faults.find? fun g => g.id == 0) = some { id := 0 } := by decide

/-- Context 1 with a page at 0x1000, whose first byte is `b`. -/
def paged (b : Byte) : State :=
  { with1 ready fun x => { x with maps := [{ va := 0x1000, len := 4096, runs := [{ va := 0x1000, pa := 0x1000, len := 4096 }] }] } with
    mem := if b = 0 then [] else [(0x1000, b)] }

/-- An error. -/
theorem errOf {ε β : Type} (r : Except ε β) (h : (match r with | .error _ => true | .ok _ => false) = true) : ∃ e, r = .error e := by
  cases r with
  | error e => exact ⟨e, rfl⟩
  | ok b => simp at h

/-- No error. -/
theorem okOf {ε β : Type} (r : Except ε β) (h : (match r with | .error _ => false | .ok _ => true) = true) : ∃ b, r = .ok b := by
  cases r with
  | error e => simp at h
  | ok b => exact ⟨b, rfl⟩

/-- A list that is read and refused. -/
theorem readErr {α ε β : Type} (r : Option α) (g : α → Except ε β)
    (h : (match r with | none => false | some l => match g l with | .error _ => true | .ok _ => false) = true) :
    ∃ l e, r = some l ∧ g l = .error e := by
  cases r with
  | none => simp at h
  | some l => cases hg : g l with
    | error e => exact ⟨l, e, rfl, hg⟩
    | ok b => simp [hg] at h

/-- A list that is read and passes. -/
theorem readOk {α ε β : Type} (r : Option α) (g : α → Except ε β)
    (h : (match r with | none => false | some l => match g l with | .error _ => false | .ok _ => true) = true) :
    ∃ l b, r = some l ∧ g l = .ok b := by
  cases r with
  | none => simp at h
  | some l => cases hg : g l with
    | error e => simp [hg] at h
    | ok b => exact ⟨l, b, rfl, hg⟩

/-- A list behind a CLEAT_ALLOC that waits; in a context being scrubbed; an armature, and a list, that is not mapped; a list whose
command has no opcode; a list of one NOP. -/
theorem witness_JobsAreSubmittedAndCancelled :
    let p := pk 0x300 1 [0x1000, 0, 1]
    let x := pk 0x300 1 [0x1000, 0, 1] true
    let q : Packet := { hdr := { opcode := 0x210, ctx := 1, no := 0 }, params := [1], waiting := true }
    let p1 : Packet := { p with hdr := { p.hdr with no := 1 } }
    let w : State := { ready with taken := [q, p1] }
    let c := with1 ready fun y => { y with suspended := true }
    (Applies 0x300 1 p1 w ∧ (w.without 1).waitsFor p1 1 = true) ∧
    (Applies 0x300 0 p (on c p) ∧ ((on c p).without 0).waitsFor p 1 = false ∧ [0x20, 0x21, 0x22].contains (c.ctxCode 1) = false) ∧
    (Applies 0x300 0 x (on ready x) ∧ [0x20, 0x21, 0x22].contains (ready.ctxCode 1) = true ∧
      ∃ r, ((on ready x).without 0).armature 1 ((x.w 8).toNat + 2 ^ 32 * x.f 9 15 0) = .error r) ∧
    (Applies 0x300 0 p (on ready p) ∧ ((on ready p).without 0).readList 1 0x1000 1 = none) ∧
    (Applies 0x300 0 p (on (paged 255) p) ∧ ∃ l r, ((on (paged 255) p).without 0).readList 1 0x1000 1 = some l ∧
      ((on (paged 255) p).without 0).checkList { ctx := 1, allRoutes := true, routes := [], scales := [] } l = .error r) ∧
    (Applies 0x300 0 p (on (paged 0) p) ∧ ∃ l e, ((on (paged 0) p).without 0).readList 1 0x1000 1 = some l ∧
      ((on (paged 0) p).without 0).checkList { ctx := 1, allRoutes := true, routes := [], scales := [] } l = .ok e) ∧
    (∀ p ∈ [pk 0x301 1], Applies p.op 0 p (on ready p)) := by
  refine ⟨⟨⟨⟨rfl, by decide, by decide, by decide⟩, by decide⟩, by decide⟩, ⟨applies _ _ _ (by decide), by decide, by decide⟩,
    ⟨applies _ _ _ (by decide), by decide, errOf _ (by decide +kernel)⟩, ⟨applies _ _ _ (by decide), by decide +kernel⟩,
    ⟨applies _ _ _ (by decide +kernel), readErr _ _ (by decide +kernel)⟩, ⟨applies _ _ _ (by decide +kernel), readOk _ _ (by decide +kernel)⟩, allApply _ _ (by decide)⟩

theorem witness_FencesAreSignalledAndAwaited :
    ∀ p ∈ [pk 0x310 1, pk 0x311 1], Applies p.op 0 p (on ready p) := allApply _ _ (by decide +kernel)

/-- Context 1 resident in slot 0 of engine 0, its queue holding one job of one command; the command may be in flight. -/
def running (c : List Word) (j : Job := {}) (s : State := ready) : State :=
  { with1 s fun x => { x with jobs := [(0, [{ j with ctx := 1, cmds := [c] }])] } with engines := [(0, { slot0 := { ctx := some 1 } })] }

/-- The context of the command of `running`. -/
def cxOf (s : State) : Cx := s.cx 0 0 0 {}

/-- The command issues, with its operands readable. -/
theorem runs (op : Nat) (s : State)
    (h : (cOp (s.cmdAt 0 0 0) = op ∧ s.mayIssue 0 0 0 = true) ∧ (s.begun 0 0 0 {}).2 = none) :
    Runs op 0 0 0 {} (cxOf s) (s.begun 0 0 0 {}).1 s := ⟨h.1, Prod.ext rfl h.2, rfl⟩

/-- No command at all; a LOAD that issues and meets an uncorrectable word (its operand of FILL's cleat, a MATMUL's A). -/
theorem witness_CommandsIssueInTheirTurn :
    (∀ op : Nat, ¬ Issues op 0 0 0 ready) ∧
    (let c : List Word := [0x10, 0, 0, 0, 0x10001, 1]
     let s := running c
     let b : State := { s with engines := [(0, { slot0 := { ctx := some 1 }, cleats := [(0, { state := 1, owner := 1, banks := 1, size := 1 })] })] }
     let l := b.readPieces 0 c
     let u : State := { b with psmc := { b.psmc with spmUncorr := [(l.getD 0 (0, 0)).1 / 64 * 64] } }
     (cOp (u.cmdAt 0 0 0) = opMat ∧ u.mayIssue 0 0 0 = true) ∧ (u.begun 0 0 0 {}).2 ≠ none) :=
  ⟨fun _ h => absurd h.2 (by decide), by decide +kernel⟩

/-- NOP; FENCE_SIGNAL; FENCE_WAIT; LAUNCH_WAIT; a LAUNCH_WAIT and a NOP in flight; nothing in flight. -/
theorem witness_SynchronisationCommandsRun :
    let n := running [0]
    let f := running [0x01]
    let w := running [0x02]
    let l := running [0x03]
    let lf := running [0x03] { flight := [0] } { ready with cpw := { ready.cpw with align := true } }
    let nf := running [0] { flight := [0] }
    Runs opNop 0 0 0 {} (cxOf n) (n.begun 0 0 0 {}).1 n ∧ Runs opFSig 0 0 0 {} (cxOf f) (f.begun 0 0 0 {}).1 f ∧
    Runs opFWait 0 0 0 {} (cxOf w) (w.begun 0 0 0 {}).1 w ∧ Runs opLWait 0 0 0 {} (cxOf l) (l.begun 0 0 0 {}).1 l ∧
    (cOp (lf.cmdAt 0 0 0) = opLWait ∧ (lf.head 0 0).flight.contains 0 = true ∧ lf.qOpen 0 0 = true ∧ lf.launches = true ∧ lf.queue 0 0 ≠ []) ∧
    (cOp (n.cmdAt 0 0 0) ≠ opLWait ∧ (n.head 0 0).flight.contains 0 = false) ∧
    (nf.queue 0 0 ≠ [] ∧ ¬ ((nf.engine 0).slice = 2 ∨ ((nf.engine 0).slot 0).saving = true) ∧ (nf.head 0 0).flight.contains 0 = true ∧
      (nf.head 0 0).stalled 0 = false ∧ cOp (nf.cmdAt 0 0 0) ≠ opFWait ∧ cOp (nf.cmdAt 0 0 0) ≠ opLWait ∧
      ((nf.engine 0).remotes.any fun r => r.ctx == (nf.head 0 0).ctx && r.idx == 0) = false) := by
  refine ⟨runs _ _ (by decide +kernel), runs _ _ (by decide +kernel), runs _ _ (by decide +kernel), runs _ _ (by decide +kernel), ?_, ?_, ?_⟩ <;>
    decide +kernel

/-- FILL, LOAD and STORE; a piece before the point of a restart; one in the peer's window, with a free tag and without; one of a
page of the context. -/
theorem witness_MoveCommandsMoveRows :
    let f := running [0x0A]
    let l := running [0x08]
    let st := running [0x09]
    let x := cxOf l
    let t : State := { ready with twin := { ready.twin with state := twSplit, pairs := [(1, 2)], up := true } }
    let g := paged 0
    let full : State := { ready with engines := [(0, { remotes := (List.range 64).map fun k => { tag := k } })] }
    Runs opFill 0 0 0 {} (cxOf f) (f.begun 0 0 0 {}).1 f ∧ Runs opLoad 0 0 0 {} x (l.begun 0 0 0 {}).1 l ∧
    Runs opStore 0 0 0 {} (cxOf st) (st.begun 0 0 0 {}).1 st ∧
    (0 < ({ x with from' := 1 } : Cx).from' ∧ ¬ 0 < x.from') ∧ t.remoteFor x.c (2 ^ 46) = some 2 ∧ (full.engine 0).freeTag = none ∧
    (t.engine 0).freeTag = some 0 ∧
    (g.remoteFor x.c 0x1000 = none ∧ g.xlate (some (mEngine 0)) x.c 0x1000 64 false = .pa 0x1000 ∧
      g.xlate (some (mEngine 0)) x.c 0x1000 64 true = .pa 0x1000 ∧ (g.eccRead (mEngine 0) x.c [] 0x1000 64).2 = none ∧
      (g.eccRead (mEngine 0) x.c [{ addr := 0x1000, kind := .uncorr }] 0x1000 64).2 = some 0x1000) := by
  refine ⟨runs _ _ (by decide +kernel), runs _ _ (by decide +kernel), runs _ _ (by decide +kernel), ?_, ?_, ?_, ?_, ?_⟩ <;> decide +kernel

/-- A plain MATMUL of one row, column and term; one whose scale of A is 0; CONV; ATTENTION out of a step and in one; KV_APPEND with
COPY and without; VECTOR; TRANSFORM forward and multiplying; CHISEL. -/
theorem witness_TensorCommandsCompute :
    let mat := running [0x10, 0, 0, 0, 0x10001, 1]
    let scd := running [0x10, 2 ^ 25, 0, 0, 0x10001, 1]
    let inStep : State := { running [0x12] { step := some 0 } with steps := [(0, { present := true, ctx := 1 })] }
    let ok : Nat → List Word → Prop := fun op c => Runs op 0 0 0 {} (cxOf (running c)) ((running c).begun 0 0 0 {}).1 (running c)
    let x := cxOf scd
    ok opMat [0x10, 0, 0, 0, 0x10001, 1] ∧ ok opMat [0x10, 2 ^ 25, 0, 0, 0x10001, 1] ∧ ok opConv [0x11] ∧ ok opAttn [0x12] ∧
    Runs opAttn 0 0 0 {} (cxOf inStep) (inStep.begun 0 0 0 {}).1 inStep ∧ ok opKv [0x10013] ∧ ok opKv [0x13] ∧ ok opVec [0x18] ∧
    ok opXf [0x19] ∧ ok opXf [0x20019] ∧ ok opChis [0x1A] ∧
    (let c := (cxOf mat).cmd
     fmtScaled (tF c 1) = false ∧ cb c 5 27 = false ∧ cb c 0 19 = false ∧ cf c 0 21 20 = 0 ∧ tF c 2 ≠ 3 ∧ tF c 3 ≠ 15 ∧ cf c 14 1 0 = 0) ∧
    (fmtScaled (tF x.cmd 1) = true ∧ ((List.range 1).filter fun i => !scaleOk (((scd.begun 0 0 0 {}).1.scalesAt x 9 1).getD i 0)) ≠ []) ∧
    (running [0x12]).stepOf (cxOf (running [0x12])).job = none ∧
    (inStep.stepOf (cxOf inStep).job = some { present := true, ctx := 1 }) ∧ cb [0x10013] 0 16 = true ∧ cb [0x13] 0 16 = false ∧
    cf [0x20019] 0 17 16 = 2 ∧ cf [0x19] 0 17 16 ≠ 2 ∧ cf [0x1A] 0 17 16 = 0 := by
  refine ⟨runs _ _ (by decide +kernel), runs _ _ (by decide +kernel), runs _ _ (by decide +kernel), runs _ _ (by decide +kernel),
    runs _ _ (by decide +kernel), runs _ _ (by decide +kernel), runs _ _ (by decide +kernel), runs _ _ (by decide +kernel),
    runs _ _ (by decide +kernel), runs _ _ (by decide +kernel), runs _ _ (by decide +kernel), ?_, ?_, ?_, ?_, ?_⟩ <;> decide +kernel

theorem witness_SequencesOpenCloseAndSwap :
    (∀ p ∈ [pk 0x400 1, pk 0x405 1, pk 0x401 1, pk 0x410 1, pk 0x403 1, pk 0x404 1], Applies p.op 0 p (on ready p)) ∧
      (ready.dir 0).state ≠ 4 ∧ (({ ready with kvDir := [(0, { state := 4 })] } : State).dir 0).state = 4 :=
  ⟨allApply _ _ (by decide +kernel), by decide⟩

/-- No step; a failed one; one whose bonus token is 0xFFFFFFFF; one without entries. -/
theorem witness_StepsBeginAndEnd :
    let f : State := { ready with steps := [(0, { present := true, failed := true })] }
    let e : State := { ready with steps := [(0, { present := true })] }
    let spoilt : Step → List Word → Bool := fun x vs => (x.entries.filter fun e => x.kind != 1 || e.last).any fun e => (x.verdict vs e).bonus == 0xFFFFFFFF
    (∀ p ∈ [pk 0x402 1], Applies p.op 0 p (on ready p)) ∧ (ready.step 0).present = false ∧
      ((f.step 0).present = true ∧ (f.step 0).left = [] ∧ (f.step 0).failed = true) ∧
      ((e.step 0).failed = false ∧ spoilt (e.step 0) (e.verdicts (e.step 0)) = false) ∧
      spoilt { present := true, entries := [{ rows := 1, tokens := [0] }] } [0xFFFFFFFF] = true :=
  ⟨allApply _ _ (by decide +kernel), by decide +kernel⟩

/-- A stream of a context of another client; an expert form whose descriptor is not mapped, and one whose is; no stop, and one. -/
theorem witness_StreamsFollowTheirStates :
    let p := pk 0x500 1
    let x := pk 0x500 1 [] true
    let y := pk 0x500 1 [0, 0, 0, 0, 0, 0, 0x1000] true
    let o : State := { ready with
      ctxs := [(1, { present := true, cls := 0, mask := 255 }), (2, { present := true, client := 3 })], fe := { streams := [(0, { state := 0x41, ctx := 2 })] } }
    let z : State := { ready with fe := { streams := [(0, { state := 0x42, ctx := 1, stopping := 1 })] } }
    let foreign : State → Packet → Bool := fun s p => (s.stream (p.f 4 4 0)).state != 0x40 && (s.stream (p.f 4 4 0)).ctx != p.hdr.ctx &&
      (s.ctx (s.stream (p.f 4 4 0)).ctx).client != p.hdr.ap
    (∀ p ∈ [pk 0x500 1, pk 0x500 1 [] true, pk 0x501 1, pk 0x502 1, pk 0x503 1, pk 0x504 1, pk 0x505 1, pk 0x510 1, pk 0x511 1],
      Applies p.op 0 p (on ready p)) ∧
    (Applies 0x500 0 p (on o p) ∧ foreign (on o p) p = true) ∧ foreign (on ready p) p = false ∧
    (∃ e, ((on ready x).without 0).vrd none 1 (x.va 10) 128 = .error e) ∧
    (Applies 0x500 0 y (on (paged 0) y) ∧ (paged 0).xlate none 1 (y.va 10) 128 false = .pa 0x1000) ∧
    (ready.stream 0).stopping = 0 ∧ (z.stream 0).stopping ≠ 0 := by
  refine ⟨allApply _ _ (by decide +kernel), ⟨applies _ _ _ (by decide +kernel), by decide +kernel⟩, by decide +kernel, errOf _ (by decide +kernel),
    ⟨applies _ _ _ (by decide +kernel), by decide +kernel⟩, by decide, by decide⟩

/-- The ends of the range of ECC results; a frame with EtherType 0x88B5 and type 1, and none. -/
theorem witness_CameraPacketsFillTheRings :
    let f : List Byte := List.replicate 12 0 ++ [0x88, 0xB5, 0x10]
    (2 : Nat) ≤ 2 ∧ (1 : Nat) < 2 ∧ isRatline f 1 = true ∧ isRatline [] 1 = false ∧ ready.looped 1 0 = false := by decide

/-- No Halyard or a domain off, and a domain that listens; no frame to send, a port down, and one frame. -/
theorem witness_NetworkTimeIsDisciplined :
    let d : State := { ready with hal := { ready.hal with domains := [(0, { state := 0x71 })] } }
    let f : State := { ready with hal := { ready.hal with ports := [(0, { up := true, queues := [(3, [{ bytes := [1, 2] }])] })] } }
    (∀ p ∈ [pk 0x600, pk 0x620], Applies p.op 0 p (on ready p)) ∧ State.reset.halRuns = false ∧ (ready.domain 0).state = 0x70 ∧
      (d.halRuns = true ∧ (d.domain 0).state ≠ 0x70) ∧ ready.txClass 0 = none ∧ (f.txClass 0 = some (3, { bytes := [1, 2] }) ∧ (f.hport 0).up = true ∧ f.looped 1 0 = false) :=
  ⟨allApply _ _ (by decide +kernel), by decide +kernel⟩

/-- Every register row granted and denied, to a host and to a processor; copies that agree and disagree; updates at 100 ns and beyond;
a free run that has a limit to reach and one that has none. -/
theorem witness_RegistersOfTimeAndEvents :
    let t : State := { ready with sec := { ready.sec with table := [] } }
    let f : State := { ready with plinth := { ready.plinth with time := 0 } }
    let r : State := { ready with plinth := { ready.plinth with freeRun := true, freeSince := some 0, params := some [] } }
    (∀ o ∈ [0x200004, 0x200008, 0x20000C, 0x100440, 0x100308, 0x100338, 0x100180, 0x1001BC, 0x100000], Granted 16 o true ready ∧ Denied 16 o true t) ∧
    (∀ o ∈ [0x200020, 0x100304, 0x100334], Granted 16 o false ready ∧ Denied 16 o false t) ∧
    (∀ o ∈ [0x200004, 0x200020, 0x100180], Asleep 0 { ready with hif := { ready.hif with d3hot := true } } ∧ barBad o 4 = false) ∧
    ready.hal.setNs.toNat ≤ 999999999 ∧
    State.reset.halRuns = false ∧ ready.halRuns = true ∧ f.plinth.freeRun = false ∧ (f.pnow = 0 ∧ (100 : Nat) ≤ 100 ∧ (100 : Nat) < 101) ∧
    (r.plinth.freeRun = true ∧ r.plinth.freeSince = some 0 ∧ r.plinth.params.isSome = true) := by
  unfold Granted Denied Asleep; decide +kernel

/-- `ready` with an admitted plan in slot 0 that another context of partition 1 owns. -/
def planned (p : Plan) : State := { ready with
  partitions := [(0, { present := true, mask := 0x0F }), (1, { present := true, tt := true, mask := 0xF0 })]
  ctxs := [(1, { present := true, cls := 0, mask := 0x0F, mask0 := 0x0F }), (2, { present := true, cls := 0, part := 1, mask := 0xF0, mask0 := 0xF0 })]
  plans := [(0, p)] }

/-- A plan image at 0x1000: period 1 ms, context 2, one MONITOR point that awaits an action for 1 us. -/
def planImage : List Word := [0x10000001, 1000000, 0, 2] ++ List.replicate 12 0 ++ [0, 0x16, 0, 1000, 0, 0, 0, 0]

/-- A slot in use; a list behind a CLEAT_ALLOC that waits; an image of zeros; an image that is admitted; a plan not admitted; a start
too early; four running plans; a LIST point of an engine without a SELFTEST; one that passes. -/
theorem witness_PlansAreLoadedActivatedAndRetired :
    let p := pk 0x610 255 [0, 0x1000]
    let a := pk 0x611
    let x := pk 0x611 255 [0, 1] true
    let e := planned {}
    let s : State := { e with mem := Memory.write [] 0x1000 (bytesOf planImage) }
    let q : Packet := { hdr := { opcode := 0x210, ctx := 2, no := 0 }, params := [1], waiting := true }
    let p1 : Packet := { p with hdr := { p.hdr with no := 1 } }
    let w : State := { s with taken := [q, p1] }
    let ok := planned { state := 0x51, period := 1000000, ctx := 2 }
    let bad := planned { state := 0x51, period := 1000000, ctx := 2, points := [[0, 0x11, 4, 0, 0, 1, 0, 0]] }
    let four : State := { ok with plans := ok.plans ++ [1, 2, 3, 4].map fun i => (i, { state := 0x53 }) }
    let away : State → Packet → Bool := fun s p =>
      let q := s.plan 0
      let start := if p.hdr.expert then timeNs p.params 5 else q.firstAt (s.now + 1000000)
      p.hdr.expert && (decide (start < s.now + 100000 ∨ start % max 1 q.period ≠ q.phase) || p.f 7 31 16 != 0)
    let armed : Plan → State → Plan := fun q s => { q with
      state := 0x52, start := q.firstAt (s.now + 1000000), count := 0, periodNs := q.firstAt (s.now + 1000000), slackMin := 0xFFFFFFFF, movers := []
      ends := [], digests := [], launched := [] }
    (Applies 0x610 0 p (on four p) ∧ (four.plan 1).state = 0x53) ∧
    (Applies 0x610 1 p1 w ∧ (w.without 1).imageAt (p.va 5) 64 = true ∧ fld ((w.without 1).rdW (p.va 5 + 12)) 7 0 = 2 ∧ (w.without 1).waitsFor p1 2 = true) ∧
    (Applies 0x610 0 p (on e p) ∧ (∃ r, ((on e p).without 0).planBuild p 0 = .error r) ∧ ((on e p).without 0).waitsFor p 0 = false) ∧
    (Applies 0x610 0 p (on s p) ∧ (∃ r, ((on s p).without 0).planBuild p 2 = .ok r) ∧ ((on s p).without 0).waitsFor p 2 = false) ∧
    (Applies 0x611 0 a (on e a) ∧ (e.plan 0).state ≠ 0x51) ∧
    (Applies 0x611 0 x (on ok x) ∧ (ok.plan 0).state = 0x51 ∧ (ok.ctx 2).present = true ∧ (ok.ctx 2).scrubbing = false ∧ away (on ok x) x = true) ∧
    (Applies 0x611 0 a (on four a) ∧ away (on four a) a = false ∧ (planNos.filter fun i => (four.plan i).runs).length = 4) ∧
    (Applies 0x611 0 a (on bad a) ∧ ∃ r, ((on bad a).without 0).admission 0 (armed (bad.plan 0) bad) none = .error r) ∧
    (Applies 0x611 0 a (on ok a) ∧ (planNos.filter fun i => (ok.plan i).runs).length < 4 ∧
      ∃ r, ((on ok a).without 0).admission 0 (armed (ok.plan 0) ok) none = .ok r) ∧
    (∀ p ∈ [pk 0x612, pk 0x613], Applies p.op 0 p (on ready p)) := by
  refine ⟨⟨applies _ _ _ (by decide +kernel), by decide +kernel⟩, ⟨⟨⟨rfl, by decide, by decide, by decide +kernel⟩, by decide +kernel⟩, by decide +kernel⟩,
    ⟨applies _ _ _ (by decide +kernel), errOf _ (by decide +kernel), by decide +kernel⟩,
    ⟨applies _ _ _ (by decide +kernel), okOf _ (by decide +kernel), by decide +kernel⟩, ⟨applies _ _ _ (by decide +kernel), by decide +kernel⟩,
    ⟨applies _ _ _ (by decide +kernel), by decide +kernel⟩, ⟨applies _ _ _ (by decide +kernel), by decide +kernel⟩,
    ⟨applies _ _ _ (by decide +kernel), errOf _ (by decide +kernel)⟩, ⟨applies _ _ _ (by decide +kernel), by decide +kernel, okOf _ (by decide +kernel)⟩,
    allApply _ _ (by decide +kernel)⟩

/-- A point of kind `k`. -/
def ptOf (k : Nat) : List Word := [0, wd (16 + k), 0, 1000, 0, 0, 0, 0]

/-- `ready` with an ACTIVE plan in slot 0 that has one point. -/
def active (k : Nat) (x : Stream := {}) : State :=
  { with1 ready fun y => { y with maps := [{ va := 0, len := 4096, runs := [{ va := 0, pa := 0x1000, len := 4096 }] }] } with
    cpw := { ready.cpw with align := true }
    plans := [(0, { state := 0x53, period := 1000000, ctx := 1, points := [ptOf k] })], fe := { streams := [(0, x)] } }

/-- A point of each kind that is due; none that is; a TQ start; a MOVER that waits; a stream CLOSED, and one that is not; bad and
good mailbox words, with an armed monitor and without; digests, one and none. -/
theorem witness_LaunchPointsLaunchInTheirPeriods :
    let due : Nat → State → Prop := fun k s => ((s.plan 0).points[0]? = some (ptOf k) ∧ s.launches = true ∧
      (s.plan 0).state = 0x53 ∧ ptKind (ptOf k) = k ∧ ptIn (ptOf k) (s.plan 0).count = true ∧ (s.plan 0).inOrder 0 = true ∧ ¬ (s.plan 0).launched.contains (0, (s.plan 0).count) = true)
    let q : State := { ready with engines := [(0, { tq := [{}] })] }
    let w : State := { ready with plans := [(0, { movers := [{ point := 0 }] })] }
    let c := active 4 { state := 0x42 }
    let held := ((c.passTo 0).upPlan 0 fun y => { y with launched := (0, y.count) :: y.launched }).upStream 0 fun y => { y with tele := some (0, 0, 1000) }
    let good : List Byte := natBytes 8 0 ++ natBytes 4 16 ++ wordBytes (crc32c [])
    let bad : List Byte → Prop := fun data => data.length < 16 ∨ fld (wordAt data 0) 31 3 ≠ 0 ∨ (wordAt data 8).toNat ≠ data.length ∨ wordAt data 12 ≠ crc32c (data.drop 16)
    let m : State := { ready with monitors := [(3, { armed := true, expiry := 2 ^ 40 })] }
    let d : State := { ready with plans := [(0, { digests := [(5, 0, 0, 0)] })] }
    let told : State → Option (Nat × (Nat × Nat × Nat × Word)) := fun s => planNos.findSome? fun j => ((s.plan j).digests.find? fun w => w.1 == 5).map fun w => (j, w)
    (due 1 (active 1) ∧ due 2 (active 2) ∧ due 3 (active 3) ∧ due 4 (active 4) ∧ due 5 (active 5) ∧ due 6 (active 6)) ∧ (ready.plan 0).points[0]? = none ∧
    (q.engine 0).tq = [{}] ∧ ((w.plan 0).movers.find? fun x => x.point == 0) = some { point := 0 } ∧ ((ready.plan 0).movers.find? fun x => x.point == 0) = none ∧
    ((active 4).stream 0).state = 0x40 ∧ ((c.stream 0).state ≠ 0x40 ∧ ∃ bs, held.vrd (some mFe) 1 (ptVa (ptOf 4) 4) (held.goldenLen 0 1 (ptVa (ptOf 4) 4)) = .ok bs) ∧
    bad [] ∧ ¬ bad good ∧ ready.actionFor 0 0 = none ∧ m.actionFor 0 0 = some 3 ∧ told d = some (0, (5, 0, 0, 0)) ∧ ready.toldBy 0 0 = none ∧
    (active 4 { state := 0x42, tele := some (0, 0, 1000) }).toldBy 0 0 = some (0, 1000) := by
  refine ⟨?_, ?_, ?_, ?_, ?_, ?_, ⟨?_, okOf _ ?_⟩, ?_, ?_, ?_, ?_, ?_, ?_, ?_⟩ <;> decide +kernel

/-! A key of small order: the neutral point. A signature with it verifies over any message, so a witness needs no secret. -/

/-- The neutral point up to its scale. -/
def Flat (p : EdPt) : Prop := p.x = 0 ∧ p.y = p.z

theorem edAdd_flat {p q : EdPt} (hp : Flat p) (hq : Flat q) : Flat (edAdd p q) := by
  obtain ⟨a, b⟩ := hp
  obtain ⟨c, d⟩ := hq
  have h1 : ∀ n, edSub (n % edP) (n % edP) = 0 := fun n => by
    rw [edSub, Nat.mod_mod, Nat.add_comm, Nat.add_sub_assoc (Nat.le_refl _), Nat.sub_self, Nat.add_zero, Nat.mod_self]
  have h2 : ∀ n, edSub (n % edP) 0 = n % edP := fun n => by
    rw [edSub, Nat.zero_mod, Nat.sub_zero, Nat.add_mod_right, Nat.mod_mod]
  refine ⟨?_, ?_⟩
  · simp only [edAdd, a, b, c, d, Nat.zero_add, Nat.zero_mul, Nat.zero_mod, h2, h1, Nat.mul_zero]
  · simp only [edAdd, a, b, c, d, Nat.zero_mul, Nat.zero_mod, Nat.mul_zero, Nat.add_zero, h2, Nat.mod_mod]
    generalize p.z * q.z % edP = z
    rw [Nat.mod_mul_mod, Nat.mul_mod_mod (z * z % edP)]
    congr 1
    generalize z * z % edP = y
    rw [Nat.mul_comm z y, Nat.mul_assoc]

theorem edMul_flat (n k : Nat) {p : EdPt} (hp : Flat p) : Flat (edMul n k p) := by
  induction n generalizing k p with
  | zero => exact ⟨rfl, rfl⟩
  | succ n ih =>
    simp only [edMul]
    split
    · exact edAdd_flat (ih _ (edAdd_flat hp hp)) hp
    · exact ih _ (edAdd_flat hp hp)

theorem edMul_zero (n : Nat) (p : EdPt) : edMul n 0 p = edZero := by
  induction n generalizing p with
  | zero => rfl
  | succ n ih => simp [edMul, ih]

/-- The key and the signature. -/
def flatKey : List Byte := 1 :: List.replicate 31 0
/-- R the neutral point, S zero. -/
def flatSig : List Byte := 1 :: List.replicate 63 0

theorem flat_verifies (msg : List Byte) : edVerify flatKey flatSig msg = true := by
  have hk : edDecode flatKey = some edZero := by decide +kernel
  have hr : slice flatSig 0 32 = flatKey := by decide
  have hs : leNat (slice flatSig 32 32) = 0 := by decide
  have hf : ∀ k, Flat (edMul 4 8 (edAdd edZero (edMul 253 k edZero))) := fun k =>
    edMul_flat _ _ (edAdd_flat ⟨rfl, rfl⟩ (edMul_flat _ _ ⟨rfl, rfl⟩))
  have he : ∀ p q : EdPt, Flat p → Flat q → edEq p q = true := fun p q a b => by
    simp [edEq, a.1, a.2, b.1, b.2, Nat.mul_comm]
  simp only [edVerify, hr, hk, hs, edMul_zero]
  rw [he _ _ (edMul_flat _ _ ⟨rfl, rfl⟩) (hf _)]
  decide

/-- A signature block of key slot 0 that such a key makes: what it signs, its counter and its length. -/
def flatBlock (what ctr len : Nat) : List Word := [wd (1 + 64 * what), wd ctr, 0, wd len, 1] ++ List.replicate 15 0

theorem flat_signs (keys : List (Nat × List Byte)) (ctrs : List (Nat × Nat)) (blk : List Word) (what : Nat) (body : List Byte) (slot ctr : Nat)
    (h : slot = fld (wat blk 0) 5 4 ∧ ctr = w64 (wat blk 1) (wat blk 2) ∧ Tab.find keys slot = some flatKey ∧
      (fld (wat blk 0) 3 0 = 1 ∧ fld (wat blk 0) 8 6 = what ∧ fld (wat blk 0) 31 9 = 0 ∧ (wat blk 3).toNat = body.length ∧ Tab.get 0 ctrs slot < ctr) ∧
      bytesOf ((blk.drop 4).take 16) = flatSig) : sigCheck keys ctrs blk what body = some (slot, ctr) := by
  obtain ⟨rfl, rfl, hk, ⟨a, b, c, d, e⟩, hs⟩ := h
  simp only [sigCheck, hk, hs]
  rw [if_pos ⟨a, b, c, d, e, flat_verifies _⟩]

/-- `ready` with such a key as safety key and owner key 0, and Plinth booted in POLICY_LED. -/
def keyed : State := { ready with
  sec := { ready.sec with safetyKeys := [(0, flatKey)], ownerKeys := [(0, flatKey)], fwKeys := [(0, flatKey)] }
  plinth := { ready.plinth with booted := true, mode := mPolicy } }

theorem plnSig_flat (s : State) (blk : List Word) (what : Nat) (body : List Byte) (slot ctr : Nat)
    (h : slot = fld (wat blk 0) 5 4 ∧ ctr = w64 (wat blk 1) (wat blk 2) ∧ Tab.find s.safetyKeys slot = some flatKey ∧
      (fld (wat blk 0) 3 0 = 1 ∧ fld (wat blk 0) 8 6 = what ∧ fld (wat blk 0) 31 9 = 0 ∧ (wat blk 3).toNat = body.length ∧
        Tab.get 0 s.plinth.counters slot < ctr) ∧
      bytesOf ((blk.drop 4).take 16) = flatSig) : s.plnSig blk what body = some (slot, ctr) := flat_signs _ _ _ _ _ _ _ h

/-- A slice offered and not; running, without a guard, before it and past it; slices due and not; closed and open life-cycle states; a
block that no run tests, and one; a loop-back to end, in use and not; interfaces closed and open; no slot left, and one. -/
theorem witness_BlocksAndEnginesAreTested :
    let c : State := { ready with sec := { ready.sec with lc := 6 } }
    let o : State := { ready with engines := [(0, { slice := 1 })] }
    let g : Nat → State := fun t => { ready with engines := [(0, { slice := 2, sliceGuard := t })], hal := { ready.hal with ns := 5 } }
    let due : State := { ready with tst := { ready.tst with dpMask := 1 } }
    let run : State := { ready with tst := { ready.tst with runs := [{ active := [3] }] } }
    let l0 := pk 0xA02
    let l1 := pk 0xA02 255 [0x1000]
    let l2 := pk 0xA02 255 [0x1002]
    let one : State := { ready with tst := { ready.tst with loops := [(2, { depth := 1 })] } }
    let full : State := { ready with tst := { ready.tst with loops := [0, 1, 2, 3].map fun j => (j, { depth := 1, index := 1 + j }) } }
    let used : State → Packet → Option Nat := fun s p => [0, 1, 2, 3].find? fun j => (Tab.get ({} : LoopBack) s.tst.loops j).depth != 0 &&
      (Tab.get ({} : LoopBack) s.tst.loops j).iface == p.f 4 2 0 && (Tab.get ({} : LoopBack) s.tst.loops j).index == p.f 4 10 4
    let spare : State → Option Nat := fun s => [0, 1, 2, 3].find? fun j => (Tab.get ({} : LoopBack) s.tst.loops j).depth == 0
    (∀ p ∈ [pk 0x007, pk 0xA00, l0, l1, l2, pk 0xA03], Applies p.op 0 p (on ready p)) ∧
    (ready.engine 0).slice ≠ 1 ∧ ((o.engine 0).slice = 1 ∧ o.sliceReady 0 = true ∧ (o.engines.any fun q => q.1 != 0 && q.2.slice == 2) = false) ∧
    (ready.engine 0).slice ≠ 2 ∧ (((g 0).engine 0).slice = 2 ∧ ((g 0).engine 0).sliceGuard = 0) ∧
    (((g 5).engine 0).sliceGuard ≠ 0 ∧ (g 5).now ≤ 5) ∧ (4 : Nat) < (g 4).now ∧
    ready.slicesDue 0 = false ∧ due.slicesDue 0 = true ∧ (Applies 0xA02 0 l0 (on c l0) ∧ 5 < c.sec.code) ∧ (1 ≤ ready.sec.code ∧ ready.sec.code ≤ 5) ∧
    (ready.tst.runs.find? fun q => q.active.contains 3) = none ∧ (run.tst.runs.find? fun q => q.active.contains 3) = some { active := [3] } ∧
    (l0.f 4 14 12 = 0 ∧ used ready l0 = none) ∧ (Applies 0xA02 0 l0 (on one l0) ∧ used one l0 = some 2) ∧
    (l2.f 4 14 12 ≠ 0 ∧ ready.loopOpen (l2.f 4 2 0) 0 = false) ∧
    (Applies 0xA02 0 l1 (on full l1) ∧ l1.f 4 14 12 ≠ 0 ∧ full.loopOpen (l1.f 4 2 0) (l1.f 4 10 4) = true ∧ (used full l1).or (spare full) = none) ∧
    (ready.loopOpen (l1.f 4 2 0) (l1.f 4 10 4) = true ∧ (used ready l1).or (spare ready) = some 0) := by
  refine ⟨allApply _ _ (by decide +kernel), ?_, ?_, ?_, ?_, ?_, ?_, ?_, ?_, ⟨applies _ _ _ (by decide +kernel), ?_⟩, ?_, ?_, ?_, ?_,
    ⟨applies _ _ _ (by decide +kernel), ?_⟩, ?_, ⟨applies _ _ _ (by decide +kernel), ?_, ?_, ?_⟩, ?_⟩ <;> decide +kernel

/-- Safety parameters, signed. -/
def paramBody : List Byte := bytesOf [1, 1, 0x3F800000, 0x3F800000, 0x10001, 1, 0, 0]

/-- An object of `n` bytes at 0x1000 is in staging; its content. -/
def staged (ob : Nat) (bs : List Byte) (mode : Nat := mPolicy) : State :=
  { keyed with mem := Memory.write [] 0x1000 bs, plinth := { keyed.plinth with mode := mode, staging := some (ob, [0, 0x1000, 0, wd bs.length]) } }

/-- Packets signed and not; a mode that is barred and one that is not; no object; one too short; one not signed; one that Plinth's mode
refuses; one that it accepts; a read that goes on, and one that has an open request and none. -/
theorem witness_PlinthIsConfiguredAndItsModesAsked :
    let blk := flatBlock 4 1 32
    let bs := paramBody ++ bytesOf blk
    let t : State → State := fun s => { s with plinth := { s.plinth with staging := none } }
    let m := pk 0x711 255 (1 :: flatBlock 0 1 4)
    let m2 := pk 0x711 255 (0 :: flatBlock 0 1 4)
    let c := pk 0x712 255 ([0, 0, 0] ++ flatBlock 7 1 12)
    let rd : State := { keyed with trim := { keyed.trim with trace := 3 } }
    let o : State := { keyed with opens := [{ hdr := { opcode := 0x702 } }] }
    (∀ p ∈ [pk 0x710, pk 0x711, m, m2, pk 0x712, c, pk 0x702], Applies p.op 0 p (on keyed p)) ∧
    ready.plinth.staging = none ∧
    (let s := staged 4 (List.replicate 79 0); ((t s).rd 0x1000 79).length < 80) ∧
    (let s := staged 4 (List.replicate 80 0); 80 ≤ ((t s).rd 0x1000 80).length ∧ (t s).plnSig (List.replicate 20 0) 4 [] = none) ∧
    (let s := staged 4 bs
     (t s).rd 0x1000 112 = bs ∧ bs.take 32 = paramBody ∧ wordsOf (bs.drop 32) = blk ∧ (t s).plnSig blk 4 paramBody = some (0, 1) ∧
       (t s).refuseObject 4 paramBody ≠ none) ∧
    (let s := staged 4 bs mInit
     (t s).rd 0x1000 112 = bs ∧ (t s).plnSig blk 4 paramBody = some (0, 1) ∧ (t s).refuseObject 4 paramBody = none) ∧
    keyed.plnSig (((pk 0x711).params.drop 1).take 20) 0 (wordBytes 0) = none ∧
    (keyed.plnSig ((m.params.drop 1).take 20) 0 (wordBytes (m.w 4)) = some (0, 1) ∧ keyed.plinth.booted = true ∧ m.f 4 2 0 = 1 ∧ keyed.plinth.mode = mPolicy) ∧
    (keyed.plnSig ((m2.params.drop 1).take 20) 0 (wordBytes (m2.w 4)) = some (0, 1) ∧ m2.f 4 2 0 = 0 ∧ keyed.plinth.mode ≠ mMaq) ∧
    keyed.plnSig (((pk 0x712).params.drop 3).take 20) 7 (bytesOf ((pk 0x712).params.take 3)) = none ∧
    (keyed.plnSig ((c.params.drop 3).take 20) 7 (bytesOf (c.params.take 3)) = some (0, 1) ∧ keyed.trim.trace ≠ 3) ∧
    (rd.plnSig ((c.params.drop 3).take 20) 7 (bytesOf (c.params.take 3)) = some (0, 1) ∧ rd.trim.trace = 3) ∧
    keyed.openOf 0x702 0 = none ∧ o.openOf 0x702 0 = some { hdr := { opcode := 0x702 } } := by
  refine ⟨allApply _ _ (by decide +kernel), by decide, by decide +kernel, ⟨by decide +kernel, by decide +kernel⟩,
    ⟨by decide +kernel, by decide +kernel, by decide +kernel, plnSig_flat _ _ _ _ _ _ (by decide +kernel), by decide +kernel⟩,
    ⟨by decide +kernel, plnSig_flat _ _ _ _ _ _ (by decide +kernel), by decide +kernel⟩, by decide +kernel,
    ⟨plnSig_flat _ _ _ _ _ _ (by decide +kernel), by decide +kernel⟩, ⟨plnSig_flat _ _ _ _ _ _ (by decide +kernel), by decide +kernel⟩, by decide +kernel,
    ⟨plnSig_flat _ _ _ _ _ _ (by decide +kernel), by decide +kernel⟩, ⟨plnSig_flat _ _ _ _ _ _ (by decide +kernel), by decide +kernel⟩,
    by decide, by decide⟩

/-- No image; one that waits for its instant; one in force; no sample; one that awaits its frames, with and without; one started; a step
with its image and model, with a result that stands and one that does not; no model. -/
theorem witness_TrimAndTheMaquetteRun :
    let im : TrimImage := { meas := [0] }
    let z : TrimImage := { nu := 0, ny := 0 }
    let a : TrimRun → State := fun r => { ready with trim := { active := some im, run := some r } }
    let w : State := { ready with trim := { pend := some im, pendFrom := 1 } }
    let f : State := { ready with trim := { active := some im, run := some {}, rx := [{}] } }
    let k : TrimImage → State := fun i => { ready with
      trim := { active := some i }, plinth := { ready.plinth with params := some [], model := some [], maqRun := some (0, [], []) } }
    let done : State → State := fun s => s.upPlinth fun y => { y with maqRun := none }
    ready.trim.active.or ready.trim.pend = none ∧ ready.trim.run = none ∧
    (w.trim.active.or w.trim.pend ≠ none ∧ ((w.passPln w.trim.nextT).replaceDue w.trim.nextT).trim.active = none) ∧
    (((a {}).passPln (a {}).trim.nextT).replaceDue (a {}).trim.nextT).trim.active = some im ∧
    (f.trim.run = some {} ∧ ({} : TrimRun).started = false ∧ im.nodes.all (fun n => (f.trim.frameFor im 0 n).isSome) = true) ∧
    im.nodes.all (fun n => ((a {}).trim.frameFor im 0 n).isSome) = false ∧
    (a { started := true }).trim.run = some { started := true } ∧
    ((k im).plinth.params = some [] ∧ (k im).plinth.model = some [] ∧ (k im).trim.active = some im ∧ (k im).plinth.maqRun = some (0, [], [])) ∧
    ((done (k z)).maqResult z 0 (mqOut [] (mqRun [] [] [])) ≠ none ∧ (done (k im)).maqResult im 0 (mqOut [] (mqRun [] [] [])) = none) ∧
    ready.plinth.maqRun = none ∧ ready.plinth.model = none := by decide +kernel

/-- A manifest of a Plinth image of one byte, by firmware key 0. -/
def plnManifest : List Byte :=
  natBytes 4 0x11 ++ natBytes 4 1 ++ natBytes 4 1 ++ List.replicate 52 0 ++ sha512 [0] ++ List.replicate 64 0 ++ flatSig

theorem plnManifest_ok : manifestOk plnManifest flatKey 1 0 = true := by
  have h : slice plnManifest (128 + 64 * fld (wordAt plnManifest 4) 11 0) 64 = flatSig := by decide +kernel
  simp only [manifestOk, h, flat_verifies]
  decide +kernel

/-- A test pulse due and not; a free run past its limit; a boot that is awaited, with an image that passes and one that does not. -/
theorem witness_SafetyFaultsStopThePlinth :
    let p : State := { ready with plinth := { ready.plinth with params := some [0x4000], pins := 1 } }
    let r : State := { keyed with plinth := { keyed.plinth with freeRun := true, freeSince := some 0, params := some [] } }
    let b : State := { keyed with plinth := { keyed.plinth with awaiting := true } }
    (p.plinth.params.isSome = true ∧ bit (p.plinth.par 0) 14 = true ∧ p.plinth.pins.getLsbD 0 = true) ∧ ready.plinth.params.isSome = false ∧
    (r.plinth.freeRun = true ∧ r.plinth.freeSince = some 0 ∧ r.plinth.params.isSome = true ∧ r.plinth.mode = 0x81) ∧ ({ r.plinth with mode := 0x84 } : Plinth).mode ≠ 0x81 ∧
    (b.plinth.awaiting = true ∧ b.cpw.reef ≠ 4) ∧
    (b.fwKey (fld (wordAt plnManifest 0) 6 5) = some flatKey ∧ sha512 flatKey = sha512 flatKey ∧ manifestOk plnManifest flatKey 1 b.sec.svnP = true ∧
      [(0 : Byte)].length = (wordAt plnManifest 8).toNat ∧ sha512 [0] = slice plnManifest 64 64) ∧
    b.fwKey (fld (wordAt plnManifest 0) 6 5) = some flatKey ∧ ([] : List Byte).length ≠ (wordAt plnManifest 8).toNat ∧ ready.plinth.awaiting = false ∧
    (b.cpw.coreHeld = false ∧ b.store.writing = none ∧ b.store.cur.hiP.toNat < (1 : Word).toNat) := by
  refine ⟨by decide, by decide, by decide, by decide, by decide, ⟨by decide +kernel, rfl, plnManifest_ok, by decide +kernel, by decide +kernel⟩,
    by decide +kernel, by decide +kernel, by decide, by decide⟩

/-- No request, one that the peer's matches and one that it does not; a token whose CRC is wrong, and one to each role; blocks with a
wrong CRC and a right one; no token at a check, and one. -/
theorem witness_TheTwinTrainsPairsAndTakesOver :
    let o : OpenReq := { hdr := { opcode := 0x801 }, params := [0] }
    let s : State := { ready with opens := [o] }
    let tok : List Word := [0, 0, 0, 0, 0, 0, 0, crcWords [0, 0, 0, 0, 0, 0, 0]]
    let sb : State := { ready with twin := { ready.twin with role := false, hbAt := some 0 }, trim := { active := some {} } }
    let st : State := { sb with twin := { sb.twin with token := some tok } }
    let blk : List Word := [0, crcWords [0]]
    (∀ p ∈ [pk 0x800, pk 0x801, pk 0x803], Applies p.op 0 p (on ready p)) ∧ ready.openOf 0x801 0 = none ∧
    (s.openOf 0x801 0 = some o ∧ reqMatch 0 false [] {} = true) ∧ reqMatch 0 false [] { mode := 1 } = false ∧
    wat (List.replicate 8 0) 7 ≠ crcWords ((List.replicate 8 0).take 7) ∧ (wat tok 7 = crcWords (tok.take 7) ∧ ready.twin.role = true) ∧
    sb.twin.role = false ∧ ¬ (([] : List Word).length ≠ 0) ∧
    ((blk.length ≠ 0 ∧ wat blk (blk.length - 1) = crcWords (blk.take (blk.length - 1))) ∧ sb.trim.active = some {}) ∧
    (sb.twin.hbAt ≠ none ∧ sb.twin.token = none) ∧ st.twin.token = some tok ∧ ready.twin.hbAt = none ∧ ({ sb.twin with role := true } : Twin).hbAt ≠ none :=
  ⟨allApply _ _ (by decide +kernel), by decide +kernel⟩

/-- The service port holds a session, and not; work under way, and not; a block being programmed; an activation refused, one not and one
at an instant; a record being written, once and again. -/
theorem witness_UpdatesFollowTheirSession :
    let h : State := { ready with svp := { ready.svp with opened := true } }
    let b : State := { ready with upd := { ready.upd with busy := some (0, [1]) } }
    let v : State := { ready with upd := { ready.upd with state := 0x64, atNs := some 7 } }
    let w : State := { ready with store := { ready.store with writing := some {} } }
    let a : State := { w with store := { w.store with again := true } }
    let l := [pk 0x901, pk 0x902, pk 0x903, pk 0x904, pk 0x905]
    (∀ p ∈ l, Applies p.op 0 p (on h p)) ∧ (∀ p ∈ l, Applies p.op 0 p (on ready p)) ∧
    (h.svp.opened = true ∧ h.updWorks = false) ∧ (ready.svp.opened = false ∧ ready.updWorks = false) ∧ b.updWorks = true ∧
    ready.upd.busy = none ∧ b.upd.busy = some (0, [1]) ∧ ready.activateRefusal ≠ none ∧ v.activateRefusal = none ∧
    ready.upd.atNs = none ∧ v.upd.atNs = some 7 ∧ ready.store.writing = none ∧ (w.store.writing = some {} ∧ w.store.again = false) ∧
    (a.store.writing = some {} ∧ a.store.again = true) :=
  ⟨allApply _ _ (by decide +kernel), allApply _ _ (by decide +kernel), by decide +kernel⟩

/-- A frame that is answered, and one that is not; a block with a chunk missing, and one without chunks; transitions and a session
authorised and not; the lock granted and denied. -/
theorem witness_TheServicePortAndSecServe :
    let f : SvpFrame := {}
    let n : State := { ready with sec := { ready.sec with lc := 6 } }
    let one : State := { ready with flash := [(ready.sessIdx, { manifest := natBytes 4 0x11 ++ natBytes 4 1 ++ natBytes 4 1 })] }
    let blk := flatBlock 5 1 4
    let lc := pk 0x910 255 (0 :: blk)
    let lf : SvpFrame := { payload := wordBytes 0 ++ bytesOf blk }
    let d := pk 0x911 255 (0 :: flatBlock 6 1 4)
    let t : State := { ready with sec := { ready.sec with table := [] } }
    (∀ p ∈ [pk 0x900, pk 0x910, lc, pk 0x911, d], Applies p.op 0 p (on keyed p)) ∧
    (f.ok = true ∧ ready.svpOpen 3 = true ∧ ready.looped 4 0 = false) ∧ n.svpOpen 3 = false ∧ one.svpBlock 0 = none ∧
    ({ one with svp := { one.svp with chunks := [(0, [7])] } } : State).svpBlock 0 = some [7] ∧
    keyed.lcAuth (fld (wordAt ([] : List Byte) 0) 2 0) [] = none ∧
    keyed.lcAuth (fld (wordAt lf.payload 0) 2 0) (wordsOf (lf.payload.drop 4)) = some (some (0, 1)) ∧
    keyed.lcAuth ((pk 0x910).f 4 2 0) (((pk 0x910).params.drop 1).take 20) = none ∧
    keyed.lcAuth (lc.f 4 2 0) ((lc.params.drop 1).take 20) = some (some (0, 1)) ∧
    keyed.ownerSig 6 (((pk 0x911).params.drop 1).take 20) (wordBytes 0) = none ∧
    keyed.ownerSig 6 ((d.params.drop 1).take 20) (wordBytes (d.w 4)) = some (0, 1) ∧
    Granted 48 0x2500004 true ready ∧ Denied 48 0x2500004 true t := by
  have own : keyed.lcAuth 0 (flatBlock 5 1 4) = some (some (0, 1)) := by
    have h : keyed.ownerSig 5 (flatBlock 5 1 4) (wordBytes (wd 0)) = some (0, 1) := flat_signs _ _ _ _ _ _ _ (by decide +kernel)
    rw [State.lcAuth]; simp only [h]; decide +kernel
  refine ⟨allApply _ _ (by decide +kernel), by decide, by decide, by decide +kernel, by decide +kernel, by decide +kernel, ?_, by decide +kernel, own,
    by decide +kernel, flat_signs _ _ _ _ _ _ _ (by decide +kernel), ?_, ?_⟩
  · have h : wordsOf ((wordBytes 0 ++ bytesOf (flatBlock 5 1 4)).drop 4) = flatBlock 5 1 4 := by decide +kernel
    show keyed.lcAuth (fld (wordAt (wordBytes 0 ++ bytesOf (flatBlock 5 1 4)) 0) 2 0) _ = _
    rw [h]; exact own
  · unfold Granted; decide
  · unfold Denied; decide

/-- An update out of a ramp and within one; temperatures below every warning point and above every throttle point; the tenth cool tick;
the island running and not. -/
theorem witness_PowerAndTemperatureAreHeld :
    let r : State := { ready with cpw := { ready.cpw with ramping := true, rampLen := 10 } }
    let c : State := { ready with cpw := { ready.cpw with cool := 9, coreOn := false } }
    (ready.cpw.k ≤ 64 ∧ ready.cpw.ramping = false) ∧ (r.cpw.ramping = true ∧ r.cpw.rampPos + 1 < r.cpw.rampLen) ∧
    ((-2048 : Int) ≤ -2000 ∧ (-2000 : Int) < 2048) ∧
    (¬ tjmax - 8 * (ready.cpw.throttleCfg : Int) ≤ -2000 ∧ (-2000 : Int) < tjmax - 8 * ready.cpw.warn ∧ ready.cpw.cool + 1 ≠ 10) ∧
    (tjmax - 8 * (ready.cpw.throttleCfg : Int) ≤ 2000 ∧ ¬ (2000 : Int) < tjmax - 8 * ready.cpw.warn ∧ ready.cpw.coreOn = true ∧ ready.cpw.reef ≠ 4) ∧
    (c.cpw.coreOn = false ∧ c.cpw.cool + 1 = 10) ∧
    (let w : State := { ready with cpw := { ready.cpw with throttleCfg := 0, warn := 15 } }
     ¬ tjmax - 8 * (w.cpw.throttleCfg : Int) ≤ tjmax - 1 ∧ ¬ tjmax - 1 < tjmax - 8 * (w.cpw.warn : Int)) := by
  have h : tjmax = 840 ∨ tjmax = 760 := by unfold tjmax; split; exacts [.inl rfl, .inr rfl]
  rcases h with h | h <;> rw [h] <;> decide

/-! ### Worked examples of the spec -/

/-- CRC-32C of "123456789" (R42). -/
theorem test_crc32c_check : crc32c [0x31, 0x32, 0x33, 0x34, 0x35, 0x36, 0x37, 0x38, 0x39] = 0xE3069283 := by decide +kernel

/-- The header of the packet of 02's worked example. -/
theorem test_header_of_example :
    let h := hdrOf 3 (wat [0x10090300, 0x2A, 0x00010D11, 4])
    h.opcode = 0x300 ∧ h.ap = 3 ∧ h.sequence = 42 ∧ h.cls = 1 ∧ h.ring = 13 ∧ h.ctx = 17 ∧ h.expert = false := by decide

/-- Word 0 of its two reply records. -/
theorem test_records_of_example :
    wat (({ hdr := hdrOf 3 (wat [0x10090300, 0x2A, 0x00010D11, 4]), status := stPending, fin := false } : Reply).words 13 true) 0 = 0x33000101 ∧
      wat (({ hdr := hdrOf 3 (wat [0x10090300, 0x2A, 0x00010D11, 4]), status := stOk, fin := true } : Reply).words 13 true) 0 = 0x33000300 := by decide

/-- The first four bytes of row 3,000 of 05's worked example. -/
theorem test_e4x_codes_of_example : codesOf 3 8 [0x93, 0x18, 0xE0, 0x68] = [3, 9, 8, 1, 0, 14, 8, 6] := by decide

/-- The output element of 04's worked example: INT8 row 100, -50, 20, 127, E4X row 3, -7, escape 1.8125, 5. -/
def exampleRec : HoldRec :=
  dotRec (([100, 206, 20, 127].map (facOf 4))[·]?) (termsOf 3 [3, 9, 8, 5] [0, 1, 2, 3] [0x3FE8]) {}

/-- Its register, its terms and its residues. -/
theorem test_record_of_example :
    exampleRec.reg = 1285 ∧ exampleRec.terms = 4 ∧ res127 exampleRec.reg = 15 ∧ (res127 exampleRec.reg + res127 exampleRec.esc) % 127 = 83 := by
  decide +kernel

/-- Its BF16 code in modes 0 and 2. -/
theorem test_output_of_example :
    let v := matValue [0x10, 4 * 2 ^ 25, 3 * 2 ^ 25, 0, 0, 0] [0x3C40] [0x3BC0] [] 0 0 exampleRec
    finish 0 0 10 v = 0x3F03 ∧ finish 2 0 10 v = 0x3F04 := by decide +kernel

/-- A still of one grey pixel: quantisation 16, DC tables with one code for category 3, AC tables with one code for the end of a
block, then the bits 0 101 0: the coefficient 5. -/
def exampleStill : List Byte :=
  [0xFF, 0xD8, 0xFF, 0xDB, 0, 67, 0] ++ List.replicate 64 16 ++ [0xFF, 0xC0, 0, 11, 8, 0, 1, 0, 1, 1, 1, 0x11, 0] ++
    ([0xFF, 0xC4, 0, 20, 0x00, 1] ++ List.replicate 15 0 ++ [3]) ++ ([0xFF, 0xC4, 0, 20, 0x10, 1] ++ List.replicate 15 0 ++ [0]) ++
    [0xFF, 0xDA, 0, 8, 1, 1, 0, 0, 63, 0, 0x57, 0xFF, 0xD9]

/-- Its sample by the standard's transform: 5 × 16 / 8 + 128 = 138. -/
theorem test_still_decodes : (match stillDecode exampleStill with | .ok d => d | .error _ => []) = [138] := by decide +kernel

/-- EOI before the MCU is cause 13 (R270). -/
theorem test_still_ends_early :
    (match stillDecode (exampleStill.take 138 ++ [0xFF, 0xD9]) with | .ok _ => 0 | .error e => e) = 13 := by decide +kernel

end Sys2Proof.Tests
end

section
/-! PROOFS. Register accesses of BAR0: where a write goes, and events of the cycle of a read or write that clears. -/

namespace Sys2Proof.Machine

/-! ### The two rows as operations on the state -/

/-- The REGISTER_WRITE row. -/
theorem exec_registerWrite (m : Fin 64) (off len : Nat) (v same : Word) (s : State) :
    exec (.registerWrite m off ⟨v, len, same⟩) s = .next (s.registerWrite m.val off len v same) := rfl

/-- The RC_FIELD_READ row. -/
theorem exec_rcFieldRead (m : Fin 64) (off len same : Nat) (s : State) :
    exec (.rcFieldRead m off ⟨len, same⟩) s = .next (s.registerRead m.val off len same) := rfl

/-- The EVC_PEND_WRITE row. -/
theorem exec_evcPendWrite (m : Fin 64) (g : Fin 16) (v same : Word) (s : State) :
    exec (.evcPendWrite m g v same) s =
      .next (s.checked m.val (0x100140 + 4 * g.val) true fun s => s.evcUnpend g.val v same) := rfl

/-! ### Writes by what becomes of them (R4, R31, R421) -/

section
variable {m off len : Nat} {v same : Word} {s : State}

/-- A register that R421 lets the host read and not write stands in a block that is not read-only. -/
theorem barReadOnly_of_evcShut (h : evcShut off = true) : barReadOnly off = false := by
  unfold evcShut at h
  have hb : off / 0x100000 = 1 := by simpa using (Bool.and_eq_true_iff.mp h).1
  simp [barReadOnly, hb]

/-- A write that R4, R31 or R421 does not allow is an unsupported request. -/
theorem registerWrite_unsupported (h1 : off < cfgBase) (h2 : slotOff off = false) (h3 : headOff off = false)
    (h : barBad off len = true ∨ (m < 16 ∧ evcKept off = true)) : s.registerWrite m off len v same = s.hostUr := by
  rw [registerWrite_plain s m off len v same h1 h2 h3, if_pos h]

/-- So is the host's in D3hot (R30). -/
theorem registerWrite_asleep (h1 : off < cfgBase) (h2 : slotOff off = false) (h3 : headOff off = false)
    (h : Asleep m s) : s.registerWrite m off len v same = s.hostUr := by
  rw [registerWrite_plain s m off len v same h1 h2 h3, checked_asleep h, ite_self]

/-- A write that the map allows is one under the access table. -/
theorem registerWrite_checked (h1 : off < cfgBase) (h2 : slotOff off = false) (h3 : headOff off = false)
    (hb : barBad off len = false) (hk : m < 16 → evcKept off = false) :
    s.registerWrite m off len v same = s.checked m off true fun s =>
      if m < 16 ∧ barReadOnly off then s.upHif fun h => { h with aerUnsupported := true }
      else if m < 16 ∧ evcShut off then s
      else s.writeReg m off v same := by
  have hn : ¬ (barBad off len = true ∨ (m < 16 ∧ evcKept off = true)) := by
    rintro (a | ⟨a, b⟩)
    · simp [hb] at a
    · simp [hk a] at b
  rw [registerWrite_plain s m off len v same h1 h2 h3, if_neg hn]

end

/-! ### Registers that every master may write -/

/-- An offset of a whole word in the blocks of HAL, HIF, SEC or CPW. -/
abbrev PlainReg (off : Nat) : Prop :=
  off % 4 = 0 ∧ (off / 0x100000 = 2 ∨ off / 0x100000 = 3 ∨ off / 0x100000 = 0x25 ∨ off / 0x100000 = 0x27)

/-- What the map says of such an offset: it is no slot, no HEAD register and none that R31 or R421 keeps from a master. -/
theorem PlainReg.map {off : Nat} (h : PlainReg off) :
    off < cfgBase ∧ slotOff off = false ∧ headOff off = false ∧ barBad off 4 = false ∧ evcKept off = false ∧
      barReadOnly off = false ∧ evcShut off = false := by
  obtain ⟨ha, hb⟩ := h
  have hc : off < cfgBase := by unfold cfgBase; omega
  have hk : evcKept off = false := by simp [evcKept]; omega
  rcases hb with hb | hb | hb | hb <;>
    simp [slotOff, headOff, barBad, barOccupied, barReadOnly, evcShut, ha, hb, hc, hk]

/-- A granted write of one has the register's own effect. -/
theorem exec_registerWrite_plainReg {m : Fin 64} {off : Nat} {s : State} (v same : Word) (h : PlainReg off)
    (hg : Granted m.val off true s) :
    exec (.registerWrite m off ⟨v, 4, same⟩) s = .next (s.writeReg m.val off v same) := by
  obtain ⟨hc, hslot, hhead, hbad, hkept, hro, hshut⟩ := h.map
  rw [exec_registerWrite, registerWrite_granted s m.val off 4 v same hc hslot hhead hbad (fun _ => hkept) hg
    (fun _ => ⟨hro, hshut⟩)]

/-! ### The effect of a granted write, block by block (R65, R303, R443, R475) -/

section
variable {off : Nat} (s : State) (m : Nat) (v same : Word)

theorem writeReg_hal (h : off / 0x100000 = 2) : s.writeReg m off v same = s.writeHal off v same := by
  simp [State.writeReg, h]

theorem writeReg_hif (h : off / 0x100000 = 3) : s.writeReg m off v same = s.writeHif off v := by
  simp [State.writeReg, h]

theorem writeReg_sec (h : off / 0x100000 = 0x25) : s.writeReg m off v same = s.writeSec m off v := by
  have hxlt : off ≠ 0x2300000 := by omega
  simp [State.writeReg, h, hxlt]

theorem writeReg_cpw (h : off / 0x100000 = 0x27) : s.writeReg m off v same = s.writeCpw off v same := by
  have hxlt : off ≠ 0x2300000 := by omega
  have htst : off ≠ 0x2600004 := by omega
  simp [State.writeReg, h, hxlt, htst]

/-- The first word of an access-table entry takes a write until the tables are locked (R425). -/
theorem writeSec_table (e : Fin 128) :
    s.writeSec m (0x2501000 + 32 * e.val) v =
      if s.sec.locked then s else { s with sec := { s.sec with
        table := Tab.set s.sec.table e.val ((Tab.get {} s.sec.table e.val).put 0 v) } } := by
  have hentry : (0x2501000 + 32 * e.val - 0x2501000) / 32 = e.val := by omega
  have hword : (0x2501000 + 32 * e.val) / 4 % 8 = 0 := by omega
  unfold State.writeSec
  rw [if_neg (by omega), hentry, hword]
  by_cases hl : s.sec.locked = true
  · rw [if_pos (.inl hl), if_pos hl]
  · have hin : ¬ (s.sec.locked = true ∨ 0x2501000 + 32 * e.val < 0x2501000 ∨ 0x2502000 ≤ 0x2501000 + 32 * e.val) := by
      rintro (h | h)
      · exact hl h
      · omega
    rw [if_neg hin, if_neg hl]
    rfl

end

/-! ### Reads -/

/-- A granted read of a register that is no slot and that no rule keeps from its master. -/
theorem registerRead_granted {m off same : Nat} {s : State} (h1 : off < cfgBase) (h2 : slotOff off = false)
    (hb : barBad off 4 = false) (hk : evcKept off = false) (hg : Granted m off false s) :
    s.registerRead m off 4 same = s.readReg m off same := by
  unfold State.registerRead
  rw [if_neg (by omega), if_neg (by simp [h2]), if_neg (by simp [hb, hk]), checked_granted hg]

/-- CPW_POWER_PEAK gives what it held and takes the power of the same cycle (R475). -/
theorem readReg_powerPeak (s : State) (m same : Nat) : s.readReg m 0x2700008 same =
    (s.upCpw fun x => { x with peak := same }).busWord (wd (s.cpw.peak % 2 ^ 20)) := rfl

/-- PSMC_ERR_IDX gives its fields and takes the lost entries of the same cycle (R191). -/
theorem readReg_errIdx (s : State) (m same : Nat) : s.readReg m 0x22000A0 same =
    (s.upPsmc fun x => { x with logLost := same }).busWord
      (wd (s.psmc.logNext % 16 + 2 ^ 16 * (s.psmc.logLost % 2 ^ 16))) := rfl

/-! ### Pending bits of the event controller -/

/-- After a write of EVC_PENDg the bit of a named source is set by the event of the same cycle, else it is as the write
leaves it. -/
theorem evcUnpend_bit (s : State) (g i : Nat) (v same : Word) (hi : i < 32) (hn : evcNamed (32 * g + i) = true) :
    bit (Tab.get 0 (s.evcUnpend g v same).evc.pend g) i =
      (bit same i || (bit (Tab.get 0 s.evc.pend g) i && !bit v i)) := by
  have hl : ∀ j ∈ bitsOf 32 same.toNat, j < 32 := fun j hj => List.mem_range.mp (List.mem_filter.mp hj).1
  have hclear : bit (Tab.get 0 s.evc.pend g &&& ~~~v) i = (bit (Tab.get 0 s.evc.pend g) i && !bit v i) := by
    simp [bit, hi]
  unfold State.evcUnpend
  rw [events_bits _ g _ hl i hi hn, mem_bitsOf same i hi, ← hclear]
  simp [State.upEvc]

/-! ### The obligations -/

/-- Settles O18: the branches of a plain write, then each register through `exec_registerWrite_plainReg`. -/
theorem registerWritesGoWhereTheMapSays : Obligations.RegisterWritesGoWhereTheMapSays := by
  unfold Obligations.RegisterWritesGoWhereTheMapSays
  intro m off len v same s ur base w
  refine ⟨fun h1 h2 h3 => ⟨?_, fun hb hk => ⟨fun hd => ?_, fun hg hm hro => ?_, fun hg hm hshut => ?_, fun hg hfree => ?_⟩⟩,
    ?_, ?_, ?_, ?_, ?_, ?_⟩
  · rintro (hb | hk | ⟨hm, hd⟩)
    · exact congrArg _ (registerWrite_unsupported h1 h2 h3 (.inl hb))
    · exact congrArg _ (registerWrite_unsupported h1 h2 h3 (.inr hk))
    · exact congrArg _ (registerWrite_asleep h1 h2 h3 (show s.asleep m.val = true by simp [State.asleep, hm, hd]))
  · rw [exec_registerWrite, registerWrite_checked h1 h2 h3 hb hk, checked_denied hd]
  · rw [exec_registerWrite, registerWrite_checked h1 h2 h3 hb hk, checked_granted hg, if_pos ⟨hm, hro⟩]
    rfl
  · rw [exec_registerWrite, registerWrite_checked h1 h2 h3 hb hk, checked_granted hg,
      if_neg (by simp [barReadOnly_of_evcShut hshut]), if_pos ⟨hm, hshut⟩]
  · rw [exec_registerWrite, registerWrite_granted s m.val off len v same h1 h2 h3 hb hk hg hfree]
  · intro hg
    rw [exec_registerWrite_plainReg v same (by decide) hg, writeReg_hif s m.val v same (by decide)]
    rfl
  · intro hg
    rw [exec_registerWrite_plainReg v same (by decide) hg, writeReg_hif s m.val v same (by decide)]
    rfl
  · intro hg
    rw [exec_registerWrite_plainReg v same (by decide) hg, writeReg_hal s m.val v same (by decide)]
    rfl
  · intro hg
    rw [exec_registerWrite_plainReg v same (by decide) hg, writeReg_hal s m.val v same (by decide)]
    rfl
  · intro hg
    rw [exec_registerWrite_plainReg v same (by decide) hg, writeReg_cpw s m.val v same (by decide)]
    rfl
  · intro e hg
    have hplain : PlainReg (0x2501000 + 32 * e.val) := by unfold PlainReg; omega
    rw [exec_registerWrite_plainReg v same hplain hg, writeReg_sec s m.val v same (by omega), writeSec_table]

/-- Settles O19: the reads and the write-1-to-clear registers by their own effect, EVC_PENDg by `evcUnpend_bit`. -/
theorem eventsOfTheSameCycleAreKept : Obligations.EventsOfTheSameCycleAreKept := by
  unfold Obligations.EventsOfTheSameCycleAreKept
  refine ⟨fun m same s => ⟨fun hg => ?_, fun hg => ?_⟩, fun m v same s => ⟨fun hg => ?_, fun hg => ?_⟩,
    fun m g v same s hg => ⟨s.evcUnpend g.val v same, ?_, fun i hn => evcUnpend_bit s g.val i.val v same i.isLt hn⟩⟩
  · rw [exec_rcFieldRead, registerRead_granted (by decide) (by decide) (by decide) (by decide) hg,
      readReg_powerPeak]
    rfl
  · rw [exec_rcFieldRead, registerRead_granted (by decide) (by decide) (by decide) (by decide) hg,
      readReg_errIdx]
    rfl
  · rw [exec_registerWrite_plainReg v same (by decide) hg, writeReg_hal s m.val v same (by decide)]
    rfl
  · rw [exec_registerWrite_plainReg v same (by decide) hg, writeReg_cpw s m.val v same (by decide)]
    rfl
  · rw [exec_evcPendWrite, checked_granted hg]

end Sys2Proof.Machine
end

section
/-! PROOFS. Memory of a context: allocation, host mapping, the end of a range and its scrub. -/

namespace Sys2Proof.Machine

/-! ### A packet that has left the taken list sees the contexts, plans and streams as they were -/

section
variable (s : State) (k c lo hi : Nat)

@[simp] theorem without_ctx : (s.without k).ctx c = s.ctx c := rfl
@[simp] theorem without_ctxTT : (s.without k).ctxTT c = s.ctxTT c := rfl
@[simp] theorem without_staticUsed : (s.without k).staticUsed c = s.staticUsed c := rfl
@[simp] theorem without_planNames : (s.without k).planNames c lo hi = s.planNames c lo hi := rfl
@[simp] theorem without_streamIn : (s.without k).streamIn c lo hi = s.streamIn c lo hi := rfl

end

section
variable {op k c : Nat} {body : Packet → State → Ans} {s t : State} {p : Packet} {a : Ans}

/-- A packet that wants an open context is refused in any other, and in an open one comes to what the rest of its meaning
answers (R63). -/
theorem runPacket_open (h : Applies op k p s) (hb : body p (s.without k) = needState (s.ctxCode c) ctxOpen a)
    (ha : s.after k p a = t) :
    runPacket op k body s = .next
      (if ctxOpen.contains (s.ctxCode c) = false then s.refusal k p stState (wd (s.ctxCode c)) 0 else t) := by
  rw [runPacket_after h, hb, after_needNot, ha]

/-- The end of a range of an open context, by MEM_FREE or, of a host mapping, by MEM_UNMAP: refused where the context has no
such range or a plan or stream names it, else pending until nothing names it (R181). -/
def State.rangeEnded (s : State) (k : Nat) (p : Packet) (host : Bool) : State :=
  let c := p.hdr.ctx
  let va := p.a 4
  match (s.ctx c).maps.find? fun m => m.va == va && m.host == host && !m.freeing && !m.save with
  | none => s.refusal k p stRange (det 4 0) 0
  | some m => match s.planNames c va (va + m.len), s.streamIn c va (va + m.len) with
    | some st, _ => s.refusal k p stState (wd st) 0
    | none, some st => s.refusal k p stState (wd st) 0
    | none, none => ((s.accepted k p (freeKey c va) 0 0).upCtx c fun x =>
        { x with maps := x.maps.map fun q => if q.va = va then { q with freeing := true } else q }).settleFrees c

/-- MEM_FREE and MEM_UNMAP end a range of an open context. -/
theorem runPacket_memEnd (host : Bool) (h : Applies op k p s) :
    runPacket op k (memEnd host) s = .next
      (if ctxOpen.contains (s.ctxCode p.hdr.ctx) = false then s.refusal k p stState (wd (s.ctxCode p.hdr.ctx)) 0
      else s.rangeEnded k p host) := by
  refine runPacket_open h rfl ?_
  unfold State.rangeEnded
  simp only [without_ctx, without_planNames, without_streamIn]
  cases (s.ctx p.hdr.ctx).maps.find? _ with
  | none => rfl
  | some m =>
    dsimp only
    cases s.planNames _ _ _ <;> cases s.streamIn _ _ _ <;> rfl

end

/-- Settles O33: each packet through `runPacket_open`, then by whether a virtual range and a place are found for it. -/
theorem memoryIsAllocatedMappedAndFreed : Obligations.MemoryIsAllocatedMappedAndFreed := by
  unfold Obligations.MemoryIsAllocatedMappedAndFreed
  intro k p s
  refine ⟨fun h he hf => ?_, fun h hn => ?_, fun h => ?_, runPacket_memEnd false, runPacket_memEnd true,
    fun d a t => rfl⟩
  · -- MEM_ALLOC into the explicit Commons
    refine runPacket_open h rfl ?_
    rw [if_pos ⟨he, hf⟩, after_ite]
    refine if_congr Iff.rfl rfl ?_
    simp only [without_ctx, without_ctxTT]
    cases (s.without k).takeCommons _ _ _ <;> cases (s.without k).vaTake _ _ _ _ <;> rfl
  · -- MEM_ALLOC into PSM, or host memory
    have hpsm : ¬ (p.hdr.expert = true ∧ p.f 6 1 0 = 1) := fun ⟨he, hf⟩ => hn.elim (by simp [he]) (· hf)
    refine runPacket_open h rfl ?_
    rw [if_neg hpsm, after_ite]
    refine if_congr Iff.rfl rfl ?_
    simp only [without_ctxTT]
    cases (s.without k).vaTake _ _ _ _ with
    | none => rfl
    | some va =>
      dsimp only
      cases (s.without k).placeParts _ _ _ _ _ _ _ with
      | none => exact after_ite ..
      | some r => rfl
  · -- MEM_MAP_HOST, at the address named or at a chosen one
    refine runPacket_open h rfl ?_
    rw [after_ite]
    refine if_congr Iff.rfl rfl ?_
    rw [after_ite]
    refine if_congr Iff.rfl (after_ite ..) ?_
    cases (s.without k).vaTake _ _ _ _ <;> rfl

end Sys2Proof.Machine
end

section
/-! PROOFS. Network time and Ethernet. -/

namespace Sys2Proof.Machine

/-! ### Announces (R290) -/

section
variable {d : Fin 2} {ann : AnnounceFacts} {s : State}

/-- A device without Halyard, or a domain that is DISABLED, hears no Announce. -/
theorem exec_ptpAnnounceReceive_deaf (h : s.halRuns = false ∨ (s.domain d).state = 0x70) :
    exec (.ptpAnnounceReceive d ann) s = .next s :=
  congrArg _ (if_pos (h.imp_left (by simp [·])))

end

/-! ### Frames that leave (R298, R458) -/

section
variable {port phase : Nat} {s : State}

/-- No frame leaves a port that serves none, is down or is looped. -/
theorem ethTransmit_idle
    (h : s.txClass port = none ∨ (s.hport port).up = false ∨ s.looped 1 port = true) : s.ethTransmit port phase = s := by
  unfold State.ethTransmit
  rcases h with hnone | hshut
  · rw [hnone]
  · cases s.txClass port with
    | none => rfl
    | some q => exact if_pos (by simpa using hshut)

end

/-- Settles O50: the packets by what their meanings answer; every other row by its own branches. -/
theorem networkTimeIsDisciplined : Obligations.NetworkTimeIsDisciplined := by
  unfold Obligations.NetworkTimeIsDisciplined
  intro k p s d sync ann m port data fcsOk oneStep up ph
  refine ⟨fun h => ?_, fun h => runPacket_after h, rfl, rfl, rfl, exec_ptpAnnounceReceive_deaf, fun hrun hon => ?_,
    rfl, rfl, rfl, rfl, fun h => congrArg _ (ethTransmit_idle h), fun tc f hserved hup hloop => ?_, rfl⟩
  · -- HAL_CFG: the two refusals, then the domain as set
    refine (runPacket_after h).trans (congrArg _ ?_)
    rw [after_ite]
    exact if_congr Iff.rfl rfl (after_ite ..)
  · -- an Announce that a domain hears
    exact congrArg _ (if_neg (by simp [hrun, hon]))
  · -- the frame that a port serves, its link up
    show Host.Outcome.next (s.ethTransmit port ph) = _
    unfold State.ethTransmit
    rw [hserved]
    exact congrArg _ (if_neg (by simp [hup, hloop]))

end Sys2Proof.Machine
end

section
/-! PROOFS. Packet rows that wait, or that checks 10 to 12 refuse. -/

set_option Elab.async false

namespace Sys2Proof.Machine

/-- The row of a packet runs its meaning under checks 10 to 12, unless an update packet finds the session's work under way. -/
theorem exec_packet {c : Instr} {op k : Nat} {s : State} (h : packetOf c = some (op, k)) (hu : ¬ updHeld op s) :
    ∃ body, exec c s = runPacket op k body s := by
  cases c
  case updBlock | updVerify | updActivate | updAbort =>
    cases h
    have hw : ¬ s.updWorks = true := fun hw => hu ⟨by decide, by decide, hw⟩
    exact ⟨_, if_neg hw⟩
  all_goals cases h
  all_goals exact ⟨_, rfl⟩

/-- A packet that has to wait, or an update packet that finds work under way, changes nothing. -/
theorem exec_packet_waits {c : Instr} {op k : Nat} {p : Packet} {s : State} (h : packetOf c = some (op, k))
    (hp : s.taken[k]? = some p) (hw : s.mustWait k p = true) : exec c s = .next s := by
  by_cases hu : updHeld op s
  · obtain ⟨h1, h2, h3⟩ := hu
    cases c
    case updBlock | updVerify | updActivate | updAbort => exact if_pos h3
    all_goals cases h
    all_goals exact absurd (And.intro h1 h2) (by decide)
  · obtain ⟨body, he⟩ := exec_packet h hu
    rw [he]
    exact runPacket_idle hp (.inr (.inr hw))

/-- Settles O5, by the two rules of a refused packet (`runPacket_barred`, `runPacket_turned`) at each packet row. -/
theorem refusedPacketsOnlyReply : Obligations.RefusedPacketsOnlyReply := by
  unfold Obligations.RefusedPacketsOnlyReply
  intro c op k p r s hc hu
  obtain ⟨body, he⟩ := exec_packet hc hu
  rw [he]
  exact ⟨runPacket_barred, runPacket_turned⟩

section
variable {c : Instr} {op k : Nat} {p : Packet} {r : Refuse} {s : State}

/-- A packet row that need not wait and that check 10 refuses. -/
theorem exec_barred (hc : packetOf c = some (op, k)) (hu : ¬ updHeld op s) (h : Barred op k p r s) :
    exec c s = .next (s.refusal k p r.1 r.2.1 r.2.2) := by
  obtain ⟨body, he⟩ := exec_packet hc hu
  exact he.trans (runPacket_barred h)

/-- A packet row that need not wait and that check 11 or 12 is to refuse. -/
theorem exec_turned (hc : packetOf c = some (op, k)) (hu : ¬ updHeld op s) (h : Turned op k p r s) :
    ∃ u : Refuse, exec c s = .next (s.refusal k p u.1 u.2.1 u.2.2) ∧ (u.1 = stAuth ∨ u = r) := by
  obtain ⟨body, he⟩ := exec_packet hc hu
  rw [he]
  exact runPacket_turned h

/-! #### The order of check 10 (R46) -/

/-- First, an opcode for aperture 0 alone. -/
theorem objection_supervisor (h : opSupervisor p.op = true ∧ p.hdr.ap ≠ 0) : s.objection p = some (stAuth, 0, 0) :=
  if_pos h

/-- Then the client's classes. -/
theorem objection_class (h : ¬ (opSupervisor p.op = true ∧ p.hdr.ap ≠ 0))
    (hc : (s.client p.hdr.ap).classes.getLsbD p.hdr.cls = false) : s.objection p = some (stAuth, 0, 0) := by
  unfold State.objection
  rw [if_neg h, if_pos (by simp [hc])]

/-- Then the context it names, and that context's client. -/
theorem objection_context (h : ¬ (opSupervisor p.op = true ∧ p.hdr.ap ≠ 0))
    (hc : (s.client p.hdr.ap).classes.getLsbD p.hdr.cls = true) :
    s.objection p =
      if p.hdr.ctx ≠ 255 ∧ ¬ (s.ctx p.hdr.ctx).present = true then some (stState, if s.devLegal p then 0 else wd s.dev, 0)
      else if p.hdr.ctx ≠ 255 ∧ (s.ctx p.hdr.ctx).client ≠ p.hdr.ap ∧ ¬ (p.hdr.ap = 0 ∧ (opIsQuery p.op = true ∨ opEnds p.op = true)) then
        some (stAuth, 0, 0)
      else none := by
  unfold State.objection
  rw [if_neg h, if_neg (by simp [hc])]

/-- A packet that names no context, or one of its own client, meets no objection after that of the class. -/
theorem objection_none (h : ¬ (opSupervisor p.op = true ∧ p.hdr.ap ≠ 0))
    (hc : (s.client p.hdr.ap).classes.getLsbD p.hdr.cls = true)
    (hx : p.hdr.ctx = 255 ∨ ((s.ctx p.hdr.ctx).present = true ∧ (s.ctx p.hdr.ctx).client = p.hdr.ap)) : s.objection p = none := by
  rw [objection_context h hc]
  rcases hx with hx | ⟨hp, ho⟩
  · rw [if_neg (fun h => h.1 hx), if_neg (fun h => h.1 hx)]
  · rw [if_neg (fun h => h.2 hp), if_neg (fun h => h.2.1 ho)]

/-! #### Checks 11 and 12 -/

/-- A class that is not the context's. -/
theorem bar_class (hx : p.hdr.ctx ≠ 255) (h : (s.ctx p.hdr.ctx).cls ≠ p.hdr.cls) : s.bar p = some (stFormat, det 2 16, 0) :=
  if_pos ⟨hx, h⟩

/-- A device state that does not allow the opcode (R63). -/
theorem bar_device (h : p.hdr.ctx = 255 ∨ (s.ctx p.hdr.ctx).cls = p.hdr.cls) (hd : s.devLegal p = false) :
    s.bar p = some (stState, wd s.dev, 0) := by
  unfold State.bar
  rw [if_neg (by rintro ⟨hx, hn⟩; exact h.elim hx hn), if_pos (by simp [hd])]

end

/-- Settles O6, by the order of the checks in `objection` and `bar`. -/
theorem admissionOrder : Obligations.AdmissionOrder := by
  unfold Obligations.AdmissionOrder
  intro c op k p s hc hdue hu x
  have hop : p.op = op := hdue.2.1
  subst hop
  have barred {r : Refuse} (h : (s.without k).objection p = some r) := exec_barred hc hu ⟨hdue, h⟩
  have turned {r : Refuse} (h : (s.without k).objection p = none) (hb : (s.without k).bar p = some r) :=
    exec_turned hc hu ⟨hdue, h, hb⟩
  refine ⟨fun hsup => barred (objection_supervisor hsup), fun hsup => ⟨fun hcls => barred (objection_class hsup hcls), fun hcls => ?_⟩⟩
  refine ⟨fun hx hp hl => ?_, fun hx hp => ⟨fun ho hq => ?_, fun ho hk => ?_, fun ho hk hd => ?_⟩, fun hx hd => ?_⟩
  · have hn : ¬ x.present = true := by simp [hp]
    have h := (objection_context (s := s.without k) hsup hcls).trans (if_pos ⟨hx, hn⟩)
    rw [if_pos (show (s.without k).devLegal p = true from hl)] at h
    exact barred h
  · have h := (objection_context (s := s.without k) hsup hcls).trans (if_neg fun h => h.2 hp)
    exact barred (h.trans (if_pos ⟨hx, ho, hq⟩))
  · exact turned (objection_none hsup hcls (.inr ⟨hp, ho⟩)) (bar_class hx hk)
  · exact turned (objection_none hsup hcls (.inr ⟨hp, ho⟩)) (bar_device (.inr hk) hd)
  · exact turned (objection_none hsup hcls (.inl hx)) (bar_device (.inl hx) hd)

/-- Settles O7: each of the three clauses makes `mustWait` true. -/
theorem waitingPackets : Obligations.WaitingPackets := by
  unfold Obligations.WaitingPackets
  intro c op k p s hc hp
  refine ⟨fun i q hi hq hw ho hqo => ?_, fun i q hi hq ho ha => ?_, fun o ho hord ha hno => ?_⟩
  all_goals refine exec_packet_waits hc hp ?_
  · have hm : q ∈ s.taken.take k := List.mem_of_getElem? ((List.getElem?_take_of_lt hi).trans hq)
    have hs : p.object.isSome = true := Option.isSome_iff_ne_none.mpr ho
    have ha : (s.taken.take k).any (fun q => p.object.isSome && q.object == p.object && !q.waiting) = true :=
      List.any_eq_true.mpr ⟨q, hm, by simp [hs, hqo, hw]⟩
    simp only [State.mustWait, ha, Bool.true_or]
  · have hm : q ∈ s.taken.take k := List.mem_of_getElem? ((List.getElem?_take_of_lt hi).trans hq)
    have ha : (s.taken.take k).any (fun q => q.hdr.ap = p.hdr.ap) = true := List.any_eq_true.mpr ⟨q, hm, by simp [ha]⟩
    simp only [State.mustWait, ha, ho, Bool.true_or, Bool.true_and, Bool.or_true]
  · have ha : s.opens.any (fun o => o.hdr.ap = p.hdr.ap ∧ o.hdr.no < p.hdr.no) = true :=
      List.any_eq_true.mpr ⟨o, ho, by simp [ha, hno]⟩
    simp only [State.mustWait, ha, hord, Bool.or_true, Bool.true_and]

end Sys2Proof.Machine
end

section
/-! PROOFS. Reply records, and what a final reply does to its ring and aperture. -/

set_option Elab.async false

namespace Sys2Proof.Machine

/-! ### Reply records (R52) -/

/-- A flag in its place is the place's weight, once or not at all. -/
theorem bitAt_eq (b : Bool) (i : Nat) : bitAt b i = 2 ^ i * b.toNat := by cases b <;> simp [bitAt]

/-- Word 0 of a record as a sum: status, opcode and aperture, and the flags by their places. -/
def replyWord0 (status opcode ap : Nat) (f : Nat → Bool) : Nat :=
  status + 2 ^ 8 * (f 8).toNat + 2 ^ 9 * (f 9).toNat + 2 ^ 10 * (f 10).toNat + 2 ^ 12 * (f 12).toNat + 2 ^ 13 * (f 13).toNat +
    2 ^ 14 * (f 14).toNat + 2 ^ 15 * (f 15).toNat + 2 ^ 16 * opcode + 2 ^ 28 * ap

/-- The flags of a record's word 0, by their places. -/
def Reply.flag (r : Reply) (phase : Bool) : Nat → Bool
  | 8 => phase
  | 9 => r.fin
  | 10 => r.cancelled
  | 12 => r.hdr.expert
  | 13 => r.hdr.quiet
  | 14 => r.hdr.ordered
  | 15 => r.hdr.top
  | _ => false

theorem Reply.words_eq (r : Reply) (ring : Nat) (phase : Bool) :
    r.words ring phase =
      [wd (replyWord0 r.status r.hdr.opcode r.hdr.ap (r.flag phase)), r.hdr.sequence,
       wd (r.hdr.ctx + 2 ^ 8 * ring + 2 ^ 16 * r.fault), r.detail0, r.detail1, r.resultLo, r.resultHi, r.time] := by
  simp only [Reply.words, replyWord0, bitAt_eq]
  rfl

section
variable {status opcode ap : Nat} {f : Nat → Bool} (hs : status < 2 ^ 8) (ho : opcode < 2 ^ 12) (ha : ap < 2 ^ 4)
include hs

/-- A flag is read at its place. -/
theorem replyWord0_flag (i : Nat) (hi : i ∈ [8, 9, 10, 12, 13, 14, 15]) : bit (wd (replyWord0 status opcode ap f)) i = f i := by
  have le (j : Nat) : (f j).toNat ≤ 1 := Bool.toNat_le _
  have h : replyWord0 status opcode ap f / 2 ^ i % 2 = (f i).toNat := by
    have h8 := le 8
    have h9 := le 9
    have h10 := le 10
    have h12 := le 12
    have h13 := le 13
    have h14 := le 14
    have h15 := le 15
    unfold replyWord0
    simp only [List.mem_cons, List.not_mem_nil, or_false] at hi
    rcases hi with rfl | rfl | rfl | rfl | rfl | rfl | rfl <;> norm_num at * <;> omega
  have hi32 : i < 32 := by
    simp only [List.mem_cons, List.not_mem_nil, or_false] at hi
    omega
  rw [bit_wd _ _ hi32, h]
  cases f i <;> rfl

/-- Place 11 holds no flag. -/
theorem replyWord0_eleven : bit (wd (replyWord0 status opcode ap f)) 11 = false := by
  have le (j : Nat) : (f j).toNat ≤ 1 := Bool.toNat_le _
  have h : replyWord0 status opcode ap f / 2 ^ 11 % 2 = 0 := by
    have h8 := le 8
    have h9 := le 9
    have h10 := le 10
    unfold replyWord0
    norm_num at *
    omega
  rw [bit_wd _ _ (by decide), h]
  rfl

include ho ha

/-- Status, opcode and aperture are read at theirs. -/
theorem replyWord0_fields :
    fld (wd (replyWord0 status opcode ap f)) 7 0 = status ∧ fld (wd (replyWord0 status opcode ap f)) 27 16 = opcode ∧
      fld (wd (replyWord0 status opcode ap f)) 31 28 = ap := by
  have le (j : Nat) : (f j).toNat ≤ 1 := Bool.toNat_le _
  have h8 := le 8
  have h9 := le 9
  have h10 := le 10
  have h12 := le 12
  have h13 := le 13
  have h14 := le 14
  have h15 := le 15
  rw [fld_wd _ 7 0 (by decide) (by decide), fld_wd _ 27 16 (by decide) (by decide), fld_wd _ 31 28 (by decide) (by decide)]
  unfold replyWord0
  norm_num at *
  and_intros <;> omega

end

/-- Word 2 of a record: context, ring and fault code. -/
theorem replyWord2_fields {ctx ring fault : Nat} (hc : ctx < 2 ^ 8) (hr : ring < 2 ^ 8) (hf : fault < 2 ^ 16) :
    fld (wd (ctx + 2 ^ 8 * ring + 2 ^ 16 * fault)) 7 0 = ctx ∧ fld (wd (ctx + 2 ^ 8 * ring + 2 ^ 16 * fault)) 15 8 = ring ∧
      fld (wd (ctx + 2 ^ 8 * ring + 2 ^ 16 * fault)) 31 16 = fault := by
  rw [fld_wd _ 7 0 (by decide) (by decide), fld_wd _ 15 8 (by decide) (by decide), fld_wd _ 31 16 (by decide) (by decide)]
  norm_num at *
  and_intros <;> omega

/-- Settles O12, field by field. -/
theorem replyRecordLayout : Obligations.ReplyRecordLayout := by
  unfold Obligations.ReplyRecordLayout
  intro r ring phase hs ho ha hc hf w
  have flag := replyWord0_flag (opcode := r.hdr.opcode) (ap := r.hdr.ap) (f := r.flag phase) hs
  obtain ⟨hstatus, hopcode, hap⟩ := replyWord0_fields (f := r.flag phase) hs ho ha
  obtain ⟨hctx, hring, hfault⟩ := replyWord2_fields hc ring.isLt hf
  have h0 : w 0 = wd (replyWord0 r.status r.hdr.opcode r.hdr.ap (r.flag phase)) := by simp only [w, Reply.words_eq]; rfl
  rw [h0]
  exact ⟨rfl, hstatus, flag 8 (by decide), flag 9 (by decide), flag 10 (by decide), replyWord0_eleven hs, flag 12 (by decide),
    flag 13 (by decide), flag 14 (by decide), flag 15 (by decide), hopcode, hap, rfl, hctx, hring, hfault, rfl, rfl, rfl, rfl, rfl⟩

/-! ### Final replies (R51, R54) -/

/-- A record that finds its ring full is counted among those that waited, and in no counter of refusals. -/
theorem pushReply_ap (s : State) (n : Nat) (r : Reply) :
    ((s.pushReply n r).ap r.hdr.ap).cntState = (s.ap r.hdr.ap).cntState ∧
    ((s.pushReply n r).ap r.hdr.ap).cntSeal = (s.ap r.hdr.ap).cntSeal ∧
    ((s.pushReply n r).ap r.hdr.ap).cntRefuse = (s.ap r.hdr.ap).cntRefuse ∧
    (∀ m, m ≠ r.hdr.ap → (s.pushReply n r).ap m = s.ap m) := by
  unfold State.pushReply
  dsimp only
  split
  · split
    · simp only [ap_up_ring, State.upAp_ap, true_and]
      exact fun m hm => State.upAp_other _ _ _ _ (Ne.symm hm)
    · exact ⟨rfl, rfl, rfl, fun _ _ => rfl⟩
  · exact ⟨rfl, rfl, rfl, fun _ _ => rfl⟩

/-- A registered ring's hold gains the record at its end; other rings stay (R51). -/
theorem pushReply_ring (s : State) (n : Nat) (r : Reply) :
    (s.pushReply n r).ring n = { s.ring n with wait := if (s.ring n).registered = false then (s.ring n).wait else (s.ring n).wait ++ [r] } ∧
    (∀ j, j ≠ n → (s.pushReply n r).ring j = s.ring j) := by
  unfold State.pushReply
  dsimp only
  split
  case isTrue hr =>
    have hw : ∀ w : List Reply, (if (s.ring n).registered = false then (s.ring n).wait else w) = w := fun w => by simp [hr]
    rw [hw]
    split
    · refine ⟨?_, fun j hj => ?_⟩
      · rw [State.upRing_ring, ring_up_ap]
      · rw [State.upRing_other _ _ _ _ (Ne.symm hj), ring_up_ap]
    · exact ⟨State.upRing_ring _ _ _, fun j hj => State.upRing_other _ _ _ _ (Ne.symm hj)⟩
  case isFalse hr =>
    have hr : (s.ring n).registered = false := by simpa using hr
    rw [if_pos hr]
    exact ⟨rfl, fun _ _ => rfl⟩

/-- A ring gives one reservation back; other rings and the apertures stay. -/
theorem unreserve_ring (s : State) (n : Nat) :
    (s.unreserve n).ring n = { s.ring n with reserved := (s.ring n).reserved - 1 } ∧
    (∀ j, j ≠ n → (s.unreserve n).ring j = s.ring j) ∧ (∀ m, (s.unreserve n).ap m = s.ap m) :=
  ⟨State.upRing_ring _ _ _, fun _ hj => State.upRing_other _ _ _ _ (Ne.symm hj), fun _ => rfl⟩

/-- A final reply: its status counted, its reservation given back, and its record, unless QUIET and ST_OK, pushed. -/
theorem final_eq (s : State) (h : Hdr) (st : Nat) (f : RF) :
    s.final h st f =
      if h.quiet = true ∧ st = 0 then (s.countFinal h.ap st).unreserve h.ring
      else ((s.countFinal h.ap st).unreserve h.ring).pushReply h.ring (s.mkReply h st f true false) := by
  have hm : ((s.countFinal h.ap st).unreserve h.ring).mkReply h st f true false = s.mkReply h st f true false := by
    simp [State.mkReply]
  rw [← hm]
  rfl

/-- Settles O11: the count of a final status (`countFinal_ap`), the reservation and the hold, one after another. -/
theorem finalReplyCountsAndReserves : Obligations.FinalReplyCountsAndReserves := by
  unfold Obligations.FinalReplyCountsAndReserves
  intro h st f s u refused
  obtain ⟨cState, cSeal, cRefuse, cOther⟩ := countFinal_ap s h.ap st
  obtain ⟨uRing, uOther, uAp⟩ := unreserve_ring (s.countFinal h.ap st) h.ring
  rw [State.countFinal_ring] at uRing
  have uOther (j) (hj : j ≠ h.ring) := (uOther j hj).trans (State.countFinal_ring s h.ap st j)
  refine ⟨State.final_says s h st f, ?_⟩
  by_cases hq : h.quiet = true ∧ st = 0
  · have hu : u = (s.countFinal h.ap st).unreserve h.ring := (final_eq s h st f).trans (if_pos hq)
    rw [hu]
    simp only [uAp]
    refine ⟨cState, cSeal, cRefuse, cOther, ?_, uOther⟩
    rw [uRing, if_pos (.inr hq)]
  · have hu : u = ((s.countFinal h.ap st).unreserve h.ring).pushReply h.ring (s.mkReply h st f true false) :=
      (final_eq s h st f).trans (if_neg hq)
    obtain ⟨pState, pSeal, pRefuse, pOther⟩ :=
      pushReply_ap ((s.countFinal h.ap st).unreserve h.ring) h.ring (s.mkReply h st f true false)
    obtain ⟨pRing, pRings⟩ := pushReply_ring ((s.countFinal h.ap st).unreserve h.ring) h.ring (s.mkReply h st f true false)
    rw [hu]
    refine ⟨pState.trans cState, pSeal.trans cSeal, pRefuse.trans cRefuse, fun n hn => (pOther n hn).trans (cOther n hn), ?_,
      fun j hj => (pRings j hj).trans (uOther j hj)⟩
    rw [pRing, uRing]
    simp only [hq, or_false]
    rfl

end Sys2Proof.Machine
end

section
/-! PROOFS. Writes of the host to an aperture: turned away, or put in place and examined. -/

set_option Elab.async false

namespace Sys2Proof.Machine

/-! ### Writes of the host to an aperture (R29, R36, R37) -/

/-- A write to a slot, by what becomes of it. -/
theorem exec_slotWrite (ap : Fin 16) (off : Nat) (ws : List Word) (full : Bool) (s : State) :
    exec (.slotWrite ap off ws full) s = .next (s.slotWrite ap.val off ws full) := rfl

/-- Settles O9, by the order of the conditions of `slotWrite`. -/
theorem hostWritesTurnedAway : Obligations.HostWritesTurnedAway := by
  unfold Obligations.HostWritesTurnedAway
  intro ap off ws full s counted bad
  simp only [exec_slotWrite, State.slotWrite]
  refine ⟨fun hd => ?_, fun hd hl => ?_, fun hd hl hb => ?_, rfl, rfl⟩
  · rw [if_pos hd]
    rfl
  · rw [if_neg (by simp [hd]), if_pos hl]
    rfl
  · have hb' : ¬ s.apOn ap.val = true ∨ off % 4 ≠ 0 ∨ ¬ full = true ∨ 3 ≤ off / 0x4000 ∨
        ((s.ap ap.val).slot (off / 0x4000)).busy = true ∨ 4094 < off % 0x4000 / 4 + ws.length := by
      have h3 : 3 ≤ off / 0x4000 ↔ 0xC000 ≤ off := by omega
      simpa only [Bool.not_eq_true, h3] using hb
    rw [if_neg (by simp [hd]), if_neg (by omega), if_pos hb']
    rfl

/-- Slot `i` after a change of it. -/
theorem slot_upApSlot (s : State) (n i : Nat) (g : Slot → Slot) (hi : i < 3) :
    ((s.upApSlot n i g).ap n).slot i = g ((s.ap n).slot i) := by
  unfold State.upApSlot
  rw [State.upAp_ap, slot_setSlot _ _ _ hi]

/-- The examination of a slot whose words are `w` (R37). -/
theorem examine_eq (s : State) (n i first count : Nat) {w : Nat → Word} (hw : ∀ k, Tab.get 0 ((s.ap n).slot i).words k = w k) :
    s.examine n i first count =
      if first = 0 ∧ fld (w 0) 27 16 = 0 then s
      else if first = 0 ∧ (fld (w 0) 27 16 < 5 ∨ fld (w 0) 27 16 = 4095) then
        (s.upApSlot n i fun x => { x with busy := true }).refuseSlot n i { status := stRange, detail0 := det 0 16, hdr := hdrOf n w }
      else if 5 ≤ fld (w 0) 27 16 ∧ fld (w 0) 27 16 ≤ 4094 ∧ first ≤ fld (w 0) 27 16 - 1 ∧ fld (w 0) 27 16 - 1 < first + count then
        (s.upApSlot n i fun x =>
          { x with busy := true, snap := some ((List.range (fld (w 0) 27 16)).map w), order := s.hif.sealOrder }).upHif fun h =>
            { h with sealOrder := s.hif.sealOrder + 1 }
      else s := by
  obtain rfl : (fun k => Tab.get 0 ((s.ap n).slot i).words k) = w := funext hw
  unfold State.examine
  simp only [badLength, decide_eq_true_eq]
  rfl

/-- Settles O8: the words land (`putWords_get`), and the examination finds its three moments. -/
theorem slotWriteExaminesTheSlot : Obligations.SlotWriteExaminesTheSlot := by
  unfold Obligations.SlotWriteExaminesTheSlot
  intro ap i first ws s x hd hl hon hbusy hws hlen after l
  let u := s.upApSlot ap.val i.val fun x => { x with words := putWords x.words first ws }
  have hpos : 0 < ws.length := List.length_pos_iff.mpr hws
  obtain ⟨hi, hoff⟩ := slotAt (4 * first) i.val (by omega)
  have hslot : (u.ap ap.val).slot i.val = { x with words := putWords x.words first ws } := slot_upApSlot s ap.val i.val _ i.isLt
  have hwords (k : Nat) : Tab.get 0 ((u.ap ap.val).slot i.val).words k = after k := by
    rw [hslot]
    exact putWords_get x.words first ws k
  refine ⟨u, hwords, ?_, fun y => ?_, fun n hn => State.upAp_other _ _ _ _ (Ne.symm hn), rfl, rfl, ?_⟩
  · rw [hslot]
  · simp only [u, State.upApSlot, State.upAp_ap]
    exact setSlot_setSlot _ _ _ _
  · have hgo : s.slotWrite ap.val (0x4000 * i.val + 4 * first) ws true = u.examine ap.val i.val first ws.length := by
      have hfirst : (0x4000 * i.val + 4 * first) % 0x4000 / 4 = first := by rw [hoff]; omega
      have hbusy' : ¬ ((s.ap ap.val).slot i.val).busy = true := by simpa using hbusy
      have hfree : ¬ (¬ s.apOn ap.val = true ∨ (0x4000 * i.val + 4 * first) % 4 ≠ 0 ∨ ¬ true = true ∨ 3 ≤ i.val ∨
          ((s.ap ap.val).slot i.val).busy = true ∨ 4094 < first + ws.length) := by
        rintro (h | h | h | h | h | h)
        · exact h hon
        · omega
        · exact h rfl
        · omega
        · exact hbusy' h
        · omega
      have hsome : ¬ ws.isEmpty = true := by simpa using hws
      unfold State.slotWrite
      rw [hi, hfirst, if_neg (by simp [hd]), if_neg (by omega), if_neg hfree, if_neg hsome]
    rw [exec_slotWrite, hgo, examine_eq u ap.val i.val first ws.length hwords]
    rfl

end Sys2Proof.Machine
end

section
/-! PROOFS. Reply rings: the record at the tail, the head between head and tail. -/

set_option Elab.async false

namespace Sys2Proof.Machine

/-! ### Reply rings (R34, R50) -/

/-- The message of a ring's unsignalled records: none is unsignalled after it, and nothing else of the rings changes. -/
theorem signalRing_says (s : State) (n : Nat) :
    (s.signalRing n).ring n = { s.ring n with unsignalled := 0 } ∧ (∀ j, j ≠ n → (s.signalRing n).ring j = s.ring j) ∧
      { s.signalRing n with hif := s.hif, evc := s.evc, outs := s.outs } = s := by
  unfold State.signalRing
  by_cases h : (s.ring n).unsignalled = 0
  · rw [if_pos h]
    refine ⟨?_, fun _ _ => rfl, rfl⟩
    conv_rhs => rw [← h]
  · rw [if_neg h]
    refine ⟨?_, fun j hj => ?_, ?_⟩
    · rw [msix_ring, State.upRing_ring]
    · rw [msix_ring, State.upRing_other _ _ _ _ (Ne.symm hj)]
    · obtain ⟨p, e, o, hm⟩ := State.msix_says (s.upRing n fun x => { x with unsignalled := 0 }) (s.ring n).vector
      rw [hm]
      rfl

/-- The tail after a record. -/
def Ring.nextTail (r : Ring) : Nat := (r.tail + 1) % r.size

/-- A ring whose hold has lost its oldest record, written at the tail at `now`. -/
def Ring.recorded (r : Ring) (rest : List Reply) (now : Nat) : Ring :=
  { r with wait := rest, tail := r.nextTail, phase := if r.nextTail = 0 then !r.phase else r.phase, unsignalled := r.unsignalled + 1
           sigAt := if r.unsignalled = 0 then now else r.sigAt }

/-- The state with the oldest record of ring `n` in host memory, not signalled yet. -/
def State.recorded (s : State) (n : Nat) (x : Reply) (rest : List Reply) : State :=
  ((s.wrHost ((s.ring n).addr + 32 * (s.ring n).tail) (bytesOf (x.words n (s.ring n).phase))).setRing n
    ((s.ring n).recorded rest s.hal.nowNs)).upAp x.hdr.ap fun a => { a with statRecords := a.statRecords + 1 }

/-- REPLY_RECORD_WRITE of a ring with a record and room for it. -/
theorem writeRecord_cons {s : State} {n : Nat} {x : Reply} {rest : List Reply} (hw : (s.ring n).wait = x :: rest)
    (hr : (s.ring n).registered = true) (hf : (s.ring n).full = false) (hd : s.hif.d3hot = false) :
    s.writeRecord n = if (s.ring n).modTime = 0 ∨ (s.ring n).modCount ≤ (s.ring n).unsignalled + 1 then (s.recorded n x rest).signalRing n
      else s.recorded n x rest := by
  have hgo : ¬ (¬ (s.ring n).registered = true ∨ (s.ring n).full = true ∨ s.hif.d3hot = true) := by simp [hr, hf, hd]
  unfold State.writeRecord
  dsimp only
  rw [hw]
  exact if_neg hgo

/-- What it leaves of a ring that writes nothing: everything. -/
theorem writeRecord_idle {s : State} {n : Nat}
    (h : (s.ring n).wait = [] ∨ (s.ring n).registered = false ∨ (s.ring n).full = true ∨ s.hif.d3hot = true) : s.writeRecord n = s := by
  unfold State.writeRecord
  dsimp only
  split
  case h_1 => rfl
  case h_2 x rest hw =>
    rw [hw] at h
    refine if_pos ?_
    rcases h with h | h | h | h
    · cases h
    · exact .inl (by simp [h])
    · exact .inr (.inl h)
    · exact .inr (.inr h)

theorem Ring.full_iff (r : Ring) : r.full = true ↔ (r.tail + 1) % 2 ^ r.k = r.head := beq_iff_eq

theorem exec_replyRecordWrite (ring : Fin 64) (s : State) : exec (.replyRecordWrite ring) s = .next (s.writeRecord ring.val) := rfl

theorem exec_hifApHeadWrite (ap : Fin 16) (k : Fin 4) (v : Word) (s : State) :
    exec (.hifApHeadWrite ap k v) s = .next (s.headWrite ap.val ap.val k.val v) := rfl

/-- A head that the host may write now: taken between head and tail, else counted (R50). -/
theorem headWrite_granted {s : State} {m n k : Nat} (v : Word) (hon : s.apOn n = true)
    (hg : Granted m (0x400000 + 0x10000 * n + 0xC010 + 8 * k) true s) :
    s.headWrite m n k v =
      if (s.ring (4 * n + k)).registered = true ∧ fld v 15 0 < (s.ring (4 * n + k)).size ∧
          (fld v 15 0 + (s.ring (4 * n + k)).size - (s.ring (4 * n + k)).head) % (s.ring (4 * n + k)).size ≤ (s.ring (4 * n + k)).used
      then s.setRing (4 * n + k) { s.ring (4 * n + k) with head := fld v 15 0 } else s.apDiscard n := by
  have ha : ¬ s.asleep m = true := by simp [hg.1]
  unfold State.headWrite
  dsimp only
  rw [if_neg ha, if_neg (by simp [hon]), checked_granted hg]

/-- Settles O13: the written record, and the two outcomes of a head. -/
theorem replyRingKeepsItsOrder : Obligations.ReplyRingKeepsItsOrder := by
  unfold Obligations.ReplyRingKeepsItsOrder
  constructor
  · intro ring x rest s r
    refine ⟨fun h => ?_, fun hw hr hf hd => ?_⟩
    · rw [exec_replyRecordWrite, writeRecord_idle (by simpa only [Ring.full_iff] using h)]
    · have hf : (s.ring ring.val).full = false := by simpa using mt (Ring.full_iff _).mp hf
      have own : (s.recorded ring.val x rest).ring ring.val = r.recorded rest s.hal.nowNs := State.setRing_ring _ _ _
      have other (j) (hj : j ≠ ring.val) : (s.recorded ring.val x rest).ring j = s.ring j := State.setRing_other _ _ _ _ (Ne.symm hj)
      obtain ⟨sOwn, sOther, sFrame⟩ := signalRing_says (s.recorded ring.val x rest) ring.val
      refine ⟨_, (exec_replyRecordWrite ring s).trans (congrArg _ (writeRecord_cons hw hr hf hd)), ?_⟩
      by_cases hm : r.modTime = 0 ∨ r.modCount ≤ r.unsignalled + 1
      · rw [if_pos hm, if_pos hm, sOwn, own]
        have hmem : ((s.recorded ring.val x rest).signalRing ring.val).mem = (s.recorded ring.val x rest).mem :=
          (congrArg State.mem sFrame :)
        rw [hmem]
        refine ⟨rfl, rfl, rfl, rfl, rfl, rfl, rfl, fun j hj => (sOther j hj).trans (other j hj), ?_⟩
        exact (congrArg (fun t : State => { t with hif := s.hif, evc := s.evc, outs := s.outs, mem := s.mem }) sFrame :)
      · rw [if_neg hm, if_neg hm, own]
        exact ⟨rfl, rfl, rfl, rfl, rfl, rfl, rfl, other, rfl⟩
  · intro ap k v s n r h hd hon hu hal
    have hasleep : s.asleep ap.val = false := by simp [State.asleep, hd]
    rw [exec_hifApHeadWrite, headWrite_granted v hon ⟨hasleep, hu, hal⟩]
    rfl

end Sys2Proof.Machine
end

section
/-! PROOFS. Intake of a sealed slot, and its refusals. -/

set_option Elab.async false

namespace Sys2Proof.Machine

/-! ### Intake (R38, R39, R43, R51) -/

theorem exec_packetIntake (ap : Fin 16) (i : Fin 3) (s : State) : exec (.packetIntake ap i) s = .next (s.packetIntake ap.val i.val) := rfl

/-- The state in which the round-robin has gone past aperture `n`, unless a SAFETY packet was taken out of turn (R39). -/
def State.pastTurn (s : State) (n : Nat) : State :=
  if s.headSafety n then s else { s with hif := { s.hif with rrNext := (n + 1) % 16 } }

/-- Nothing that intake looks at changes with the turn. -/
theorem pastTurn_says (s : State) (n : Nat) :
    (∀ m, (s.pastTurn n).ap m = s.ap m) ∧ (∀ j, (s.pastTurn n).ring j = s.ring j) ∧
      (∀ ws, (s.pastTurn n).intakeCheck n ws = s.intakeCheck n ws) ∧ { s.pastTurn n with hif := s.hif } = s := by
  unfold State.pastTurn
  split
  · exact ⟨fun _ => rfl, fun _ => rfl, fun _ => rfl, rfl⟩
  · exact ⟨fun _ => rfl, fun _ => rfl, fun _ => rfl, rfl⟩

/-- The packet that a snapshot of aperture `n` holds, taken as number `no`. -/
def packetIn (n : Nat) (ws : List Word) (no : Nat) : Packet :=
  { hdr := { hdrOf n (wat ws) with no := no }, params := (ws.drop 4).dropLast }

/-- The slot is freed and the packet counted as taken (R38). -/
def State.leftSlot (s : State) (n i : Nat) : State :=
  (s.freeSlot n i).upAp n fun a => { a with cntTaken := a.cntTaken + 1, statTaken := a.statTaken + 1 }

/-- The packet is in intake, and a record of its ring's hold reserved; after DEV_RESET_COMPUTE it is discarded (R51, R468). -/
def State.took (s : State) (n : Nat) (ws : List Word) : State :=
  if s.discard then s
  else ({ s with taken := s.taken ++ [packetIn n ws s.takenNo], takenNo := s.takenNo + 1 } : State).upRing (hdrOf n (wat ws)).ring
    fun r => { r with reserved := r.reserved + 1 }

/-- Intake of a sealed slot whose turn it is. -/
theorem packetIntake_turn {s : State} {n i : Nat} {ws : List Word} (hs : ((s.ap n).slot i).snap = some ws) (hp : s.hif.pause = false)
    (hr : s.hif.ready = true) (hd : s.hif.d3hot = false) (hn : s.nextSlot n = some i) (hc : s.canTake n i = true) (ht : s.turnOf n = true) :
    s.packetIntake n i = match s.intakeCheck n ws with
      | some r => (s.pastTurn n).refuseSlot n i { status := r.1, detail0 := r.2.1, hdr := hdrOf n (wat ws) }
      | none => ((s.pastTurn n).leftSlot n i).took n ws := by
  have hgo : ¬ (s.hif.pause = true ∨ ¬ s.hif.ready = true ∨ s.hif.d3hot = true ∨ s.nextSlot n ≠ some i ∨ ¬ s.canTake n i = true ∨
      ¬ s.turnOf n = true) := by simp [hp, hr, hd, hn, hc, ht]
  rw [← (pastTurn_says s n).2.2.1 ws]
  unfold State.packetIntake
  rw [hs]
  dsimp only
  rw [if_neg hgo]
  rfl

/-- While intake pauses, the device is not ready or the function is in D3hot, nothing is taken. -/
theorem packetIntake_idle {s : State} {n i : Nat} (h : s.hif.pause = true ∨ s.hif.ready = false ∨ s.hif.d3hot = true) :
    s.packetIntake n i = s := by
  unfold State.packetIntake
  split
  · rfl
  · refine if_pos ?_
    rcases h with h | h | h
    · exact .inl h
    · exact .inr (.inl (by simp [h]))
    · exact .inr (.inr (.inl h))

/-- A packet that a check refuses can be refused at once. -/
theorem canTake_refused {s : State} {n i : Nat} {ws : List Word} {r : Refuse} (hs : ((s.ap n).slot i).snap = some ws)
    (hk : s.intakeCheck n ws = some r) : s.canTake n i = true := by
  unfold State.canTake
  rw [hs]
  dsimp only
  rw [hk]

/-- One that meets the checks can be taken while its aperture has fewer than 64 packets and its ring's hold a free record. -/
theorem canTake_room {s : State} {n i : Nat} {ws : List Word} (hs : ((s.ap n).slot i).snap = some ws) (hk : s.intakeCheck n ws = none)
    (h64 : (s.taken.filter fun p => p.hdr.ap = n).length < 64) (hf : 0 < (s.ring (hdrOf n (wat ws)).ring).holdFree) :
    s.canTake n i = true := by
  unfold State.canTake
  rw [hs]
  dsimp only
  rw [hk]
  exact decide_eq_true ⟨h64, hf⟩

/-- A slot that a packet has left: free, with word 0 zero; other apertures, all rings and everything but HIF stay. -/
theorem leftSlot_says (s : State) (n i : Nat) (hi : i < 3) :
    Tab.get 0 (((s.leftSlot n i).ap n).slot i).words 0 = 0 ∧ (((s.leftSlot n i).ap n).slot i).busy = false ∧
      (((s.leftSlot n i).ap n).slot i).snap = none ∧ ((s.leftSlot n i).ap n).cntTaken = (s.ap n).cntTaken + 1 ∧
      (∀ m, m ≠ n → (s.leftSlot n i).ap m = s.ap m) := by
  have hslot : ((s.leftSlot n i).ap n).slot i = { words := Tab.erase ((s.ap n).slot i).words 0 } := by
    unfold State.leftSlot
    rw [State.upAp_ap]
    exact slot_upApSlot s n i (fun x => { words := Tab.erase x.words 0 }) hi
  have hcnt : ((s.freeSlot n i).ap n).cntTaken = (s.ap n).cntTaken := by
    unfold State.freeSlot State.upApSlot
    rw [State.upAp_ap]
    unfold Aperture.setSlot
    split
    · rfl
    · split <;> rfl
  rw [hslot]
  refine ⟨Tab.get_erase _ _ _, rfl, rfl, ?_, fun m hm => ?_⟩
  · unfold State.leftSlot
    rw [State.upAp_ap, hcnt]
  · exact (State.upAp_other _ _ _ _ (Ne.symm hm)).trans (State.upAp_other _ _ _ _ (Ne.symm hm))

/-- A packet taken: at the end of the taken list, with its reservation. -/
theorem took_says (s : State) (n : Nat) (ws : List Word) :
    (s.took n ws).taken = (if s.discard then s.taken else s.taken ++ [packetIn n ws s.takenNo]) ∧
      (s.took n ws).takenNo = (if s.discard then s.takenNo else s.takenNo + 1) ∧
      (s.took n ws).ring (hdrOf n (wat ws)).ring = { s.ring (hdrOf n (wat ws)).ring with
        reserved := (s.ring (hdrOf n (wat ws)).ring).reserved + (if s.discard then 0 else 1) } ∧
      (∀ j, j ≠ (hdrOf n (wat ws)).ring → (s.took n ws).ring j = s.ring j) ∧ (∀ m, (s.took n ws).ap m = s.ap m) ∧
      { s.took n ws with hif := s.hif, taken := s.taken, takenNo := s.takenNo } = s := by
  unfold State.took
  split
  · exact ⟨rfl, rfl, rfl, fun _ _ => rfl, fun _ => rfl, rfl⟩
  · exact ⟨rfl, rfl, State.upRing_ring _ _ _, fun j hj => State.upRing_other _ _ _ _ (Ne.symm hj), fun _ => rfl, rfl⟩

/-- A refusal that is due (R38, R49, R54). -/
theorem refuseSlot_eq (s : State) (n i : Nat) (r : RefusalInfo) :
    s.refuseSlot n i r =
      if (s.ring (4 * n)).registered = false then (s.countRefusal n r.status).freeSlot n i
      else if (s.ring (4 * n)).holdFree = 0 then s.upApSlot n i fun x => { x with snap := none, refuse := some r }
      else ((s.countRefusal n r.status).pushReply (4 * n)
        { hdr := r.hdr, status := r.status, detail0 := r.detail0, time := s.hal.ns32, refusal := true }).freeSlot n i := by
  have hh : (s.countRefusal n r.status).hal = s.hal := by simp
  unfold State.refuseSlot State.mkReply
  dsimp only
  rw [hh]
  simp only [Bool.not_eq_true]

/-- Settles O10: the two outcomes of a sealed slot's turn (`packetIntake_turn`), and the refusal's three (`refuseSlot_eq`). -/
theorem intakeTakesPackets : Obligations.IntakeTakesPackets := by
  unfold Obligations.IntakeTakesPackets
  intro ap i ws s n h s1
  obtain ⟨apS1, ringS1, -, frameS1⟩ := pastTurn_says s n
  refine ⟨fun hi => congrArg _ (packetIntake_idle hi), fun hs hp hr hd hn ht => ⟨fun r hk => ?_, fun hk h64 hf => ?_⟩, fun r hr => ?_,
    fun r => refuseSlot_eq s n i.val r⟩
  · rw [exec_packetIntake, packetIntake_turn hs hp hr hd hn (canTake_refused hs hk) ht, hk]
    rfl
  · refine ⟨_, (exec_packetIntake ap i s).trans (congrArg _ (packetIntake_turn hs hp hr hd hn (canTake_room hs hk h64 hf) ht)), ?_⟩
    rw [hk]
    let u := (s.pastTurn n).leftSlot n i.val
    have uDiscard : u.discard = s.discard := (congrArg State.discard frameS1 :)
    have uTaken : u.taken = s.taken := (congrArg State.taken frameS1 :)
    have uNo : u.takenNo = s.takenNo := (congrArg State.takenNo frameS1 :)
    obtain ⟨uWord, uBusy, uSnap, uCnt, uAp⟩ := leftSlot_says (s.pastTurn n) n i.val i.isLt
    obtain ⟨tTaken, tNo, tRing, tRings, tAp, tFrame⟩ := took_says u n ws
    rw [uDiscard, uTaken, uNo] at tTaken
    rw [uDiscard, uNo] at tNo
    rw [uDiscard, show u.ring _ = s.ring _ from ringS1 _] at tRing
    dsimp only
    rw [tAp, tRing]
    refine ⟨tTaken, tNo, rfl, rfl, fun j hj => (tRings j hj).trans (ringS1 j), uWord, uBusy, uSnap, uCnt.trans ?_,
      fun m hm => (tAp m).trans ((uAp m hm).trans (apS1 m)), ?_⟩
    · rw [apS1]
    · have hframe := congrArg (fun t : State => { t with hif := s.hif, taken := s.taken, takenNo := s.takenNo }) tFrame
      have hpast := congrArg (fun t : State => { t with taken := s.taken, takenNo := s.takenNo }) frameS1
      exact hframe.trans hpast
  · exact congrArg Host.Outcome.next (by rw [hr])

end Sys2Proof.Machine
end

section
/-! PROOFS. Moderated messages, masked vectors and power states. -/

set_option Elab.async false

namespace Sys2Proof.Machine

/-! ### Messages and power states (R30, R34) -/

/-- A ring with unsignalled records sends its vector's message. -/
theorem signalRing_some {s : State} {n : Nat} (h : (s.ring n).unsignalled ≠ 0) :
    s.signalRing n = (s.setRing n { s.ring n with unsignalled := 0 }).msix (s.ring n).vector := if_neg h

/-- The moderation time after the first unsignalled record. -/
theorem exec_moderationTimerExpiry (ring : Fin 64) (s : State) :
    exec (.moderationTimerExpiry ring) s = .next (
      if (s.ring ring.val).unsignalled = 0 then s
      else (s.passTo ((s.ring ring.val).sigAt + 1000 * (s.ring ring.val).modTime)).signalRing ring.val) := rfl

/-- Unmasking a vector in D0. -/
theorem exec_msixVectorUnmask {v : Fin 64} {s : State} (hd : s.hif.d3hot = false) :
    exec (.msixVectorUnmask v) s = .next ((s.upHif fun h =>
      { h with msix := Tab.set h.msix v.val { s.msixEntry v.val with masked := false } }).msixRelease v.val) :=
  congrArg Host.Outcome.next (if_neg (by simp [hd]))

/-- The message of an unmasked vector in D0 leaves the PBA and the device, where it waited. -/
theorem msixRelease_open {s : State} {v : Nat} (hm : (s.msixEntry v).masked = false) (hd : s.hif.d3hot = false) :
    s.msixRelease v = { s with
      hif := { s.hif with pba := s.hif.pba.filter (· ≠ v) }
      outs := if s.hif.pba.contains v then
          s.outs ++ [{ kind := 0, dest := v, data := natBytes 8 (s.msixEntry v).addr ++ wordBytes (s.msixEntry v).data }]
        else s.outs } := by
  unfold State.msixRelease
  by_cases hc : s.hif.pba.contains v = true
  · rw [if_pos ⟨hc, by simp [hm], by simp [hd]⟩, if_pos hc]
    refine State.msix_sent _ v ?_
    rintro (h | h)
    · exact Bool.false_ne_true (hm.symm.trans h)
    · exact Bool.false_ne_true (hd.symm.trans h)
  · have hmem : v ∉ s.hif.pba := by simpa using hc
    have hf : s.hif.pba.filter (· ≠ v) = s.hif.pba :=
      List.filter_eq_self.mpr fun x hx => by simpa using fun h : x = v => hmem (h ▸ hx)
    rw [if_neg (fun h => hc h.1), if_neg hc, hf]

/-- Settles O14: the message of a ring goes out or waits (`msix_sent`, `msix_held`), and an unmasked vector's is released. -/
theorem messagesAreSentOrHeld : Obligations.MessagesAreSentOrHeld := by
  unfold Obligations.MessagesAreSentOrHeld
  intro ring v rate width s r e due d s1
  refine ⟨?_, fun hd => ⟨_, exec_msixVectorUnmask hd, ?_⟩, fun hd => congrArg Host.Outcome.next (if_pos hd), rfl,
    fun hd => congrArg Host.Outcome.next (if_pos (by simp [hd])), fun hd => congrArg Host.Outcome.next (if_neg (by simp [hd])), rfl⟩
  · rw [exec_moderationTimerExpiry]
    by_cases hr : r.unsignalled = 0
    · rw [if_pos hr, if_pos hr]
    · rw [if_neg hr, if_neg hr]
      by_cases hu : d.unsignalled = 0
      · rw [if_pos hu]
        exact congrArg Host.Outcome.next (if_pos hu)
      · rw [if_neg hu, signalRing_some hu]
        by_cases hm : (due.msixEntry d.vector).masked = true ∨ due.hif.d3hot = true
        · rw [if_pos hm]
          exact congrArg Host.Outcome.next (State.msix_held s1 d.vector hm)
        · rw [if_neg hm]
          exact congrArg Host.Outcome.next (State.msix_sent s1 d.vector hm)
  · have hentry : (s.upHif fun h => { h with msix := Tab.set h.msix v.val { s.msixEntry v.val with masked := false } }).msixEntry v.val =
        { e v.val with masked := false } := Tab.get_set _ _ _ _
    rw [msixRelease_open (by rw [hentry]) (by exact hd), hentry]
    exact ⟨rfl, rfl, rfl⟩

end Sys2Proof.Machine
end

section
/-! PROOFS. The link's resets, and BAR2. -/

set_option Elab.async false

namespace Sys2Proof.Machine

/-! ### The link's resets (R30, R466) -/

/-- No ring is left when HIF has its reset values. -/
theorem ring_of_no_rings {s : State} (h : s.hif.rings = []) (j : Nat) : s.ring j = {} := by
  unfold State.ring
  rw [h]
  rfl

/-- Settles O15: `hostReset` step by step. -/
theorem linkResetsEmptyTheHost : Obligations.LinkResetsEmptyTheHost := by
  unfold Obligations.LinkResetsEmptyTheHost
  intro s down s1 s2 s3
  refine ⟨ring_of_no_rings rfl, ?_, rfl, rfl⟩
  have h : (0x61 ≤ s3.upd.state ∧ s3.upd.state ≤ 0x64 ∧ s3.upd.svp = false) =
      (0x61 ≤ s3.upd.state ∧ s3.upd.state ≤ 0x64 ∧ ¬ s3.upd.svp = true) := by simp
  simp only [h]
  rfl

/-! ### BAR2 (R32) -/

theorem exec_bar2Read (off len : Nat) (errs : List MemErr) (s : State) : exec (.bar2Read off len errs) s = .next (s.bar2Read off len errs) := rfl

theorem exec_bar2Write (off : Nat) (data : List Byte) (s : State) : exec (.bar2Write off data) s = .next (s.bar2Write off data) := rfl

/-- An access decodes where BAR2 is on, the function is in D0 and the bytes lie in BAR2 and in PSM. -/
theorem bar2At_eq (s : State) (off n : Nat) :
    s.bar2At off n =
      if s.hif.d3hot = true ∨ s.hif.bar2Enable = false ∨ s.hif.bar2Size * 2 ^ 28 < off + n ∨ 96 * 2 ^ 30 < s.hif.bar2Base * 2 ^ 28 + off + n
      then none else some (s.hif.bar2Base * 2 ^ 28 + off) := by
  unfold State.bar2At
  simp only [Bool.not_eq_true]
  rfl

/-- Settles O16, by the order of the conditions of `bar2Read` and `bar2Write`. -/
theorem bar2ReachesPsm : Obligations.Bar2ReachesPsm := by
  unfold Obligations.Bar2ReachesPsm
  intro off len size data errs s a m off' ur r
  have out {n : Nat} (h : off' n) : s.bar2At off n = none := (bar2At_eq s off n).trans (if_pos h)
  have inn {n : Nat} (h : ¬ off' n) : s.bar2At off n = some a := (bar2At_eq s off n).trans (if_neg h)
  simp only [exec_bar2Read, exec_bar2Write, State.bar2Read, State.bar2Write]
  refine ⟨fun h => ?_, fun h => ?_, fun h hd => ?_, fun h hd => ?_, fun h hal he => ?_, fun h hal he => ?_, fun h hal he => ?_, fun h hal he => ?_, rfl⟩
  · rw [out h]; rfl
  · rw [out h]; rfl
  · rw [inn h]
    exact congrArg _ (if_pos (by simpa using hd))
  · rw [inn h]
    exact congrArg _ (if_pos (by simpa using hd))
  · have hr : s.eccRead s.hif.bar2Master 63 errs a len = (r.1, none) := Prod.ext rfl he
    rw [inn h]
    dsimp only
    rw [if_neg (by simpa using hal), hr]
    rfl
  · obtain ⟨b, hb⟩ := Option.ne_none_iff_exists'.mp he
    have hr : s.eccRead s.hif.bar2Master 63 errs a len = (r.1, some b) := Prod.ext rfl hb
    rw [inn h]
    dsimp only
    rw [if_neg (by simpa using hal), hr]
    rfl
  · rw [inn h]
    dsimp only
    rw [if_neg (by simpa using hal), if_neg (by simp [he])]
    rfl
  · rw [inn h]
    dsimp only
    rw [if_neg (by simpa using hal), if_pos (Option.isSome_iff_ne_none.mpr he)]

end Sys2Proof.Machine
end

section
/-! PROOFS. Packets that query the device. -/

set_option Elab.async false

namespace Sys2Proof.Machine

/-- What a packet that applies comes to, where its meaning's answer is known. -/
theorem runPacket_comes {op k : Nat} {body : Packet → State → Ans} {s t : State} {p : Packet} (h : Applies op k p s)
    (ht : s.after k p (body p (s.without k)) = t) : runPacket op k body s = .next t := by
  rw [runPacket_after h, ht]

/-- DEV_STATS over all clients is for aperture 0 (R56). -/
theorem devStats_after (k : Nat) (p : Packet) (s : State) :
    s.after k p (devStats p (s.without k)) =
      let ws := if p.f 6 0 0 = 1 then (List.range 16).foldl (fun a n => addWords a ((s.without k).statWords n)) []
        else (s.without k).statWords p.hdr.ap
      if p.f 6 0 0 = 1 ∧ p.hdr.ap ≠ 0 then s.refusal k p stAuth 0 0
      else ((s.without k).wrHost (p.a 4) (bytesOf (ws ++ List.replicate 4 0))).final p.hdr stOk { lo := wat ws 0 } := by
  unfold devStats
  simp only [after_refuseIf, after_done, Bool.and_eq_true, beq_iff_eq, bne_iff_ne]

/-- Settles O21, packet by packet. -/
theorem deviceQueriesReport : Obligations.DeviceQueriesReport := by
  unfold Obligations.DeviceQueriesReport
  intro k p s u host recs
  refine ⟨fun h => runPacket_comes h rfl, fun h => runPacket_comes h rfl, fun h => runPacket_comes h (devStats_after k p s),
    fun h => runPacket_comes h rfl, fun h => runPacket_comes h rfl, fun h => runPacket_comes h rfl, fun h => runPacket_comes h rfl⟩

end Sys2Proof.Machine
end

section
/-! PROOFS. Packets that query an object. -/

set_option Elab.async false

namespace Sys2Proof.Machine

section
variable (k : Nat) (p : Packet) (s : State)

/-- A job is answered where its context knows it (R314). -/
theorem jobQuery_after : s.after k p (jobQuery p (s.without k)) = match (s.without k).jobFacts p.hdr.ctx (p.w 4) with
    | none => s.refusal k p stRange (det 4 0) 0
    | some (st, ws) => (s.without k).final p.hdr stOk { lo := wd st, hi := wat ws 0 } := by
  unfold jobQuery
  cases (s.without k).jobFacts p.hdr.ctx (p.w 4) <;> rfl

/-- So are its counters, in host memory. -/
theorem jobStats_after : s.after k p (jobStats p (s.without k)) = match (s.without k).jobFacts p.hdr.ctx (p.w 4) with
    | none => s.refusal k p stRange (det 4 0) 0
    | some (_, ws) => ({ s.without k with mem := Memory.write s.mem (hostBase + p.a 5) (bytesOf ws) } : State).final p.hdr stOk
        { lo := wat ws 0 } := by
  unfold jobStats
  cases (s.without k).jobFacts p.hdr.ctx (p.w 4) <;> rfl

/-- The packet's client may ask after context `c`: it is the context's, or aperture 0. -/
abbrev mayAsk (c : Nat) : Prop := p.hdr.ap = 0 ∨ (s.ctx c).client = p.hdr.ap

/-- A directory entry, unless it is in use and another client's (R227). -/
theorem kvDirQuery_entry (h : p.f 4 19 19 = 0) : s.after k p (kvDirQuery p (s.without k)) =
    if (s.dir (p.f 4 18 0)).state ≠ 0 ∧ (s.dir (p.f 4 18 0)).state ≠ 5 ∧ ¬ mayAsk p s (s.dir (p.f 4 18 0)).owner then s.refusal k p stAuth 0 0
    else (s.without k).final p.hdr stOk { lo := wat (s.dir (p.f 4 18 0)).words 0, hi := wat (s.dir (p.f 4 18 0)).words 1
                                          d1 := wat (s.dir (p.f 4 18 0)).words 2 } := by
  unfold kvDirQuery
  rw [if_pos h, after_ite]
  rfl

/-- A sequence that is open, unless it is another client's (R227). -/
theorem kvDirQuery_seq (h : p.f 4 19 19 ≠ 0) :
    let q := s.seq (p.f 4 11 0)
    let pages : Nat → Nat := fun st => min 0xFFFF (q.pages.filter fun g => (s.dir g.entry).state == st).length
    s.after k p (kvDirQuery p (s.without k)) =
      if q.present = false then s.refusal k p stRange (det 4 0) 0
      else if ¬ mayAsk p s q.ctx then s.refusal k p stAuth 0 0
      else (s.without k).final p.hdr stOk { lo := wd q.len, hi := wd q.epoch, d1 := wd (pages 1 + 2 ^ 16 * pages 2) } := by
  unfold kvDirQuery
  simp only [if_neg h, after_ite, Bool.not_eq_true]
  rfl

/-- UPD_QUERY is busy while the service port holds a session (R437). -/
theorem updQuery_after (a : Ans) :
    s.after k p ((s.without k).svpHolds a) = if s.svp.opened then s.refusal k p stBusy 0 0 else s.after k p a := by
  unfold State.svpHolds
  rw [after_ite]
  rfl

end

/-- Settles O22, packet by packet. -/
theorem objectQueriesReport : Obligations.ObjectQueriesReport := by
  unfold Obligations.ObjectQueriesReport
  intro k p s u c x mine d q pages dm pl r blocks miss
  exact ⟨fun h => runPacket_comes h rfl, fun h => runPacket_comes h (jobQuery_after k p s), fun h => runPacket_comes h (jobStats_after k p s),
    fun h h0 => runPacket_comes h (kvDirQuery_entry k p s h0), fun h h0 => runPacket_comes h (kvDirQuery_seq k p s h0),
    fun h => runPacket_comes h rfl, fun h => runPacket_comes h rfl, fun h => runPacket_comes h rfl,
    fun h => runPacket_comes h (updQuery_after k p s _)⟩

end Sys2Proof.Machine
end

section
/-! PROOFS. Rings, clients and partitions: the packets that configure them. -/

set_option Elab.async false

namespace Sys2Proof.Machine

section
variable (k : Nat) (p : Packet) (s : State)

/-- A ring is registered by its own aperture, once (R49, R57). -/
theorem devRingSet_after :
    let n := p.f 4 7 0
    s.after k p (devRingSet p (s.without k)) =
      if n / 4 ≠ p.hdr.ap then s.refusal k p stAuth 0 0
      else if (s.ring n).registered = true then s.refusal k p stState 0 0
      else ((s.without k).setRing n
        { registered := true, addr := p.a 6, k := p.f 4 12 8, vector := p.f 4 23 16, modCount := p.f 5 7 0, modTime := p.f 5 31 16
          reserved := (s.ring n).reserved }).final p.hdr stOk { lo := wd (2 ^ p.f 4 12 8) } := by
  unfold devRingSet
  simp only [after_refuseIf, after_done, bne_iff_ne]
  rfl

/-- A ring is cleared by its own aperture, while no packet names it (R58). -/
theorem devRingClear_after :
    let n := p.f 4 7 0
    s.after k p (devRingClear p (s.without k)) =
      if n / 4 ≠ p.hdr.ap then s.refusal k p stAuth 0 0
      else if (s.ring n).registered = false then s.refusal k p stState 0 0
      else if (∃ q ∈ (s.without k).taken, q.hdr.ring = n) ∨ (∃ o ∈ s.opens, o.hdr.ring = n) then s.refusal k p stState 0 0
      else
        let a := ((s.held k p 0 0 0).writeAll n).dropHold n
        let b := ((a.closeNo p.hdr.no stOk {}).writeAll n).dropHold n
        (b.signalRing n).setRing n {} := by
  unfold devRingClear
  simp only [after_refuseIf, after_late, bne_iff_ne, Bool.not_eq_true', Bool.or_eq_true, List.any_eq_true, beq_iff_eq]
  rfl

/-- A client's classes, contexts and slice, and its accounting when asked (R370). -/
theorem devClientCfg_after :
    let c := p.f 4 3 0
    let x : Client := { s.client c with classes := BitVec.ofNat 3 (p.f 4 10 8), maxCtx := p.f 4 22 16, slice := p.f 5 9 0 }
    s.after k p (devClientCfg p (s.without k)) =
      ((s.without k).setClient c (if p.f 4 23 23 = 1 then { x with waitNs := 0, runNs := 0, preempts := 0, preemptedNs := 0, starve := 0 }
        else x)).final p.hdr stOk { lo := wd (s.ctxs.filter fun y => y.2.present && y.2.client == c).length } := by
  unfold devClientCfg State.heldBy
  rfl

end

/-- Settles O23, packet by packet. -/
theorem ringsAndClientsAreConfigured : Obligations.RingsAndClientsAreConfigured := by
  unfold Obligations.RingsAndClientsAreConfigured
  intro k p s u n c x
  exact ⟨fun h => runPacket_comes h (devRingSet_after k p s), fun h => runPacket_comes h (devRingClear_after k p s),
    fun h => runPacket_comes h (devClientCfg_after k p s)⟩

/-- Settles O24, packet by packet: the refusals in their order, then the effect. -/
theorem partitionsAreCreatedResizedDeleted : Obligations.PartitionsAreCreatedResizedDeleted := by
  unfold Obligations.PartitionsAreCreatedResizedDeleted
  intro k p s u n x ex free engs quota allow cur want new gone add mask stuck held
  refine ⟨fun h => runPacket_comes h ?_, fun h => runPacket_comes h ?_, fun h => runPacket_comes h ?_⟩
  · have hallow : (if ¬ (p.f 4 2 2 == 1) = true then 0 else if p.hdr.expert then p.f 5 24 16 else 160) = allow := by
      by_cases htt : p.f 4 2 2 = 1 <;> simp [allow, ex, htt]
    unfold partCreate
    simp only [after_refuseIf, after_done, Bool.and_eq_true, Bool.not_eq_true', decide_eq_true_eq, bne_iff_ne, and_assoc]
    rw [hallow]
    rfl
  · unfold partResize
    simp only [after_needOne, after_refuseIf, Bool.not_eq_true']
    refine if_congr Iff.rfl rfl (if_congr Iff.rfl rfl ?_)
    change s.after k p (match stuck with
      | some c => .refuse stState (wd 0x11) (wd c)
      | none => refuseIf (!ex && decide (cur.length + free.length < want)) stNospace 0 (.done _ _)) = _
    generalize stuck = o
    cases o with
    | some c => rfl
    | none =>
      simp only [after_refuseIf, after_done, Bool.and_eq_true, Bool.not_eq_true', decide_eq_true_eq]
      rfl
  · unfold partDelete
    simp only [after_needOne, after_ite]
    rfl

end Sys2Proof.Machine
end

section
/-! PROOFS. What the resets of the core island leave. -/

set_option Elab.async false

namespace Sys2Proof.Machine

/-! ### What a reset of the core island leaves (R46, R63, R283, R422, R466) -/

/-- State `t` is as a reset of the core island leaves it after `s`, whatever CPW holds; and `last`. -/
def AtReset (s t : State) (last : Prop) : Prop :=
  t.hal.sec = 0 ∧ t.hal.ns = 0 ∧ t.hal.f = 0 ∧ t.hal.mode = 2 ∧ t.hal.source = 0 ∧ t.hal.inc = Hal.nominal ∧
  (t.domain 0).state = 0x70 ∧ (t.domain 1).state = 0x70 ∧
  t.dev = devInit ∧ t.hif = {} ∧ t.taken = [] ∧ t.opens = [] ∧ t.ctxs = [] ∧ t.plans = [] ∧ t.kvSeqs = [] ∧ t.partitions = [] ∧
  (t.client 0).classes = 7 ∧ (t.client 0).maxCtx = 64 ∧ (∀ c, c ≠ 0 → t.client c = {}) ∧
  t.upd.state = 0x60 ∧ t.evc = {} ∧ t.mem = s.mem.filter (fun c => hostBase ≤ c.1) ∧
  t.plinth = s.plinth ∧ t.trim = s.trim ∧ t.flash = s.flash ∧ t.sec.lc = s.sec.lc ∧ t.sec.fwKeys = s.sec.fwKeys ∧
  t.sec.revoked = s.sec.revoked ∧ t.store.bank0 = s.store.bank0 ∧ t.store.bank1 = s.store.bank1 ∧ t.free = s.free ∧
  t.pending = s.pending ∧ last

/-- A core reset leaves it so, and no change of CPW, the service port or Halyard's ports alters that. -/
theorem coreReset_atReset {last : Prop} (s : State) (c : Cpw) (v : Svp) (ports : List (Nat × HalPort)) (h : last) :
    AtReset s { s.coreReset with cpw := c, svp := v, hal := { s.coreReset.hal with ports := ports } } last := by
  have hclient (i : Nat) (hi : i ≠ 0) : s.coreReset.client i = {} := by
    exact if_neg (Ne.symm hi)
  refine ⟨rfl, rfl, rfl, rfl, rfl, rfl, rfl, rfl, rfl, rfl, rfl, rfl, rfl, rfl, rfl, rfl, rfl, rfl, hclient, rfl, rfl, rfl, rfl, rfl, rfl, rfl, rfl, rfl, rfl,
    rfl, rfl, rfl, h⟩

/-- So does the reset of one cause, with its bit set. -/
theorem resetFor_atReset {last : Prop} (s : State) (cause : Nat) (h : last) : AtReset s (s.resetFor cause) last :=
  coreReset_atReset s _ _ _ h

/-- So does a power-on reset. -/
theorem powerReset_atReset {last : Prop} (s : State) (c : Cpw) (h : last) : AtReset s { s.powerReset with cpw := c } last :=
  coreReset_atReset s _ _ _ h

/-- What the reset of one cause leaves of CPW. -/
theorem resetFor_cpw (s : State) {cause : Nat} (hc : cause < 7) :
    { (s.resetFor cause).cpw with cause := s.cpw.cause } = { s.cpw with
      align := false, coreHeld := true, resetDue := false, reefDue := false, pllOk := true, wdogAt := 0 } ∧
    bit ((s.resetFor cause).cpw.cause.setWidth 32) cause = true :=
  ⟨rfl, cause_set _ _ hc⟩

/-- Settles O25: every one of these resets is a core reset (`coreReset_atReset`) with its cause. -/
theorem resetsLeaveWhatTheSpecKeeps : Obligations.ResetsLeaveWhatTheSpecKeeps := by
  unfold Obligations.ResetsLeaveWhatTheSpecKeeps
  intro s core
  have powered (c : Cpw) (hc : { c with cause := 1 } = ({} : Cpw)) (cause : Nat) (s : State) :
      core s True cause { s.powerReset with cpw := c } :=
    powerReset_atReset s c ⟨fun _ => hc, fun h => (h trivial).elim⟩
  have reset (s : State) (cause : Nat) (hc : cause < 7) : core s False cause (s.resetFor cause) :=
    resetFor_atReset s cause ⟨fun h => h.elim, fun _ => ⟨rfl, (resetFor_cpw s hc).2⟩⟩
  refine ⟨⟨_, rfl, powered {} rfl 0 s, rfl⟩, fun hon hw => ⟨_, congrArg Host.Outcome.next (if_neg ?_), reset _ 3 (by decide)⟩,
    fun hon => ⟨_, congrArg Host.Outcome.next (if_pos hon), ?_, rfl⟩, fun hd => ⟨_, congrArg Host.Outcome.next (if_pos hd), reset _ 2 (by decide)⟩, fun pll hp => ?_,
    fun hoff => ⟨congrArg Host.Outcome.next (if_pos (.inr (by simp [hoff]))), congrArg Host.Outcome.next (if_neg (by simp [hoff]))⟩,
    fun hw => congrArg Host.Outcome.next (if_pos (.inl hw)), fun hd => congrArg Host.Outcome.next (if_neg (by simp [hd])), rfl⟩
  · rintro (h | h)
    · exact hw h
    · exact h hon
  · exact coreReset_atReset s _ _ _ ⟨fun h => h.elim, fun _ => ⟨rfl, (resetFor_cpw s (by decide)).2⟩⟩
  · have hc : bit ((s.powerReset.upCpw fun x => { x with cause := setBit x.cause 6 true }).cpw.cause.setWidth 32) 6 = true :=
      cause_set _ _ (by decide)
    exact ⟨_, congrArg Host.Outcome.next (if_pos hp), powered _ rfl 6 s, hc⟩

end Sys2Proof.Machine
end

section
/-! PROOFS. The device's level and its reset by software. -/

set_option Elab.async false

namespace Sys2Proof.Machine

/-- An accepted packet leaves CPW and the partitions. -/
theorem accepted_frame (s : State) (k : Nat) (p : Packet) (a b c : Nat) :
    (s.accepted k p a b c).cpw = s.cpw ∧ (s.accepted k p a b c).partitions = s.partitions := by
  simp [State.accepted, State.without]

/-- Settles O26: each packet's refusals in their order, then its effect; and the two ends of what waits. -/
theorem deviceIsResetAndItsLevelSet : Obligations.DeviceIsResetAndItsLevelSet := by
  unfold Obligations.DeviceIsResetAndItsLevelSet
  intro k p s a l share lower b badShare
  obtain ⟨hcpw, hparts⟩ := accepted_frame s k p 0 0 0
  refine ⟨hcpw, hparts, fun h => runPacket_comes h ?_, fun h => runPacket_comes h ?_, fun t ht => ?_, fun t ht => ?_⟩
  · unfold devReefSet
    simp only [after_ite, after_hold, after_refuseIf, after_pend, Bool.and_eq_true, beq_iff_eq]
    rfl
  · unfold devResetCompute
    simp only [after_refuseIf, after_pend, Bool.and_eq_true, bne_iff_ne]
    rfl
  · exact congrArg Host.Outcome.next (if_pos ht)
  · exact congrArg Host.Outcome.next (if_neg (by simp [ht]))

end Sys2Proof.Machine
end

section
/-! PROOFS. Contexts: created, destroyed, scrubbed, and their mode. -/

set_option Elab.async false

namespace Sys2Proof.Machine

/-! ### CTX_CREATE (R371 to R374): what the packet asks for -/

section
variable (p : Packet) (s : State)

/-- The partition is a TT partition. -/
def newTT : Bool := (s.part (p.f 4 1 0)).present && (s.part (p.f 4 1 0)).tt
/-- The new context's mask. -/
def newMask : BitVec 8 := if p.hdr.expert then BitVec.ofNat 8 (p.f 5 7 0) else (s.part (p.f 4 1 0)).mask
/-- Its engines. -/
def newEngs : List Nat := engNos.filter fun e => (newMask p s).getLsbD e
/-- The expert form asks for a pinned context. -/
def askedPin : Bool := p.hdr.expert && p.f 5 8 8 == 1
/-- The address asked for its save area, or 0. -/
def newAddr : Nat := if p.hdr.expert then (p.w 6).toNat + 2 ^ 32 * p.f 7 15 0 else 0
/-- The length of its save area. -/
def newLen : Nat := if newTT p s then 0 else (newEngs p s).length * secBytes
/-- The context as it is made. -/
def newCtx : Ctx :=
  { present := true, client := p.hdr.ap, cls := p.hdr.cls, part := p.f 4 1 0, mask := newMask p s, mask0 := newMask p s
    pinned := newTT p s || askedPin p, hdr := p.hdr, saveLen := newLen p s }
/-- The state with context `c` made and its save area placed, where there is room. -/
def newArea (k c : Nat) : Option State :=
  if newTT p s then some ((s.without k).setCtx c (newCtx p s))
  else match (if newAddr p ≠ 0 then some (newAddr p) else ((s.without k).setCtx c (newCtx p s)).vaTakeTop c (newLen p s) 65536) with
    | none => none
    | some va => (((s.without k).setCtx c (newCtx p s)).saveArea c va (newLen p s)).map fun w => w.upCtx c fun y => { y with saveVa := va }
/-- Its slots taken, where it is pinned. -/
def newSlots (c : Nat) (v : State) : State :=
  if newTT p s || askedPin p then (newEngs p s).foldl (fun v e => v.pinSlot c e) v else v

end

/-- The refusals of CTX_CREATE in their order, and its effect. -/
theorem ctxCreate_after (k : Nat) (p : Packet) (s : State) :
    s.after k p (ctxCreate p (s.without k)) =
      if (p.hdr.expert = true ∧ newTT p s = true) ∧ newAddr p ≠ 0 then s.refusal k p stFormat (det 6 0) 0
      else if (p.hdr.expert = true ∧ (s.part (p.f 4 1 0)).present = true) ∧
          (newMask p s = 0 ∨ newMask p s &&& (s.part (p.f 4 1 0)).mask ≠ newMask p s) then s.refusal k p stRange (det 5 0) 0
      else if newAddr p ≠ 0 ∧ vaEnd < newAddr p + newLen p s then s.refusal k p stRange (det 6 0) 0
      else if ((newTT p s = false ∧ p.hdr.expert = true) ∧ p.f 5 8 8 = 1) ∧ p.hdr.ap ≠ 0 then s.refusal k p stAuth 0 0
      else if (s.part (p.f 4 1 0)).present = false then s.refusal k p stState (wd 0x10) 0
      else if p.hdr.cls = 0 ∧ newTT p s = false then s.refusal k p stState (wd 0x11) 0
      else match ctxNos.find? fun c => !(s.ctx c).present with
        | none => s.refusal k p stNospace 0 0
        | some c =>
          if (s.client p.hdr.ap).maxCtx ≤ s.heldBy p.hdr.ap then s.refusal k p stNospace 0 0
          else if (newTT p s || askedPin p) = true ∧ (newEngs p s).all (s.pinRoom (newTT p s)) = false then s.refusal k p stNospace 0 0
          else match newArea p s k c with
            | none => s.refusal k p stNospace 0 0
            | some v => ((newSlots p s c v).schedule).final p.hdr stOk
                { lo := wd c, hi := wd (newLen p s / 4096), d1 := wd (((newSlots p s c v).ctx c).saveVa / 65536) } := by
  have hbody : ctxCreate p (s.without k) =
      (refuseIf (p.hdr.expert && newTT p s && newAddr p != 0) stFormat (det 6 0) <|
      refuseIf (p.hdr.expert && (s.part (p.f 4 1 0)).present && (newMask p s == 0 || (newMask p s &&& (s.part (p.f 4 1 0)).mask) != newMask p s))
        stRange (det 5 0) <|
      refuseIf (newAddr p != 0 && decide (vaEnd < newAddr p + newLen p s)) stRange (det 6 0) <|
      refuseIf (!newTT p s && p.hdr.expert && p.f 5 8 8 == 1 && p.hdr.ap != 0) stAuth 0 <|
      refuseIf (!(s.part (p.f 4 1 0)).present) stState (wd 0x10) <|
      refuseIf (p.hdr.cls == 0 && !newTT p s) stState (wd 0x11) <|
        match ctxNos.find? fun c => !(s.ctx c).present with
        | none => .refuse stNospace
        | some c =>
          refuseIf (decide ((s.client p.hdr.ap).maxCtx ≤ s.heldBy p.hdr.ap)) stNospace 0 <|
          refuseIf ((newTT p s || askedPin p) && !(newEngs p s).all (s.pinRoom (newTT p s))) stNospace 0 <|
            match newArea p s k c with
            | none => .refuse stNospace
            | some v => .done (newSlots p s c v).schedule
                { lo := wd c, hi := wd (newLen p s / 4096), d1 := wd (((newSlots p s c v).ctx c).saveVa / 65536) }) := rfl
  rw [hbody]
  simp only [after_refuseIf, Bool.and_eq_true, Bool.or_eq_true, Bool.not_eq_true', decide_eq_true_eq, beq_iff_eq, bne_iff_ne]
  cases ctxNos.find? fun c => !(s.ctx c).present with
  | none => rfl
  | some c =>
    simp only [after_refuseIf, Bool.and_eq_true, Bool.or_eq_true, Bool.not_eq_true', decide_eq_true_eq]
    cases newArea p s k c <;> rfl

/-- CTX_DESTROY of a SAFETY context whose lists a plan starts is refused (R63). -/
theorem ctxDestroy_after (k : Nat) (p : Packet) (s : State) :
    s.after k p (ctxDestroy p (s.without k)) =
      if [0x20, 0x21, 0x22, 0x23].contains (s.ctxCode p.hdr.ctx) = false then s.refusal k p stState (wd (s.ctxCode p.hdr.ctx)) 0
      else if (s.ctx p.hdr.ctx).cls = 0 ∧ s.planOf p.hdr.ctx [0x52, 0x53] ≠ none then s.refusal k p stState (wd (s.ctxCode p.hdr.ctx)) 0
      else (s.accepted k p p.hdr.ctx 0 0).destroyCtx p.hdr.ctx := by
  have hbody : ctxDestroy p (s.without k) =
      (needState (s.ctxCode p.hdr.ctx) [0x20, 0x21, 0x22, 0x23] <|
        match (if (s.ctx p.hdr.ctx).cls = 0 then s.planOf p.hdr.ctx [0x52, 0x53] else none) with
        | some _ => .refuse stState (wd (s.ctxCode p.hdr.ctx))
        | none => .pend p.hdr.ctx 0 0 fun s => s.destroyCtx p.hdr.ctx) := rfl
  rw [hbody, after_needNot]
  refine if_congr Iff.rfl rfl ?_
  by_cases hc : (s.ctx p.hdr.ctx).cls = 0
  · rw [if_pos hc]
    cases hp : s.planOf p.hdr.ctx [0x52, 0x53] with
    | none => exact (if_neg fun h => h.2 rfl).symm
    | some _ => exact (if_pos ⟨hc, Option.some_ne_none _⟩).symm
  · rw [if_neg hc, if_neg fun h => hc h.1]
    rfl

/-- CTX_MODE_SET: the SAFETY class has no RELAXED mode, and a context with jobs keeps its mode (R126). -/
theorem ctxModeSet_after (k : Nat) (p : Packet) (s : State) :
    s.after k p (ctxModeSet p (s.without k)) =
      if p.f 4 0 0 = 1 ∧ (s.ctx p.hdr.ctx).cls = 0 then s.refusal k p stRange (det 4 0) 0
      else if [0x20, 0x23].contains (s.ctxCode p.hdr.ctx) = false then s.refusal k p stState (wd (s.ctxCode p.hdr.ctx)) 0
      else if s.ctxCode p.hdr.ctx = 0x20 ∧ s.ctxHasJobs p.hdr.ctx = true then s.refusal k p stState (wd 0x20) 0
      else ((s.without k).upCtx p.hdr.ctx fun y => { y with relaxed := p.f 4 0 0 == 1 }).final p.hdr stOk
        { lo := (s.ctx p.hdr.ctx).relaxedCnt, hi := wd (bitAt (s.ctx p.hdr.ctx).relaxed 0) } := by
  unfold ctxModeSet
  simp only [after_refuseIf, after_needNot, after_done, Bool.and_eq_true, beq_iff_eq]
  rfl

/-! ### The end of a context (R157, R371) -/

theorem exec_contextScrubComplete (x : Fin 64) (t : State) :
    exec (.contextScrubComplete x) t = .next (t.ctxScrubbed x.val).shutGo := rfl

section
variable {c : Nat} {t : State}

/-- A context of which something is left stays in SCRUBBING. -/
theorem ctxScrubbed_waits (hx : (t.ctx c).scrubbing = true) (hw : t.scrubWaits c = true) : t.ctxScrubbed c = t := by
  unfold State.ctxScrubbed
  rw [if_neg (fun h => h.2 hx), if_pos (.inr hw)]

/-- A context that is not in SCRUBBING begins its end on a FAULTED device alone (log 165). -/
theorem ctxScrubbed_idle (hx : (t.ctx c).scrubbing = false) :
    t.ctxScrubbed c = if t.dev = devFaulted then t.destroyCtx c else t := by
  have hn : ¬ (t.ctx c).scrubbing = true := by simp [hx]
  unfold State.ctxScrubbed
  by_cases hd : t.dev = devFaulted
  · rw [if_pos ⟨hd, hn⟩, if_pos hd]
  · rw [if_neg (fun h => hd h.1), if_pos (.inl hn), if_neg hd]

/-- The memory of a context given back. -/
def State.unmapped (t : State) (c : Nat) : State := (t.ctx c).maps.foldl (fun t m => t.releaseMap c m) t

/-- And the packets that waited for it answered. -/
def State.scrubAnswered (t : State) (c : Nat) : State :=
  ((t.unmapped c).opens.filter (scrubbedOpen c)).foldl (fun t o => t.close o stOk {}) (t.unmapped c)

/-- And its number free, its pairs of the twin gone. -/
def State.ctxFreed (t : State) (c : Nat) : State :=
  { t with ctxs := Tab.erase t.ctxs c, twin := { t.twin with pairs := t.twin.pairs.filter fun p => p.1 ≠ c } }

/-- A context of which nothing is left gives back its memory and its number, and CTX_DESTROY is answered. -/
theorem ctxScrubbed_done (hx : (t.ctx c).scrubbing = true) (hw : t.scrubWaits c = false) :
    t.ctxScrubbed c = match (t.scrubAnswered c).opens.find? fun o => o.hdr.opcode == 0x111 && o.hdr.ctx == c with
      | some o => ((t.scrubAnswered c).ctxFreed c).close o stOk {}
      | none => (t.scrubAnswered c).ctxFreed c := by
  have hgo : ¬ (¬ (t.ctx c).scrubbing = true ∨ t.scrubWaits c = true) := by simp [hx, hw]
  unfold State.ctxScrubbed
  rw [if_neg (fun h => h.2 hx), if_neg hgo]
  rfl

/-- Where it had no memory and no packet waited for it, that is all. -/
theorem ctxScrubbed_bare (hx : (t.ctx c).scrubbing = true) (hw : t.scrubWaits c = false)
    (hd : (t.opens.find? fun o => o.hdr.opcode == 0x111 && o.hdr.ctx == c) = none) (ho : t.opens.filter (scrubbedOpen c) = [])
    (hm : (t.ctx c).maps = []) : t.ctxScrubbed c = t.ctxFreed c := by
  have hu : t.unmapped c = t := by
    unfold State.unmapped
    rw [hm]
    rfl
  have ha : t.scrubAnswered c = t := by
    unfold State.scrubAnswered
    rw [hu, ho]
    rfl
  rw [ctxScrubbed_done hx hw, ha, hd]

end

/-! ### CTX_CREATE that completes -/

section
variable {k n : Nat} {p : Packet} {s : State} (hp : (s.part (p.f 4 1 0)).present = true)
  (hmask : p.hdr.expert = true → newMask p s ≠ 0 ∧ newMask p s &&& (s.part (p.f 4 1 0)).mask = newMask p s)
  (hfree : ctxNos.find? (fun i => !(s.ctx i).present) = some n) (hheld : s.heldBy p.hdr.ap < (s.client p.hdr.ap).maxCtx)
include hp hmask hfree hheld

/-- With a mask that its partition allows, an address in range, a class that the partition takes, a pin that its sender may
ask for, a free number and a slot on each engine, the context is made wherever its save area is. -/
theorem ctxCreate_made {v : State} (haddr : newAddr p ≠ 0 → newTT p s = false ∧ newAddr p + newLen p s ≤ vaEnd)
    (hcls : newTT p s = false → p.hdr.cls ≠ 0 ∧ (askedPin p = true → p.hdr.ap = 0))
    (hroom : (newTT p s || askedPin p) = true → (newEngs p s).all (s.pinRoom (newTT p s)) = true) (harea : newArea p s k n = some v) :
    s.after k p (ctxCreate p (s.without k)) = ((newSlots p s n v).schedule).final p.hdr stOk
      { lo := wd n, hi := wd (newLen p s / 4096), d1 := wd (((newSlots p s n v).ctx n).saveVa / 65536) } := by
  have hformat : ¬ ((p.hdr.expert = true ∧ newTT p s = true) ∧ newAddr p ≠ 0) := fun h => by simp [(haddr h.2).1] at h
  have hrange : ¬ ((p.hdr.expert = true ∧ (s.part (p.f 4 1 0)).present = true) ∧
      (newMask p s = 0 ∨ newMask p s &&& (s.part (p.f 4 1 0)).mask ≠ newMask p s)) :=
    fun h => h.2.elim (hmask h.1.1).1 fun h2 => h2 (hmask h.1.1).2
  have hva : ¬ (newAddr p ≠ 0 ∧ vaEnd < newAddr p + newLen p s) := fun h => Nat.not_lt.mpr (haddr h.1).2 h.2
  have hauth : ¬ (((newTT p s = false ∧ p.hdr.expert = true) ∧ p.f 5 8 8 = 1) ∧ p.hdr.ap ≠ 0) := by
    rintro ⟨⟨⟨htt, hex⟩, hpin⟩, hap⟩
    exact hap ((hcls htt).2 (by simp [askedPin, hex, hpin]))
  have hstate : ¬ (p.hdr.cls = 0 ∧ newTT p s = false) := fun h => (hcls h.2).1 h.1
  have hslots : ¬ ((newTT p s || askedPin p) = true ∧ (newEngs p s).all (s.pinRoom (newTT p s)) = false) :=
    fun h => Bool.false_ne_true (h.2.symm.trans (hroom h.1))
  rw [ctxCreate_after, if_neg hformat, if_neg hrange, if_neg hva, if_neg hauth, if_neg (by simp [hp]), if_neg hstate, hfree]
  dsimp only
  rw [if_neg (by omega), if_neg hslots, harea]

/-- In a TT partition: pinned, with no save area. -/
theorem ctxCreate_tt (htt : (s.part (p.f 4 1 0)).tt = true) (haddr : newAddr p = 0) (hroom : (newEngs p s).all (s.pinRoom true) = true) :
    let c : Ctx := { present := true, client := p.hdr.ap, cls := p.hdr.cls, part := p.f 4 1 0, mask := newMask p s, mask0 := newMask p s
                     pinned := true, hdr := p.hdr, saveLen := 0 }
    let v := (newEngs p s).foldl (fun v e => v.pinSlot n e) ((s.without k).setCtx n c)
    s.after k p (ctxCreate p (s.without k)) = v.schedule.final p.hdr stOk { lo := wd n, hi := 0, d1 := wd ((v.ctx n).saveVa / 65536) } := by
  have hTT : newTT p s = true := by simp [newTT, hp, htt]
  have hlen : newLen p s = 0 := if_pos hTT
  have harea : newArea p s k n = some ((s.without k).setCtx n (newCtx p s)) := if_pos hTT
  have hmade := ctxCreate_made (k := k) hp hmask hfree hheld (fun h => absurd haddr h) (by simp [hTT]) (fun _ => by rw [hTT]; exact hroom) harea
  simp only [newSlots, newCtx, hTT, hlen, Bool.true_or, if_true] at hmade
  exact hmade

/-- In a DP partition: with its save area, and slots where it is pinned. -/
theorem ctxCreate_dp {va : Nat} {v : State} (htt : (s.part (p.f 4 1 0)).tt = false) (hcls : p.hdr.cls ≠ 0)
    (hpin : askedPin p = true → p.hdr.ap = 0 ∧ (newEngs p s).all (s.pinRoom false) = true)
    (haddr : newAddr p ≠ 0 → newAddr p + (newEngs p s).length * secBytes ≤ vaEnd) :
    let size := (newEngs p s).length * secBytes
    let c : Ctx := { present := true, client := p.hdr.ap, cls := p.hdr.cls, part := p.f 4 1 0, mask := newMask p s, mask0 := newMask p s
                     pinned := askedPin p, hdr := p.hdr, saveLen := size }
    (if newAddr p ≠ 0 then some (newAddr p) else ((s.without k).setCtx n c).vaTakeTop n size 65536) = some va →
    ((s.without k).setCtx n c).saveArea n va size = some v →
    s.after k p (ctxCreate p (s.without k)) =
      let w := v.upCtx n fun y => { y with saveVa := va }
      let w := if askedPin p then (newEngs p s).foldl (fun v e => v.pinSlot n e) w else w
      w.schedule.final p.hdr stOk { lo := wd n, hi := wd (size / 4096), d1 := wd ((w.ctx n).saveVa / 65536) } := by
  intro size c hva hv
  have hTT : newTT p s = false := by simp [newTT, htt]
  have hlen : newLen p s = size := if_neg (by simp [hTT])
  have hctx : newCtx p s = c := by simp only [newCtx, hTT, hlen, Bool.false_or, c]
  have harea : newArea p s k n = some (v.upCtx n fun y => { y with saveVa := va }) := by
    unfold newArea
    rw [if_neg (by simp [hTT]), hctx, hlen, hva]
    dsimp only
    rw [hv]
    rfl
  have hmade := ctxCreate_made (k := k) hp hmask hfree hheld (fun h => ⟨hTT, by rw [hlen]; exact haddr h⟩)
    (fun _ => ⟨hcls, fun h => (hpin h).1⟩) (fun h => by rw [hTT, Bool.false_or] at h; rw [hTT]; exact (hpin h).2) harea
  simp only [newSlots, hTT, hlen, Bool.false_or] at hmade
  exact hmade

end

/-- Settles O29: each packet's refusals in their order and its effect, then the same for the packets that complete. -/
theorem contextsAreCreatedAndDestroyed : Obligations.ContextsAreCreatedAndDestroyed := by
  unfold Obligations.ContextsAreCreatedAndDestroyed
  constructor
  · intro k p s u pt tt ex mask engs pinned pin addr len newCtx area slots c
    refine ⟨fun h => runPacket_comes h (ctxCreate_after k p s), fun h => runPacket_comes h (ctxDestroy_after k p s), fun x t hx hw => ?_,
      fun x t hx hw => ?_, fun x t hx => ?_, fun h => runPacket_comes h (ctxModeSet_after k p s)⟩
    · rw [exec_contextScrubComplete, ctxScrubbed_done hx hw]
      rfl
    · rw [exec_contextScrubComplete, ctxScrubbed_waits hx hw]
    · rw [exec_contextScrubComplete, ctxScrubbed_idle hx]
      split <;> rfl
  · intro k p s u pt ex mask engs pinned addr size newCtx slots c
    refine ⟨fun n h hp hmask hfree hheld => ⟨fun htt haddr hroom => ?_, fun va v htt hcls hpin haddr hva hv => ?_⟩, fun h hs hpl => ?_,
      fun x t hx hw hd ho hm => ?_, fun h hcls hs => ?_⟩
    · exact runPacket_comes h (ctxCreate_tt hp hmask hfree hheld htt haddr hroom)
    · exact runPacket_comes h (ctxCreate_dp hp hmask hfree hheld htt hcls hpin haddr hva hv)
    · refine runPacket_comes h ?_
      rw [ctxDestroy_after, if_neg fun h => Bool.false_ne_true (h.symm.trans hs), if_neg]
      rintro ⟨h1, h2⟩
      exact hpl.elim (fun h => h h1) h2
    · rw [exec_contextScrubComplete, ctxScrubbed_bare hx hw hd ho hm]
      rfl
    · refine runPacket_comes h ?_
      have hallowed : [0x20, 0x23].contains (s.ctxCode p.hdr.ctx) = true := by
        rcases hs with hs | ⟨hs, -⟩ <;> rw [hs] <;> rfl
      have hjobs : ¬ (s.ctxCode p.hdr.ctx = 0x20 ∧ s.ctxHasJobs p.hdr.ctx = true) := by
        rintro ⟨h1, h2⟩
        rcases hs with hs | ⟨-, hs⟩
        · exact absurd (h1.symm.trans hs) (by decide)
        · exact Bool.false_ne_true (hs.symm.trans h2)
      rw [ctxModeSet_after, if_neg (fun h => hcls h.1 h.2), if_neg (by rw [hallowed]; decide), if_neg hjobs]

end Sys2Proof.Machine
end

section
/-! PROOFS. Transfers: the two packets, and their completion. -/

set_option Elab.async false

namespace Sys2Proof.Machine

/-! ### Transfers (R183, R187, R189) -/

/-- A 48-bit operand: word `i`, and the low half of word `i + 1`. -/
def operand48 (p : Packet) (i : Nat) : Nat := (p.w i).toNat + 2 ^ 32 * p.f (i + 1) 15 0

/-- The state with a transfer at a mover: the one named in expert form, else a free one. -/
def State.transferBegun (s : State) (k : Nat) (p : Packet) (fill : Option Word) (src dst len mv : Nat) : State :=
  let a := s.accepted k p s.xferNo 0 0
  { a with xferNo := a.xferNo + 1
           transfers := a.transfers ++ [{ id := a.xferNo, hdr := p.hdr, src := src, dst := dst, len := len, fill := fill
                                          mover := if p.hdr.expert then mv else a.pickMover }] }

section
variable (k : Nat) (p : Packet) (s : State)

/-- MEM_COPY: its refusals in their order, and the transfer. -/
theorem memCopy_after :
    s.after k p (memMove false p (s.without k)) =
      if ctxOpen.contains (s.ctxCode p.hdr.ctx) = false then s.refusal k p stState (wd (s.ctxCode p.hdr.ctx)) 0
      else if operand48 p 4 < operand48 p 6 + operand48 p 8 ∧ operand48 p 6 < operand48 p 4 + operand48 p 8 then s.refusal k p stRange (det 8 0) 0
      else if p.hdr.expert = true ∧ s.tst.movers.getLsbD (p.f 10 3 0) = true then s.refusal k p stState (wd (s.ctxCode p.hdr.ctx)) 0
      else if s.rangeBad p.hdr.ctx (operand48 p 4) (operand48 p 8) = true then s.refusal k p stRange (det 4 0) 0
      else if s.rangeBad p.hdr.ctx (operand48 p 6) (operand48 p 8) = true then s.refusal k p stRange (det 6 0) 0
      else if p.hdr.expert = true ∧ s.moverBound (p.f 10 3 0) = true then s.refusal k p stBusy 0 0
      else s.transferBegun k p none (operand48 p 4) (operand48 p 6) (operand48 p 8) (p.f 10 3 0) := by
  unfold memMove
  simp only [after_needNot, after_refuseIf, after_pend, Bool.not_false, Bool.true_and, Bool.and_eq_true, decide_eq_true_eq,
    Bool.false_eq_true, if_false]
  rfl

/-- MEM_FILL: no overlap to refuse and one range. -/
theorem memFill_after :
    s.after k p (memMove true p (s.without k)) =
      if ctxOpen.contains (s.ctxCode p.hdr.ctx) = false then s.refusal k p stState (wd (s.ctxCode p.hdr.ctx)) 0
      else if p.hdr.expert = true ∧ s.tst.movers.getLsbD (p.f 9 3 0) = true then s.refusal k p stState (wd (s.ctxCode p.hdr.ctx)) 0
      else if s.rangeBad p.hdr.ctx (operand48 p 4) (operand48 p 6) = true then s.refusal k p stRange (det 4 0) 0
      else if p.hdr.expert = true ∧ s.moverBound (p.f 9 3 0) = true then s.refusal k p stBusy 0 0
      else s.transferBegun k p (some (p.w 8)) 0 (operand48 p 4) (operand48 p 6) (p.f 9 3 0) := by
  unfold memMove
  simp only [after_needNot, after_refuseIf, after_pend, Bool.not_true, Bool.false_and, Bool.and_eq_true, Bool.false_eq_true, if_false, if_true]
  rfl

end

/-! ### TRANSFER_COMPLETE -/

theorem exec_transferComplete (id : Nat) (errs : List MemErr) (remote : List Byte) (t : State) :
    exec (.transferComplete id errs remote) t = .next (t.xferDone id errs remote) := rfl

section
variable {t : State} {id : Nat} {errs : List MemErr} {remote : List Byte}

/-- A transfer that is not there. -/
theorem xferDone_none (h : t.transfers.find? (fun x => x.id == id) = none) : t.xferDone id errs remote = t := by
  unfold State.xferDone
  rw [h]

variable {x : Transfer} (h : t.transfers.find? (fun x => x.id == id) = some x)
include h

/-- One whose turn it is not. -/
theorem xferDone_waits (hw : t.xferWaits x = true) : t.xferDone id errs remote = t := by
  unfold State.xferDone
  rw [h]
  exact if_pos hw

/-- One whose turn it is moves its bytes, and ends or waits by what they meet. -/
theorem xferDone_runs (hw : t.xferWaits x = false) :
    t.xferDone id errs remote = match t.runXfer x errs remote with
      | (t, .fin) => (t.endXfer x 0 false).schedule
      | (t, .stop code) => (t.endXfer x code false).schedule
      | (t, .miss o va w pr) =>
        if t.ctxTT x.hdr.ctx = true then
          (({ t with xlt := { t.xlt with cntStaticMiss := t.xlt.cntStaticMiss + 1 } } : State).endXfer x fltXltMiss false).schedule
        else ((t.notice x.hdr.ctx x.hdr { va := va, write := w, prot := pr, mover := true, unit := x.mover, job := x.id }).upXfer x.id
          fun y => { y with done := o, stalled := true }).schedule := by
  unfold State.xferDone
  rw [h]
  dsimp only
  rw [if_neg (by simp [hw])]
  obtain ⟨u, r⟩ := t.runXfer x errs remote
  cases r <;> rfl

end

/-- Settles O34: the two packets' refusals in their order, and the outcomes of a transfer. -/
theorem transfersMoveMemory : Obligations.TransfersMoveMemory := by
  unfold Obligations.TransfersMoveMemory
  intro k p s c begin' at6
  refine ⟨fun h => runPacket_comes h (memCopy_after k p s), fun h => runPacket_comes h (memFill_after k p s), fun t id errs remote => ⟨fun h => ?_,
    fun x h => ⟨fun hw => ?_, fun hw => ?_⟩⟩⟩
  · rw [exec_transferComplete, xferDone_none h]
  · rw [exec_transferComplete, xferDone_waits h hw]
  · exact congrArg Host.Outcome.next (xferDone_runs h hw)

end Sys2Proof.Machine
end

section
/-! PROOFS. Stream packets and their completions. -/

set_option Elab.async false

namespace Sys2Proof.Machine

/-! ### Stream packets (R63, R253 to R279) -/

/-- What a stream packet comes to: refused where the stream is another context's, the context not open, or the stream in a
state that the table does not allow; else `a`. -/
def State.streamLegal (s : State) (k : Nat) (p : Packet) (l : List Nat) (a : State) : State :=
  let x := s.stream (p.f 4 4 0)
  if x.state ≠ 0x40 ∧ x.ctx ≠ p.hdr.ctx then s.refusal k p stAuth 0 0
  else if ctxOpen.contains (s.ctxCode p.hdr.ctx) = false then s.refusal k p stState (wd (s.ctxCode p.hdr.ctx)) 0
  else if l.contains x.state = false then s.refusal k p stState (wd x.state) 0
  else a

section
variable (k : Nat) (p : Packet) (s : State)

theorem streamPacket_after (l : List Nat) (a : Ans) :
    s.after k p (streamPacket p (s.without k) l a) = s.streamLegal k p l (s.after k p a) := by
  unfold streamPacket
  simp only [after_refuseIf, after_needNot, Bool.and_eq_true, bne_iff_ne]
  rfl

/-- The stream that STREAM_OPEN names is open, of another context and another client. -/
def streamForeign : Bool :=
  (s.stream (p.f 4 4 0)).state != 0x40 && (s.stream (p.f 4 4 0)).ctx != p.hdr.ctx &&
    (s.ctx (s.stream (p.f 4 4 0)).ctx).client != p.hdr.ap

/-- STREAM_OPEN of a foreign stream. -/
theorem streamOpen_foreign (h : streamForeign p s = true) : s.after k p (streamOpen p (s.without k)) = s.refusal k p stAuth 0 0 := by
  unfold streamOpen
  rw [after_refuseIf]
  exact if_pos h

/-- In expert form, with a descriptor that cannot be read. -/
theorem streamOpen_unread {y : Xl} (h : streamForeign p s = false) (hx : p.hdr.expert = true)
    (hr : (s.without k).vrd none p.hdr.ctx (p.va 10) 128 = .error y) :
    s.after k p (streamOpen p (s.without k)) = s.refusal k p stRange (det 10 0) 0 := by
  have hf : ¬ streamForeign p s = true := by simp [h]
  unfold streamOpen
  rw [after_refuseIf]
  refine (if_neg hf).trans ?_
  rw [if_pos hx, hr]
  rfl

/-- With one that can: its fields, then the checks of R254. -/
theorem streamOpen_expert {bs : List Byte} (h : streamForeign p s = false) (hx : p.hdr.expert = true)
    (hr : (s.without k).vrd none p.hdr.ctx (p.va 10) 128 = .ok bs) :
    s.after k p (streamOpen p (s.without k)) =
      match firstField stFormat (descFmt (wordsOf bs) (openWords p).source (openWords p).dtype (openWords p).width (openWords p).format
            (openWords p).grouped),
          firstField stRange (descRng (wordsOf bs) (openWords p).source (openWords p).width (openWords p).grouped) with
      | some r, _ => s.refusal k p r.1 r.2.1 r.2.2
      | none, some r => s.refusal k p r.1 r.2.1 r.2.2
      | none, none => s.after k p (openChecked p (p.f 4 4 0) (cfgOf (wordsOf bs) (openWords p).source (openWords p).width) (s.without k)) := by
  have hf : ¬ streamForeign p s = true := by simp [h]
  unfold streamOpen
  rw [after_refuseIf]
  refine (if_neg hf).trans ?_
  rw [if_pos hx, hr]
  dsimp only
  cases firstField stFormat _ with
  | some r => rfl
  | none => cases firstField stRange _ <;> rfl

/-- In basic form. -/
theorem streamOpen_basic (h : streamForeign p s = false) (hx : p.hdr.expert = false) :
    s.after k p (streamOpen p (s.without k)) = s.after k p (openChecked p (p.f 4 4 0)
      (if (openWords p).format = 5 then { cfgBasic (openWords p) with invstd := List.replicate 3 fOne } else cfgBasic (openWords p)) (s.without k)) := by
  have hf : ¬ streamForeign p s = true := by simp [h]
  unfold streamOpen
  rw [after_refuseIf]
  refine (if_neg hf).trans ?_
  rw [if_neg (by simp [hx])]

end

/-- Settles O48: each stream packet under `streamLegal`, and the completions. -/
theorem streamsFollowTheirStates : Obligations.StreamsFollowTheirStates := by
  unfold Obligations.StreamsFollowTheirStates
  intro k p s v t u c n x refusal closed legal acc held run corrupt again words foreign mesh
  refine ⟨fun h hf => runPacket_comes h (streamOpen_foreign k p s hf), fun y h hf hx hr => runPacket_comes h (streamOpen_unread k p s hf hx hr),
    fun bs h hf hx hr => runPacket_comes h (streamOpen_expert k p s hf hx hr), fun h hf hx => runPacket_comes h (streamOpen_basic k p s hf hx),
    fun h => runPacket_comes h ?_, fun h => runPacket_comes h ?_, fun h => runPacket_comes h ?_, fun h => runPacket_comes h ?_,
    fun h => runPacket_comes h ?_, fun h => runPacket_comes h ?_, fun h => runPacket_comes h ?_, rfl, ?_, fun h => ?_, fun h => ?_⟩
  · unfold streamClose
    rw [streamPacket_after]
    refine congrArg (s.streamLegal k p [0x41, 0x43, 0x44]) ?_
    change (if x.ringFw then (s.accepted k p (if x.ringFw then freeKey x.ctx x.ringVa else n) 0 0).closeStream n
      else ((s.accepted k p (if x.ringFw then freeKey x.ctx x.ringVa else n) 0 0).closeStream n).closeOp 0x501 n stOk {}) = _
    by_cases hr : x.ringFw = true
    · simp only [if_pos hr]
    · simp only [if_neg hr]
      rfl
  · unfold streamStart
    simp only [streamPacket_after, after_refuseIf, after_late, Bool.and_eq_true, beq_iff_eq, decide_eq_true_eq]
    rfl
  · unfold streamStop
    simp only [streamPacket_after, after_refuseIf, after_pend, Bool.or_eq_true, bne_iff_ne]
    rfl
  · unfold streamResume
    simp only [streamPacket_after, after_refuseIf, after_ite, after_hold]
    refine congrArg (s.streamLegal k p [0x43]) (if_congr Iff.rfl rfl (if_congr Iff.rfl rfl ?_))
    change s.after k p (match x.quar with | none => _ | some sm => _) = _
    cases x.quar with
    | none => rfl
    | some sm =>
      change s.after k p (match u.recheck n sm with | (s, .error c) => _ | (_, .ok _) => _) = _
      dsimp only
      generalize u.recheck n sm = r
      obtain ⟨w, z | y⟩ := r <;> rfl
  · unfold streamSkip
    simp only [streamPacket_after, after_refuseIf, after_ite, after_hold, after_late]
    rfl
  · unfold meshLoad
    simp only [streamPacket_after, after_refuseIf, Bool.not_eq_true']
    refine congrArg (s.streamLegal k p [0x41, 0x44]) (if_congr Iff.rfl rfl ?_)
    change s.after k p (match mesh with | .error _ => _ | .ok bs => _) = _
    cases mesh with
    | error _ => rfl
    | ok bs =>
      simp only [after_refuseIf, after_pend, Bool.not_eq_true']
      rfl
  · unfold jpegDecode
    simp only [after_needNot]
    refine if_congr Iff.rfl rfl ?_
    change s.after k p (match s.stillStream c with | none => _ | some n => _) = _
    cases s.stillStream c with
    | none => rfl
    | some n =>
      simp only [after_needOne, after_refuseIf, after_pend, Bool.not_eq_true', Bool.and_eq_true]
      rfl
  · rfl
  · exact congrArg Host.Outcome.next (if_pos h)
  · exact congrArg Host.Outcome.next (if_neg h)

end Sys2Proof.Machine
end

section
/-! PROOFS. Update sessions and the persistent store. -/

set_option Elab.async false

namespace Sys2Proof.Machine

/-! ### Session packets (R45, R440) -/

/-- What a session packet comes to: it waits while the session's work goes on (UPD_OPEN apart), it is ST_BUSY while the service
port holds the session, and else comes to `v`. -/
def SessionRow (op k : Nat) (p : Packet) (c : Instr) (s v : State) : Prop :=
  (Applies op k p s → s.svp.opened = true → (op ≠ 0x901 → s.updWorks = false) → exec c s = .next (s.refusal k p stBusy 0 0)) ∧
  (Applies op k p s → s.svp.opened = false → (op ≠ 0x901 → s.updWorks = false) → exec c s = .next v) ∧
  (op ≠ 0x901 → s.updWorks = true → exec c s = .next s)

section
variable {op k : Nat} {p : Packet} {c : Instr} {s v : State} {body : Packet → State → Ans}

/-- A session packet while the service port holds the session. -/
theorem runSession_held (h : Applies op k p s) (ho : s.svp.opened = true) :
    runPacket op k (fun p s => s.svpHolds (body p s)) s = .next (s.refusal k p stBusy 0 0) := by
  rw [runPacket_after h]
  refine congrArg (fun a => Host.Outcome.next (s.after k p a)) (?_ : _ = Ans.refuse stBusy 0 0)
  exact if_pos ho

/-- And while it does not. -/
theorem runSession_open (h : Applies op k p s) (ho : s.svp.opened = false) (hv : s.after k p (body p (s.without k)) = v) :
    runPacket op k (fun p s => s.svpHolds (body p s)) s = .next v := by
  rw [runPacket_after h, ← hv]
  refine congrArg (fun a => Host.Outcome.next (s.after k p a)) ?_
  exact if_neg (by rw [show (s.without k).svp.opened = false from ho]; decide)

/-- The row of a packet of a session under way. -/
theorem sessionRow_of_work (hop : op ≠ 0x901)
    (hx : exec c s = if s.updWorks then .next s else runPacket op k (fun p s => s.svpHolds (body p s)) s)
    (hv : s.after k p (body p (s.without k)) = v) : SessionRow op k p c s v := by
  have idle (hw : op ≠ 0x901 → s.updWorks = false) : exec c s = runPacket op k (fun p s => s.svpHolds (body p s)) s :=
    hx.trans (if_neg (by simp [hw hop]))
  exact ⟨fun h ho hw => (idle hw).trans (runSession_held h ho), fun h ho hw => (idle hw).trans (runSession_open h ho hv),
    fun _ hw => hx.trans (if_pos hw)⟩

/-- The row of UPD_OPEN. -/
theorem sessionRow_of_open (hx : exec c s = runPacket 0x901 k (fun p s => s.svpHolds (body p s)) s)
    (hv : s.after k p (body p (s.without k)) = v) : SessionRow 0x901 k p c s v :=
  ⟨fun h ho _ => hx.trans (runSession_held h ho), fun h ho _ => hx.trans (runSession_open h ho hv), fun h => absurd rfl h⟩

end

/-! ### What follows a session's work (R437, R438) -/

section
variable {s : State}

theorem blockProgrammed_none {ok : Bool} (h : s.upd.busy = none) : s.blockProgrammed ok = s := by
  unfold State.blockProgrammed
  rw [h]

/-- The block in hand is received, with its progress bit, or its read-back failed. -/
theorem blockProgrammed_some {ok : Bool} {i : Nat} {data : List Byte} (h : s.upd.busy = some (i, data)) :
    let free := s.upUpd fun y => { y with busy := none }
    s.blockProgrammed ok =
      if ok = true then
        ((free.upSlotOf s.sessIdx fun y =>
          { y with blocks := Tab.set y.blocks i data, progress := if y.progress.contains i = true then y.progress else i :: y.progress }).updReceived.updEnd
            0x902 4 stOk {}).svpAborts
      else (((free.upSlotOf s.sessIdx fun y => { y with blocks := Tab.erase y.blocks i }).fault fltMemUncorr 1 255 0 0).updEnd 0x902 4 stFault
        { fault := fltMemUncorr }).svpAborts := by
  unfold State.blockProgrammed
  rw [h]
  rfl

/-- The end of a verification. -/
theorem verifyDone_eq :
    let seen := s.upUpd fun y => { y with verifying := false }
    s.verifyDone =
      if s.upd.verifying = false then s
      else if sha512 (s.slotImage s.sessIdx) = slice s.sessManifest 64 64 ∧ s.mfSigned s.sessManifest = true ∧ s.mfFresh s.sessManifest = true then
        ((seen.updState 0x64).updEnd 0x903 5 stOk {}).svpAborts
      else (seen.updEnd 0x903 5 stAuth {}).updIdle.svpAborts := by
  intro seen
  unfold State.verifyDone
  simp only [Bool.not_eq_true]
  rfl

/-- The end of a staging read. -/
theorem stagingDone_eq :
    let named := s.storePut fun q => if q.sessTarget = 1 then { q with slotP := s.store.cur.sessSlot }
      else { q with slotC := s.store.cur.sessSlot, tries := 1, failA := q.failA && s.store.cur.sessSlot != 0, failB := q.failB && s.store.cur.sessSlot != 1 }
    s.stagingDone =
      if s.upd.staging = false then s
      else if ¬ sha512 (s.slotImage s.sessIdx) = slice s.sessManifest 64 64 then (s.updEnd 0x904 6 stAuth {}).updIdle
      else if s.plnShut = true then s.activateOff
      else named.upUpd fun y => { y with staging := false, acting := s.storeWaits } := by
  intro named
  unfold State.stagingDone
  simp only [Bool.not_eq_true]
  rfl

/-- What waited for a write of the store goes on once it is over. -/
theorem storeWritten_eq {ok done : Bool} {t : State} (h : s.storeDone ok = (done, t)) :
    s.storeWritten ok = if done = true then t.storeNext.updStored.testStored else t := by
  unfold State.storeWritten
  rw [h]

/-- A write whose read-back agrees is over, and its bank the newer one (R442). -/
theorem storeDone_good {q : StoreRec} (h : s.store.writing = some q) :
    s.storeDone true = (true, s.upStore fun y =>
      { y with writing := none, cur := { y.cur with seq := q.seq }, seq := wd q.seq, bank := !y.bank
               bank0 := if y.bank then some q else y.bank0, bank1 := if y.bank then y.bank1 else some q }) := by
  unfold State.storeDone
  rw [h]
  rfl

theorem storeDone_none {ok : Bool} (h : s.store.writing = none) : s.storeDone ok = (false, s) := by
  unfold State.storeDone
  rw [h]

end

theorem exec_storeWriteComplete (ok : Bool) (s : State) : exec (.storeWriteComplete ok) s = .next (s.storeWritten ok) := rfl

theorem exec_updBlockProgrammed (ok : Bool) (s : State) : exec (.updBlockProgrammed ok) s = .next (s.blockProgrammed ok) := rfl

theorem exec_updActivateInstant (s : State) : exec .updActivateInstant s = .next (match s.upd.atNs with
    | none => s
    | some t => (s.passTo t).upUpd fun y => { y with atNs := none, staging := true }) := rfl

/-- Settles O59: each session packet by its row, then what follows the work it began. -/
theorem updatesFollowTheirSession : Obligations.UpdatesFollowTheirSession := by
  unfold Obligations.UpdatesFollowTheirSession
  intro k p s ok i data t r u x a sess m st n blk bst ab slot free good lost agrees seen named
  refine ⟨sessionRow_of_open rfl ?_, sessionRow_of_work (by decide) rfl ?_, fun h => ?_, fun h => ?_, sessionRow_of_work (by decide) rfl ?_,
    congrArg Host.Outcome.next verifyDone_eq, fun h => sessionRow_of_work (by decide) rfl ?_, fun h => sessionRow_of_work (by decide) rfl ?_,
    fun h => ?_, fun h => ?_, congrArg Host.Outcome.next stagingDone_eq, sessionRow_of_work (by decide) rfl ?_, fun h => ?_,
    fun q hq hok => ?_, fun q hq hg => ?_, fun q hq hg => ?_⟩
  · simp only [after_ite, after_refuse, after_done]
    rfl
  · simp only [after_ite, after_refuse, after_pend]
    rfl
  · rw [exec_updBlockProgrammed, blockProgrammed_none h]
  · rw [exec_updBlockProgrammed, blockProgrammed_some h]
  · simp only [after_ite, after_refuse, after_pend]
    rfl
  · rw [show (s.without k).activateRefusal = some r from h]
    rfl
  · rw [show (s.without k).activateRefusal = none from h]
    simp only [after_ite, after_refuse, after_pend]
    rfl
  · rw [exec_updActivateInstant, show s.upd.atNs = none from h]
  · rw [exec_updActivateInstant, show s.upd.atNs = some t from h]
  · simp only [after_ite, after_refuse, after_done]
    rfl
  · rw [exec_storeWriteComplete, storeWritten_eq (storeDone_none h)]
    rfl
  · rw [exec_storeWriteComplete, storeWritten_eq (storeDone_good hq)]
    rfl
  · rw [exec_storeWriteComplete, storeWritten_eq (storeDone_again s q hq hg)]
    rfl
  · rw [exec_storeWriteComplete, storeWritten_eq (storeDone_fails s q hq hg)]
    rfl

end Sys2Proof.Machine
end
section
/-! PROOFS. The invariant: what keeps it, from the increments of Halyard and the modes up.

In the sections that follow each function of the model has one lemma, in the model's order: `Inv.f` for a function from states to states, `f_keeps` for one whose result is an answer, an effect or an
outcome. The lemma of a function is put together from those of the functions it calls; where the function does not
write the five fields that the invariant speaks of, `Inv.of_eq` says it all. -/

set_option Elab.async false

namespace Sys2Proof.Machine

theorem Hal.clamp_rate (i : Nat) : rateOk (Hal.clamp i) := by
  unfold Hal.clamp rateOk
  split_ifs <;> omega

/-- A decision that takes effect leaves the increment as it was, or brings one within the limits (R282, R287). -/
theorem Hal.take_rate {h : Hal} {w : HalWrite} (hr : rateOk h.inc) (hw : incrOk w.incr ∧ incrOk w.servo) :
    rateOk (h.take w).inc := by
  unfold Hal.take
  extract_lets h1 h2 h3 h4
  have r1 : rateOk h1.inc := by
    unfold h1
    split
    · exact hr
    · dsimp only
      split_ifs
      · exact ⟨by decide, by decide⟩
      · exact Hal.clamp_rate _
      · exact hr
  have r2 : rateOk h2.inc := by
    unfold h2
    split
    · exact r1
    · next i hi =>
      rw [hi] at hw
      split_ifs
      · exact hw.1
      · exact r1
  have r3 : rateOk h3.inc := by
    unfold h3
    split
    · exact r2
    · next i hi =>
      rw [hi] at hw
      split_ifs
      · exact hw.2
      · exact r2
  have r4 : rateOk h4.inc := by
    unfold h4
    split <;> exact r3
  split <;> exact r4

theorem Hal.setTotal_inc (h : Hal) (t : Nat) : (h.setTotal t).inc = h.inc := rfl
theorem Hal.hclk_inc (h : Hal) (c : Nat) : ({ h with hclk := c } : Hal).inc = h.inc := rfl
theorem Hal.plain_inc (h : Hal) (n : Nat) : (h.plain n).inc = h.inc :=
  (Hal.hclk_inc (h.setTotal (h.total + n * h.inc)) (h.hclk + n)).trans (Hal.setTotal_inc h (h.total + n * h.inc))

theorem Hal.plain_rate {h : Hal} {n} (hr : rateOk h.inc) : rateOk (h.plain n).inc := by
  rw [Hal.plain_inc]
  exact hr

theorem Hal.pend_rate {h : Hal} {l} (hr : rateOk h.inc) : rateOk ({ h with pend := l } : Hal).inc := by
  dsimp only
  exact hr

/-- While edges pass, the increment stays within the limits that the waiting decisions keep. -/
theorem Hal.runWith_rate {h : Hal} {n l} (hr : rateOk h.inc) (hl : pendOk l) :
    rateOk (h.runWith n l).inc ∧ pendOk (h.runWith n l).pend := by
  induction l generalizing h n with
  | nil =>
    unfold Hal.runWith
    exact ⟨Hal.pend_rate (Hal.plain_rate hr), hl⟩
  | cons w ws ih =>
    have hw : incrOk w.incr ∧ incrOk w.servo := hl w (by simp)
    unfold Hal.runWith
    split
    · exact ih (Hal.take_rate (Hal.plain_rate hr) hw) fun x hx => hl x (by simp [hx])
    · exact ⟨Hal.pend_rate (Hal.plain_rate hr), hl⟩

/-- The increment, now and after the decisions that wait, is within the limits. -/
def Hal.Bounded (h : Hal) : Prop := rateOk h.inc ∧ pendOk h.pend

theorem Hal.Bounded.of_eq {h g : Hal} (hb : h.Bounded) (hi : g.inc = h.inc := by rfl) (hq : g.pend = h.pend := by rfl) :
    g.Bounded := ⟨hi ▸ hb.1, hq ▸ hb.2⟩

theorem Hal.Bounded.later {h : Hal} {w : HalWrite} (hb : h.Bounded) (hi : incrOk w.incr) (hs : incrOk w.servo) :
    (h.later w).Bounded := by
  refine ⟨hb.1, fun x hx => ?_⟩
  rcases List.mem_append.1 hx with hx | hx
  · exact hb.2 x hx
  · rw [List.mem_singleton.1 hx]
    exact ⟨hi, hs⟩

theorem Hal.Bounded.ctrl {h : Hal} {v : Word} (hb : h.Bounded) : (h.ctrl v).Bounded :=
  Hal.Bounded.later hb.of_eq trivial trivial

theorem Hal.Bounded.servo {h : Hal} {ppt : Int} (hb : h.Bounded) : (h.servo ppt).Bounded :=
  hb.later trivial (Hal.clamp_rate _)

theorem Hal.Bounded.writeIncr {h : Hal} {fine : Bool} {v : Word} (hb : h.Bounded) : (h.writeIncr fine v).Bounded := by
  unfold Hal.writeIncr
  split
  · exact hb.later (Hal.clamp_rate _) trivial
  · exact hb.of_eq

/-! ### The modes and device states that a step enters -/

theorem devOk_ready : devOk devReady := ⟨by decide, by decide⟩
theorem devOk_shutdown : devOk devShutdown := ⟨by decide, by decide⟩
theorem devOk_faulted : devOk devFaulted := ⟨by decide, by decide⟩
theorem modeOk_policy : modeOk mPolicy := ⟨by decide, by decide⟩
theorem modeOk_maq : modeOk mMaq := ⟨by decide, by decide⟩
theorem modeOk_ramp : modeOk mRamp := ⟨by decide, by decide⟩
theorem modeOk_stop : modeOk mStop := ⟨by decide, by decide⟩

section
variable {s t : State}

/-- A state with the same memory, device state, Plinth mode, increment and waiting changes. -/
theorem Inv.of_eq (h : Inv s) (hm : t.mem = s.mem := by rfl) (hd : t.dev = s.dev := by rfl)
    (hp : t.plinth.mode = s.plinth.mode := by rfl) (hi : t.hal.inc = s.hal.inc := by rfl)
    (hq : t.hal.pend = s.hal.pend := by rfl) : Inv t :=
  ⟨hm ▸ h.m, hd ▸ h.d, hp ▸ h.p, hi ▸ h.r, hq ▸ h.w⟩

theorem Inv.hal (h : Inv s) : s.hal.Bounded := ⟨h.r, h.w⟩

theorem Inv.upHalB {g : Hal → Hal} (h : Inv s) (hb : (g s.hal).Bounded) : Inv (s.upHal g) :=
  ⟨h.m, h.d, h.p, hb.1, hb.2⟩

/-- A choice of two states. -/
theorem Inv.ite {c : Prop} [Decidable c] (h1 : Inv s) (h2 : Inv t) : Inv (if c then s else t) := by
  split <;> assumption

/-- An effect repeated over a list. -/
theorem Inv.foldl {α : Type} {f : State → α → State} {l : List α} (h : Inv s) (hf : ∀ u a, Inv u → Inv (f u a)) :
    Inv (l.foldl f s) := by
  induction l generalizing s with
  | nil => exact h
  | cons a l ih => exact ih (hf _ _ h)

theorem inv_iff : Inv s ↔ memOk s.mem ∧ devOk s.dev ∧ modeOk s.plinth.mode ∧ rateOk s.hal.inc ∧ pendOk s.hal.pend :=
  ⟨fun h => ⟨h.m, h.d, h.p, h.r, h.w⟩, fun ⟨m, d, p, r, w⟩ => ⟨m, d, p, r, w⟩⟩

/-- Every state that an answer leads to meets the invariant. -/
def Ans.Keeps : Ans → Prop
  | .done t _ _ => Inv t
  | .pend _ _ _ g | .late _ _ _ g => ∀ u, Inv u → Inv (g u)
  | .refuse .. | .wait .. | .hold => True

/-- A choice of two answers. -/
theorem Ans.Keeps.ite {c : Prop} [Decidable c] {a b : Ans} (ha : a.Keeps) (hb : b.Keeps) : (if c then a else
    b).Keeps := by
  split
  · exact ha
  · exact hb

/-- Every state that a command's effect comes to meets the invariant. -/
def Res.Keeps : Res → Prop
  | .ok t | .miss t .. | .part t _ | .stop t .. => Inv t

/-- A choice of two effects. -/
theorem Res.Keeps.ite {c : Prop} [Decidable c] {a b : Res} (ha : a.Keeps) (hb : b.Keeps) : (if c then a else
    b).Keeps := by
  split
  · exact ha
  · exact hb

/-- The next state, where there is one, meets the invariant. -/
def Keeps (o : Host.Outcome State Fault Refusal) : Prop := ∀ t, o = .next t → Inv t

/-- A choice of two outcomes. -/
theorem Keeps.ite {c : Prop} [Decidable c] {a b : Host.Outcome State Fault Refusal} (ha : Keeps a) (hb : Keeps b) :
    Keeps (if c then a else b) := by
  split
  · exact ha
  · exact hb

theorem Keeps.next (h : Inv t) : Keeps (.next t) := fun _ ht => Host.Outcome.next.inj ht ▸ h

/-- A choice of two states that carry a result. -/
theorem Inv.fst_ite {α : Type} {c : Prop} [Decidable c] {a b : State × α} (ha : Inv a.1) (hb : Inv b.1) : Inv (if c
    then a else b).1 := by
  split
  · exact ha
  · exact hb

theorem Inv.withKv {x} (h : Inv s) : Inv { s with kv := x } := h.of_eq

theorem Inv.withPsmUse {x} (h : Inv s) : Inv { s with psmUse := x } := h.of_eq

/-- A decision of Halyard that waits. -/
theorem Inv.later {w : HalWrite} (h : Inv s) (hi : incrOk w.incr := by trivial) (hs : incrOk w.servo := by trivial) :
    Inv (s.upHal fun h => h.later w) := h.upHalB (h.hal.later hi hs)

theorem Inv.servo {ppt : Int} {g : Hal → Hal} (h : Inv s) (hi : (g s.hal).inc = s.hal.inc := by rfl)
    (hq : (g s.hal).pend = s.hal.pend := by rfl) : Inv (s.upHal fun h => (g h).servo ppt) := h.upHalB (h.hal.of_eq hi
        hq).servo

theorem uncorr_keeps {a} (h : Inv s) : (Res.uncorr s a).Keeps := h

theorem fault_keeps {code k} (h : Inv s) : (Res.fault s code k).Keeps := h

theorem stale_keeps (h : Inv s) : (Res.stale s).Keeps := fault_keeps h.of_eq

theorem andThen_keeps {r : Res} {g : State → Res} (hr : r.Keeps) (hg : ∀ u, Inv u → (g u).Keeps) : (r.andThen
    g).Keeps := by
  cases r with
  | ok t => exact hg t hr
  | miss t va w pr d => exact hr
  | part t d => exact hr
  | stop t code w k => exact hr

theorem Inv.fst_of_eq {α : Type} {r : State × α} {b : α} (h : Inv r.1) (hr : r = (t, b)) : Inv t := by
  rw [hr] at h
  exact h

/-- Whether the next block of a scale stream is read or not, the state meets the invariant. -/
def ReadKeeps {α : Type} (st : α → State) : Except Res α → Prop
  | .ok r => Inv (st r)
  | .error r => r.Keeps

/-- Where the rows of an append go in or stop, the state meets the invariant. -/
def RowsKeep : Except (State × Nat) State → Prop
  | .ok t => Inv t
  | .error r => Inv r.1

/-- An effect repeated over a list, which gathers a result. -/
theorem Inv.snd_foldl {α β : Type} {f : β × State → α → β × State} {l : List α} {b : β} (h : Inv s)
    (hf : ∀ r a, Inv r.2 → Inv (f r a).2) : Inv (l.foldl f (b, s)).2 := by
  suffices hr : ∀ r : β × State, Inv r.2 → Inv (l.foldl f r).2 from hr _ h
  induction l with
  | nil => exact fun r hr => hr
  | cons a l ih => exact fun r hr => ih _ (hf r a hr)

/-- A change of Plinth's record that leaves its mode, whatever the record. -/
theorem Inv.mapPlinth {g : Plinth → Plinth} (h : Inv s) (hg : ∀ x, (g x).mode = x.mode := by intro; rfl) :
    Inv (s.upPlinth g) := h.of_eq rfl rfl (hg _)

end

end Sys2Proof.Machine
end

section
/-! PROOFS. The invariant: the state, memory, events, faults, replies, packets and accesses. -/

set_option Elab.async false

namespace Sys2Proof.Machine

section
variable {s t : State}

theorem Inv.reset : Inv State.reset :=
  ⟨rfl, ⟨by decide, by decide⟩, ⟨by decide, by decide⟩, ⟨by decide, by decide⟩, fun _ hw => nomatch hw⟩

theorem Inv.wr {a bs} (h : Inv s) : Inv (s.wr a bs) := ⟨Memory.wf_write _ _ _ h.m, h.d, h.p, h.r, h.w⟩

theorem Inv.zero {a n} (h : Inv s) : Inv (s.zero a n) := ⟨Memory.wf_clear _ _ _ h.m, h.d, h.p, h.r, h.w⟩

theorem Inv.wrHost {a bs} (h : Inv s) : Inv (s.wrHost a bs) := h.wr

theorem Inv.draw (h : Inv s) : Inv (s.draw).2 := by
  grind [State.draw, inv_iff]

theorem Inv.drawBytes {n} (h : Inv s) : Inv (s.drawBytes n).2 := by
  grind [State.drawBytes, inv_iff]

theorem Inv.out {kind dest data} (h : Inv s) : Inv (s.out kind dest data) := .of_eq h

theorem Inv.busAns {status data} (h : Inv s) : Inv (s.busAns status data) := h.of_eq

theorem Inv.busWord {w} (h : Inv s) : Inv (s.busWord w) := h.busAns

theorem Inv.upHif {g} (h : Inv s) : Inv (s.upHif g) := .of_eq h

theorem Inv.upPsmc {g} (h : Inv s) : Inv (s.upPsmc g) := .of_eq h

theorem Inv.upCommons {g} (h : Inv s) : Inv (s.upCommons g) := .of_eq h

theorem Inv.upXlt {g} (h : Inv s) : Inv (s.upXlt g) := .of_eq h

theorem Inv.upFe {g} (h : Inv s) : Inv (s.upFe g) := .of_eq h

theorem Inv.upHal {g : Hal → Hal} (h : Inv s) (hi : (g s.hal).inc = s.hal.inc := by rfl)
    (hq : (g s.hal).pend = s.hal.pend := by rfl) : Inv (s.upHal g) := h.of_eq rfl rfl rfl hi hq

theorem Inv.upTrim {g} (h : Inv s) : Inv (s.upTrim g) := .of_eq h

theorem Inv.upPlinth {g : Plinth → Plinth} (h : Inv s) (hp : (g s.plinth).mode = s.plinth.mode := by rfl) :
    Inv (s.upPlinth g) := h.of_eq rfl rfl hp

theorem Inv.upTwin {g} (h : Inv s) : Inv (s.upTwin g) := .of_eq h

theorem Inv.upEvc {g} (h : Inv s) : Inv (s.upEvc g) := .of_eq h

theorem Inv.upSec {g} (h : Inv s) : Inv (s.upSec g) := .of_eq h

theorem Inv.upUpd {g} (h : Inv s) : Inv (s.upUpd g) := .of_eq h

theorem Inv.upSvp {g} (h : Inv s) : Inv (s.upSvp g) := .of_eq h

theorem Inv.upStore {g} (h : Inv s) : Inv (s.upStore g) := .of_eq h

theorem Inv.upTst {g} (h : Inv s) : Inv (s.upTst g) := .of_eq h

theorem Inv.upCpw {g} (h : Inv s) : Inv (s.upCpw g) := .of_eq h

theorem Inv.setClient {i x} (h : Inv s) : Inv (s.setClient i x) := .of_eq h

theorem Inv.upClient {i g} (h : Inv s) : Inv (s.upClient i g) := h.setClient

theorem Inv.setPart {i x} (h : Inv s) : Inv (s.setPart i x) := .of_eq h

theorem Inv.upPart {i g} (h : Inv s) : Inv (s.upPart i g) := h.setPart

theorem Inv.setCtx {i x} (h : Inv s) : Inv (s.setCtx i x) := .of_eq h

theorem Inv.upCtx {i g} (h : Inv s) : Inv (s.upCtx i g) := h.setCtx

theorem Inv.setEngine {i x} (h : Inv s) : Inv (s.setEngine i x) := .of_eq h

theorem Inv.upEngine {i g} (h : Inv s) : Inv (s.upEngine i g) := h.setEngine

theorem Inv.setSeq {i x} (h : Inv s) : Inv (s.setSeq i x) := .of_eq h

theorem Inv.upSeq {i g} (h : Inv s) : Inv (s.upSeq i g) := h.setSeq

theorem Inv.setDir {i x} (h : Inv s) : Inv (s.setDir i x) := .of_eq h

theorem Inv.setStep {i x} (h : Inv s) : Inv (s.setStep i x) := .of_eq h

theorem Inv.setPlan {i x} (h : Inv s) : Inv (s.setPlan i x) := .of_eq h

theorem Inv.upPlan {i g} (h : Inv s) : Inv (s.upPlan i g) := h.setPlan

theorem Inv.setMonitor {i x} (h : Inv s) : Inv (s.setMonitor i x) := .of_eq h

theorem Inv.upMonitor {i g} (h : Inv s) : Inv (s.upMonitor i g) := h.setMonitor

theorem Inv.setSlotOf {i x} (h : Inv s) : Inv (s.setSlotOf i x) := .of_eq h

theorem Inv.upSlotOf {i g} (h : Inv s) : Inv (s.upSlotOf i g) := h.setSlotOf

theorem Inv.setRing {i x} (h : Inv s) : Inv (s.setRing i x) := .of_eq h

theorem Inv.upRing {i g} (h : Inv s) : Inv (s.upRing i g) := h.setRing

theorem Inv.setAp {i x} (h : Inv s) : Inv (s.setAp i x) := .of_eq h

theorem Inv.upAp {i g} (h : Inv s) : Inv (s.upAp i g) := h.setAp

theorem Inv.setStream {i x} (h : Inv s) : Inv (s.setStream i x) := .of_eq h

theorem Inv.upStream {i g} (h : Inv s) : Inv (s.upStream i g) := h.setStream

theorem Inv.setGroup {i x} (h : Inv s) : Inv (s.setGroup i x) := .of_eq h

theorem Inv.upGroup {i g} (h : Inv s) : Inv (s.upGroup i g) := h.setGroup

theorem Inv.setCsi {i x} (h : Inv s) : Inv (s.setCsi i x) := .of_eq h

theorem Inv.upCsi {i g} (h : Inv s) : Inv (s.upCsi i g) := h.setCsi

theorem Inv.setHport {i x} (h : Inv s) : Inv (s.setHport i x) := .of_eq h

theorem Inv.upHport {i g} (h : Inv s) : Inv (s.upHport i g) := h.setHport

theorem Inv.setDomain {i x} (h : Inv s) : Inv (s.setDomain i x) := .of_eq h

theorem Inv.upDomain {i g} (h : Inv s) : Inv (s.upDomain i g) := h.setDomain

theorem Inv.pass {n} (h : Inv s) : Inv (s.pass n) := by
  obtain ⟨hr, hw⟩ := Hal.runWith_rate (n := n) h.r h.w
  unfold State.pass
  split
  · exact ⟨h.m, h.d, h.p, hr, hw⟩
  · exact h.of_eq

theorem Inv.passTo {x1} (h : Inv s) : Inv (s.passTo x1) := .ite h.pass h

theorem Inv.passPln {x1} (h : Inv s) : Inv (s.passPln x1) := .ite h.pass h

theorem Inv.msix {v} (h : Inv s) : Inv (s.msix v) := by
  obtain ⟨p, e, o, hs⟩ := State.msix_says s v
  rw [hs]
  exact h.of_eq

theorem Inv.msixRelease {v} (h : Inv s) : Inv (s.msixRelease v) := .ite h.upHif.msix h

theorem Inv.evcBridge {g} (h : Inv s) : Inv (s.evcBridge g) := by
  obtain ⟨p, e, o, hs⟩ := State.evcBridge_says s g
  rw [hs]
  exact h.of_eq

theorem Inv.evcBridgeAll (h : Inv s) : Inv (s.evcBridgeAll) := .foldl h fun _ _ hu => hu.evcBridge

theorem Inv.evcWake {n} (h : Inv s) : Inv (s.evcWake n) := by
  obtain ⟨p, e, o, hs⟩ := State.evcWake_says s n
  rw [hs]
  exact h.of_eq

theorem Inv.event {n} (h : Inv s) : Inv (s.event n) := by
  obtain ⟨p, e, o, hs⟩ := State.event_says s n
  rw [hs]
  exact h.of_eq

theorem Inv.events {l} (h : Inv s) : Inv (s.events l) := .foldl h fun _ _ hu => hu.event

theorem Inv.enterDev {d} (h : Inv s) (hd : devOk d) : Inv (s.enterDev d) := by
  have he : Inv ({ s with dev := d } : State) := ⟨h.m, hd, h.p, h.r, h.w⟩
  exact .ite h (.ite he.event.event he.event)

theorem Inv.fault {code cls ctx unit a0 a1 a2} (h : Inv s) : Inv (s.fault code cls ctx unit a0 a1 a2) :=
  .ite (Inv.enterDev h.of_eq devOk_faulted) h.of_eq

theorem Inv.plnRecord {code cls ctx unit a0 a1 a2} (h : Inv s) : Inv (s.plnRecord code cls ctx unit a0 a1 a2) :=
    (Inv.of_eq h).event

theorem Inv.pushReply {ring rep} (h : Inv s) : Inv (s.pushReply ring rep) := .ite ((Inv.ite h.upAp h).upRing) h

theorem Inv.countRefusal {ap st} (h : Inv s) : Inv (s.countRefusal ap st) := h.upAp.event

theorem Inv.countFinal {ap st} (h : Inv s) : Inv (s.countFinal ap st) := .ite h.countRefusal h.upAp

theorem Inv.unreserve {ring} (h : Inv s) : Inv (s.unreserve ring) := h.upRing

theorem Inv.final {x1 st f} (h : Inv s) : Inv (s.final x1 st f) := .ite h.countFinal.unreserve
    h.countFinal.unreserve.pushReply

theorem Inv.pendingReply {x1} (h : Inv s) : Inv (s.pendingReply x1) := .ite h h.pushReply

theorem Inv.dropOpen {no} (h : Inv s) : Inv (s.dropOpen no) := .of_eq h

theorem Inv.close {o st f} (h : Inv s) : Inv (s.close o st f) := h.dropOpen.final

theorem Inv.closeOp {op key st f} (h : Inv s) : Inv (s.closeOp op key st f) := by
  grind [State.closeOp, Inv.close]

theorem Inv.closeNo {no st f} (h : Inv s) : Inv (s.closeNo no st f) := by
  grind [State.closeNo, Inv.close]

theorem Inv.accept {op key} (h : Inv s) : Inv (s.accept op key) := by
  unfold State.accept
  split
  · exact h.pendingReply
  · exact h

theorem Inv.cancelOpens {p} (h : Inv s) : Inv (s.cancelOpens p) := .foldl h fun _ _ h1 => h1.close

theorem Ans.Keeps.ofRefuse {r} : (Ans.ofRefuse r).Keeps := trivial

theorem Ans.Keeps.over {a : Ans} {r} : (a.over r).Keeps := by
  obtain ⟨u, hu, -⟩ := over_refuses a r
  rw [hu]
  trivial

theorem Inv.answer {p} {a : Ans} (h : Inv s) (ha : a.Keeps) : Inv (s.answer p a) := by
  cases a with
  | refuse st d0 d1 => exact h.final
  | done t f st => exact Inv.final ha
  | pend key v v2 g => exact ha _ (Inv.pendingReply h.of_eq)
  | late key v v2 g => exact ha _ h.of_eq
  | wait e l => exact h
  | hold => exact h

theorem Inv.applyPacket {op k body} (h : Inv s) (hb : ∀ p u, Inv u → (body p u).Keeps) : Inv (s.applyPacket op k
    body) := by
  unfold State.applyPacket
  split
  · exact h
  next p hp =>
  refine .ite h ?_
  have hs : Inv ({ s with taken := s.taken.eraseIdx k } : State) := h.of_eq
  extract_lets s'
  split
  · exact hs.answer trivial
  · have ha : (match s'.bar p with | some r => (body p s').over r | none => body p s').Keeps := by
      split
      · exact .over
      · exact hb p s' hs
    split
    · exact h.of_eq
    · exact h
    · exact hs.answer ha

theorem runPacket_keeps {op k body} (h : Inv s) (hb : ∀ p u, Inv u → (body p u).Keeps) : Keeps (runPacket op k
    body s) :=
  .next (h.applyPacket hb)

theorem Ans.Keeps.needState {code l} {a : Ans} (h : a.Keeps) : (needState code l a).Keeps := by
  unfold Machine.needState
  split
  · exact h
  · trivial

theorem Ans.Keeps.ownThenState {code l} {a : Ans} (h : a.Keeps) : (ownThenState code l a).Keeps := by
  unfold Machine.ownThenState
  split
  · exact h
  · exact .over

theorem Ans.Keeps.refuseIf {c st d} {a : Ans} (h : a.Keeps) : (refuseIf c st d a).Keeps := by
  cases c
  · exact h
  · trivial

theorem Inv.upSlot {e k g} (h : Inv s) : Inv (s.upSlot e k g) := h.upEngine

theorem Inv.upQs {e q g} (h : Inv s) : Inv (s.upQs e q g) := h.upEngine

theorem Inv.setJobs {c e l} (h : Inv s) : Inv (s.setJobs c e l) := h.upCtx

theorem Inv.setQueue {e q l} (h : Inv s) : Inv (s.setQueue e q l) := by
  grind [State.setQueue, Inv.setJobs, Inv.upEngine]

theorem Inv.upJob {e q g} (h : Inv s) : Inv (s.upJob e q g) := by
  grind [State.upJob, Inv.setQueue]

theorem Inv.holdRelease {e} (h : Inv s) : Inv (s.holdRelease e) := h.upEngine

theorem Inv.dbgEnd (h : Inv s) : Inv (s.dbgEnd) := .ite (((Inv.foldl h fun _ _ hu => hu.holdRelease).upSec).event)
    (.foldl h fun _ _ hu => hu.holdRelease)

theorem Inv.violation {m space addr write} (h : Inv s) : Inv (s.violation m space addr write) := h.upSec

theorem Inv.refusedAccess {m space addr write} (h : Inv s) : Inv (s.refusedAccess m space addr write) := by
  grind [State.refusedAccess, Inv.violation, Inv.busAns, Inv.upHif, Inv.enterDev, devOk_faulted, Inv.dbgEnd,
      Inv.busWord]

theorem Inv.hostUr (h : Inv s) : Inv (s.hostUr) := h.upHif.busAns

theorem Inv.checked {m off write g} (h : Inv s) (hg : ∀ u, Inv u → Inv (g u)) : Inv (s.checked m off write g) := by
  grind [State.checked, Inv.refusedAccess, Inv.hostUr]

end

end Sys2Proof.Machine
end

section
/-! PROOFS. The invariant: Halyard time, network time and Ethernet. -/

set_option Elab.async false

namespace Sys2Proof.Machine

section
variable {s t : State}

theorem Inv.halCtrl {v} (h : Inv s) : Inv (s.halCtrl v) := by
  have hc : Inv (s.upHal fun x => x.ctrl v) := h.upHalB h.hal.ctrl
  exact .ite (.ite (hc.upHalB (hc.hal.later trivial trivial)) hc.upHal.event) hc

theorem execHalManualStep_keeps {m v} (h : Inv s) : Keeps (execHalManualStep m v s) := by
  grind [execHalManualStep, Inv.halCtrl, Inv.checked, Keeps]

theorem execHalModeWrite_keeps {m v} (h : Inv s) : Keeps (execHalModeWrite m v s) := by
  grind [execHalModeWrite, Inv.halCtrl, Inv.checked, Keeps]

theorem execHalIncrWrite_keeps {m fine v} (h : Inv s) : Keeps (execHalIncrWrite m fine v s) :=
  .next (h.checked fun _ hu => hu.upHalB hu.hal.writeIncr)

theorem Inv.halSnap {m} (h : Inv s) : Inv (s.halSnap m) := h.upHal.busWord

theorem execHalSnapRead_keeps {m} (h : Inv s) : Keeps (execHalSnapRead m s) := by
  grind [execHalSnapRead, Inv.halSnap, Inv.checked, Keeps]

theorem execCopyCheck_keeps {agree} (h : Inv s) : Keeps (execCopyCheck agree s) := .next (.ite h h.upHal.event.fault)

theorem Inv.halSource {src} (h : Inv s) : Inv (s.halSource src) := h.upHal.event

theorem Inv.halAcquire {d} (h : Inv s) : Inv (s.halAcquire d) := by
  unfold State.halAcquire
  exact .ite h (.ite h.upHal (.ite (Inv.later h.upHal) h.upHal.upHal.event))

theorem Inv.halSelect (h : Inv s) : Inv (s.halSelect) := by
  unfold State.halSelect
  have hs {ppt} {g : Hal → Hal} (hi : (g s.hal).inc = s.hal.inc := by rfl) (hq : (g s.hal).pend = s.hal.pend := by
      rfl) :
    Inv (s.upHal fun h => (g h).servo ppt) := Inv.servo h hi hq
  refine .ite (.ite h.halSource.halAcquire (.ite h.halSource.halAcquire h)) (.ite (.ite h.halSource (.ite hs
      (Inv.event hs))) ?_)
  exact .ite h.upHal.halSource h.upHal

theorem Inv.domState {d code} (h : Inv s) : Inv (s.domState d code) := .ite h (((Inv.ite h.upDomain.upDomain
    h.upDomain).event).halSelect)

theorem Inv.servoUpdate {d eps} (h : Inv s) : Inv (s.servoUpdate d eps) := by
  unfold State.servoUpdate
  extract_lets
  exact Inv.servo h.upDomain

theorem Inv.ptpSync {d y} (h : Inv s) : Inv (s.ptpSync d y) := .ite (.ite ((Inv.ite h.upHport.upDomain.servoUpdate
    h.upHport.upDomain).domState) (.ite ((Inv.ite h.upHport.upDomain.servoUpdate h.upHport.upDomain).domState)
    ((Inv.ite h.upHport.upDomain.servoUpdate h.upHport.upDomain).halSelect))) h.upHport

theorem execPtpSyncReceive_keeps {d sync} (h : Inv s) : Keeps (execPtpSyncReceive d sync s) := .next h.ptpSync

theorem execPtpAnnounceReceive_keeps {d ann} (h : Inv s) : Keeps (execPtpAnnounceReceive d ann s) := .next (.ite h
    (.ite h.upDomain.upDomain.domState (.ite h.upDomain.domState h.upDomain)))

theorem execSyncReceiptTimeout_keeps {d} (h : Inv s) : Keeps (execSyncReceiptTimeout d s) := .next (.ite
    h.passTo.domState h)

theorem execAnnounceTimeout_keeps {d} (h : Inv s) : Keeps (execAnnounceTimeout d s) := .next (.ite h
    h.passTo.domState)

theorem execHalCfg_keeps {k} (h : Inv s) : Keeps (execHalCfg k s) := runPacket_keeps h fun _ _ hu => by grind
    [Ans.Keeps, Inv.setDomain, Inv.domState]

theorem execHalQuery_keeps {k} (h : Inv s) : Keeps (execHalQuery k s) := runPacket_keeps h fun _ _ hu => by grind
    [Ans.Keeps]

theorem execQbvCfg_keeps {k} (h : Inv s) : Keeps (execQbvCfg k s) :=
  runPacket_keeps h fun _ _ hu => hu.upHport

theorem execQbvListChange_keeps {port} (h : Inv s) : Keeps (execQbvListChange port s) := by
  grind [execQbvListChange, Inv.passTo, Inv.upHport, Keeps]

theorem execQbvGateEvent_keeps {port} (h : Inv s) : Keeps (execQbvGateEvent port s) := by
  grind [execQbvGateEvent, Inv.passTo, Inv.upHport, Keeps]

theorem Inv.queueFrame {port tc f} (h : Inv s) : Inv (s.queueFrame port tc f) := h.upHport

theorem Inv.takeStamp {port f} (h : Inv s) : Inv (s.takeStamp port f) := by
  unfold State.takeStamp
  split
  · exact h
  · exact Inv.ite h.upHport h

theorem execEthFrameQueue_keeps {m port data oneStep} (h : Inv s) : Keeps (execEthFrameQueue m port data oneStep s) :=
    .next (.ite h.queueFrame (.ite h.upHport h.takeStamp.queueFrame))

theorem Inv.ethTransmit {port phase} (h : Inv s) : Inv (s.ethTransmit port phase) := by
  unfold State.ethTransmit
  split
  · exact h
  · exact Inv.ite h (.ite h.upHport.out (by grind [Inv.out, Inv.upHport, Inv.event]))

theorem execEthFrameTransmit_keeps {port} (h : Inv s) : Keeps (execEthFrameTransmit port s) := .next h.ethTransmit

theorem Inv.ethToRing {port phase data} (h : Inv s) : Inv (s.ethToRing port phase data) := .ite (.ite h.upHport.event
    h.upHport) h

theorem execEthFrameReceive_keeps {port data fcsOk} (h : Inv s) : Keeps (execEthFrameReceive port data fcsOk s) :=
    .next (.ite h.ethToRing h)

theorem execEthLinkChange_keeps {port up} (h : Inv s) : Keeps (execEthLinkChange port up s) := .next h.upHport.event

end

end Sys2Proof.Machine
end

section
/-! PROOFS. The invariant: Plinth, the Maquette and Trim. -/

set_option Elab.async false

namespace Sys2Proof.Machine

section
variable {s t : State}

theorem Inv.plnMode {m} (h : Inv s) (hm : modeOk m) : Inv (s.plnMode m) := by
  refine .ite h (Inv.event ?_)
  exact ⟨h.m, h.d, hm, h.r, h.w⟩

theorem Inv.stopOutputs (h : Inv s) : Inv (s.stopOutputs) := h.upPlinth

theorem Inv.dropModeReq (h : Inv s) : Inv (s.dropModeReq) := .ite h.upPlinth.closeOp h.upPlinth

theorem Inv.twinCause {code} (h : Inv s) : Inv (s.twinCause code) := .ite h.upTwin h.upTwin

theorem Inv.plnS1 (h : Inv s) : Inv (s.plnS1) := by
  grind [State.plnS1, Inv.upPlinth, Inv.dropModeReq, Inv.plnMode, modeOk_policy, modeOk_maq, modeOk_ramp, modeOk_stop]

theorem Inv.plnS0 (h : Inv s) : Inv (s.plnS0) := by
  grind [State.plnS0, Inv.upPlinth, Inv.dropModeReq, Inv.stopOutputs, Inv.plnMode, modeOk_policy, modeOk_maq,
      modeOk_ramp, modeOk_stop]

theorem Inv.plnFault {code cls unit a0 a1 a2} (h : Inv s) : Inv (s.plnFault code cls unit a0 a1 a2) := .ite
    h.plnRecord.twinCause.plnS1 (.ite h.plnRecord.twinCause.plnS0 h.plnRecord)

theorem Inv.trimStateFault (h : Inv s) : Inv (s.trimStateFault) := h.plnFault

theorem Inv.plnRestart (h : Inv s) : Inv (s.plnRestart) := by
  grind [State.plnRestart, Inv.plnMode, Inv.closeOp, Inv.upTwin, Inv.upPlinth, modeOk_policy, modeOk_maq, modeOk_ramp,
      modeOk_stop]

theorem execPlnStatus_keeps {k} (h : Inv s) : Keeps (execPlnStatus k s) := runPacket_keeps h fun _ _ hu => by grind
    [Ans.Keeps]

theorem execPlnFaultRead_keeps {k} (h : Inv s) : Keeps (execPlnFaultRead k s) := runPacket_keeps h fun _ _ hu => by
    grind [Ans.Keeps, Inv.upPlinth, Inv.wrHost]

theorem execDevFaultRead_keeps {k} (h : Inv s) : Keeps (execDevFaultRead k s) := runPacket_keeps h fun _ _ hu => by
    grind [Ans.Keeps, Inv.wrHost, inv_iff]

theorem Inv.plnCounter {slot ctr} (h : Inv s) : Inv (s.plnCounter slot ctr) := h.upPlinth

theorem Inv.bridgeTime {x1 step crcOk} (h : Inv s) : Inv (s.bridgeTime x1 step crcOk) := by
  grind [State.bridgeTime, Inv.plnFault, Inv.upPlinth, inv_iff]

theorem execBridgeTimeUpdate_keeps {time step crcOk} (h : Inv s) : Keeps (execBridgeTimeUpdate time step crcOk s) :=
    .next h.bridgeTime

theorem Inv.freeRunEnter (h : Inv s) : Inv (s.freeRunEnter) := by
  unfold State.freeRunEnter
  exact .ite h (Inv.mapPlinth h.passPln).plnFault

theorem execFreeRunEntry_keeps (h : Inv s) : Keeps (execFreeRunEntry s) := .next h.freeRunEnter

theorem Inv.freeRunLimit (h : Inv s) : Inv (s.freeRunLimit) := by
  unfold State.freeRunLimit
  split
  · exact h
  · exact .ite (Inv.mapPlinth h.passPln).plnFault h

theorem execFreeRunLimit_keeps (h : Inv s) : Keeps (execFreeRunLimit s) := .next h.freeRunLimit

theorem execSs1Stop_keeps (h : Inv s) : Keeps (execSs1Stop s) :=
  .next (.ite (Inv.mapPlinth h.passPln) h)

theorem Inv.ss0Stop (h : Inv s) : Inv (s.ss0Stop) := by
  grind [State.ss0Stop, Inv.upPlinth, Inv.plnMode, modeOk_policy, modeOk_maq, modeOk_ramp, modeOk_stop]

theorem execSs0GraceExpiry_keeps (h : Inv s) : Keeps (execSs0GraceExpiry s) := .next (.ite h.passPln.ss0Stop.plnFault
    h)

theorem execLockstepMismatch_keeps (h : Inv s) : Keeps (execLockstepMismatch s) := .next h.plnFault

theorem execPlnSramError_keeps {unc} (h : Inv s) : Keeps (execPlnSramError unc s) := .next (.ite h.plnFault
    h.upPlinth)

theorem execPlnSupplyFault_keeps (h : Inv s) : Keeps (execPlnSupplyFault s) := .next h.upPlinth.plnFault

theorem execPlnClockFault_keeps (h : Inv s) : Keeps (execPlnClockFault s) := .next h.upPlinth.plnFault

theorem execSafeOutputMismatch_keeps {pin} (h : Inv s) : Keeps (execSafeOutputMismatch pin s) := .next
    h.upPlinth.plnFault

theorem execTestPulse_keeps {pin seen} (h : Inv s) : Keeps (execTestPulse pin seen s) :=
  .next (.ite (.ite h.passPln.out (Inv.mapPlinth h.passPln.out).plnFault) h)

theorem Inv.plnReset (h : Inv s) : Inv (s.plnReset) := by
  have h1 {c tr tw} : Inv { s with plinth := { counters := c, awaiting := true }, trim := tr, monitors := [], twin :=
      tw } :=
    ⟨h.m, h.d, (⟨by decide, by decide⟩ : modeOk mInit), h.r, h.w⟩
  exact .ite h1.cancelOpens h1.cancelOpens.event

theorem execPlnReset_keeps (h : Inv s) : Keeps (execPlnReset s) := .next h.plnReset

theorem execPlnModeSet_keeps {k} (h : Inv s) : Keeps (execPlnModeSet k s) := by
  refine runPacket_keeps h fun p u _ => ?_
  dsimp only
  split
  · trivial
  · refine .ite trivial (.ite trivial (.ite trivial (.ite trivial fun v hv => ?_)))
    exact .ite hv.plnCounter.upPlinth hv.plnCounter.upPlinth

theorem Inv.takeModeReq (h : Inv s) : Inv (s.takeModeReq) := by
  grind [State.takeModeReq, Inv.plnMode, Inv.plnRestart, Inv.twinCause, Inv.plnS1, Inv.closeOp, Inv.upPlinth,
      modeOk_policy, modeOk_maq, modeOk_ramp, modeOk_stop]

theorem execPlnRestartEdge_keeps (h : Inv s) : Keeps (execPlnRestartEdge s) := .next (.ite h.upPlinth h)

theorem execRestartWindowExpiry_keeps (h : Inv s) : Keeps (execRestartWindowExpiry s) :=
  .next (.ite (Inv.mapPlinth h.passPln).closeOp h)

theorem execPlnConfig_keeps {k} (h : Inv s) : Keeps (execPlnConfig k s) := runPacket_keeps h fun _ _ hu => by grind
    [Ans.Keeps, Inv.upPlinth]

theorem Inv.record {rej} (h : Inv s) : Inv (s.record rej) := .ite h.upPlinth.plnFault h.upPlinth

theorem Inv.applyNext {x} (h : Inv s) : Inv (s.applyNext x) := .ite h.upPlinth h

theorem Inv.decision {im x2} (h : Inv s) : Inv (s.decision im x2) := by
  unfold State.decision
  split
  · exact h
  · exact Inv.ite h.upPlinth (by grind [Inv.upPlinth, Inv.applyNext, Inv.record, Inv.plnFault])

theorem Inv.maqStart (h : Inv s) : Inv (s.maqStart) := by
  unfold State.maqStart
  split
  · extract_lets s1 tm age ageLim stopLim stale b0 sh b1 s2
    have h2 : Inv s2 := Inv.mapPlinth h.passPln
    exact .ite h2.plnFault (.ite h2.plnFault h2)
  · exact h

theorem execMaquetteStepInstant_keeps (h : Inv s) : Keeps (execMaquetteStepInstant s) := .next h.maqStart

theorem execMaquetteStepEnd_keeps (h : Inv s) : Keeps (execMaquetteStepEnd s) := by
  grind [execMaquetteStepEnd, Inv.plnFault, Inv.upPlinth, Keeps]

theorem execMaquetteDeadline_keeps (h : Inv s) : Keeps (execMaquetteDeadline s) := by
  refine .next ?_
  split
  · exact (Inv.mapPlinth h.passPln).plnFault
  · exact h

theorem Inv.maqKat (h : Inv s) : Inv (s.maqKat) := by
  unfold State.maqKat
  split
  · refine .ite h ?_
    extract_lets s1 s2 o b0 b1 sums
    have h2 : Inv s2 := Inv.mapPlinth h.passPln
    exact .ite h2 h2.plnFault
  · exact h

theorem execMaquetteKat_keeps (h : Inv s) : Keeps (execMaquetteKat s) := .next h.maqKat

theorem execBridgeDepthGrid_keeps {stamp grid crcOk} (h : Inv s) : Keeps (execBridgeDepthGrid stamp grid crcOk s) :=
    .next (.ite h.upPlinth h.upPlinth)

theorem Inv.trimVerified {im} (h : Inv s) : Inv (s.trimVerified im) := by
  grind [State.trimVerified, Inv.upTrim]

theorem Inv.applyObject {ob body blk} (h : Inv s) : Inv (s.applyObject ob body blk) := .ite h.trimVerified ((Inv.ite
    h.upPlinth.upPlinth (.ite h.upPlinth.upPlinth h.upPlinth.upPlinth)).closeOp)

theorem Inv.configVerified (h : Inv s) : Inv (s.configVerified) := by
  unfold State.configVerified
  split
  · exact h
  · exact Inv.ite h.upPlinth.closeOp (by grind [Inv.upPlinth, Inv.closeOp, Inv.applyObject, Inv.plnCounter,
      Inv.accept])

theorem execConfigObjectVerified_keeps (h : Inv s) : Keeps (execConfigObjectVerified s) := .next h.configVerified

theorem Inv.trimReplace {im} (h : Inv s) : Inv (s.trimReplace im) := h.upTrim.upPlinth.closeOp

theorem Inv.rampStep {im x2} (h : Inv s) : Inv (s.rampStep im x2) := .ite h (.ite h.upPlinth (.ite h.upPlinth (.ite
    h.ss0Stop h)))

theorem Inv.takeSetpoint {im} (h : Inv s) : Inv (s.takeSetpoint im) := by
  grind [State.takeSetpoint, Inv.upPlinth]

theorem Inv.twinSample (h : Inv s) : Inv (s.twinSample) := .ite h.upTwin.upTwin.upTwin (.ite
    h.upTwin.upTwin.upTwin.closeOp h.upTwin.upTwin)

theorem Inv.replaceDue {x1} (h : Inv s) : Inv (s.replaceDue x1) := by
  unfold State.replaceDue
  split
  · exact Inv.ite h.trimReplace h
  · exact h

theorem Inv.missDue {x1} (h : Inv s) : Inv (s.missDue x1) := .ite h.upPlinth h

theorem Inv.trimTake {im x2} (h : Inv s) : Inv (s.trimTake im x2) := .ite
    h.upTrim.upTwin.twinSample.takeModeReq.takeSetpoint.rampStep.missDue.decision.upTrim
    h.upTrim.upTwin.twinSample.takeModeReq.takeSetpoint.rampStep.missDue.decision.upTrim

theorem Inv.trimInstant (h : Inv s) : Inv (s.trimInstant) := by
  grind [State.trimInstant, Inv.trimTake, Inv.upTrim, Inv.passPln, Inv.replaceDue]

theorem execTrimSampleInstant_keeps (h : Inv s) : Keeps (execTrimSampleInstant s) := .next h.trimInstant

theorem Inv.nodeAbsent {im node} (h : Inv s) : Inv (s.nodeAbsent im node) := .ite h.upTrim.plnFault h.upTrim

theorem Inv.sigmas {im set y xh} (h : Inv s) : Inv (s.sigmas im set y xh).2 := by
  grind [State.sigmas, inv_iff]

theorem Inv.trimLaw {im run y} (h : Inv s) : Inv (s.trimLaw im run y) := by
  grind [State.trimLaw, Inv.trimStateFault, Inv.upTrim, Inv.sigmas]

theorem Inv.trimStart {im run late} (h : Inv s) : Inv (s.trimStart im run late) := (Inv.ite ((Inv.foldl h fun _ _ hu
    => .ite hu.nodeAbsent hu.upTrim).upTrim) (.foldl h fun _ _ hu => .ite hu.nodeAbsent hu.upTrim)).trimLaw

theorem execTrimSampleStart_keeps (h : Inv s) : Keeps (execTrimSampleStart s) := by
  grind [execTrimSampleStart, Inv.trimStart, Keeps]

theorem execTrimWaitExpiry_keeps (h : Inv s) : Keeps (execTrimWaitExpiry s) := by
  grind [execTrimWaitExpiry, Inv.passPln, Inv.trimStart, Keeps]

theorem Inv.motorFrames {im run tq} (h : Inv s) : Inv (s.motorFrames im run tq).2 :=
  Inv.snd_foldl h fun r _ hr => by
    dsimp only
    exact hr.upTrim

theorem Inv.heartbeat {im} (h : Inv s) : Inv (s.heartbeat im) := by
  grind [State.heartbeat, Inv.out, Inv.upTwin]

theorem Inv.sendFrames {im fs} (h : Inv s) : Inv (s.sendFrames im fs) := .ite ((Inv.foldl h.upTwin fun _ _ hu =>
    hu.queueFrame).heartbeat) h.upTwin.upPlinth

theorem Inv.traceSample {x1 prevRegion} (h : Inv s) : Inv (s.traceSample x1 prevRegion) := .ite h.upTrim (.of_eq h)

theorem execTrimTraceCfg_keeps {k} (h : Inv s) : Keeps (execTrimTraceCfg k s) := runPacket_keeps h fun _ _ hu => by
    grind [Ans.Keeps, Inv.upTrim, Inv.plnCounter]

theorem execTrimTraceRead_keeps {k} (h : Inv s) : Keeps (execTrimTraceRead k s) := runPacket_keeps h fun _ _ hu => by
    grind [Ans.Keeps, Inv.upTrim]

theorem execTrimTraceReadComplete_keeps (h : Inv s) : Keeps (execTrimTraceReadComplete s) := by
  grind [execTrimTraceReadComplete, Inv.upTrim, Inv.close, Inv.wrHost, Keeps]

theorem Inv.trimEnd {im run} (h : Inv s) : Inv (s.trimEnd im run) := by
  grind [State.trimEnd, Inv.traceSample, Inv.plnFault, Inv.sendFrames, Inv.motorFrames, Inv.upPlinth, Inv.upTrim,
      Inv.foldl]

theorem execTrimSampleEnd_keeps (h : Inv s) : Keeps (execTrimSampleEnd s) := by
  grind [execTrimSampleEnd, Inv.trimEnd, Keeps]

theorem execTrimDeadlineExpiry_keeps (h : Inv s) : Keeps (execTrimDeadlineExpiry s) := by
  refine .next ?_
  split
  · exact .ite h (Inv.mapPlinth h.passPln.upTrim).plnFault
  · exact h

end

end Sys2Proof.Machine
end

section
/-! PROOFS. The invariant: Twin pairing, protection, update sessions and the service port. -/

set_option Elab.async false

namespace Sys2Proof.Machine

section
variable {s t : State}

theorem execTwinLinkUp_keeps {k} (h : Inv s) : Keeps (execTwinLinkUp k s) := runPacket_keeps h fun _ _ hu => by grind
    [Ans.Keeps, Inv.upTwin]

theorem Inv.trainingEnd {peer} (h : Inv s) : Inv (s.trainingEnd peer) := .ite h (.ite h.upTwin.closeOp (.ite
    h.upTwin.closeOp h.upTwin.closeOp))

theorem execTwinTrainingComplete_keeps {peer} (h : Inv s) : Keeps (execTwinTrainingComplete peer s) := .next
    h.trainingEnd

theorem Inv.twinEnter {o peer} (h : Inv s) : Inv (s.twinEnter o peer) := .ite h.upTwin.close h.upTwin.upTwin.close

theorem Inv.twinTry (h : Inv s) : Inv (s.twinTry) := by
  unfold State.twinTry
  split
  · exact Inv.ite h.twinEnter h
  · exact h

theorem execTwinModeSet_keeps {k} (h : Inv s) : Keeps (execTwinModeSet k s) := runPacket_keeps h fun _ _ hu => by
    grind [Ans.Keeps, Inv.twinTry, Inv.upTwin]

theorem execTwinPeerModeRequest_keeps {peer} (h : Inv s) : Keeps (execTwinPeerModeRequest peer s) := .next
    h.upTwin.twinTry

theorem execTwinModeTimeout_keeps (h : Inv s) : Keeps (execTwinModeTimeout s) := .next (.ite h
    h.passTo.upTwin.closeOp)

theorem execTwinQuery_keeps {k} (h : Inv s) : Keeps (execTwinQuery k s) := runPacket_keeps h fun _ _ hu => by grind
    [Ans.Keeps]

theorem execTwinHandover_keeps {k peerEligible} (h : Inv s) : Keeps (execTwinHandover k peerEligible s) :=
    runPacket_keeps h fun _ _ hu => by grind [Ans.Keeps, Inv.upTwin]

theorem Inv.prefixCompare {c} (h : Inv s) : Inv (s.prefixCompare c) := by
  unfold State.prefixCompare
  split
  · exact Inv.ite h.upTwin h.upTwin.upTwin.event
  · exact h

theorem execShrPrefixReceive_keeps {ws} (h : Inv s) : Keeps (execShrPrefixReceive ws s) := .next (.ite
    h.upTwin.prefixCompare h)

theorem Inv.mirrorStop {mode} (h : Inv s) : Inv (s.mirrorStop mode) := .ite h.plnS1 (.ite h.plnS0 h)

theorem Inv.tokenIn {ws} (h : Inv s) : Inv (s.tokenIn ws) := .ite h.upTwin ((Inv.ite h.upTwin.mirrorStop
    h.upTwin).upTwin)

theorem execHeartbeatTokenReceive_keeps {ws} (h : Inv s) : Keeps (execHeartbeatTokenReceive ws s) := .next (.ite
    h.tokenIn h.upTwin)

theorem Inv.adopt {im ws} (h : Inv s) : Inv (s.adopt im ws) := by
  grind [State.adopt, Inv.upTwin, Inv.upPlinth, Inv.upTrim, Inv.foldl]

theorem execStateBlockReceive_keeps {ws} (h : Inv s) : Keeps (execStateBlockReceive ws s) := by
  grind [execStateBlockReceive, Inv.adopt, Inv.upTwin, Keeps]

theorem execTwinAliveEdge_keeps (h : Inv s) : Keeps (execTwinAliveEdge s) := .next h.upTwin

theorem Inv.takeover (h : Inv s) : Inv (s.takeover) := (((Inv.foldl h.upPlinth fun _ _ hu =>
    hu.queueFrame).upTwin).plnFault).event

theorem Inv.heartbeatLook (h : Inv s) : Inv (s.heartbeatLook) := by
  grind [State.heartbeatLook, Inv.plnFault, Inv.takeover, Inv.upPlinth, Inv.upTwin]

theorem Inv.heartbeatCheck (h : Inv s) : Inv (s.heartbeatCheck) := by
  unfold State.heartbeatCheck
  split
  · exact h
  · exact h.passPln.upTwin.heartbeatLook

theorem execHeartbeatCheck_keeps (h : Inv s) : Keeps (execHeartbeatCheck s) := .next h.heartbeatCheck

theorem Inv.storeSave (h : Inv s) : Inv (s.storeSave) := .ite h.upStore h.upStore

theorem Inv.storePut {g} (h : Inv s) : Inv (s.storePut g) := h.upStore.storeSave

theorem Inv.storeDone {ok} (h : Inv s) : Inv (s.storeDone ok).2 := by
  grind [State.storeDone, Inv.upStore]

theorem Inv.storeNext (h : Inv s) : Inv (s.storeNext) := .ite h.upStore.storeSave h

theorem Inv.storeLoad (h : Inv s) : Inv (s.storeLoad) := by
  grind [State.storeLoad, Inv.upStore]

theorem Inv.updState {c} (h : Inv s) : Inv (s.updState c) := .ite h h.upUpd.event

theorem Inv.openSession {m svp} (h : Inv s) : Inv (s.openSession m svp) := h.upSlotOf.storePut.upUpd.updState

theorem Inv.updIdle (h : Inv s) : Inv (s.updIdle) := h.storePut.upUpd.upSvp.updState

theorem Inv.updAbort (h : Inv s) : Inv (s.updAbort) := h.upSlotOf.updIdle

theorem Inv.updReceived (h : Inv s) : Inv (s.updReceived) := h.updState

theorem Inv.svpAnswer {seq st} (h : Inv s) : Inv (s.svpAnswer seq st) := h.out

theorem Inv.svpClose {typ st} (h : Inv s) : Inv (s.svpClose typ st) := .foldl h.upSvp fun _ _ hu => hu.svpAnswer

theorem Inv.svpAborts (h : Inv s) : Inv (s.svpAborts) := .ite h (.ite h.svpClose h.svpClose.updAbort)

theorem Inv.updEnd {op typ st f} (h : Inv s) : Inv (s.updEnd op typ st f) := h.closeOp.svpClose

theorem svpHolds_keeps {a : Ans} (ha : a.Keeps) : (s.svpHolds a).Keeps := .ite trivial ha

theorem execUpdOpen_keeps {k} (h : Inv s) : Keeps (execUpdOpen k s) :=
  runPacket_keeps h fun _ _ hu => svpHolds_keeps (.ite trivial (.ite hu.openSession trivial))

theorem execUpdBlock_keeps {k} (h : Inv s) : Keeps (execUpdBlock k s) := by
  refine .ite (.next h) (runPacket_keeps h fun p u _ => svpHolds_keeps (.ite trivial ?_))
  refine .ite trivial (.ite ?_ (.ite ?_ ?_))
  · exact fun v hv => hv.event.closeOp
  · exact fun v hv => hv.updReceived.closeOp
  · exact fun v hv => hv.updState.upUpd

theorem Inv.blockProgrammed {ok} (h : Inv s) : Inv (s.blockProgrammed ok) := by
  unfold State.blockProgrammed
  split
  · exact h
  · exact Inv.ite h.upUpd.upSlotOf.updReceived.updEnd.svpAborts h.upUpd.upSlotOf.fault.updEnd.svpAborts

theorem execUpdBlockProgrammed_keeps {ok} (h : Inv s) : Keeps (execUpdBlockProgrammed ok s) := .next h.blockProgrammed

theorem execUpdVerify_keeps {k} (h : Inv s) : Keeps (execUpdVerify k s) :=
  .ite (.next h) (runPacket_keeps h fun _ _ _ => svpHolds_keeps (.ite trivial fun _ hv => hv.upUpd))

theorem Inv.verifyDone (h : Inv s) : Inv (s.verifyDone) := .ite h (.ite h.upUpd.updState.updEnd.svpAborts
    h.upUpd.updEnd.updIdle.svpAborts)

theorem execUpdVerifyComplete_keeps (h : Inv s) : Keeps (execUpdVerifyComplete s) := .next h.verifyDone

theorem execUpdAbort_keeps {k} (h : Inv s) : Keeps (execUpdAbort k s) :=
  .ite (.next h) (runPacket_keeps h fun _ _ hu => svpHolds_keeps (.ite trivial hu.updAbort))

theorem execUpdQuery_keeps {k} (h : Inv s) : Keeps (execUpdQuery k s) := runPacket_keeps h fun _ _ hu =>
    svpHolds_keeps hu

theorem execUpdActivate_keeps {k} (h : Inv s) : Keeps (execUpdActivate k s) := by
  refine .ite (.next h) (runPacket_keeps h fun p u _ => svpHolds_keeps ?_)
  split
  · exact .ofRefuse
  · exact .ite (.ite trivial fun v hv => hv.updState.upUpd) fun v hv => hv.updState.upUpd

theorem execUpdActivateInstant_keeps (h : Inv s) : Keeps (execUpdActivateInstant s) := by
  grind [execUpdActivateInstant, Inv.passTo, Inv.upUpd, Keeps]

theorem Inv.activateOff (h : Inv s) : Inv (s.activateOff) := h.updEnd.upUpd.updState

theorem Inv.stagingDone (h : Inv s) : Inv (s.stagingDone) := .ite h (.ite h.updEnd.updIdle (.ite h.activateOff
    h.storePut.upUpd))

theorem execUpdStagingComplete_keeps (h : Inv s) : Keeps (execUpdStagingComplete s) := .next h.stagingDone

theorem Inv.confirm {m} (h : Inv s) : Inv (s.confirm m) := by
  grind [State.confirm, Inv.storePut, Inv.upSec]

theorem Inv.plnConfirm {v} (h : Inv s) : Inv (s.plnConfirm v) := .ite (.ite h.storeLoad h) ((Inv.ite h.storeLoad
    h).storePut)

theorem execPlinthBoot_keeps {manifest image key} (h : Inv s) : Keeps (execPlinthBoot manifest image key s) := .next
    (.ite h (.ite h.upPlinth.upSec.plnConfirm h.upPlinth))

theorem execPlinthBootTimeout_keeps (h : Inv s) : Keeps (execPlinthBootTimeout s) := .next (.ite h.passPln.upPlinth h)

theorem Inv.activated (h : Inv s) : Inv (s.activated) := .ite h.storePut.activateOff (.ite h.updEnd.updIdle.plnReset
    (.ite h.upSec.confirm.updEnd.updIdle h.updEnd.updIdle))

theorem Inv.updStored (h : Inv s) : Inv (s.updStored) := .ite h (.ite h.upUpd.activated h.upUpd)

theorem Inv.lcEffect {dest} (h : Inv s) : Inv (s.lcEffect dest) := .ite h.upSec (.ite h.dbgEnd.upSec (.ite (.of_eq
    h.upSec.upSec) h.upSec))

theorem Inv.resetSoon (h : Inv s) : Inv (s.resetSoon) := .of_eq h

theorem Inv.ownerCount {c} (h : Inv s) : Inv (s.ownerCount c) := by
  unfold State.ownerCount
  split
  · exact h
  · exact h.storePut

theorem execLcTransition_keeps {k} (h : Inv s) : Keeps (execLcTransition k s) := runPacket_keeps h fun _ _ hu => by
    grind [Ans.Keeps, Inv.closeOp, Inv.lcEffect, Inv.ownerCount, Inv.resetSoon]

theorem execDbgSession_keeps {k} (h : Inv s) : Keeps (execDbgSession k s) := runPacket_keeps h fun _ _ hu => by grind
    [Ans.Keeps, Inv.ownerCount, Ans.Keeps.refuseIf, Inv.event, Inv.upSec, Inv.dbgEnd, Inv.upEngine, Inv.holdRelease]

theorem Inv.secLock {m v} (h : Inv s) : Inv (s.secLock m v) := .ite h.upSec h

theorem execSecLockWrite_keeps {m v} (h : Inv s) : Keeps (execSecLockWrite m v s) := by
  grind [execSecLockWrite, Inv.secLock, Inv.checked, Keeps]

theorem execSecAttest_keeps {k} (h : Inv s) : Keeps (execSecAttest k s) := runPacket_keeps h fun _ _ hu => by grind
    [Ans.Keeps, Inv.wrHost]

theorem Inv.svpFrame {typ f g} (h : Inv s) (hg : ∀ u, Inv u → Inv (g u)) : Inv (s.svpFrame typ f g) := by
  grind [State.svpFrame, Inv.upSvp]

theorem execSvpHello_keeps {f} (h : Inv s) : Keeps (execSvpHello f s) := by
  grind [execSvpHello, Inv.out, Inv.svpFrame, Keeps]

theorem execSvpManifest_keeps {f} (h : Inv s) : Keeps (execSvpManifest f s) := by
  grind [execSvpManifest, Inv.upSvp, Inv.svpAnswer, Inv.svpFrame, Keeps]

theorem Inv.busyOpens (h : Inv s) : Inv (s.busyOpens) := .foldl h fun _ _ hu => hu.close

theorem execSvpOpen_keeps {f} (h : Inv s) : Keeps (execSvpOpen f s) := by
  grind [execSvpOpen, Inv.openSession, Inv.busyOpens, Inv.updAbort, Inv.upSvp, Inv.svpAnswer, Inv.svpFrame, Keeps]

theorem execSvpData_keeps {f} (h : Inv s) : Keeps (execSvpData f s) := by
  grind [execSvpData, Inv.event, Inv.upUpd, Inv.upSvp, Inv.svpAnswer, Inv.svpFrame, Keeps]

theorem Inv.svpWork {f typ code g} (h : Inv s) (hg : ∀ u, Inv u → Inv (g u)) : Inv (s.svpWork f typ code g) := by
  grind [State.svpWork, Inv.upSvp, Inv.svpAnswer]

theorem execSvpVerify_keeps {f} (h : Inv s) : Keeps (execSvpVerify f s) := by
  grind [execSvpVerify, Inv.upUpd, Inv.svpWork, Inv.svpFrame, Keeps]

theorem execSvpActivate_keeps {f} (h : Inv s) : Keeps (execSvpActivate f s) := by
  grind [execSvpActivate, Inv.updState, Inv.upUpd, Inv.svpWork, Inv.svpAnswer, Inv.svpFrame, Keeps]

theorem execSvpAbort_keeps {f} (h : Inv s) : Keeps (execSvpAbort f s) := by
  grind [execSvpAbort, Inv.updAbort, Inv.upSvp, Inv.svpAnswer, Inv.svpFrame, Keeps]

theorem execSvpLc_keeps {f} (h : Inv s) : Keeps (execSvpLc f s) := by
  grind [execSvpLc, Inv.ownerCount, Inv.lcEffect, Inv.resetSoon, Inv.svpAnswer, Inv.svpFrame, Keeps]

theorem execSvpProvision_keeps {f} (h : Inv s) : Keeps (execSvpProvision f s) := by
  grind [execSvpProvision, Inv.upSec, Inv.svpAnswer, Inv.svpFrame, Keeps]

theorem execSvpSessionTimeout_keeps (h : Inv s) : Keeps (execSvpSessionTimeout s) := .next (.ite
    h.passTo.updAbort.upSvp h)

end

end Sys2Proof.Machine
end

section
/-! PROOFS. The invariant: errors of memories, translation, allocation, cleats and save areas. -/

set_option Elab.async false

namespace Sys2Proof.Machine

section
variable {s t : State}

theorem Inv.psmLog {typ a m c} (h : Inv s) : Inv (s.psmLog typ a m c) := h.upPsmc.event

theorem Inv.saveGranules (h : Inv s) : Inv (s.saveGranules) := h.storePut

theorem Inv.markGranule {g unc} (h : Inv s) : Inv (s.markGranule g unc) := .ite h ((Inv.ite h.upPsmc
    h.upPsmc.event).saveGranules)

theorem Inv.rowHit {g} (h : Inv s) : Inv (s.rowHit g) := .ite h.upPsmc.markGranule h.upPsmc

theorem Inv.eccOne {m c patrol x} (h : Inv s) : Inv (s.eccOne m c patrol x) := by
  grind [State.eccOne, Inv.upEngine, Inv.upCommons, Inv.markGranule, Inv.rowHit, Inv.upPsmc, Inv.psmLog]

theorem Inv.eccRead {m c errs a n} (h : Inv s) : Inv (s.eccRead m c errs a n).1 := by
  have hf : Inv ((errs.filter fun x => burstIn a n x.addr).foldl (fun s x => s.eccOne m c false x) s) :=
    h.foldl fun _ _ hu => hu.eccOne
  unfold State.eccRead
  extract_lets met s1
  split
  · exact hf
  · exact .ite hf hf.eccOne

theorem Inv.eccReads {m c errs l} (h : Inv s) : Inv (s.eccReads m c errs l).1 := by
  induction l generalizing s with
  | nil => exact h
  | cons a l ih =>
    have he := h.eccRead (m := m) (c := c) (errs := errs) (a := a.1) (n := a.2)
    rw [State.eccReads]
    split
    · next hs =>
      rw [hs] at he
      exact he
    · next hs =>
      rw [hs] at he
      exact ih he

theorem Inv.eccWrite {a n} (h : Inv s) : Inv (s.eccWrite a n) := .ite h h.upPsmc

theorem Inv.put {a bs} (h : Inv s) : Inv (s.put a bs) := h.wr.eccWrite

theorem Inv.scrub {a n} (h : Inv s) : Inv (s.scrub a n) := h.zero.eccWrite

theorem Inv.putPieces {l bs} (h : Inv s) : Inv (s.putPieces l bs) := by
  induction l generalizing s bs with
  | nil => exact h
  | cons a l ih => exact ih h.put

theorem Inv.vwr {m c va bs} (h : Inv s) (ht : s.vwr m c va bs = .ok t) : Inv t := by
  grind [State.vwr, Inv.putPieces]

theorem Inv.cacheWalk {c va n k} (h : Inv s) : Inv (s.cacheWalk c va n k) := by
  induction n generalizing s k with
  | zero => exact h
  | succ n ih =>
    rw [State.cacheWalk]
    split
    · exact h
    · have hw : Inv s.draw.2 := h.draw
      exact .ite (.ite h hw.upXlt) (ih (.ite h hw.upXlt))

theorem Inv.fwErrs {m c errs} (h : Inv s) : Inv (s.fwErrs m c errs) := .ite ((Inv.foldl h fun _ _ hu =>
    hu.eccOne).fault) (.foldl h fun _ _ hu => hu.eccOne)

theorem Inv.walk {m c va errs} (h : Inv s) : Inv (s.walk m c va errs) := by
  grind [State.walk, Inv.draw, Inv.cacheWalk, Inv.upXlt, Inv.fwErrs]

theorem Inv.walks {m c errs write l} (h : Inv s) : Inv (s.walks m c errs write l) := by
  induction l generalizing s with
  | nil => exact h
  | cons a l ih =>
    have hw : Inv (if s.tlbHit m c a.1 then s else s.walk m c a.1 errs) := .ite h h.walk
    rw [State.walks]
    refine .ite h ?_
    dsimp only
    split
    · exact hw
    · exact .ite hw (ih hw)

theorem Inv.forget {c lo hi} (h : Inv s) : Inv (s.forget c lo hi) := by
  grind [State.forget, Inv.upXlt]

theorem Inv.prefetch {c f va} (h : Inv s) : Inv (s.prefetch c f va) := by
  grind [State.prefetch, Inv.upCommons, Inv.draw]

theorem Inv.demand {c route va n} (h : Inv s) : Inv (s.demand c route va n) := .ite h.upCtx.prefetch h.upCtx

theorem Inv.demands {c route l} (h : Inv s) : Inv (s.demands c route l) := .foldl h fun _ _ hu => hu.demand

theorem Inv.notice {c hdr f} (h : Inv s) : Inv (s.notice c hdr f) := h.setCtx.upXlt.event.upAp.fault.pushReply

theorem Inv.takePsm {tt mask pg n owner} {r} (h : Inv s) (ht : s.takePsm tt mask pg n owner = some r) : Inv r.2 := by
  grind [State.takePsm, inv_iff]

theorem Inv.givePsm {g mask} (h : Inv s) : Inv (s.givePsm g mask) := .of_eq h

theorem Inv.placeParts {tt mask owner w pin va l r} (h : Inv s) (hr : s.placeParts tt mask owner w pin va l = some r)
    :
    Inv r.2 := by
  induction l generalizing s va r with
  | nil =>
    cases hr
    exact h
  | cons a l ih =>
    unfold State.placeParts at hr
    split at hr
    · cases hr
    next l1 s1 hp =>
    have h1 : Inv s1 := h.takePsm hp
    split at hr
    · cases hr
    next l2 s2 hq =>
    have h2 : Inv s2 := ih h1 hq
    cases hr
    exact h2

theorem Inv.takeCommons {part len al} {r} (h : Inv s) (ht : s.takeCommons part len al = some r) : Inv r.2 := by
  grind [State.takeCommons, Inv.upCommons]

theorem Inv.addMap {c m} (h : Inv s) : Inv (s.addMap c m) := h.upCtx

theorem Inv.placeHost {va len w} (h : Inv s) : Inv (s.placeHost va len w).2 := by
  grind [State.placeHost, Inv.zero, Inv.draw]

theorem memAlloc_keeps {p} (h : Inv s) : (memAlloc p s).Keeps := by
  refine .needState ?_
  split
  · dsimp only
    split
    · trivial
    · split
      · next hc _ => exact (h.takeCommons hc).addMap
      · trivial
  · extract_lets pg len parts al mask pin
    split
    · trivial
    · split
      · trivial
      next va _ =>
        split
        · next hp => exact (h.placeParts hp).addMap
        · split
          · trivial
          · exact (h.placeHost (va := va) (len := len) (w := decide (p.f 5 0 0 = 1))).addMap

theorem memMapHost_keeps {p} (h : Inv s) : (memMapHost p s).Keeps := by
  grind [memMapHost, Inv.addMap, Ans.Keeps.needState, Ans.Keeps]

theorem Inv.dropMap {c m} (h : Inv s) : Inv (s.dropMap c m) := h.forget.upCtx

theorem Inv.settleMap {c m} (h : Inv s) : Inv (s.settleMap c m) := .ite h (.ite h.dropMap.closeOp
    h.forget.upCtx.upCommons)

theorem Inv.settleFrees {c} (h : Inv s) : Inv (s.settleFrees c) := .foldl h fun _ _ h1 => h1.settleMap

theorem Inv.releaseMap {c m} (h : Inv s) : Inv (s.releaseMap c m) := by
  unfold State.releaseMap
  dsimp only
  exact Inv.upCommons (Inv.dropMap (.foldl h fun _ _ hu => Inv.givePsm (.foldl hu fun _ _ hv => .ite hv.scrub hv)))

theorem memEnd_keeps {host p} (h : Inv s) : (memEnd host p s).Keeps := by
  grind [memEnd, Inv.upCtx, Inv.settleFrees, Ans.Keeps.needState, Ans.Keeps]

theorem memMove_keeps {fill p} (h : Inv s) : (memMove fill p s).Keeps := by
  grind [memMove, Ans.Keeps.refuseIf, Ans.Keeps.needState, inv_iff, Ans.Keeps]

theorem Inv.dropXfer {x1} (h : Inv s) : Inv (s.dropXfer x1) := .of_eq h

theorem Inv.endXfer {x1 code canc} (h : Inv s) : Inv (s.endXfer x1 code canc) := ((Inv.ite h.dropXfer.fault.event
    (.ite h.dropXfer h.dropXfer.event)).closeOp).settleFrees

theorem Inv.upXfer {id g} (h : Inv s) : Inv (s.upXfer id g) := .of_eq h

theorem execMemAlloc_keeps {k} (h : Inv s) : Keeps (execMemAlloc k s) := runPacket_keeps h fun _ _ hu =>
    memAlloc_keeps hu

theorem execMemFree_keeps {k} (h : Inv s) : Keeps (execMemFree k s) := runPacket_keeps h fun _ _ hu => memEnd_keeps hu

theorem execMemMapHost_keeps {k} (h : Inv s) : Keeps (execMemMapHost k s) := runPacket_keeps h fun _ _ hu =>
    memMapHost_keeps hu

theorem execMemUnmap_keeps {k} (h : Inv s) : Keeps (execMemUnmap k s) := runPacket_keeps h fun _ _ hu => memEnd_keeps
    hu

theorem execMemCopy_keeps {k} (h : Inv s) : Keeps (execMemCopy k s) := runPacket_keeps h fun _ _ hu => memMove_keeps
    hu

theorem execMemFill_keeps {k} (h : Inv s) : Keeps (execMemFill k s) := runPacket_keeps h fun _ _ hu => memMove_keeps
    hu

theorem Inv.memScrubbed {c va} (h : Inv s) : Inv (s.memScrubbed c va) := by
  unfold State.memScrubbed
  split
  · exact h.releaseMap.closeOp.closeOp
  · exact h

theorem execMemScrubComplete_keeps {ctx va} (h : Inv s) : Keeps (execMemScrubComplete ctx va s) := .next h.memScrubbed

theorem Inv.setCleat {e x2 c} (h : Inv s) : Inv (s.setCleat e x2 c) := h.upEngine

theorem Inv.clWr {e x2 off bs} (h : Inv s) : Inv (s.clWr e x2 off bs) := h.putPieces

theorem Inv.scrubRegion {e c} (h : Inv s) : Inv (s.scrubRegion e c) := .foldl h fun _ _ hu => hu.scrub

theorem Inv.takeCleat {c e x3 size b x6} (h : Inv s) : Inv (s.takeCleat c e x3 size b x6) := h.setCleat

theorem basicCleat_keeps {c e size} (h : Inv s) : (s.basicCleat c e size).Keeps := by
  grind [State.basicCleat, Inv.takeCleat, Ans.Keeps]

theorem cleatAlloc_keeps {p} (h : Inv s) : (cleatAlloc p s).Keeps := by
  grind [cleatAlloc, basicCleat_keeps, Inv.takeCleat, Ans.Keeps.refuseIf, Ans.Keeps.needState, Ans.Keeps]

theorem execCleatAlloc_keeps {k} (h : Inv s) : Keeps (execCleatAlloc k s) := runPacket_keeps h fun _ _ hu =>
    cleatAlloc_keeps hu

theorem Inv.cleatRetry {e} (h : Inv s) : Inv (s.cleatRetry e) := by
  unfold State.cleatRetry
  split
  · exact h
  · grind [Inv.answer, Ans.Keeps.ofRefuse, Ans.Keeps.needState, basicCleat_keeps, inv_iff]

theorem execCleatAllocRetry_keeps {e} (h : Inv s) : Keeps (execCleatAllocRetry e s) := .next h.cleatRetry

theorem Inv.toScrub {e x2} (h : Inv s) : Inv (s.toScrub e x2) := .ite h.setCleat.closeOp (.ite h.setCleat.upEngine h)

theorem Inv.settleCleats {e} (h : Inv s) : Inv (s.settleCleats e) := .foldl (.foldl h fun _ _ hu => .ite hu
    hu.toScrub) fun _ _ hu => by grind [Inv.upEngine]

theorem cleatRelease_keeps {p} (h : Inv s) : (cleatRelease p s).Keeps := by
  grind [cleatRelease, Inv.setCleat, Inv.settleCleats, Ans.Keeps.needState, Ans.Keeps.refuseIf, Ans.Keeps]

theorem execCleatRelease_keeps {k} (h : Inv s) : Keeps (execCleatRelease k s) := runPacket_keeps h fun _ _ hu =>
    cleatRelease_keeps hu

theorem Inv.leaveScrub {e x2} (h : Inv s) : Inv (s.leaveScrub e x2) := by
  grind [State.leaveScrub, Inv.upEngine, inv_iff]

theorem Inv.scrubbed {e} (h : Inv s) : Inv (s.scrubbed e) := by
  unfold State.scrubbed
  split
  · exact h
  · exact (((Inv.ite h.scrubRegion.setCleat h.scrubRegion).leaveScrub).event).closeOp

theorem execCleatScrubComplete_keeps {e} (h : Inv s) : Keeps (execCleatScrubComplete e s) := .next h.scrubbed

theorem Inv.vacate {e c} (h : Inv s) : Inv (s.vacate e c) := .ite h.upEngine h.scrubRegion

theorem execResidueHoldExpiry_keeps {e} (h : Inv s) : Keeps (execResidueHoldExpiry e s) := .next (.ite
    h.passTo.holdRelease h)

theorem commonsSplit_keeps {p} (h : Inv s) : (commonsSplit p s).Keeps := by
  grind [commonsSplit, Inv.upCommons, Ans.Keeps]

theorem execCommonsSplit_keeps {k} (h : Inv s) : Keeps (execCommonsSplit k s) := runPacket_keeps h fun _ _ hu =>
    commonsSplit_keeps hu

theorem Inv.splitDone (h : Inv s) : Inv (s.splitDone) := by
  grind [State.splitDone, Inv.close, Inv.upPart, Inv.upCommons, Inv.scrub, Inv.foldl]

theorem execCommonsSplitComplete_keeps (h : Inv s) : Keeps (execCommonsSplitComplete s) := .next h.splitDone

theorem prefetchCfg_keeps {p} (h : Inv s) : (prefetchCfg p s).Keeps := by
  grind [prefetchCfg, Inv.upCtx, Ans.Keeps.needState, Ans.Keeps]

theorem execPrefetchCfg_keeps {k} (h : Inv s) : Keeps (execPrefetchCfg k s) := runPacket_keeps h fun _ _ hu =>
    prefetchCfg_keeps hu

theorem Inv.anyWr {c e a off bs} (h : Inv s) : Inv (s.anyWr c e a off bs) := by
  unfold State.anyWr
  refine .ite ?_ h.clWr
  split
  · exact h
  · split
    · exact h
    · next ht =>
      have hu := h.vwr ht
      split
      · exact hu
      · exact hu.upCtx

end

end Sys2Proof.Machine
end

section
/-! PROOFS. The invariant: the check of lists, the scheduler and the life of a job. -/

set_option Elab.async false

namespace Sys2Proof.Machine

section
variable {s t : State}

theorem Inv.storeCmds {n} (h : Inv s) : Inv (s.storeCmds n) := .of_eq h

theorem Inv.freeCmds {n} (h : Inv s) : Inv (s.freeCmds n) := .of_eq h

theorem Inv.noteServed {e q c} (h : Inv s) : Inv (s.noteServed e q c) := .ite h h.upEngine

theorem Inv.markEngine {e} (h : Inv s) : Inv (s.markEngine e) := .foldl h fun _ _ hu => by grind [Inv.upSlot]

theorem Inv.markWaits (h : Inv s) : Inv (s.markWaits) := .foldl h fun _ _ h1 => .ite h1 (.ite h1 h1.setCtx)

theorem Inv.startSave {e k susp} (h : Inv s) : Inv (s.startSave e k susp) := by
  grind [State.startSave, Inv.upClient, Inv.upAp, Inv.upCtx, Inv.upJob, Inv.upSlot]

theorem Inv.takeSlot {e k c} (h : Inv s) : Inv (s.takeSlot e k c) := h.upSlot

theorem Inv.serveOn {c g e} (h : Inv s) (ht : s.serveOn c g e = .stop t) : Inv t := by
  grind [State.serveOn, Inv.takeSlot, Inv.startSave, Inv.upSlot]

theorem Inv.serve {c g l} (h : Inv s) : Inv (s.serve c g l) := by
  induction l with
  | nil => exact .ite h.upClient.event h
  | cons e l ih =>
    unfold State.serve
    split
    · exact h.serveOn ‹_›
    · exact ih

theorem Inv.schedule (h : Inv s) : Inv (s.schedule) := (Inv.foldl (.foldl ((Inv.foldl h fun _ _ hu =>
    hu.markEngine).markWaits) fun _ _ hu => .ite hu.serve hu) fun _ _ hu => hu.markEngine).markWaits

theorem execSchPlacementTimer_keeps (h : Inv s) : Keeps (execSchPlacementTimer s) := .next h.passTo.schedule

theorem Inv.putFence {c k v} (h : Inv s) : Inv (s.putFence c k v) := h.upCtx

theorem Inv.mirror {c k set v} (h : Inv s) : Inv (s.mirror c k set v) := by
  unfold State.mirror
  split
  · exact Inv.ite h.out h
  · exact h

theorem Inv.signal {c k set v} (h : Inv s) : Inv (s.signal c k set v).1 := by
  grind [State.signal, Inv.putFence, Inv.mirror]

theorem Inv.listEnded {e pl ok} (h : Inv s) : Inv (s.listEnded e pl ok) := by
  grind [State.listEnded, Inv.upPlan, inv_iff]

theorem Inv.stepNote {n listNo ok canc code d1} (h : Inv s) : Inv (s.stepNote n listNo ok canc code d1) := h.setStep

theorem Inv.dropFaults {c e} (h : Inv s) : Inv (s.dropFaults c e) := .ite h h.upCtx

theorem Inv.dropJob {e q st code canc d1} (h : Inv s) : Inv (s.dropJob e q st code canc d1) := by
  grind [State.dropJob, Inv.close, Inv.stepNote, Inv.listEnded, Inv.event, Inv.upCtx, Inv.upClient, Inv.freeCmds,
      Inv.upQs, Inv.setQueue, Inv.dropFaults]

theorem Inv.endCancelled {e q} (h : Inv s) : Inv (s.endCancelled e q) := by
  grind [State.endCancelled, Inv.dropJob]

theorem Inv.cancelGroup {n} (h : Inv s) : Inv (s.cancelGroup n) := .foldl h fun _ _ h1 => .foldl h1 fun _ _ h2 => .ite
    h2.setJobs h2

theorem Inv.sweep {c e} (h : Inv s) : Inv (s.sweep c e) := .foldl h fun _ _ hu => by grind [Inv.dropFaults,
    Inv.setJobs, Inv.freeCmds, Inv.upClient, Inv.upCtx, Inv.event, Inv.stepNote, Inv.close]

theorem Inv.settleSteps (h : Inv s) : Inv (s.settleSteps) := .foldl h fun _ _ h1 => .foldl h1.cancelGroup fun _ _ h2
    => h2.sweep

theorem Inv.afterJobs {c e} (h : Inv s) : Inv (s.afterJobs c e) := h.settleSteps.settleFrees.settleCleats.schedule

theorem Inv.countCmd {e q} (h : Inv s) : Inv (s.countCmd e q) := h.upEngine

theorem Inv.completeOne {e q i} (h : Inv s) : Inv (s.completeOne e q i) := by
  unfold State.completeOne
  split
  · exact h
  · exact Inv.ite (by grind [Inv.afterJobs, Inv.dropJob, Inv.upJob, Inv.signal, Inv.countCmd]) (by grind [Inv.upJob,
      Inv.signal, Inv.countCmd, Inv.afterJobs, Inv.endCancelled])

theorem Inv.wakePackets {c} (h : Inv s) : Inv (s.wakePackets c) := .foldl h fun _ _ hu => hu.close

theorem Inv.wake {n c} (h : Inv s) : Inv (State.wake n c s) := by
  induction n generalizing s with
  | zero => exact h.wakePackets
  | succ n ih =>
    rw [State.wake]
    split
    · exact ih h.wakePackets.completeOne
    · exact h.wakePackets

theorem Inv.complete {e q i} (h : Inv s) : Inv (s.complete e q i) := by
  unfold State.complete
  split
  · exact h
  · exact h.completeOne.wake.schedule

theorem Inv.completed {e q i} (h : Inv s) : Inv (s.completed e q i) := by
  unfold State.completed
  split
  · exact h
  · exact Inv.ite h.complete h

theorem execCommandComplete_keeps {e q i} (h : Inv s) : Keeps (execCommandComplete e q i s) := .next h.completed

theorem Inv.dirtyKv {x layer which} (h : Inv s) : Inv (s.dirtyKv x layer which) := .foldl h fun _ _ hu => .foldl hu
    fun _ _ hu1 => by grind [Inv.drawBytes, Inv.put]

theorem Inv.dirty {e armed j cmd keep} (h : Inv s) : Inv (s.dirty e armed j cmd keep) := by
  unfold State.dirty
  extract_lets c old s1 s2 s3
  have h1 : Inv s1 := .foldl h fun _ _ hu => .ite hu hu.drawBytes.anyWr
  have h2 : Inv s2 := .foldl h1 fun _ _ hu => hu.anyWr
  have h3 : Inv s3 := by
    unfold s3
    split
    · exact h2
    · exact .ite h2.dirtyKv h2
    · exact h2
  refine .ite (.foldl h3 fun _ _ hu => .foldl hu fun u a hv => .ite hv ?_) h3
  dsimp only
  split
  · next ht => exact hv.drawBytes.vwr ht
  · exact hv

theorem Inv.stopJob {e q i code w keep} (h : Inv s) : Inv (s.stopJob e q i code w keep) := by
  unfold State.stopJob
  split
  · exact h
  · exact ((((Inv.foldl h fun _ _ hu => hu.dirty).fault).upEngine).dropJob).afterJobs

theorem xlRes_keeps {x write done f} (h : Inv s) : (xlRes s x write done f).Keeps := by
  cases f with
  | miss va prot => exact .ite (fault_keeps h.upXlt) h
  | denied a => exact fault_keeps h.violation
  | pa a => exact fault_keeps h

theorem Inv.startJob {e q} (h : Inv s) : Inv (s.startJob e q) := by
  unfold State.startJob
  split
  · exact h
  · exact Inv.ite h (((Inv.ite h.upClient h).upQs).upJob)

theorem Inv.runStats {x} (h : Inv s) : Inv (s.runStats x) := (Inv.ite (.ite h.upEngine h.upEngine.event) ((Inv.ite
    h.upEngine h.upEngine.event).upCtx)).upJob

theorem Inv.settle {x r} (hr : r.Keeps) : Inv (State.settle x r) := by
  cases r with
  | ok t => exact Inv.schedule (Inv.upJob hr)
  | miss t va w pr d => exact Inv.schedule (Inv.notice (Inv.upJob hr))
  | part t d => exact Inv.schedule (Inv.upJob hr)
  | stop t code w k => exact Inv.stopJob hr

theorem Inv.inFlight {e q i} (h : Inv s) : Inv (s.inFlight e q i) := h.noteServed.startJob.upJob

theorem Inv.fetchErrs {m c errs} (h : Inv s) : Inv (s.fetchErrs m c errs).1 := by
  grind [State.fetchErrs, Inv.eccOne, Inv.foldl]

theorem Inv.begun {e q i env} (h : Inv s) : Inv (s.begun e q i env).1 := by
  grind [State.begun, Inv.eccReads, Inv.fetchErrs, Inv.inFlight, Inv.runStats]

theorem Inv.issue {op e q i env body} (h : Inv s) (hb : ∀ x u, Inv u → (body x u).Keeps) :
    Inv (s.issue op e q i env body) := by
  have hs := h.begun (e := e) (q := q) (i := i) (env := env)
  unfold State.issue
  split
  · split
    · next hg =>
      rw [hg] at hs
      exact Inv.settle (uncorr_keeps hs)
    · next hg =>
      rw [hg] at hs
      exact Inv.settle (hb _ _ hs)
  · exact h

theorem runCommand_keeps {op e q i env body} (h : Inv s) (hb : ∀ x u, Inv u → (body x u).Keeps) :
    Keeps (runCommand op e q i env body s) := .next (h.issue hb)

theorem execCmdNop_keeps {e q i} (h : Inv s) : Keeps (execCmdNop e q i s) :=
  runCommand_keeps h fun _ _ hu => hu

theorem fenceSignalBody_keeps {x} (h : Inv s) : (fenceSignalBody x s).Keeps := by
  grind [fenceSignalBody, Inv.wake, Inv.upJob, Inv.signal, Res.Keeps]

theorem execCmdFenceSignal_keeps {e q i} (h : Inv s) : Keeps (execCmdFenceSignal e q i s) :=
  runCommand_keeps h fun _ _ hu => fenceSignalBody_keeps hu

theorem execCmdFenceWait_keeps {e q i} (h : Inv s) : Keeps (execCmdFenceWait e q i s) :=
  runCommand_keeps h fun _ _ hu => hu.wake

theorem launchWaitBody_keeps {x} (h : Inv s) : (launchWaitBody x s).Keeps :=
  .ite h.upEngine.upJob.complete (.ite h.complete h)

theorem execLaunchWait_keeps {e q i} (h : Inv s) : Keeps (execLaunchWait e q i s) :=
  runCommand_keeps h fun _ _ hu => launchWaitBody_keeps hu

theorem Inv.launchReached {e q i} (h : Inv s) : Inv (s.launchReached e q i) := by
  unfold State.launchReached
  split
  · exact h
  · exact Inv.ite (.ite h.passTo.complete h.passTo) h

theorem execLaunchWaitExpiry_keeps {e q i} (h : Inv s) : Keeps (execLaunchWaitExpiry e q i s) := .next h.launchReached

end

end Sys2Proof.Machine
end

section
/-! PROOFS. The invariant: LOAD, STORE and FILL, the front end and its streams. -/

set_option Elab.async false

namespace Sys2Proof.Machine

section
variable {s t : State}

theorem Inv.remoteAsk {peer va n tag} (h : Inv s) : Inv (s.remoteAsk peer va n tag) := h.out

theorem Inv.remotePost {peer va bs} (h : Inv s) : Inv (s.remotePost peer va bs) := h.out

theorem Inv.loadTail {x p} (h : Inv s) : Inv (s.loadTail x p) := .ite h.clWr h

theorem loadRun_keeps {x l} (h : Inv s) : (loadRun x l s).Keeps := by
  induction l generalizing s with
  | nil => exact h
  | cons p l ih =>
    rw [loadRun]
    refine .ite (ih h) ?_
    split
    · split
      · exact h
      · exact ih h.upEngine.remoteAsk.loadTail
    · split
      · have he {a} := h.eccRead (m := mEngine x.e) (c := x.c) (errs := x.env.errs) (a := a) (n := p.n)
        split
        · next hs => exact uncorr_keeps (Inv.fst_of_eq he hs)
        · next hs => exact ih (Inv.clWr (Inv.fst_of_eq he hs)).loadTail
      · exact xlRes_keeps h

theorem storeRun_keeps {x l} (h : Inv s) : (storeRun x l s).Keeps := by
  induction l generalizing s with
  | nil => exact h
  | cons p l ih =>
    rw [storeRun]
    refine .ite (ih h) ?_
    dsimp only
    split
    · exact ih h.remotePost
    · split
      · split
        · exact uncorr_keeps h
        · exact ih h.put
      · exact xlRes_keeps h

theorem loadBody_keeps {x} (h : Inv s) : (loadBody x s).Keeps := by
  grind [loadBody, loadRun_keeps, Inv.demands, Inv.walks, Res.Keeps]

theorem execLoad_keeps {e q i env} (h : Inv s) : Keeps (execLoad e q i env s) :=
  runCommand_keeps h fun _ _ hu => loadBody_keeps hu

theorem storeBody_keeps {x} (h : Inv s) : (storeBody x s).Keeps := by
  grind [storeBody, Inv.walks, storeRun_keeps, Res.Keeps]

theorem execStore_keeps {e q i env} (h : Inv s) : Keeps (execStore e q i env s) :=
  runCommand_keeps h fun _ _ hu => storeBody_keeps hu

theorem fillBody_keeps {x} (h : Inv s) : (fillBody x s).Keeps := by
  grind [fillBody, Inv.clWr, Res.Keeps]

theorem execFill_keeps {e q i env} (h : Inv s) : Keeps (execFill e q i env s) :=
  runCommand_keeps h fun _ _ hu => fillBody_keeps hu

theorem Inv.feWr {c va bs} (h : Inv s) : Inv (s.feWr c va bs) := by
  grind [State.feWr, Inv.violation, Inv.vwr]

theorem Inv.slotWr {lead va bs} (h : Inv s) : Inv (s.slotWr lead va bs) := .ite h.feWr h

theorem Inv.putSample {b n k d bs} (h : Inv s) : Inv (s.putSample b n k d bs) := .ite (((((Inv.ite h.slotWr
    h).slotWr).slotWr).upStream).upGroup) (((((Inv.ite h.slotWr h).slotWr).slotWr).upStream).upStream)

theorem Inv.commit {b} (h : Inv s) : Inv (s.commit b) := (Inv.ite ((Inv.foldl h.slotWr fun _ _ h1 =>
    h1.upStream).upGroup) ((Inv.foldl h.slotWr fun _ _ h1 => h1.upStream).upStream)).event

theorem Inv.cutBatch {b} (h : Inv s) : Inv (s.cutBatch b) := .ite h h.commit

theorem Inv.runningReply {n st f} (h : Inv s) : Inv (s.runningReply n st f) := h.closeOp.closeOp.closeOp

theorem Inv.quarantine {n sm cause} (h : Inv s) : Inv (s.quarantine n sm cause) := by
  grind [State.quarantine, Inv.close, Inv.runningReply, Inv.upGroup, Inv.event, Inv.fault, Inv.upStream, Inv.cutBatch]

theorem Inv.putSets {b l} (h : Inv s) : Inv (s.putSets b l) := .ite h.upGroup h.upStream

theorem Inv.passGroupSet {g k} (h : Inv s) : Inv (s.passGroupSet g k) := by
  unfold State.passGroupSet
  dsimp only
  refine Inv.upGroup (.foldl h fun u i hu => ?_)
  split
  · exact hu.putSample
  · exact hu

theorem Inv.passRatSet {n k} (h : Inv s) : Inv (s.passRatSet n k) := by
  grind [State.passRatSet, Inv.putSample, Inv.quarantine, Inv.setStream]

theorem Inv.passSets {n b} (h : Inv s) : Inv (State.passSets n b s) := by
  induction n generalizing s with
  | zero => exact h
  | succ n ih =>
    unfold State.passSets
    split
    · exact .ite (ih (.ite h.putSets.passGroupSet h.putSets.passRatSet)) h
    · exact h

theorem Inv.dropSet {b x2} (h : Inv s) : Inv (s.dropSet b x2) := .foldl h.putSets fun _ _ h1 => h1.upStream

theorem Inv.align {b cfg m first sm n} (h : Inv s) (ht : s.align b cfg m first sm n = .placed t) : Inv t := by
  grind [State.align, Inv.putSets]

theorem Inv.tapDepth {n sm} (h : Inv s) : Inv (s.tapDepth n sm) := .ite h.out h

theorem Inv.deliver {n sm} (h : Inv s) : Inv (s.deliver n sm) := by
  unfold State.deliver
  dsimp only
  split
  · exact h.upStream
  · split
    · split
      · next ha => exact (Inv.align h ha).tapDepth.passSets
      · exact h.upStream
      · exact h.quarantine
    · exact h.tapDepth.putSample

theorem Inv.deliverNode {n sm} (h : Inv s) : Inv (s.deliverNode n sm) := by
  unfold State.deliverNode
  dsimp only
  split
  · next ha => exact (Inv.align h ha).passSets
  · exact h.upStream
  · exact h.quarantine

theorem Inv.releaseGroup {g} (h : Inv s) : Inv (s.releaseGroup g) := .ite h ((Inv.foldl h.upGroup fun _ _ h1 => .ite
    h1.dropSet h1).passSets)

theorem Inv.stillGone {sm} (h : Inv s) : Inv (s.stillGone sm) := .ite h.cancelOpens h

theorem Inv.pushRing {n sm} (h : Inv s) : Inv (s.pushRing n sm) := by
  grind [State.pushRing, Inv.event, Inv.stillGone, Inv.upStream]

theorem Inv.unbound {port} (h : Inv s) : Inv (s.unbound port) := h.upCsi

theorem Inv.stopAtHead {n} (h : Inv s) : Inv (s.stopAtHead n) := by
  unfold State.stopAtHead
  split
  · exact Inv.ite h.upStream.quarantine h
  · exact h

theorem Inv.corrupt {n cause} (h : Inv s) : Inv (s.corrupt n cause) := .ite h.setStream.stopAtHead h.upStream

theorem Inv.frameStart {n} (h : Inv s) : Inv (s.frameStart n) := .ite h.corrupt h.setStream.pushRing

theorem Inv.csiHeader {port ecc} (h : Inv s) : Inv (s.csiHeader port ecc).1 := by
  grind [State.csiHeader, Inv.upCsi, Inv.corrupt, Inv.foldl]

theorem Inv.csiPacket {port ecc act} (h : Inv s) (hact : ∀ u, Inv u → Inv (act u)) : Inv (s.csiPacket port ecc act) :=
    by
  grind [State.csiPacket, Inv.csiHeader]

theorem execCsiFrameStart_keeps {port vc} (h : Inv s) : Keeps (execCsiFrameStart port vc s) := by
  grind [execCsiFrameStart, Inv.frameStart, Inv.unbound, Inv.upCsi, Inv.csiPacket, Keeps, Inv.foldl]

theorem Inv.lineIn {n data crcOk} (h : Inv s) : Inv (s.lineIn n data crcOk) := .ite h.corrupt (.ite h.corrupt (.ite
    h.setStream h))

theorem Inv.csiLong {port vc dtype data crcOk} (h : Inv s) : Inv (s.csiLong port vc dtype data crcOk) := by
  grind [State.csiLong, Inv.corrupt, Inv.lineIn, Inv.unbound, Inv.foldl]

theorem execCsiLongPacket_keeps {port vc dtype data ecc crcOk} (h : Inv s) : Keeps (execCsiLongPacket port vc dtype
    data ecc crcOk s) := by
  grind [execCsiLongPacket, Inv.csiLong, Inv.csiPacket, Keeps]

theorem Inv.frameEnd {n} (h : Inv s) : Inv (s.frameEnd n) := .ite h (.ite h.setStream (.ite h.corrupt h.setStream))

theorem execCsiFrameEnd_keeps {port vc} (h : Inv s) : Keeps (execCsiFrameEnd port vc s) := by
  grind [execCsiFrameEnd, Inv.frameEnd, Inv.unbound, Inv.csiPacket, Keeps, Inv.foldl]

theorem execCsiGenericShortPacket_keeps {port vc dtype} (h : Inv s) : Keeps (execCsiGenericShortPacket port vc dtype
    s) := by
  grind [execCsiGenericShortPacket, Inv.unbound, Inv.csiPacket, Keeps]

theorem execCsiPortSilence_keeps {stream} (h : Inv s) : Keeps (execCsiPortSilence stream s) := .next (.ite
    h.passTo.upCsi.fault h)

theorem execCsiPhyLock_keeps {port up} (h : Inv s) : Keeps (execCsiPhyLock port up s) := .next h.upCsi

theorem execFsyncPulse_keeps {stream} (h : Inv s) : Keeps (execFsyncPulse stream s) := .next (.ite h.passTo.out h)

theorem Inv.ratIn {p rx} (h : Inv s) : Inv (s.ratIn p rx) := by
  grind [State.ratIn, Inv.setStream, Inv.pushRing, Inv.stopAtHead, Inv.unbound]

theorem Inv.ratPlinth {port p rx} (h : Inv s) : Inv (s.ratPlinth port p rx) := by
  grind [State.ratPlinth, Inv.upTrim]

theorem execRatlineFrameReceive_keeps {port data fcsOk} (h : Inv s) : Keeps (execRatlineFrameReceive port data fcsOk
    s) := .next (.ite h (.ite h.ratPlinth.ratIn h.ratPlinth))

theorem Inv.ringErrs {n errs} (h : Inv s) : Inv (s.ringErrs n errs).1 := by
  grind [State.ringErrs, Inv.eccOne, Inv.foldl]

theorem Inv.takeOne {n errs} (h : Inv s) : Inv (s.takeOne n errs) := by
  grind [State.takeOne, Inv.deliver, Inv.setStream, Inv.deliverNode, Inv.ringErrs, Inv.upFe, Inv.quarantine,
      Inv.upStream]

theorem execFeSampleTake_keeps {stream errs} (h : Inv s) : Keeps (execFeSampleTake stream errs s) := .next (.ite h
    h.takeOne)

theorem execBatchCommit_keeps {group i} (h : Inv s) : Keeps (execBatchCommit group i s) := .next (.ite h
    h.commit.passSets)

theorem execSetDeadlineExpiry_keeps {group i} (h : Inv s) : Keeps (execSetDeadlineExpiry group i s) := by
  grind [execSetDeadlineExpiry, Inv.dropSet, Inv.passSets, Inv.passTo, Keeps]

theorem Inv.stillOut {n sm} (h : Inv s) : Inv (s.stillOut n sm) := by
  grind [State.stillOut, Inv.close, Inv.deliver, Inv.feWr]

theorem execJpegDecodeComplete_keeps {stream} (h : Inv s) : Keeps (execJpegDecodeComplete stream s) := by
  grind [execJpegDecodeComplete, Inv.stillOut, Inv.quarantine, Inv.upStream, Inv.upFe, Keeps]

theorem Inv.runEnds {n} (h : Inv s) : Inv (s.runEnds n) := h.runningReply

theorem Inv.ringGone {c va} (h : Inv s) : Inv (s.ringGone c va) := h.upCtx

theorem Inv.closeStream {n} (h : Inv s) : Inv (s.closeStream n) := by
  grind [State.closeStream, Inv.upGroup, Inv.releaseGroup, Inv.setStream, Inv.ringGone, Inv.upFe, Inv.cancelOpens,
      Inv.runEnds]

theorem streamPacket_keeps {p legal a} (ha : a.Keeps) : (streamPacket p s legal a).Keeps := .refuseIf (.needState
    (.needState ha))

theorem streamClose_keeps {p} (h : Inv s) : (streamClose p s).Keeps := by
  grind [streamClose, Inv.closeOp, Inv.closeStream, streamPacket_keeps, Ans.Keeps]

theorem execStreamClose_keeps {k} (h : Inv s) : Keeps (execStreamClose k s) := runPacket_keeps h fun _ _ hu =>
    streamClose_keeps hu

theorem Inv.placeRing {c len} {r} (h : Inv s) (ht : s.placeRing c len = some r) : Inv r.2 := by
  unfold State.placeRing at ht
  dsimp only at ht
  split at ht
  · cases ht
  split at ht
  · cases ht
  split at ht
  · next hp =>
    cases ht
    exact (h.placeParts hp).addMap
  split at ht
  · cases ht
  · cases ht
    exact h.placeHost.addMap

theorem Inv.enterStream {n entry need x lead} (h : Inv s) : Inv (s.enterStream n entry need x lead) := by
  unfold State.enterStream
  cases lead with
  | none => exact h.setStream.upFe
  | some y => exact h.setStream.upFe.upFe

theorem openFinish_keeps {p n need x lead} (h : Inv s) : (openFinish p n need x lead s).Keeps := by
  have hsize {u} (hu : Inv u) : Inv (if x.source = 2 then u.draw else (wd (x.ring * x.rawBytes), u)).2 := by
    split
    · exact hu.draw
    · exact hu
  unfold openFinish
  split
  · trivial
  · dsimp only
    split
    · exact (hsize h).enterStream
    · split
      · trivial
      · next hp => exact (hsize (h.placeRing hp)).enterStream

theorem openChecked_keeps {p n cfg} (h : Inv s) : (openChecked p n cfg s).Keeps := by
  grind [openChecked, openFinish_keeps, Ans.Keeps.needState, Ans.Keeps.refuseIf, Ans.Keeps]

theorem streamOpen_keeps {p} (h : Inv s) : (streamOpen p s).Keeps := by
  unfold streamOpen
  extract_lets n x o cfg
  clear_value cfg o
  refine Ans.Keeps.refuseIf (Ans.Keeps.ite ?_ (openChecked_keeps h))
  split
  · trivial
  · extract_lets ws
    clear_value ws
    split
    · exact Ans.Keeps.ofRefuse
    · exact Ans.Keeps.ofRefuse
    · exact openChecked_keeps h

theorem execStreamOpen_keeps {k} (h : Inv s) : Keeps (execStreamOpen k s) := runPacket_keeps h fun _ _ hu =>
    streamOpen_keeps hu

theorem streamStart_keeps {p} (h : Inv s) : (streamStart p s).Keeps := by
  grind [streamStart, Inv.upCsi, Inv.upStream, Ans.Keeps.refuseIf, streamPacket_keeps, Ans.Keeps]

theorem execStreamStart_keeps {k} (h : Inv s) : Keeps (execStreamStart k s) := runPacket_keeps h fun _ _ hu =>
    streamStart_keeps hu

theorem streamStop_keeps {p} (h : Inv s) : (streamStop p s).Keeps := by
  grind [streamStop, Inv.upStream, Ans.Keeps.refuseIf, streamPacket_keeps, Ans.Keeps]

theorem execStreamStop_keeps {k} (h : Inv s) : Keeps (execStreamStop k s) := runPacket_keeps h fun _ _ hu =>
    streamStop_keeps hu

theorem Inv.stopEnds {n} (h : Inv s) : Inv (s.stopEnds n) := h.cutBatch.upStream.runEnds.closeOp

theorem Inv.stopQuarantined {n} (h : Inv s) : Inv (s.stopQuarantined n) := h.upStream.closeOp

theorem execStreamStopComplete_keeps {stream} (h : Inv s) : Keeps (execStreamStopComplete stream s) := by
  grind [execStreamStopComplete, Inv.stopEnds, Inv.takeOne, Inv.commit, Inv.stopQuarantined, Keeps]

theorem stillCorrupt_keeps {n cause} (h : Inv s) : (stillCorrupt s n cause).Keeps := by
  grind [stillCorrupt, Ans.Keeps]

theorem Inv.unquarantine {n} (h : Inv s) : Inv (s.unquarantine n) := .ite h.upStream.releaseGroup h.upStream

theorem Inv.recheck {n sm} (h : Inv s) : Inv (s.recheck n sm).1 := by
  grind [State.recheck, Inv.setStream, Inv.eccReads]

theorem Inv.goOn {n sm} (h : Inv s) : Inv (s.goOn n sm) := .ite h.stillOut (.ite h.deliverNode h.deliver)

theorem streamResume_keeps {p} (h : Inv s) : (streamResume p s).Keeps := by
  refine streamPacket_keeps (.refuseIf (.ite trivial ?_))
  split
  · exact stillCorrupt_keeps h
  · split
    · next hr => exact stillCorrupt_keeps (Inv.fst_of_eq h.recheck hr).upStream
    · intro u hu
      dsimp only
      split
      · next hr => exact (Inv.fst_of_eq hu.recheck hr).unquarantine.goOn
      · next hr => exact Inv.fst_of_eq hu.recheck hr

theorem execStreamResume_keeps {k} (h : Inv s) : Keeps (execStreamResume k s) := runPacket_keeps h fun _ _ hu =>
    streamResume_keeps hu

theorem streamSkip_keeps {p} (h : Inv s) : (streamSkip p s).Keeps := by
  grind [streamSkip, Inv.unquarantine, Inv.dropSet, Inv.upStream, Ans.Keeps.refuseIf, streamPacket_keeps, Ans.Keeps]

theorem execStreamSkip_keeps {k} (h : Inv s) : Keeps (execStreamSkip k s) := runPacket_keeps h fun _ _ hu =>
    streamSkip_keeps hu

theorem meshLoad_keeps {p} (h : Inv s) : (meshLoad p s).Keeps := by
  grind [meshLoad, Inv.upStream, Ans.Keeps.refuseIf, streamPacket_keeps, Ans.Keeps]

theorem execMeshLoad_keeps {k} (h : Inv s) : Keeps (execMeshLoad k s) := runPacket_keeps h fun _ _ hu =>
    meshLoad_keeps hu

theorem execMeshLoadComplete_keeps {stream} (h : Inv s) : Keeps (execMeshLoadComplete stream s) := .next h.closeOp

theorem jpegDecode_keeps {p} (h : Inv s) : (jpegDecode p s).Keeps := by
  grind [jpegDecode, Inv.upStream, Inv.pushRing, Ans.Keeps.refuseIf, Ans.Keeps.needState, Ans.Keeps]

theorem execJpegDecode_keeps {k} (h : Inv s) : Keeps (execJpegDecode k s) := runPacket_keeps h fun _ _ hu =>
    jpegDecode_keeps hu

end

end Sys2Proof.Machine
end

section
/-! PROOFS. The invariant: sequences, contexts, saves, transfers and job packets. -/

set_option Elab.async false

namespace Sys2Proof.Machine

section
variable {s t : State}

theorem Inv.takePage {c layer bytes} {r} (h : Inv s) (ht : s.takePage c layer bytes = some r) : Inv r.2 := by
  unfold State.takePage at ht
  split at ht
  · next hp =>
      cases ht
      exact (h.takePsm hp).setDir
  · cases ht

theorem Inv.holders {i i' epoch} (h : Inv s) : Inv (s.holders i i' epoch) := .of_eq h

theorem Inv.bumpPage {i} (h : Inv s) : Inv (s.bumpPage i) := by
  grind [State.bumpPage, Inv.setDir, Inv.holders]

theorem Inv.dropPage {i} (h : Inv s) : Inv (s.dropPage i) := .ite h.setDir (.ite h.setDir h.setDir)

theorem Inv.freeFrame {i} (h : Inv s) : Inv (s.freeFrame i) := by
  grind [State.freeFrame, Inv.scrub, Inv.givePsm]

theorem Inv.seqClosed {n} (h : Inv s) : Inv (s.seqClosed n) := .ite h.closeOp h.closeOp.upSeq.closeOp.closeOp

theorem Inv.pageScrubbed {i} (h : Inv s) : Inv (s.pageScrubbed i) := .ite h (.foldl h.freeFrame.setDir fun _ _ hu =>
    .ite hu.setSeq.seqClosed hu.setSeq)

theorem execKvPageScrubComplete_keeps {idx} (h : Inv s) : Keeps (execKvPageScrubComplete idx s) := .next
    h.pageScrubbed

theorem Inv.copyRows {q src dst n} (h : Inv s) : Inv (s.copyRows q src dst n) := .ite h.scrub.wr.wr.wr.wr
    h.scrub.wr.wr

theorem Inv.sharePages {q c upto l} {r} (h : Inv s) (ht : s.sharePages q c upto l = some r) : Inv r.2 := by
  induction l generalizing s r with
  | nil => cases ht; exact h
  | cons g l ih =>
    rw [State.sharePages] at ht
    split at ht
    · split at ht
      · next hs =>
        cases ht
        exact (ih h.setDir hs :)
      · cases ht
    · split at ht
      · split at ht
        · cases ht
        · next hp =>
          dsimp only at ht
          split at ht
          · next hs =>
            cases ht
            exact (ih (h.takePage hp).copyRows.setDir hs :)
          · cases ht
      · exact ih h ht

theorem openSeq_keeps {geo c src} (h : Inv s) : (s.openSeq geo c src).Keeps := by
  unfold State.openSeq
  split
  · trivial
  · dsimp only
    split
    · exact h.setSeq
    · refine .ite trivial ?_
      split
      · trivial
      · next hs => exact (h.sharePages hs).setSeq

theorem sourceOk_keeps {c m w a} (ha : ∀ q, (a q).Keeps) : (s.sourceOk c m w a).Keeps :=
  .ite trivial (.ite trivial (.needState (ha _)))

theorem seqOpen_keeps {p} (h : Inv s) : (seqOpen p s).Keeps := by
  have ho : ∀ geo c src, (s.openSeq geo c src).Keeps := by
    intro geo c src
    with_reducible exact openSeq_keeps h
  unfold seqOpen
  refine .ownThenState (.ite (sourceOk_keeps fun q => ?_) ?_)
  · refine .ite trivial (.ite trivial ?_)
    with_reducible exact ho ..
  · with_reducible exact ho ..

theorem execSeqOpen_keeps {k} (h : Inv s) : Keeps (execSeqOpen k s) := runPacket_keeps h fun _ _ hu => seqOpen_keeps
    hu

theorem seqFork_keeps {p} (h : Inv s) : (seqFork p s).Keeps := by
  refine .ownThenState (sourceOk_keeps fun q => ?_)
  with_reducible exact openSeq_keeps h

theorem execSeqFork_keeps {k} (h : Inv s) : Keeps (execSeqFork k s) := runPacket_keeps h fun _ _ hu => seqFork_keeps
    hu

theorem Inv.closeSeq {n} (h : Inv s) : Inv (s.closeSeq n) := (Inv.of_eq (.foldl h fun _ _ h1 => h1.dropPage)).setSeq

theorem seqClose_keeps {p} (h : Inv s) : (seqClose p s).Keeps := by
  grind [seqClose, Inv.seqClosed, Inv.closeSeq, Ans.Keeps.needState, Ans.Keeps.ownThenState, Ans.Keeps]

theorem execSeqClose_keeps {k} (h : Inv s) : Keeps (execSeqClose k s) := runPacket_keeps h fun _ _ hu =>
    seqClose_keeps hu

theorem kvDirQuery_keeps {p} (h : Inv s) : (kvDirQuery p s).Keeps := by
  grind [kvDirQuery, Ans.Keeps]

theorem execKvDirQuery_keeps {k} (h : Inv s) : Keeps (execKvDirQuery k s) := runPacket_keeps h fun _ _ hu =>
    kvDirQuery_keeps hu

theorem kvBucketsSet_keeps {p} (h : Inv s) : (kvBucketsSet p s).Keeps := by
  grind [kvBucketsSet, Inv.upCtx, Ans.Keeps.needState, Ans.Keeps]

theorem execKvBucketsSet_keeps {k} (h : Inv s) : Keeps (execKvBucketsSet k s) := runPacket_keeps h fun _ _ hu =>
    kvBucketsSet_keeps hu

theorem Inv.startSwapOut {n} (h : Inv s) : Inv (s.startSwapOut n) := h.setSeq

theorem seqPreempt_keeps {p} (h : Inv s) : (seqPreempt p s).Keeps := by
  grind [seqPreempt, Inv.startSwapOut, Inv.setSeq, Ans.Keeps.needState, Ans.Keeps.ownThenState, Ans.Keeps]

theorem execSeqPreempt_keeps {k} (h : Inv s) : Keeps (execSeqPreempt k s) := runPacket_keeps h fun _ _ hu =>
    seqPreempt_keeps hu

theorem Inv.swapFault {op n x} (h : Inv s) : Inv (s.swapFault op n x) := by
  unfold State.swapFault
  split
  · exact h.notice
  · exact h

theorem Inv.swapBad {n code unit} (h : Inv s) : Inv (s.swapBad n code unit) := .ite h.closeSeq.fault.upSeq.seqClosed
    h.closeSeq.fault.upSeq

theorem Inv.swapOutRun {n errs l} (h : Inv s) : Inv (s.swapOutRun n errs l).1 := by
  induction l generalizing s with
  | nil => exact h
  | cons g l ih =>
    rw [State.swapOutRun]
    split
    · exact ih h.upSeq
    · extract_lets slot m
      have he := h.eccRead (m := m) (c := (s.seq n).ctx) (errs := errs) (a := s.pagePa g.entry) (n := (s.seq n).page)
      split
      · next hs =>
        rw [hs] at he
        exact he
      · next hs =>
        rw [hs] at he
        dsimp only
        split
        · exact (Inv.walks he).setDir
        · exact (Inv.walks he).violation
        · exact Inv.walks he
        · apply ih
          apply Inv.withKv
          exact (Inv.walks he).putPieces.freeFrame.setDir.bumpPage.upSeq

theorem Inv.swapOut {n errs} (h : Inv s) : Inv (s.swapOut n errs) := by
  grind [State.swapOut, Inv.closeOp, Inv.settleFrees, Inv.swapBad, Inv.swapFault, Inv.swapOutRun, Inv.setSeq]

theorem execSwapOutComplete_keeps {seq} (h : Inv s) : Keeps (execSwapOutComplete seq s) := .next h.swapOut.schedule

theorem Inv.takeFrames {bytes owner n} (h : Inv s) (ht : s.takeFrames bytes owner n = some t) : Inv t := by
  induction n generalizing s with
  | zero => cases ht; exact h
  | succ n ih =>
    rw [State.takeFrames] at ht
    split at ht
    · cases ht
    · next hp => exact ih (h.takePsm hp) ht

theorem seqRestore_keeps {p} : (seqRestore p s).Keeps := by
  refine .ownThenState (.ite trivial (.ite trivial (.needState ?_)))
  split
  · trivial
  · intro u hu
    dsimp only
    refine Inv.setSeq ?_
    cases hg : u.takeFrames (s.seq (p.f 4 11 0)).page (1000 + p.f 4 11 0) (u.swappedPages (s.seq (p.f 4 11 0))).length
        with
    | none => exact hu
    | some v => exact hu.takeFrames hg

theorem execSeqRestore_keeps {k} (h : Inv s) : Keeps (execSeqRestore k s) := runPacket_keeps h fun _ _ _ =>
    seqRestore_keeps

theorem Inv.swapInRun {n l} (h : Inv s) : Inv (s.swapInRun n l).1 := by
  induction l generalizing s with
  | nil => exact h
  | cons g l ih =>
    rw [State.swapInRun]
    split
    · exact h.walks
    · exact h.walks.violation
    · exact h.walks
    · dsimp only
      split
      · exact h.walks
      · refine Inv.fst_ite h.walks ?_
        apply ih
        apply Inv.withKv
        apply Inv.bumpPage
        apply Inv.setDir
        apply Inv.put
        apply Inv.withPsmUse
        exact h.walks

theorem Inv.swapIn {n} (h : Inv s) : Inv (s.swapIn n) := by
  grind [State.swapIn, Inv.closeOp, Inv.settleFrees, Inv.swapBad, Inv.swapFault, Inv.swapInRun, Inv.setSeq]

theorem execSwapInComplete_keeps {seq} (h : Inv s) : Keeps (execSwapInComplete seq s) := .next h.swapIn.schedule

theorem Inv.growSeq {n l} (h : Inv s) (ht : s.growSeq n l = some t) : Inv t := by
  induction l generalizing s with
  | nil => cases ht; exact h
  | cons a l ih =>
    rw [State.growSeq] at ht
    split at ht
    · cases ht
    · next hp => exact ih (h.takePage hp).setSeq ht

theorem Inv.growAll {l} (h : Inv s) (ht : s.growAll l = some t) : Inv t := by
  induction l generalizing s with
  | nil => cases ht; exact h
  | cons a l ih =>
    rw [State.growAll] at ht
    split at ht
    · cases ht
    · next hg => exact ih (h.growSeq hg) ht

theorem Inv.stepBegin {p x2 ls} (h : Inv s) : Inv (s.stepBegin p x2 ls) := by
  unfold State.stepBegin
  extract_lets c sr s1 s2 x s3 s4
  have h1 : Inv s1 := .foldl h fun _ _ hu => hu.upSeq
  have h2 : Inv s2 := by
    unfold s2
    cases hg : s1.growAll sr with
    | none => exact h1
    | some u => exact h1.growAll hg
  have h4 : Inv s4 := .foldl h2.setStep fun _ _ hu => hu.anyWr
  exact .foldl h4 fun _ _ hu => hu.setJobs.storeCmds

theorem seqStep_keeps {p} (h : Inv s) : (seqStep p s).Keeps := by
  grind [seqStep, Inv.stepBegin, Inv.schedule, Ans.Keeps.ofRefuse, Ans.Keeps.ownThenState, Ans.Keeps]

theorem execSeqStep_keeps {k} (h : Inv s) : Keeps (execSeqStep k s) := runPacket_keeps h fun _ _ hu => seqStep_keeps
    hu

theorem Inv.moveToken {n a b} (h : Inv s) : Inv (s.moveToken n a b) := .ite h (.foldl h fun _ _ hu => by grind
    [Inv.put, Inv.foldl])

theorem Inv.settlePages {n old new' rows} (h : Inv s) : Inv (s.settlePages n old new' rows) := .foldl h fun _ _ h1 =>
    .ite h1.dropPage.upSeq (.ite h1.setDir.bumpPage h1.setDir)

theorem Inv.leaveStep {n new' rows} (h : Inv s) : Inv (s.leaveStep n new' rows) := .ite (((Inv.of_eq
    h.settlePages).upSeq).startSwapOut) ((Inv.of_eq h.settlePages).upSeq)

theorem Inv.rewindStep {k} (h : Inv s) : Inv (s.rewindStep k) := .of_eq (.foldl h fun _ _ h1 => .ite
    h1.leaveStep.closeSeq h1.leaveStep)

theorem Inv.commitEntry {x vs e} (h : Inv s) : Inv (s.commitEntry x vs e) := by
  have hm : Inv (if x.kind = 2 then ((List.range (x.verdict vs e).path.length).zip (x.verdict vs e).path).foldl
      (fun s d => s.moveToken e.seq (e.base + d.2) (e.base + d.1)) s else s) := .ite (.foldl h fun _ _ hu =>
          hu.moveToken) h
  rw [State.commitEntry]
  split
  · next ht => exact Inv.vwr (.ite hm.leaveStep hm) ht
  · exact .ite hm.leaveStep hm

theorem Inv.stepEnd {k} (h : Inv s) : Inv (s.stepEnd k) := .ite h (.ite h.rewindStep.closeOp.schedule (.ite
    h.fault.rewindStep.closeOp.schedule (((Inv.of_eq (.foldl h fun _ _ h1 => h1.commitEntry)).closeOp).schedule)))

theorem execStepEnd_keeps {step} (h : Inv s) : Keeps (execStepEnd step s) := .next h.stepEnd

theorem Inv.cancelOn {c e} (h : Inv s) : Inv (s.cancelOn c e) := .ite (((Inv.ite h
    h.setJobs.sweep).upEngine).endCancelled) (.ite h h.setJobs.sweep)

theorem Inv.dropRestores {c} (h : Inv s) : Inv (s.dropRestores c) := .foldl h fun _ _ h1 => .foldl h1 fun _ _ h2 =>
    .ite h2.upSlot h2

theorem Inv.destroyCtx {c} (h : Inv s) : Inv (s.destroyCtx c) := by
  grind [State.destroyCtx, Inv.dropRestores, Inv.settleCleats, Inv.schedule, Inv.closeSeq, Inv.stepEnd, Inv.cancelOn,
      Inv.settleSteps, Inv.endXfer, Inv.cancelOpens, Inv.closeStream, Inv.upCtx, inv_iff, Inv.foldl]

theorem Inv.ctxScrubbed {c} (h : Inv s) : Inv (s.ctxScrubbed c) := by
  grind [State.ctxScrubbed, Inv.upTwin, Inv.close, Inv.releaseMap, Inv.destroyCtx, inv_iff, Inv.foldl]

theorem Inv.pinSlot {c e} (h : Inv s) : Inv (s.pinSlot c e) := by
  grind [State.pinSlot, Inv.takeSlot]

theorem Inv.saveArea {c va len} (h : Inv s) (ht : s.saveArea c va len = some t) : Inv t := by
  unfold State.saveArea at ht
  split at ht
  next l u hp =>
    have hu : Inv u := h.placeParts hp
    cases ht
    exact hu.addMap
  · cases ht

theorem ctxCreate_keeps {p} (h : Inv s) : (ctxCreate p s).Keeps := by
  unfold ctxCreate
  refine .refuseIf (.refuseIf (.refuseIf (.refuseIf (.refuseIf (.refuseIf ?_)))))
  split
  · trivial
  refine .refuseIf (.refuseIf ?_)
  extract_lets x s1 s2
  have h1 : Inv s1 := h.setCtx
  have h2 : ∀ u, s2 = some u → Inv u := by
    intro u hu
    unfold s2 at hu
    clear_value s1
    split at hu
    · cases hu
      exact h1
    · split at hu
      · cases hu
      · obtain ⟨v, hv, rfl⟩ := Option.map_eq_some_iff.1 hu
        exact (h1.saveArea hv).upCtx
  clear_value s2
  split
  · trivial
  next u =>
    have hu : Inv u := h2 u rfl
    exact Inv.schedule (.ite (.foldl hu fun _ _ hv => hv.pinSlot) hu)

theorem execCtxCreate_keeps {k} (h : Inv s) : Keeps (execCtxCreate k s) := by
  grind [execCtxCreate, ctxCreate_keeps, runPacket_keeps, Keeps]

theorem ctxDestroy_keeps {p} (h : Inv s) : (ctxDestroy p s).Keeps := by
  grind [ctxDestroy, Inv.destroyCtx, Ans.Keeps.needState, Ans.Keeps]

theorem execCtxDestroy_keeps {k} (h : Inv s) : Keeps (execCtxDestroy k s) := by
  grind [execCtxDestroy, ctxDestroy_keeps, runPacket_keeps, Keeps]

theorem Inv.suspendDone {c} (h : Inv s) : Inv (s.suspendDone c) := .ite h.closeOp h

theorem Inv.suspendOn {c e} (h : Inv s) : Inv (s.suspendOn c e) := by
  unfold State.suspendOn
  split
  · exact h
  · exact Inv.ite h.upSlot (.ite h.upSlot h.startSave)

theorem ctxSuspend_keeps {p} (h : Inv s) : (ctxSuspend p s).Keeps := by
  grind [ctxSuspend, Inv.suspendOn, Inv.suspendDone, Inv.schedule, Inv.upCtx, Ans.Keeps.refuseIf, Ans.Keeps.needState,
      Ans.Keeps, Inv.foldl]

theorem execCtxSuspend_keeps {k} (h : Inv s) : Keeps (execCtxSuspend k s) := runPacket_keeps h fun _ _ hu =>
    ctxSuspend_keeps hu

theorem Inv.retake {c e} (h : Inv s) : Inv (s.retake c e) := by
  unfold State.retake
  split
  · exact h
  · exact Inv.ite h.upSlot h.takeSlot

theorem ctxResume_keeps {p} (h : Inv s) : (ctxResume p s).Keeps := by
  grind [ctxResume, Inv.retake, Ans.Keeps.refuseIf, Inv.upCtx, Inv.schedule, Ans.Keeps.needState, Ans.Keeps,
      Inv.foldl]

theorem execCtxResume_keeps {k} (h : Inv s) : Keeps (execCtxResume k s) := runPacket_keeps h fun _ _ hu =>
    ctxResume_keeps hu

theorem ctxModeSet_keeps {p} (h : Inv s) : (ctxModeSet p s).Keeps := by
  grind [ctxModeSet, Inv.upCtx, Ans.Keeps.needState, Ans.Keeps.refuseIf, Ans.Keeps]

theorem execCtxModeSet_keeps {k} (h : Inv s) : Keeps (execCtxModeSet k s) := runPacket_keeps h fun _ _ hu =>
    ctxModeSet_keeps hu

theorem ctxQuery_keeps {p} (h : Inv s) : (ctxQuery p s).Keeps := by
  grind [ctxQuery, Ans.Keeps]

theorem execCtxQuery_keeps {k} (h : Inv s) : Keeps (execCtxQuery k s) := runPacket_keeps h fun _ _ hu =>
    ctxQuery_keeps hu

theorem Inv.saveDrained {e k} (h : Inv s) : Inv (s.saveDrained e k) := by
  grind [State.saveDrained, Inv.sweep, Inv.upSlot, Inv.suspendDone, Inv.schedule]

theorem execSaveDrainComplete_keeps {e slot} (h : Inv s) : Keeps (execSaveDrainComplete e slot s) := .next
    h.saveDrained

theorem Inv.drainTimeout {e k} (h : Inv s) : Inv (s.drainTimeout e k) := by
  grind [State.drainTimeout, Inv.event, Inv.upCtx, Inv.upEngine, Inv.passTo, inv_iff]

theorem execRemoteDrainTimeout_keeps {e slot} (h : Inv s) : Keeps (execRemoteDrainTimeout e slot s) := .next
    h.drainTimeout

theorem Inv.switchFault {c e k m write x} (h : Inv s) : Inv (s.switchFault c e k m write x) := by
  unfold State.switchFault
  split
  · exact h.notice
  · exact h.violation.fault.destroyCtx
  · exact h

theorem Inv.putSection {c m n l} (h : Inv s) : Inv (s.putSection c m n l).1 := by
  induction l generalizing s n with
  | nil => exact h
  | cons a l ih =>
    rw [State.putSection]
    split
    · exact Inv.fst_ite h (ih h.put)
    · exact h

theorem Inv.stopAway {c e code} (h : Inv s) : Inv (s.stopAway c e code) := by
  unfold State.stopAway
  split
  · exact h
  · grind [Inv.afterJobs, Inv.stepNote, Inv.event, Inv.upCtx, Inv.fault, Inv.freeCmds, Inv.setJobs, Inv.dirty,
      Inv.upSlot, Inv.upQs, Inv.closeNo, Inv.foldl]

theorem Inv.saveDone {e k errs residue} (h : Inv s) : Inv (s.saveDone e k errs residue) := by
  grind [State.saveDone, Inv.sweep, Inv.suspendDone, Inv.schedule, Inv.upEngine, Inv.upCtx, Inv.vacate, Inv.setCleat,
      Inv.upSlot, Inv.switchFault, Inv.walks, Inv.putSection, Inv.fault, Inv.destroyCtx, Inv.eccReads, Inv.stopAway,
      Inv.foldl]

theorem execContextSaveComplete_keeps {e slot errs} (h : Inv s) : Keeps (execContextSaveComplete e slot errs s) :=
    .next h.saveDone

theorem Inv.followGroup {c g e placed} (h : Inv s) : Inv (s.followGroup c g e placed) := .ite (.foldl (.foldl h fun _
    _ hu => hu.setCleat) fun _ _ hu => hu.setCleat) (((Inv.foldl (.foldl h fun _ _ hu => hu.setCleat) fun _ _ hu =>
    hu.setCleat).setJobs).setJobs)

theorem Inv.restoreBad {c m} (h : Inv s) : Inv (s.restoreBad c m) := h.fault.destroyCtx

theorem Inv.restored {e k c z q} (h : Inv s) : Inv (s.restored e k c z q) := .ite (((Inv.of_eq (.ite
    h.upCtx.takeSlot.upQs.upJob.upClient h.upCtx.takeSlot.upQs.upJob)).event).startSave) ((Inv.of_eq (.ite
    h.upCtx.takeSlot.upQs.upJob.upClient h.upCtx.takeSlot.upQs.upJob)).event)

theorem Inv.restoreDone {e k errs} (h : Inv s) : Inv (s.restoreDone e k errs) := by
  unfold State.restoreDone
  dsimp only
  split
  · exact h
  split
  · exact h.upSlot
  · exact h
  refine .ite h ?_
  split
  · exact h
  split
  · exact h.walks.switchFault
  · exact h.walks.switchFault
  · have he {m c errs l} {x y z w : _} := (h.walks (m := x) (c := y) (errs := z) (write := false) (l := w)).eccReads
      (m := m) (c := c) (errs := errs) (l := l)
    split
    · next hs => exact (Inv.fst_of_eq he hs).restoreBad
    · next hs =>
      have hu := Inv.fst_of_eq he hs
      split
      · exact hu.restoreBad
      · refine .ite hu.restoreBad ?_
        refine Inv.schedule (Inv.restored ?_)
        exact (hu.followGroup.foldl fun _ _ hv => hv.clWr).foldl fun _ _ hv => hv.clWr

theorem execContextRestoreComplete_keeps {e slot errs} (h : Inv s) : Keeps (execContextRestoreComplete e slot
    errs s) := .next h.restoreDone

theorem Inv.stopRemote {e x2 code} (h : Inv s) : Inv (s.stopRemote e x2 code) := by
  unfold State.stopRemote
  split
  · exact Inv.ite h.stopAway h.stopJob
  · exact h.stopAway

theorem Inv.remoteRead {e tag data replays} (h : Inv s) : Inv (s.remoteRead e tag data replays) := by
  grind [State.remoteRead, Inv.clWr, Inv.putPieces, Inv.upCtx, Inv.schedule, Inv.event, Inv.stopRemote, Inv.upEngine,
      Inv.upTwin]

theorem execRemoteReadCompletion_keeps {e tag data} (h : Inv s) : Keeps (execRemoteReadCompletion e tag data s) :=
    .next h.remoteRead

theorem Inv.remoteAccess {c va len data} (h : Inv s) : Inv (s.remoteAccess c va len data) := by
  unfold State.remoteAccess
  split
  · exact h
  · exact Inv.ite h (by grind [Inv.out, Inv.putPieces, Inv.notice, Inv.eccReads])

theorem execRemoteAccessRequest_keeps {ctx va len data} (h : Inv s) : Keeps (execRemoteAccessRequest ctx va len data
    s) := .next h.remoteAccess

theorem execMirroredFenceSignal_keeps {ctx fence set v} (h : Inv s) : Keeps (execMirroredFenceSignal ctx fence set v
    s) := .next (.ite h h.putFence.wake.schedule)

theorem Inv.stopMirrors {c} (h : Inv s) : Inv (s.stopMirrors c) := .foldl h fun _ _ hu => by grind [Inv.stopJob,
    Inv.stopAway]

theorem Inv.abandonReads (h : Inv s) : Inv (s.abandonReads) := .foldl h fun _ _ hu => .foldl hu fun _ _ hu1 => by
    grind [Inv.upEngine, Inv.stopRemote]

theorem Inv.shroudDown (h : Inv s) : Inv (s.shroudDown) := .ite h ((Inv.foldl h.upTwin.fault.event.abandonReads fun _
    _ hu => hu.stopMirrors).schedule)

theorem execShroudLinkDown_keeps (h : Inv s) : Keeps (execShroudLinkDown s) := .next h.shroudDown

theorem Inv.answered {c f} (h : Inv s) : Inv (s.answered c f) := .ite h.upCtx.upXfer h.upCtx

theorem Inv.abortJob {c f} (h : Inv s) : Inv (s.abortJob c f) := by
  unfold State.abortJob
  split
  · exact Inv.ite h.stopAway h.stopJob
  · exact h.stopAway

theorem Inv.abortSwap {n unit} (h : Inv s) : Inv (s.abortSwap n unit) := h.swapBad

theorem Inv.abortFault {c f} (h : Inv s) : Inv (s.abortFault c f) := by
  grind [State.abortFault, Inv.abortJob, Inv.endXfer, Inv.abortSwap, Inv.out, Inv.schedule, Inv.fault, Inv.destroyCtx,
      Inv.answered]

theorem xltFaultReply_keeps {p} (h : Inv s) : (xltFaultReply p s).Keeps := by
  refine .ownThenState ?_
  split
  · trivial
  · refine .ite h.abortFault (.ite (.refuseIf ?_) (.refuseIf (.ite ?_ ?_)))
    · exact h.forget.upCtx.answered.schedule
    · exact h.addMap.answered.schedule
    · split
      · next ht => exact (h.takePsm ht).scrub.addMap.answered.schedule
      · trivial

theorem execXltFaultReply_keeps {k} (h : Inv s) : Keeps (execXltFaultReply k s) := runPacket_keeps h fun _ _ hu =>
    xltFaultReply_keeps hu

theorem Inv.faultTimeout {c id} (h : Inv s) : Inv (s.faultTimeout c id) := by
  unfold State.faultTimeout
  split
  · exact h
  · exact Inv.ite h h.passTo.upXlt.event.abortFault

theorem execXltFaultTimeout_keeps {ctx id} (h : Inv s) : Keeps (execXltFaultTimeout ctx id s) := .next h.faultTimeout

theorem Inv.xferBytes {x errs rem o n} (h : Inv s) : Inv (s.xferBytes x errs rem o n).1 := by
  rw [State.xferBytes.eq_def]
  split
  · exact h
  · exact h
  · extract_lets c s1
    have h1 : Inv s1 := h.walks
    split
    · exact h1
    · exact h1.violation
    next a _ =>
      have he := h1.eccRead (m := mMover x.mover) (c := c) (errs := errs) (a := a) (n := n)
      split
      · next hs => rwa [hs] at he
      · next hs => rwa [hs] at he

theorem Inv.xferSource {x errs l} (h : Inv s) : Inv (s.xferSource x errs l).1 := by
  induction l generalizing s with
  | nil => exact h
  | cons a l ih => grind [State.xferSource, Inv.xferBytes]

theorem Inv.moveXfer {x errs rem l} (h : Inv s) : Inv (s.moveXfer x errs rem l).1 := by
  induction l generalizing s with
  | nil => exact h
  | cons a l ih => grind [State.moveXfer, Inv.xferBytes, Inv.remotePost, Inv.walks, Inv.violation, Inv.put]

theorem Inv.sendMail {slot count bs} (h : Inv s) : Inv (s.sendMail slot count bs) := .ite
    h.out.upTwin.out.prefixCompare h.out

theorem Inv.runXfer {x1 errs remote} (h : Inv s) : Inv (s.runXfer x1 errs remote).1 := by
  grind [State.runXfer, Inv.moveXfer, Inv.remoteAsk, Inv.sendMail, Inv.xferSource]

theorem Inv.xferDone {id errs remote} (h : Inv s) : Inv (s.xferDone id errs remote) := by
  unfold State.xferDone
  split
  · exact h
  · exact Inv.ite h (by grind [Inv.runXfer, Inv.schedule, Inv.endXfer, Inv.upXlt, Inv.notice, Inv.upXfer])

theorem execTransferComplete_keeps {id errs remote} (h : Inv s) : Keeps (execTransferComplete id errs remote s) :=
    .next h.xferDone

theorem Inv.queueJob {p e cmds} (h : Inv s) : Inv (s.queueJob p e cmds) := h.setJobs.storeCmds.schedule

theorem jobSubmit_keeps {p} (h : Inv s) : (jobSubmit p s).Keeps := by
  refine .ite trivial (.ownThenState ?_)
  split
  · trivial
  dsimp only
  split
  · trivial
  split
  · trivial
  split
  · trivial
  · exact .refuseIf fun _ hu => hu.upCtx.queueJob

theorem execJobSubmit_keeps {k} (h : Inv s) : Keeps (execJobSubmit k s) := runPacket_keeps h fun _ _ hu =>
    jobSubmit_keeps hu

theorem jobCancel_keeps {p} (h : Inv s) : (jobCancel p s).Keeps := by
  grind [jobCancel, Inv.afterJobs, Inv.setJobs, Inv.sweep, Ans.Keeps.needState, Ans.Keeps]

theorem execJobCancel_keeps {k} (h : Inv s) : Keeps (execJobCancel k s) := runPacket_keeps h fun _ _ hu =>
    jobCancel_keeps hu

theorem jobQuery_keeps {p} (h : Inv s) : (jobQuery p s).Keeps := by
  grind [jobQuery, Ans.Keeps]

theorem execJobQuery_keeps {k} (h : Inv s) : Keeps (execJobQuery k s) := runPacket_keeps h fun _ _ hu =>
    jobQuery_keeps hu

theorem jobStats_keeps {p} (h : Inv s) : (jobStats p s).Keeps := by
  grind [jobStats, Inv.wrHost, Ans.Keeps]

theorem execJobStats_keeps {k} (h : Inv s) : Keeps (execJobStats k s) := runPacket_keeps h fun _ _ hu =>
    jobStats_keeps hu

theorem fenceSignal_keeps {p} (h : Inv s) : (fenceSignal p s).Keeps := by
  grind [fenceSignal, Inv.signal, Inv.wake, Inv.schedule, Ans.Keeps.needState, Ans.Keeps]

theorem execFenceSignal_keeps {k} (h : Inv s) : Keeps (execFenceSignal k s) := runPacket_keeps h fun _ _ hu =>
    fenceSignal_keeps hu

theorem fenceWait_keeps {p} (h : Inv s) : (fenceWait p s).Keeps := by
  grind [fenceWait, Inv.wakePackets, Ans.Keeps.needState, Ans.Keeps]

theorem execFenceWait_keeps {k} (h : Inv s) : Keeps (execFenceWait k s) := runPacket_keeps h fun _ _ hu =>
    fenceWait_keeps hu

end

end Sys2Proof.Machine
end

section
/-! PROOFS. The invariant: VECTOR, KV_APPEND, ATTENTION and the scale blocks. -/

set_option Elab.async false

namespace Sys2Proof.Machine

section
variable {s t : State}

theorem Inv.vecPut {x x2 l} (h : Inv s) : Inv (s.vecPut x x2 l) := .ite h.clWr.clWr h.clWr

theorem Inv.quantRow {s0 x r} (h : Inv s) : Inv (State.quantRow s0 x s r) :=
  .ite h.vecPut.clWr.clWr h.vecPut.clWr

theorem quantBody_keeps {x} (h : Inv s) : (quantBody x s).Keeps :=
  .ite (h.foldl fun _ _ hu => Inv.quantRow hu) (fault_keeps h)

theorem dequantBody_keeps {x} (h : Inv s) : (dequantBody x s).Keeps :=
  .ite (h.foldl fun _ _ hu => hu.vecPut) (fault_keeps h)

theorem gatherBody_keeps {x} (h : Inv s) : (gatherBody x s).Keeps := by
  grind [gatherBody, Inv.vecPut, Res.Keeps, Inv.foldl]

theorem Inv.topRow {s0 x r} (h : Inv s) : Inv (State.topRow s0 x s r) := by
  unfold State.topRow
  extract_lets c f n k at' codes xs on open' stat s1 o vs s2 s3
  have hs {u v} (hu : Inv u) : Inv (stat u v) := .ite hu.clWr hu
  have h1 : Inv s1 := h.clWr
  refine .ite (hs h1) (hs ?_)
  exact Inv.foldl h1.clWr fun u p hu => .ite hu.clWr hu

theorem vecBody_keeps {x} (h : Inv s) : (vecBody x s).Keeps := by
  grind [vecBody, Inv.vecPut, Inv.topRow, gatherBody_keeps, dequantBody_keeps, quantBody_keeps, inv_iff, Res.Keeps,
      Inv.foldl]

theorem execVector_keeps {e q i env} (h : Inv s) : Keeps (execVector e q i env s) :=
  runCommand_keeps h fun _ _ hu => vecBody_keeps hu

theorem appendRow_keeps {x st a r row} (h : Inv s) : RowsKeep (s.appendRow x st a r row) := by
  unfold State.appendRow
  split
  · exact h
  · dsimp only
    split
    · exact h
    · split
      · exact h.of_eq
      · split
        · exact h.violation
        · split
          · exact h
          · exact .ite h.put.put h.put

theorem appendRows_keeps {x st a r l} (h : Inv s) : RowsKeep (s.appendRows x st a r l) := by
  induction l generalizing s r with
  | nil => exact h
  | cons b l ih =>
    have hb := appendRow_keeps (x := x) (st := st) (a := a) (r := r) (row := b) h
    rw [State.appendRows]
    split
    · next he => exact (he ▸ hb :)
    · next he => exact ih (he ▸ hb :)

theorem append_keeps {x kv a rows} (h : Inv s) : (s.append x kv a rows).Keeps := by
  unfold State.append
  split
  · exact stale_keeps h
  · next st _ =>
    extract_lets q y
    split
    · exact .ite (stale_keeps h) (fault_keeps h)
    · refine .ite (fault_keeps h) ?_
      split
      · exact fault_keeps h
      · next l _ =>
        extract_lets bs
        refine .ite (fault_keeps h) ?_
        have hr := appendRows_keeps (x := x) (st := st) (a := a) (r := 0) (l := bs.map fun b => b.getD ([], [])) h
        split
        · next he => exact (he ▸ hr :)
        · next he => exact fault_keeps (he ▸ hr :)

theorem serveAppend_keeps {x rows} (h : Inv s) : (s.serveAppend x rows).Keeps := by
  unfold State.serveAppend
  extract_lets o k
  split
  · exact fault_keeps h
  · exact .ite (fault_keeps h) (andThen_keeps (append_keeps h) fun u hu => hu.upQs)

theorem kvBody_keeps {x} (h : Inv s) : (kvBody x s).Keeps :=
  .ite (append_keeps h) (.ite (stale_keeps h) h.upQs)

theorem execKvAppend_keeps {e q i env} (h : Inv s) : Keeps (execKvAppend e q i env s) :=
  runCommand_keeps h fun _ _ hu => kvBody_keeps hu

theorem attnBody_keeps {x} (h : Inv s) : (attnBody x s).Keeps := by
  unfold attnBody
  dsimp only
  split
  · exact stale_keeps h
  refine .ite h ?_
  split
  · exact .ite (stale_keeps h) (fault_keeps h)
  refine .ite (fault_keeps h) (.ite (fault_keeps h) (.ite (fault_keeps h) (.ite (stale_keeps h) ?_)))
  split
  · exact fault_keeps h.violation
  · have he {l} := h.eccReads (m := mEngine x.e) (c := x.c) (errs := x.env.errs) (l := l)
    split
    · next hs => exact Inv.fst_of_eq he hs
    · next hs => exact Inv.foldl (Inv.fst_of_eq he hs) fun u w hu => hu.clWr

theorem execAttention_keeps {e q i env} (h : Inv s) : Keeps (execAttention e q i env s) :=
  runCommand_keeps h fun _ _ hu => attnBody_keeps hu

theorem spuRead_keeps {x rem va n} (h : Inv s) : ReadKeeps (fun r => r.2.1) (s.spuRead x rem va n) := by
  unfold State.spuRead
  split
  · split
    · exact h
    · exact h
  · dsimp only
    split
    · exact xlRes_keeps h.walks
    · next l _ =>
      have he := h.walks (m := mEngine x.e) (c := x.c) (errs := x.env.errs) (write := false) (l := pagesOf va n)
          |>.eccReads
        (m := mEngine x.e) (c := x.c) (errs := x.env.errs) (l := l)
      split
      · next hs => exact Inv.fst_of_eq he hs
      · next hs => exact Inv.fst_of_eq he hs

theorem spuRun_keeps {x slot ident f ns p rem} (h : Inv s) : ReadKeeps Prod.snd (spuRun x slot ident f ns p rem s) :=
    by
  induction ns generalizing s p rem with
  | nil => exact h
  | cons n ns ih =>
    have h1 := spuRead_keeps (x := x) (rem := rem) (va := p.pos.addr) (n := 256) h
    rw [spuRun]
    split
    · next hr => exact (hr ▸ h1 :)
    · next hr =>
      rw [hr] at h1
      dsimp only [ReadKeeps] at h1
      extract_lets b more
      clear_value more
      generalize hm : (if (_ : Nat) = 0 then _ else _ : Except Res (List Byte × State × List Byte)) = m
      have h2 : ReadKeeps (fun r => r.2.1) m := by
        rw [← hm]
        split
        · exact h1
        · exact spuRead_keeps h1
      cases m with
      | error r => exact h2
      | ok r =>
        dsimp only
        split
        · exact h2
        · split
          · exact h2
          · exact ih h2

theorem spuPair_keeps {x slot n f} (h : Inv s) : ReadKeeps Prod.snd (s.spuPair x slot n f) := by
  unfold State.spuPair
  extract_lets k bind pos
  have hr := spuRun_keeps (x := x) (slot := slot) (ident := bind.stream) (f := f) (ns := weightBlocks n) (p := {
      pos := pos })
    (rem := x.env.remote) h
  split
  · next he => exact (he ▸ hr :)
  · next he =>
    rw [he] at hr
    dsimp only [ReadKeeps] at hr ⊢
    exact hr.upQs

end

end Sys2Proof.Machine
end

section
/-! PROOFS. The invariant: sail plans, MATMUL and CONV. -/

set_option Elab.async false

namespace Sys2Proof.Machine

section
variable {s t : State}

theorem Inv.moveGranule {part g x3} (h : Inv s) : Inv (s.moveGranule part g x3) := ((Inv.of_eq
    h.put).upPsmc).saveGranules

theorem Inv.migrate {part l} (h : Inv s) (ht : s.migrate part l = some t) : Inv t := by
  induction l generalizing s with
  | nil => cases ht; exact h
  | cons g l ih =>
    rw [State.migrate] at ht
    split at ht
    · exact ih h ht
    split at ht
    · cases ht
    dsimp only at ht
    split at ht
    · cases ht
    · exact ih h.moveGranule ht

theorem Inv.planLists {c pts l r} (h : Inv s) (ht : s.planLists c pts l = .ok r) : Inv r.2 := by
  induction l generalizing s r with
  | nil => cases ht; exact h
  | cons i l ih =>
    rw [State.planLists] at ht
    dsimp only at ht
    split at ht
    · cases ht
    split at ht
    · cases ht
    split at ht
    · cases ht
    · next hl =>
      cases ht
      exact (ih h.storeCmds hl :)

theorem Inv.planBuild {p c r} (h : Inv s) (ht : s.planBuild p c = .ok r) : Inv r.2.1 := by
  unfold State.planBuild at ht
  dsimp only at ht
  split at ht
  · cases ht
  split at ht
  · cases ht
  split at ht
  · cases ht
  split at ht
  · cases ht
  split at ht
  · cases ht
  split at ht
  · cases ht
  next hl =>
  split at ht
  · cases ht
  next hm =>
  split at ht
  · cases ht
  cases ht
  have hu := Inv.planLists h hl
  split at hm
  · exact Inv.migrate hu hm
  · cases hm
    exact hu

theorem planLoad_keeps {p} (h : Inv s) : (planLoad p s).Keeps := by
  refine .needState (.ite trivial ?_)
  split
  · exact h.draw
  · next hb =>
    intro u hu
    have hv := Inv.planBuild h hb
    refine Inv.closeNo (Inv.freeCmds ?_)
    exact ⟨hv.m, hu.d, hu.p, hu.r, hu.w⟩

theorem execPlanLoad_keeps {k} (h : Inv s) : Keeps (execPlanLoad k s) := runPacket_keeps h fun _ _ hu =>
    planLoad_keeps hu

theorem planActivate_keeps {p} (h : Inv s) : (planActivate p s).Keeps := by
  grind [planActivate, Inv.setPlan, Inv.draw, Ans.Keeps.refuseIf, Ans.Keeps.needState, Ans.Keeps]

theorem execPlanActivate_keeps {k} (h : Inv s) : Keeps (execPlanActivate k s) := runPacket_keeps h fun _ _ hu =>
    planActivate_keeps hu

theorem planDeactivate_keeps {p} (h : Inv s) : (planDeactivate p s).Keeps := by
  grind [planDeactivate, Inv.setPlan, Inv.closeOp, Inv.closeNo, Ans.Keeps.needState, Ans.Keeps]

theorem execPlanDeactivate_keeps {k} (h : Inv s) : Keeps (execPlanDeactivate k s) := runPacket_keeps h fun _ _ hu =>
    planDeactivate_keeps hu

theorem planUnload_keeps {p} (h : Inv s) : (planUnload p s).Keeps := by
  grind [planUnload, Inv.freeCmds, Ans.Keeps.needState, inv_iff, Ans.Keeps]

theorem execPlanUnload_keeps {k} (h : Inv s) : Keeps (execPlanUnload k s) := runPacket_keeps h fun _ _ hu =>
    planUnload_keeps hu

theorem planQuery_keeps {p} (h : Inv s) : (planQuery p s).Keeps := by
  grind [planQuery, Ans.Keeps]

theorem execPlanQuery_keeps {k} (h : Inv s) : Keeps (execPlanQuery k s) := runPacket_keeps h fun _ _ hu =>
    planQuery_keeps hu

theorem matOut_keeps {x sa sb recs} (h : Inv s) : (s.matOut x sa sb recs).Keeps := by
  unfold State.matOut
  extract_lets c n f mode act bias s1 rows val fin vals
  have h1 : Inv s1 := h.upQs
  clear_value s1 val fin
  refine .ite (Inv.foldl h1 fun u i hu => hu.clWr) ?_
  refine .ite (Inv.foldl h1 fun u i hu => ?_) (andThen_keeps (serveAppend_keeps h1) fun u hu => ?_)
  · exact .ite hu.clWr.clWr hu.clWr
  · exact Inv.ite (hu.foldl fun v p hv => hv.clWr) hu

theorem matFinish_keeps {x sa sb recs} (h : Inv s) : (s.matFinish x sa sb recs).Keeps := by
  unfold State.matFinish
  extract_lets c bad
  exact .ite (fault_keeps h) (.ite (fault_keeps h) (.ite (Inv.upQs h) (matOut_keeps h)))

theorem matSums_keeps {x sa sb sides} (h : Inv s) : (s.matSums x sa sb sides).Keeps := by
  unfold State.matSums
  extract_lets c m n k fa fb cont hd cols
  clear_value cols
  refine .ite (fault_keeps h) ?_
  split
  · exact fault_keeps h
  · exact matFinish_keeps h

theorem matBody_keeps {x} (h : Inv s) : (matBody x s).Keeps := by
  unfold matBody
  extract_lets c m n fa cont hd sa bad
  clear_value bad
  refine .ite (fault_keeps h) (.ite (fault_keeps h) (.ite ?_ (matSums_keeps h)))
  have hp := spuPair_keeps (x := x) (slot := cf c 5 26 24) (n := n) (f := tF c 2) h
  split
  · next he => exact (he ▸ hp :)
  · next he =>
    rw [he] at hp
    exact .ite (fault_keeps hp) (matSums_keeps hp)

theorem execMatmul_keeps {e q i env} (h : Inv s) : Keeps (execMatmul e q i env s) :=
  runCommand_keeps h fun _ _ hu => matBody_keeps hu

theorem Inv.convPut {x yo px} (h : Inv s) : Inv (s.convPut x yo px) := .ite h.clWr.clWr h.clWr

theorem convDirect_keeps {x m sb sides} (h : Inv s) : (s.convDirect x m sb sides).Keeps := by
  unfold State.convDirect
  extract_lets c g fb px filt ts recs bad s1 bias s2
  have h1 : Inv s1 := h.upJob
  have h2 : Inv s2 := h1.upQs
  clear_value ts recs bad s1 s2
  refine .ite (fault_keeps h) (.ite (fault_keeps h1) (.ite (fault_keeps h1) (Inv.foldl h2 fun u y hu => ?_)))
  exact .ite hu.clWr hu.convPut

theorem convPool_keeps {x m} (h : Inv s) : (s.convPool x m).Keeps := by
  unfold State.convPool
  extract_lets c g s1 s2 bad
  have h2 : Inv s2 := h.upQs.upJob
  exact .ite (fault_keeps h2) (Inv.foldl h2 fun u y hu => hu.convPut)

theorem convFreq_keeps {x m} (h : Inv s) : (s.convFreq x m).Keeps := by
  grind [State.convFreq, Inv.clWr, Inv.drawBytes, Inv.convPut, Inv.upQs, Res.Keeps, Inv.foldl]

theorem convBody_keeps {x} (h : Inv s) : (convBody x s).Keeps := by
  unfold convBody
  extract_lets c m bad
  clear_value bad
  refine .ite (fault_keeps h) (.ite (convPool_keeps h) (.ite (convFreq_keeps h) (.ite ?_ (convDirect_keeps h))))
  have hp := spuPair_keeps (x := x) (slot := cf c 9 8 6) (n := m.g.co) (f := tF c 2) h
  split
  · next he => exact (he ▸ hp :)
  · next he => exact convDirect_keeps (he ▸ hp :)

theorem execConv_keeps {e q i env} (h : Inv s) : Keeps (execConv e q i env s) :=
  runCommand_keeps h fun _ _ hu => convBody_keeps hu

end

end Sys2Proof.Machine
end

section
/-! PROOFS. The invariant: launch points, monitors, self-tests and the test controller. -/

set_option Elab.async false

namespace Sys2Proof.Machine

section
variable {s t : State}

theorem Inv.runStart {i n} (h : Inv s) : Inv (s.runStart i n) := by
  induction n generalizing s with
  | zero => exact h
  | succ n ih =>
    unfold State.runStart
    split
    · exact h
    · split
      · exact h
      · exact .ite (ih h.upTst) (.ite h (ih h.upTst))

theorem Inv.testStart (h : Inv s) : Inv (s.testStart) := .foldl h fun _ _ h1 => .ite h1 h1.runStart

theorem Inv.retirePlans (h : Inv s) : Inv (s.retirePlans) := .foldl h fun _ _ h1 => .ite h1.setPlan.closeOp (.ite
    h1.setPlan h1)

theorem Inv.shutGo (h : Inv s) : Inv (s.shutGo) := .ite (((Inv.ite (.foldl (.foldl h.upTst fun _ _ hu =>
    hu.destroyCtx) fun _ _ hu => hu.closeStream) h).storePut).upTst) (.ite (.foldl (.foldl h.upTst fun _ _ hu =>
    hu.destroyCtx) fun _ _ hu => hu.closeStream) h)

theorem execContextScrubComplete_keeps {ctx} (h : Inv s) : Keeps (execContextScrubComplete ctx s) := .next
    h.ctxScrubbed.shutGo

theorem Inv.stopWaiting {slot} (h : Inv s) : Inv (s.stopWaiting slot) := .foldl h fun _ _ hu => by grind [Inv.event,
    Inv.upPlan, Inv.stopJob]

theorem Inv.periodActs {slot} (h : Inv s) : Inv (s.periodActs slot) := by
  grind [State.periodActs, Inv.upCtx, Inv.stopWaiting]

theorem Inv.planStart {slot} (h : Inv s) : Inv (s.planStart slot) := .ite h h.passTo.upPlan.periodActs.closeOp

theorem execPlanStartInstant_keeps {slot} (h : Inv s) : Keeps (execPlanStartInstant slot s) := .next h.planStart

theorem Inv.periodInstant {slot} (h : Inv s) : Inv (s.periodInstant slot) := .ite h.passTo.periodActs.upPlan (.ite
    h.passTo.periodActs.upPlan.closeOp h)

theorem execPeriodInstant_keeps {slot} (h : Inv s) : Keeps (execPeriodInstant slot s) := .next h.periodInstant.shutGo

theorem Inv.launch {slot i pt} (h : Inv s) : Inv (s.launch slot i pt) := by
  grind [State.launch, Inv.passTo, Inv.upPlan]

theorem Inv.dropStart {e pl} (h : Inv s) : Inv (s.dropStart e pl) := h.upEngine.event.listEnded

theorem Inv.launchList {slot i} (h : Inv s) : Inv (s.launchList slot i) := by
  unfold State.launchList
  split
  · exact h
  · exact Inv.ite h.launch.dropStart (.ite h.launch.upEngine h.launch.upEngine.upEngine.event)

theorem execLaunchList_keeps {slot point} (h : Inv s) : Keeps (execLaunchList slot point s) := .next h.launchList

theorem execTqPendingStart_keeps {e} (h : Inv s) : Keeps (execTqPendingStart e s) := by
  grind [execTqPendingStart, Inv.upEngine, Keeps]

theorem Inv.startMover {slot i count pt} (h : Inv s) : Inv (s.startMover slot i count pt) := .of_eq h

theorem Inv.skipMover {slot} (h : Inv s) : Inv (s.skipMover slot) := h.upPlan

theorem Inv.moverTry {slot i count pt} (h : Inv s) : Inv (s.moverTry slot i count pt) := by
  grind [State.moverTry, Inv.skipMover, Inv.startMover, Inv.setPlan]

theorem Inv.launchMover {slot i} (h : Inv s) : Inv (s.launchMover slot i) := by
  unfold State.launchMover
  split
  · exact h
  · exact Inv.ite (((Inv.foldl h.launch fun _ _ hu => hu.skipMover).upPlan).moverTry) (((Inv.foldl h.launch fun _ _ hu
      => hu.skipMover).upPlan).startMover)

theorem execLaunchMover_keeps {slot point} (h : Inv s) : Keeps (execLaunchMover slot point s) := .next h.launchMover

theorem execMoverDepStart_keeps {slot point} (h : Inv s) : Keeps (execMoverDepStart slot point s) := by
  grind [execMoverDepStart, Inv.moverTry, Keeps]

theorem Inv.launchSample {slot i} (h : Inv s) : Inv (s.launchSample slot i) := by
  unfold State.launchSample
  split
  · exact h
  · exact Inv.ite h.launch (by grind [Inv.launch, Inv.putSets])

theorem execLaunchSample_keeps {slot point} (h : Inv s) : Keeps (execLaunchSample slot point s) := .next
    h.launchSample

theorem Inv.putGolden {n count stamp sm bs} (h : Inv s) : Inv (s.putGolden n count stamp sm bs) :=
    h.draw.slotWr.slotWr.slotWr.slotWr

theorem Inv.golden {n count stamp bs} (h : Inv s) : Inv (s.golden n count stamp bs) := by
  grind [State.golden, Inv.putGolden]

theorem Inv.launchTelltale {slot i} (h : Inv s) : Inv (s.launchTelltale slot i) := by
  unfold State.launchTelltale
  split
  · exact h
  · exact Inv.ite h.launch (by grind [Inv.upStream, Inv.launch, Inv.golden, Inv.violation])

theorem execLaunchTelltale_keeps {slot point} (h : Inv s) : Keeps (execLaunchTelltale slot point s) := .next
    h.launchTelltale

theorem Inv.telltaleEnd {slot i} (h : Inv s) : Inv (s.telltaleEnd slot i) := by
  unfold State.telltaleEnd
  split
  · exact h
  · exact h.passTo.upStream.passSets

theorem execTelltaleWindowEnd_keeps {slot point} (h : Inv s) : Keeps (execTelltaleWindowEnd slot point s) := .next
    h.telltaleEnd

theorem Inv.launchMonitor {slot i} (h : Inv s) : Inv (s.launchMonitor slot i) := by
  unfold State.launchMonitor
  split
  · exact h
  · exact (Inv.ite h.launch.upPlinth h.launch).setMonitor

theorem execLaunchMonitor_keeps {slot point} (h : Inv s) : Keeps (execLaunchMonitor slot point s) := .next
    h.launchMonitor

theorem Inv.periodMissed {slot count} (h : Inv s) : Inv (s.periodMissed slot count) := by
  grind [State.periodMissed, Inv.upPlinth]

theorem Inv.newInstance {slot count expired payload} (h : Inv s) : Inv (s.newInstance slot count expired payload) :=
    by
  grind [State.newInstance, Inv.upPlinth]

theorem Inv.monitorExpiry {m} (h : Inv s) : Inv (s.monitorExpiry m) := .ite h (.ite
    h.passPln.setMonitor.plnFault.upPlan.event.periodMissed.newInstance
    h.passPln.setMonitor.plnFault.upPlan.event.periodMissed)

theorem execMonitorExpiry_keeps {m} (h : Inv s) : Keeps (execMonitorExpiry m s) := .next h.monitorExpiry

theorem Inv.mailDrop (h : Inv s) : Inv (s.mailDrop) := h.upPlinth.event

theorem Inv.mailboxWrite {data crcOk} (h : Inv s) : Inv (s.mailboxWrite data crcOk) := by
  grind [State.mailboxWrite, Inv.upTrim, Inv.newInstance, Inv.upMonitor, Inv.mailDrop, Inv.plnFault, Inv.upPlinth]

theorem execMailboxWrite_keeps {data crcOk} (h : Inv s) : Keeps (execMailboxWrite data crcOk s) := .next
    h.mailboxWrite

theorem Inv.telltaleDigest {m} (h : Inv s) : Inv (s.telltaleDigest m) := by
  unfold State.telltaleDigest
  split
  · exact h
  · exact Inv.ite (.ite h.upPlan.setMonitor h.upPlan.setMonitor.plnFault.upPlan.event.periodMissed) h.upPlan

theorem execTelltaleDigest_keeps {m} (h : Inv s) : Keeps (execTelltaleDigest m s) := .next h.telltaleDigest

theorem Inv.launchSelftest {slot i} (h : Inv s) : Inv (s.launchSelftest slot i) := by
  unfold State.launchSelftest
  split
  · exact h
  · exact Inv.ite h.launch.upTst ((Inv.ite h.launch.upPlan h.launch).upEngine)

theorem execLaunchSelftest_keeps {slot point} (h : Inv s) : Keeps (execLaunchSelftest slot point s) := .next
    h.launchSelftest

theorem Inv.dpSliceDue {e} (h : Inv s) : Inv (s.dpSliceDue e) := .ite h h.passTo.upEngine

theorem execDpSliceDue_keeps {e} (h : Inv s) : Keeps (execDpSliceDue e s) := .next h.dpSliceDue

theorem Inv.sliceDefer {e} (h : Inv s) : Inv (s.sliceDefer e) := (Inv.ite h.upEngine h.upEngine.upPlan).schedule

theorem Inv.sliceStart {e} (h : Inv s) : Inv (s.sliceStart e) := .ite h (.ite h.sliceDefer h.upEngine.upTst)

theorem execSliceStart_keeps {e} (h : Inv s) : Keeps (execSliceStart e s) := .next h.sliceStart

theorem Inv.sliceOver {e} (h : Inv s) : Inv (s.sliceOver e) := h.upEngine.upTst

theorem Inv.sliceAbort {e} (h : Inv s) : Inv (s.sliceAbort e) := .ite h.passTo.upPlan.sliceOver.schedule h

theorem execSliceGuardAbort_keeps {e} (h : Inv s) : Keeps (execSliceGuardAbort e s) := .next h.sliceAbort

theorem Inv.drawResult {result online} (h : Inv s) : Inv (s.drawResult result online).2 := by
  grind [State.drawResult, Inv.draw]

theorem Inv.sliceFence {e} (h : Inv s) : Inv (s.sliceFence e) := .foldl h.upTst.drawResult.storePut fun _ _ hu => by
    grind [Inv.startSave]

theorem Inv.sliceEnd {e ok} (h : Inv s) : Inv (s.sliceEnd e ok) := .ite h (.ite h.sliceAbort ((Inv.ite
    h.sliceOver.upEngine.upTst.event h.sliceOver.upEngine.upTst.event.sliceFence).schedule))

theorem execSliceEnd_keeps {e ok} (h : Inv s) : Keeps (execSliceEnd e ok s) := .next h.sliceEnd

theorem Inv.testStarved {e} (h : Inv s) : Inv (s.testStarved e) := .ite h (.of_eq h.passTo.upEngine.fault.event)

theorem execTestStarved_keeps {e} (h : Inv s) : Keeps (execTestStarved e s) := .next h.testStarved

theorem shutBegin_keeps {p} (h : Inv s) : (shutBegin p s).Keeps :=
  .refuseIf <| .refuseIf fun _ hu => (hu.upTst.enterDev devOk_shutdown).retirePlans.shutGo

theorem execDevShutdown_keeps {k} (h : Inv s) : Keeps (execDevShutdown k s) := by
  grind [execDevShutdown, shutBegin_keeps, runPacket_keeps, Keeps]

theorem Inv.runOver {x1} (h : Inv s) : Inv (s.runOver x1) := .ite h.storePut.upTst h.upTst.event.closeNo

theorem Inv.testGo (h : Inv s) : Inv (s.testGo) := .foldl h.testStart.upTst fun _ _ hu => hu.runOver

theorem testRun_keeps {p} (h : Inv s) : (testRun p s).Keeps := by
  grind [testRun, Inv.upTst, Inv.testGo, Ans.Keeps.refuseIf, Ans.Keeps]

theorem execTestRun_keeps {k} (h : Inv s) : Keeps (execTestRun k s) := runPacket_keeps h fun _ _ hu => testRun_keeps
    hu

theorem Inv.fenceBlock {b loc} (h : Inv s) : Inv (s.fenceBlock b loc) := by
  grind [State.fenceBlock, Inv.enterDev, Inv.upTst, devOk_ready, devOk_shutdown, devOk_faulted]

theorem Inv.reinit {b} (h : Inv s) : Inv (s.reinit b) := by
  have hm {x} : Inv { s with mem := s.mem.filter x } := ⟨Memory.wf_filter _ _ h.m, h.d, h.p, h.r, h.w⟩
  refine .ite h.setEngine.zero (.ite (Inv.zero h.of_eq) (.ite hm.of_eq (.ite h.of_eq (.ite h.upHal (.ite ?_ ?_)))))
  · exact h.upHalB ⟨(⟨by decide, by decide⟩ : rateOk ({} : Hal).inc), fun _ hx => nomatch hx⟩
  · exact .ite h.of_eq (.ite h.upTwin (.ite (Inv.upSec h.of_eq) h))

theorem Inv.blockDone {b ok dur loc sig} (h : Inv s) : Inv (s.blockDone b ok dur loc sig) := by
  unfold State.blockDone
  split
  · exact h
  · exact (Inv.ite h.reinit.upTst h.reinit.upTst.fenceBlock).testGo

theorem execTestBlockComplete_keeps {b ok dur loc sig} (h : Inv s) : Keeps (execTestBlockComplete b ok dur loc
    sig s) := .next h.blockDone

theorem testResult_keeps {p} (h : Inv s) : (testResult p s).Keeps := by
  grind [testResult, Ans.Keeps]

theorem execTestResult_keeps {k} (h : Inv s) : Keeps (execTestResult k s) := runPacket_keeps h fun _ _ hu =>
    testResult_keeps hu

theorem Inv.testStored (h : Inv s) : Inv (s.testStored) := by
  grind [State.testStored, Inv.event, Inv.closeNo, Inv.testGo, Inv.upTst]

theorem Inv.storeWritten {ok} (h : Inv s) : Inv (s.storeWritten ok) := .ite h.storeDone.storeNext.updStored.testStored
    h.storeDone

theorem execStoreWriteComplete_keeps {ok} (h : Inv s) : Keeps (execStoreWriteComplete ok s) := .next h.storeWritten

theorem loopbackSet_keeps {p} (h : Inv s) : (loopbackSet p s).Keeps := by
  grind [loopbackSet, Inv.upTst, Inv.draw, Ans.Keeps.refuseIf, Ans.Keeps]

theorem execLoopbackSet_keeps {k} (h : Inv s) : Keeps (execLoopbackSet k s) := runPacket_keeps h fun _ _ hu =>
    loopbackSet_keeps hu

theorem testRotateCfg_keeps {p} (h : Inv s) : (testRotateCfg p s).Keeps := by
  grind [testRotateCfg, Inv.upTst, Ans.Keeps.refuseIf, Ans.Keeps]

theorem execTestRotateCfg_keeps {k} (h : Inv s) : Keeps (execTestRotateCfg k s) := runPacket_keeps h fun _ _ hu =>
    testRotateCfg_keeps hu

end

end Sys2Proof.Machine
end

section
/-! PROOFS. The invariant: clocks, power, boot, the debug master and the event controller. -/

set_option Elab.async false

namespace Sys2Proof.Machine

section
variable {s t : State}

theorem Inv.coreReset (h : Inv s) : Inv s.coreReset :=
  have hr : Inv State.reset := .reset
  ⟨Memory.wf_filter _ _ h.m, hr.d, h.p, hr.r, hr.w⟩

theorem Inv.powerReset (h : Inv s) : Inv (s.powerReset) := .of_eq h.coreReset

theorem Inv.resetFor {cause} (h : Inv s) : Inv (s.resetFor cause) := h.coreReset.upCpw

theorem execPowerOnReset_keeps (h : Inv s) : Keeps (execPowerOnReset s) := .next h.powerReset

theorem execCoreRailFault_keeps (h : Inv s) : Keeps (execCoreRailFault s) := .next (.ite h.resetFor.upCpw h)

theorem execCoreRailGood_keeps (h : Inv s) : Keeps (execCoreRailGood s) := .next h.upCpw

theorem execWatchdogExpiry_keeps (h : Inv s) : Keeps (execWatchdogExpiry s) := .next (.ite h h.passTo.resetFor)

theorem execCpwWdogWrite_keeps {m v} (h : Inv s) : Keeps (execCpwWdogWrite m v s) := by
  grind [execCpwWdogWrite, Inv.upCpw, Inv.checked, Keeps]

theorem devResetCompute_keeps {x0} (h : Inv s) : (devResetCompute x0 s).Keeps := by
  grind [devResetCompute, Inv.closeOp, Inv.resetSoon, Ans.Keeps.refuseIf, Ans.Keeps]

theorem execDevResetCompute_keeps {k} (h : Inv s) : Keeps (execDevResetCompute k s) := by
  grind [execDevResetCompute, devResetCompute_keeps, runPacket_keeps, Keeps]

theorem execCoreResetDelay_keeps (h : Inv s) : Keeps (execCoreResetDelay s) := .next (.ite h.passTo.resetFor h)

theorem Inv.bootFences (h : Inv s) : Inv (s.bootFences) := .foldl h.upTst fun _ _ hu => hu.fenceBlock

theorem Inv.bootSession (h : Inv s) : Inv (s.bootSession) := .ite h (.ite h.updIdle h.upUpd.updState)

theorem Inv.bootReady (h : Inv s) : Inv (s.bootReady) := by
  grind [State.bootReady, Inv.bootSession, Inv.confirm, Inv.storePut, Inv.enterDev, Inv.bootFences, Inv.upHif,
      Inv.upCpw, Inv.upPsmc, devOk_ready, devOk_shutdown, devOk_faulted]

theorem Inv.boot {b} (h : Inv s) : Inv (s.boot b) := by
  unfold State.boot
  refine .ite h ?_
  extract_lets s1 s2
  have h2 : Inv s2 := h.upCpw.storeLoad
  clear_value s2
  refine .ite h2 ?_
  split
  · exact h2.upSec
  · extract_lets i m s3
    have h3 : Inv s3 := h2.upSec
    clear_value s3
    split
    · exact h3.upPsmc.event.enterDev devOk_faulted
    · refine Inv.bootReady ?_
      exact ⟨Memory.wf_filter _ _ h3.m, h3.d, h3.p, h3.r, h3.w⟩

theorem execCoreResetRelease_keeps {boot} (h : Inv s) : Keeps (execCoreResetRelease boot s) := .next h.boot

theorem Inv.bootTimeout (h : Inv s) : Inv (s.bootTimeout) := .ite (.ite h.storeLoad h) (((Inv.ite h.storeLoad
    h).upCpw).storePut)

theorem execBootTryTimeout_keeps (h : Inv s) : Keeps (execBootTryTimeout s) := .next h.bootTimeout

theorem Inv.reefTo {l} (h : Inv s) : Inv (s.reefTo l) := .ite h h.upCpw.event

theorem Inv.reefReached (h : Inv s) : Inv (s.reefReached) := .ite h.upCpw.reefTo.closeOp.upCpw h.upCpw.reefTo.closeOp

theorem devReefSet_keeps {p} (h : Inv s) : (devReefSet p s).Keeps := by
  grind [devReefSet, Inv.reefReached, Inv.upCpw, Ans.Keeps.refuseIf, inv_iff, Ans.Keeps]

theorem execDevReefSet_keeps {k} (h : Inv s) : Keeps (execDevReefSet k s) := by
  grind [execDevReefSet, devReefSet_keeps, runPacket_keeps, Keeps]

theorem Inv.powerUpdate {power} (h : Inv s) : Inv (s.powerUpdate power) := (((Inv.ite (.ite h.upCpw.upCpw.reefReached
    h.upCpw.upCpw) h.upCpw).draw).upCpw).schedule

theorem execPowerManagerUpdate_keeps {power} (h : Inv s) : Keeps (execPowerManagerUpdate power s) := .next
    h.passTo.powerUpdate

theorem Inv.coreOff (h : Inv s) : Inv (s.coreOff) := h.coreReset.upCpw

theorem execReef4Entry_keeps (h : Inv s) : Keeps (execReef4Entry s) := .next (.ite h.passTo.coreOff h)

theorem Inv.wakeUp (h : Inv s) : Inv (s.wakeUp) := .ite h h.upCpw

theorem execWake_keeps (h : Inv s) : Keeps (execWake s) := .next h.wakeUp

theorem Inv.felt {x1} (h : Inv s) : Inv (s.felt x1) := by
  grind [State.felt, Inv.upCpw, Inv.draw]

theorem Inv.thermalTick {x1} (h : Inv s) : Inv (s.thermalTick x1) := .ite ((Inv.ite h.felt.upCpw.reefTo
    h.felt.upCpw).schedule) (.ite (.ite ((Inv.ite h.felt.upCpw.reefTo h.felt.upCpw).schedule) h.felt.upCpw)
    h.felt.upCpw)

theorem execThermalLevelTimer_keeps {temp} (h : Inv s) : Keeps (execThermalLevelTimer temp s) := .next
    h.passTo.thermalTick

theorem Inv.thermalWarn {x1} (h : Inv s) : Inv (s.thermalWarn x1) := .ite h.felt.event.fault h.felt

theorem execThermalWarnCrossing_keeps {temp} (h : Inv s) : Keeps (execThermalWarnCrossing temp s) := .next
    h.thermalWarn

theorem Inv.thermalOff {x1} (h : Inv s) : Inv (s.thermalOff x1) := .ite h.felt h.felt.event.fault.coreOff.upCpw

theorem execThermalShutdown_keeps {temp} (h : Inv s) : Keeps (execThermalShutdown temp s) := .next h.thermalOff

theorem Inv.alignLost {dom} (h : Inv s) : Inv (s.alignLost dom) := h.upCpw.fault

theorem execAlignEpoch_keeps {ok dom} (h : Inv s) : Keeps (execAlignEpoch ok dom s) := .next (.ite h h.alignLost)

theorem Inv.pllLost {pll} (h : Inv s) : Inv (s.pllLost pll) := .ite h.powerReset.upCpw (.ite h (.ite
    h.draw.upCpw.alignLost h.upCpw.alignLost))

theorem execPllLockLoss_keeps {pll} (h : Inv s) : Keeps (execPllLockLoss pll s) := .next h.pllLost

theorem Inv.dbgAccess {a data} (h : Inv s) : Inv (s.dbgAccess a data) := by
  refine .ite h.refusedAccess (.ite h.busAns (.ite h.refusedAccess ?_))
  cases data with
  | some w => exact h.put.busAns
  | none => exact h.busWord

theorem execDebugMasterAccess_keeps {addr data} (h : Inv s) : Keeps (execDebugMasterAccess addr data s) := .next
    h.dbgAccess

theorem Inv.evcClaim {k} (h : Inv s) : Inv (s.evcClaim k) := by
  grind [State.evcClaim, Inv.upEvc, Inv.busWord]

theorem execEvcClaimRead_keeps {m k} (h : Inv s) : Keeps (execEvcClaimRead m k s) := by
  grind [execEvcClaimRead, Inv.evcClaim, Inv.checked, Inv.hostUr, Keeps]

theorem Inv.evcEoi {k v} (h : Inv s) : Inv (s.evcEoi k v) := .ite h.upEvc h.upEvc

theorem execEvcEoiWrite_keeps {m k v} (h : Inv s) : Keeps (execEvcEoiWrite m k v s) := by
  grind [execEvcEoiWrite, Inv.evcEoi, Inv.checked, Inv.hostUr, Keeps]

theorem Inv.unwritten (h : Inv s) : Inv (s.unwritten) := .ite h.hostUr h

theorem Inv.evcSet {g v} (h : Inv s) : Inv (s.evcSet g v) := h.events

theorem Inv.evcUnpend {g v same} (h : Inv s) : Inv (s.evcUnpend g v same) := h.upEvc.events

theorem Inv.evcUnlatch {v} (h : Inv s) : Inv (s.evcUnlatch v) := h.upEvc.evcBridgeAll

theorem Inv.evcDisable {v} (h : Inv s) : Inv (s.evcDisable v) := h.upEvc.evcBridgeAll

theorem execEvcSetWrite_keeps {m g v} (h : Inv s) : Keeps (execEvcSetWrite m g v s) := by
  grind [execEvcSetWrite, Inv.evcSet, Inv.checked, Inv.unwritten, Keeps]

theorem execEvcPendWrite_keeps {m g v same} (h : Inv s) : Keeps (execEvcPendWrite m g v same s) := by
  grind [execEvcPendWrite, Inv.evcUnpend, Inv.checked, Keeps]

theorem execEvcBrgLatchWrite_keeps {m v} (h : Inv s) : Keeps (execEvcBrgLatchWrite m v s) := by
  grind [execEvcBrgLatchWrite, Inv.evcUnlatch, Inv.checked, Keeps]

theorem execEvcDisableWrite_keeps {m v} (h : Inv s) : Keeps (execEvcDisableWrite m v s) := by
  grind [execEvcDisableWrite, Inv.evcDisable, Inv.checked, Inv.unwritten, Keeps]

theorem execHoldoffExpiry_keeps {g} (h : Inv s) : Keeps (execHoldoffExpiry g s) := .next (.ite
    h.passTo.upEvc.evcBridge h)

end

end Sys2Proof.Machine
end

section
/-! PROOFS. The invariant: apertures, intake, the link, device packets and registers. -/

set_option Elab.async false

namespace Sys2Proof.Machine

section
variable {s t : State}

theorem Inv.upApSlot {n i g} (h : Inv s) : Inv (s.upApSlot n i g) := h.upAp

theorem Inv.freeSlot {n i} (h : Inv s) : Inv (s.freeSlot n i) := h.upApSlot

theorem Inv.apDiscard {n} (h : Inv s) : Inv (s.apDiscard n) := h.upAp

theorem Inv.refuseSlot {n i x3} (h : Inv s) : Inv (s.refuseSlot n i x3) := .ite h.countRefusal.freeSlot (.ite
    h.upApSlot h.countRefusal.pushReply.freeSlot)

theorem Inv.examine {n i first count} (h : Inv s) : Inv (s.examine n i first count) := .ite h (.ite
    h.upApSlot.refuseSlot (.ite h.upApSlot.upHif h))

theorem Inv.slotWrite {n off ws full} (h : Inv s) : Inv (s.slotWrite n off ws full) := .ite h.hostUr (.ite h.upHif
    (.ite h.apDiscard (.ite h h.upApSlot.examine)))

theorem execSlotWrite_keeps {ap off ws full} (h : Inv s) : Keeps (execSlotWrite ap off ws full s) := .next h.slotWrite

theorem execPoisonedTlpReceive_keeps {ap} (h : Inv s) : Keeps (execPoisonedTlpReceive ap s) := by
  grind [execPoisonedTlpReceive, Inv.apDiscard, Inv.upHif, Keeps]

theorem Inv.packetIntake {n i} (h : Inv s) : Inv (s.packetIntake n i) := by
  grind [State.packetIntake, Inv.upRing, Inv.freeSlot, Inv.upAp, Inv.refuseSlot, Inv.upHif, inv_iff]

theorem execPacketIntake_keeps {ap slot} (h : Inv s) : Keeps (execPacketIntake ap slot s) := .next h.packetIntake

theorem execRefusalReply_keeps {ap slot} (h : Inv s) : Keeps (execRefusalReply ap slot s) := by
  grind [execRefusalReply, Inv.refuseSlot, Keeps]

theorem Inv.signalRing {ring} (h : Inv s) : Inv (s.signalRing ring) := .ite h h.upRing.msix

theorem Inv.writeRecord {ring} (h : Inv s) : Inv (s.writeRecord ring) := by
  grind [State.writeRecord, Inv.signalRing, Inv.upAp, Inv.setRing, Inv.wrHost]

theorem execReplyRecordWrite_keeps {ring} (h : Inv s) : Keeps (execReplyRecordWrite ring s) := .next h.writeRecord

theorem Inv.writeAll {ring} (h : Inv s) : Inv (s.writeAll ring) := .foldl h fun _ _ h1 => h1.writeRecord

theorem execModerationTimerExpiry_keeps {ring} (h : Inv s) : Keeps (execModerationTimerExpiry ring s) := .next (.ite h
    h.passTo.signalRing)

theorem execMsixVectorUnmask_keeps {v} (h : Inv s) : Keeps (execMsixVectorUnmask v s) := .next (.ite h.hostUr
    h.upHif.msixRelease)

theorem Inv.headWrite {m n k v} (h : Inv s) : Inv (s.headWrite m n k v) := by
  grind [State.headWrite, Inv.setRing, Inv.checked, Inv.apDiscard, Inv.hostUr]

theorem execHifApHeadWrite_keeps {ap k v} (h : Inv s) : Keeps (execHifApHeadWrite ap k v s) := .next h.headWrite

theorem execD3hotEntry_keeps (h : Inv s) : Keeps (execD3hotEntry s) := .next h.upHif

theorem execD0Return_keeps (h : Inv s) : Keeps (execD0Return s) := .next (.ite h (.foldl (.foldl h.upHif fun _ _ hu =>
    hu.msixRelease) fun _ _ hu => hu.writeAll))

theorem execPcieLinkUp_keeps {rate width} (h : Inv s) : Keeps (execPcieLinkUp rate width s) := .next h.upHif

theorem Inv.hostReset (h : Inv s) : Inv (s.hostReset) := by
  grind [State.hostReset, Inv.upUpd, Inv.event, Inv.destroyCtx, Inv.endXfer, Inv.upHif, inv_iff, Inv.foldl]

theorem execFlr_keeps (h : Inv s) : Keeps (execFlr s) := .next h.hostReset

theorem execLinkDown_keeps (h : Inv s) : Keeps (execLinkDown s) := .next h.upHif.hostReset

theorem execPerst_keeps (h : Inv s) : Keeps (execPerst s) := .next h.upHif.hostReset

theorem Inv.bar2Read {off n errs} (h : Inv s) : Inv (s.bar2Read off n errs) := by
  grind [State.bar2Read, Inv.fault, Inv.busAns, Inv.eccRead, Inv.refusedAccess, Inv.hostUr]

theorem execBar2Read_keeps {off len errs} (h : Inv s) : Keeps (execBar2Read off len errs s) := .next h.bar2Read

theorem Inv.bar2Write {off data} (h : Inv s) : Inv (s.bar2Write off data) := by
  grind [State.bar2Write, Inv.put, Inv.fault, Inv.refusedAccess, Inv.hostUr]

theorem execBar2Write_keeps {off data} (h : Inv s) : Keeps (execBar2Write off data s) := .next h.bar2Write

theorem execBar2Resize_keeps {size} (h : Inv s) : Keeps (execBar2Resize size s) := .next h.upHif

theorem execNop_keeps {k} (h : Inv s) : Keeps (execNop k s) := runPacket_keeps h fun _ _ hu => by grind [Ans.Keeps]

theorem devInfo_keeps {p} (h : Inv s) : (devInfo p s).Keeps := by
  grind [devInfo, Inv.wrHost, Ans.Keeps]

theorem execDevInfo_keeps {k} (h : Inv s) : Keeps (execDevInfo k s) := by
  grind [execDevInfo, devInfo_keeps, runPacket_keeps, Keeps]

theorem devStats_keeps {p} (h : Inv s) : (devStats p s).Keeps := by
  grind [devStats, Inv.wrHost, Ans.Keeps.refuseIf, Ans.Keeps]

theorem execDevStats_keeps {k} (h : Inv s) : Keeps (execDevStats k s) := by
  grind [execDevStats, devStats_keeps, runPacket_keeps, Keeps]

theorem devRingSet_keeps {p} (h : Inv s) : (devRingSet p s).Keeps := by
  grind [devRingSet, Inv.upRing, Ans.Keeps.refuseIf, Ans.Keeps]

theorem execDevRingSet_keeps {k} (h : Inv s) : Keeps (execDevRingSet k s) := by
  grind [execDevRingSet, devRingSet_keeps, runPacket_keeps, Keeps]

theorem Inv.dropHold {ring} (h : Inv s) : Inv (s.dropHold ring) := by
  grind [State.dropHold, Inv.upRing, Inv.upAp]

theorem devRingClear_keeps {p} (h : Inv s) : (devRingClear p s).Keeps := by
  grind [devRingClear, Inv.signalRing, Inv.setRing, Inv.closeNo, Inv.writeAll, Inv.dropHold, Ans.Keeps.refuseIf,
      Ans.Keeps]

theorem execDevRingClear_keeps {k} (h : Inv s) : Keeps (execDevRingClear k s) := by
  grind [execDevRingClear, devRingClear_keeps, runPacket_keeps, Keeps]

theorem devClientCfg_keeps {p} (h : Inv s) : (devClientCfg p s).Keeps := by
  grind [devClientCfg, Inv.upClient, Ans.Keeps]

theorem execDevClientCfg_keeps {k} (h : Inv s) : Keeps (execDevClientCfg k s) := by
  grind [execDevClientCfg, devClientCfg_keeps, runPacket_keeps, Keeps]

theorem partCreate_keeps {p} (h : Inv s) : (partCreate p s).Keeps := by
  grind [partCreate, Inv.setPart, Ans.Keeps.refuseIf, Ans.Keeps]

theorem execPartCreate_keeps {k} (h : Inv s) : Keeps (execPartCreate k s) := by
  grind [execPartCreate, partCreate_keeps, runPacket_keeps, Keeps]

theorem partResize_keeps {p} (h : Inv s) : (partResize p s).Keeps := by
  grind [partResize, Inv.setPart, Inv.schedule, Ans.Keeps.refuseIf, Ans.Keeps.needState, inv_iff, Ans.Keeps]

theorem execPartResize_keeps {k} (h : Inv s) : Keeps (execPartResize k s) := by
  grind [execPartResize, partResize_keeps, runPacket_keeps, Keeps]

theorem partDelete_keeps {p} (h : Inv s) : (partDelete p s).Keeps := by
  grind [partDelete, Inv.setPart, Ans.Keeps.needState, Ans.Keeps]

theorem execPartDelete_keeps {k} (h : Inv s) : Keeps (execPartDelete k s) := by
  grind [execPartDelete, partDelete_keeps, runPacket_keeps, Keeps]

theorem Inv.patrolRead {addr errs} (h : Inv s) : Inv (s.patrolRead addr errs) := .ite h (.foldl h.upPsmc fun _ _ hu =>
    hu.eccOne)

theorem execPatrolRead_keeps {addr errs} (h : Inv s) : Keeps (execPatrolRead addr errs s) := .next h.patrolRead

theorem Inv.linkCrc {q ok reads} (h : Inv s) : Inv (s.linkCrc q ok reads) := by
  grind [State.linkCrc, Inv.enterDev, Inv.stopJob, Inv.psmLog, Inv.draw, Inv.fault, Inv.event, Inv.upPsmc,
      devOk_ready, devOk_shutdown, devOk_faulted, Inv.foldl]

theorem execPsmLinkCrcFail_keeps {chan ok} (h : Inv s) : Keeps (execPsmLinkCrcFail chan ok s) := .next h.linkCrc

theorem Inv.cfgWrite {off v} (h : Inv s) : Inv (s.cfgWrite off v) := .ite h.upHif h

theorem Inv.writeHif {off v} (h : Inv s) : Inv (s.writeHif off v) := .ite h.upHif (.ite (.ite h.upHif h) (.ite (.ite h
    h.upHif) (.ite h.upHif.msixRelease h)))

theorem Inv.writeEvc {off v same} (h : Inv s) : Inv (s.writeEvc off v same) := by
  unfold State.writeEvc
  extract_lets o g1 g2 s1
  clear_value o
  have h1 : Inv s1 := .ite h.upEvc (.ite h.upEvc (.ite h.upEvc (.ite h.upEvc (.ite h.upEvc h))))
  refine .ite h.evcDisable (.ite h.evcUnpend (.ite h.evcSet (.ite h.evcEoi (.ite h.evcUnlatch ?_))))
  exact Inv.evcBridgeAll (Inv.foldl h1 fun _ _ hu => .ite hu.evcWake hu)

theorem Inv.writeHal {off v same} (h : Inv s) : Inv (s.writeHal off v same) := by
  have hw fine : Inv (s.upHal fun x => x.writeIncr fine v) := h.upHalB h.hal.writeIncr
  unfold State.writeHal
  extract_lets o
  clear_value o
  exact .ite h.upHal (.ite h.halCtrl (.ite (hw _) (.ite (hw _) (.ite h.upHal (.ite h.upHal (.ite h.upHal (.ite h.upHal
    (.ite h.upHal (.ite h.upHport (.ite h.upHport h))))))))))

theorem Inv.writeSec {m off v} (h : Inv s) : Inv (s.writeSec m off v) := .ite h.secLock (.ite h h.upSec)

theorem Inv.writeCpw {off v same} (h : Inv s) : Inv (s.writeCpw off v same) := by
  unfold State.writeCpw
  extract_lets o
  clear_value o
  exact .ite h.upCpw (.ite h.upCpw (.ite h.upCpw (.ite h.upCpw h)))

theorem Inv.writePsmc {off v} (h : Inv s) : Inv (s.writePsmc off v) := .ite h.upPsmc (.ite h.upPsmc h)

theorem Inv.writeReg {m off v same} (h : Inv s) : Inv (s.writeReg m off v same) := .ite h.writeEvc (.ite h.writeHal
    (.ite h.writeHif (.ite h.writePsmc (.ite h.upXlt (.ite h.writeSec (.ite h.upTst.testGo (.ite h.writeCpw h)))))))

theorem Inv.registerWrite {m off len v same} (h : Inv s) : Inv (s.registerWrite m off len v same) := by
  grind [State.registerWrite, Inv.writeReg, Inv.upHif, Inv.checked, Inv.headWrite, Inv.hostUr, Inv.slotWrite,
      Inv.cfgWrite]

theorem execRegisterWrite_keeps {m off v} (h : Inv s) : Keeps (execRegisterWrite m off v s) := .next h.registerWrite

theorem Inv.schGet {m o} (h : Inv s) : Inv (s.schGet m o) := by
  grind [State.schGet, Inv.busWord, inv_iff]

theorem Inv.readReg {m off same} (h : Inv s) : Inv (s.readReg m off same) := .ite h.upCpw.busWord (.ite
    h.upPsmc.busWord (.ite h.upPsmc.busWord (.ite h.halSnap (.ite h.evcClaim (.ite h.schGet h.busWord)))))

theorem Inv.registerRead {m off len same} (h : Inv s) : Inv (s.registerRead m off len same) := by
  grind [State.registerRead, Inv.readReg, Inv.checked, Inv.busAns, Inv.hostUr, Inv.busWord]

theorem execRcFieldRead_keeps {m off same} (h : Inv s) : Keeps (execRcFieldRead m off same s) := .next h.registerRead

theorem execSchCounterRead_keeps {m off} (h : Inv s) : Keeps (execSchCounterRead m off s) := .next h.registerRead

theorem xfBody_keeps {x} (h : Inv s) : (xfBody x s).Keeps := by
  grind [xfBody, Inv.clWr, Res.Keeps, Inv.foldl]

theorem execTransform_keeps {e q i env} (h : Inv s) : Keeps (execTransform e q i env s) :=
  runCommand_keeps h fun _ _ hu => xfBody_keeps hu

theorem chiselBody_keeps {x} (h : Inv s) : (chiselBody x s).Keeps := by
  grind [chiselBody, Inv.clWr, Res.Keeps, Inv.foldl]

theorem execChisel_keeps {e q i env} (h : Inv s) : Keeps (execChisel e q i env s) :=
  runCommand_keeps h fun _ _ hu => chiselBody_keeps hu

end

end Sys2Proof.Machine
end

section
/-! PROOFS. The invariant: every command and every step. -/

set_option Elab.async false

namespace Sys2Proof.Machine

/-- What a command leads to meets the invariant. -/
theorem exec_keeps {s : State} (h : Inv s) : ∀ i : Instr, Keeps (exec i s)
  | .slotWrite .. => execSlotWrite_keeps h
  | .packetIntake .. => execPacketIntake_keeps h
  | .refusalReply .. => execRefusalReply_keeps h
  | .replyRecordWrite .. => execReplyRecordWrite_keeps h
  | .moderationTimerExpiry .. => execModerationTimerExpiry_keeps h
  | .msixVectorUnmask .. => execMsixVectorUnmask_keeps h
  | .d3hotEntry => execD3hotEntry_keeps h
  | .d0Return => execD0Return_keeps h
  | .flr => execFlr_keeps h
  | .linkDown => execLinkDown_keeps h
  | .perst => execPerst_keeps h
  | .poisonedTlpReceive .. => execPoisonedTlpReceive_keeps h
  | .bar2Read .. => execBar2Read_keeps h
  | .bar2Write .. => execBar2Write_keeps h
  | .bar2Resize .. => execBar2Resize_keeps h
  | .hifApHeadWrite .. => execHifApHeadWrite_keeps h
  | .registerWrite .. => execRegisterWrite_keeps h
  | .rcFieldRead .. => execRcFieldRead_keeps h
  | .nop .. => execNop_keeps h
  | .devInfo .. => execDevInfo_keeps h
  | .devRingSet .. => execDevRingSet_keeps h
  | .devRingClear .. => execDevRingClear_keeps h
  | .devReefSet .. => execDevReefSet_keeps h
  | .devStats .. => execDevStats_keeps h
  | .devFaultRead .. => execDevFaultRead_keeps h
  | .devShutdown .. => execDevShutdown_keeps h
  | .devResetCompute .. => execDevResetCompute_keeps h
  | .coreResetDelay => execCoreResetDelay_keeps h
  | .devClientCfg .. => execDevClientCfg_keeps h
  | .partCreate .. => execPartCreate_keeps h
  | .partResize .. => execPartResize_keeps h
  | .partDelete .. => execPartDelete_keeps h
  | .ctxCreate .. => execCtxCreate_keeps h
  | .ctxDestroy .. => execCtxDestroy_keeps h
  | .contextScrubComplete .. => execContextScrubComplete_keeps h
  | .ctxSuspend .. => execCtxSuspend_keeps h
  | .ctxResume .. => execCtxResume_keeps h
  | .ctxModeSet .. => execCtxModeSet_keeps h
  | .ctxQuery .. => execCtxQuery_keeps h
  | .memAlloc .. => execMemAlloc_keeps h
  | .memFree .. => execMemFree_keeps h
  | .memScrubComplete .. => execMemScrubComplete_keeps h
  | .memMapHost .. => execMemMapHost_keeps h
  | .memUnmap .. => execMemUnmap_keeps h
  | .memCopy .. => execMemCopy_keeps h
  | .memFill .. => execMemFill_keeps h
  | .transferComplete .. => execTransferComplete_keeps h
  | .cleatAlloc .. => execCleatAlloc_keeps h
  | .cleatAllocRetry .. => execCleatAllocRetry_keeps h
  | .cleatRelease .. => execCleatRelease_keeps h
  | .cleatScrubComplete .. => execCleatScrubComplete_keeps h
  | .residueHoldExpiry .. => execResidueHoldExpiry_keeps h
  | .xltFaultReply .. => execXltFaultReply_keeps h
  | .xltFaultTimeout .. => execXltFaultTimeout_keeps h
  | .commonsSplit .. => execCommonsSplit_keeps h
  | .commonsSplitComplete => execCommonsSplitComplete_keeps h
  | .prefetchCfg .. => execPrefetchCfg_keeps h
  | .jobSubmit .. => execJobSubmit_keeps h
  | .jobCancel .. => execJobCancel_keeps h
  | .jobQuery .. => execJobQuery_keeps h
  | .jobStats .. => execJobStats_keeps h
  | .fenceSignal .. => execFenceSignal_keeps h
  | .fenceWait .. => execFenceWait_keeps h
  | .seqOpen .. => execSeqOpen_keeps h
  | .seqClose .. => execSeqClose_keeps h
  | .kvPageScrubComplete .. => execKvPageScrubComplete_keeps h
  | .seqStep .. => execSeqStep_keeps h
  | .stepEnd .. => execStepEnd_keeps h
  | .seqPreempt .. => execSeqPreempt_keeps h
  | .swapOutComplete .. => execSwapOutComplete_keeps h
  | .seqRestore .. => execSeqRestore_keeps h
  | .swapInComplete .. => execSwapInComplete_keeps h
  | .seqFork .. => execSeqFork_keeps h
  | .kvBucketsSet .. => execKvBucketsSet_keeps h
  | .kvDirQuery .. => execKvDirQuery_keeps h
  | .streamOpen .. => execStreamOpen_keeps h
  | .streamClose .. => execStreamClose_keeps h
  | .streamStart .. => execStreamStart_keeps h
  | .streamStop .. => execStreamStop_keeps h
  | .streamStopComplete .. => execStreamStopComplete_keeps h
  | .streamResume .. => execStreamResume_keeps h
  | .streamSkip .. => execStreamSkip_keeps h
  | .meshLoad .. => execMeshLoad_keeps h
  | .jpegDecode .. => execJpegDecode_keeps h
  | .jpegDecodeComplete .. => execJpegDecodeComplete_keeps h
  | .halCfg .. => execHalCfg_keeps h
  | .halQuery .. => execHalQuery_keeps h
  | .planLoad .. => execPlanLoad_keeps h
  | .planActivate .. => execPlanActivate_keeps h
  | .planStartInstant .. => execPlanStartInstant_keeps h
  | .planDeactivate .. => execPlanDeactivate_keeps h
  | .planUnload .. => execPlanUnload_keeps h
  | .planQuery .. => execPlanQuery_keeps h
  | .qbvCfg .. => execQbvCfg_keeps h
  | .qbvListChange .. => execQbvListChange_keeps h
  | .qbvGateEvent .. => execQbvGateEvent_keeps h
  | .plnStatus .. => execPlnStatus_keeps h
  | .plnFaultRead .. => execPlnFaultRead_keeps h
  | .trimTraceRead .. => execTrimTraceRead_keeps h
  | .plnConfig .. => execPlnConfig_keeps h
  | .plnModeSet .. => execPlnModeSet_keeps h
  | .trimTraceCfg .. => execTrimTraceCfg_keeps h
  | .twinLinkUp .. => execTwinLinkUp_keeps h
  | .twinTrainingComplete .. => execTwinTrainingComplete_keeps h
  | .twinModeSet .. => execTwinModeSet_keeps h
  | .twinPeerModeRequest .. => execTwinPeerModeRequest_keeps h
  | .twinModeTimeout => execTwinModeTimeout_keeps h
  | .twinQuery .. => execTwinQuery_keeps h
  | .twinHandover .. => execTwinHandover_keeps h
  | .secAttest .. => execSecAttest_keeps h
  | .updOpen .. => execUpdOpen_keeps h
  | .updBlock .. => execUpdBlock_keeps h
  | .updBlockProgrammed .. => execUpdBlockProgrammed_keeps h
  | .updVerify .. => execUpdVerify_keeps h
  | .updActivate .. => execUpdActivate_keeps h
  | .updActivateInstant => execUpdActivateInstant_keeps h
  | .updAbort .. => execUpdAbort_keeps h
  | .updQuery .. => execUpdQuery_keeps h
  | .lcTransition .. => execLcTransition_keeps h
  | .dbgSession .. => execDbgSession_keeps h
  | .testRun .. => execTestRun_keeps h
  | .testBlockComplete .. => execTestBlockComplete_keeps h
  | .testResult .. => execTestResult_keeps h
  | .loopbackSet .. => execLoopbackSet_keeps h
  | .testRotateCfg .. => execTestRotateCfg_keeps h
  | .cmdNop .. => execCmdNop_keeps h
  | .cmdFenceSignal .. => execCmdFenceSignal_keeps h
  | .cmdFenceWait .. => execCmdFenceWait_keeps h
  | .launchWait .. => execLaunchWait_keeps h
  | .launchWaitExpiry .. => execLaunchWaitExpiry_keeps h
  | .load .. => execLoad_keeps h
  | .store .. => execStore_keeps h
  | .fill .. => execFill_keeps h
  | .matmul .. => execMatmul_keeps h
  | .conv .. => execConv_keeps h
  | .attention .. => execAttention_keeps h
  | .kvAppend .. => execKvAppend_keeps h
  | .vector .. => execVector_keeps h
  | .transform .. => execTransform_keeps h
  | .chisel .. => execChisel_keeps h
  | .commandComplete .. => execCommandComplete_keeps h
  | .patrolRead .. => execPatrolRead_keeps h
  | .psmLinkCrcFail .. => execPsmLinkCrcFail_keeps h
  | .periodInstant .. => execPeriodInstant_keeps h
  | .launchList .. => execLaunchList_keeps h
  | .tqPendingStart .. => execTqPendingStart_keeps h
  | .launchMover .. => execLaunchMover_keeps h
  | .moverDepStart .. => execMoverDepStart_keeps h
  | .mailboxWrite .. => execMailboxWrite_keeps h
  | .launchSample .. => execLaunchSample_keeps h
  | .launchTelltale .. => execLaunchTelltale_keeps h
  | .telltaleWindowEnd .. => execTelltaleWindowEnd_keeps h
  | .launchSelftest .. => execLaunchSelftest_keeps h
  | .sliceStart .. => execSliceStart_keeps h
  | .sliceEnd .. => execSliceEnd_keeps h
  | .sliceGuardAbort .. => execSliceGuardAbort_keeps h
  | .testStarved .. => execTestStarved_keeps h
  | .dpSliceDue .. => execDpSliceDue_keeps h
  | .launchMonitor .. => execLaunchMonitor_keeps h
  | .monitorExpiry .. => execMonitorExpiry_keeps h
  | .telltaleDigest .. => execTelltaleDigest_keeps h
  | .schPlacementTimer => execSchPlacementTimer_keeps h
  | .saveDrainComplete .. => execSaveDrainComplete_keeps h
  | .contextSaveComplete .. => execContextSaveComplete_keeps h
  | .contextRestoreComplete .. => execContextRestoreComplete_keeps h
  | .remoteDrainTimeout .. => execRemoteDrainTimeout_keeps h
  | .remoteReadCompletion .. => execRemoteReadCompletion_keeps h
  | .remoteAccessRequest .. => execRemoteAccessRequest_keeps h
  | .mirroredFenceSignal .. => execMirroredFenceSignal_keeps h
  | .shroudLinkDown => execShroudLinkDown_keeps h
  | .shrPrefixReceive .. => execShrPrefixReceive_keeps h
  | .csiFrameStart .. => execCsiFrameStart_keeps h
  | .csiLongPacket .. => execCsiLongPacket_keeps h
  | .csiFrameEnd .. => execCsiFrameEnd_keeps h
  | .csiGenericShortPacket .. => execCsiGenericShortPacket_keeps h
  | .csiPortSilence .. => execCsiPortSilence_keeps h
  | .fsyncPulse .. => execFsyncPulse_keeps h
  | .ratlineFrameReceive .. => execRatlineFrameReceive_keeps h
  | .ethFrameReceive .. => execEthFrameReceive_keeps h
  | .feSampleTake .. => execFeSampleTake_keeps h
  | .setDeadlineExpiry .. => execSetDeadlineExpiry_keeps h
  | .batchCommit .. => execBatchCommit_keeps h
  | .bridgeDepthGrid .. => execBridgeDepthGrid_keeps h
  | .ptpSyncReceive .. => execPtpSyncReceive_keeps h
  | .ptpAnnounceReceive .. => execPtpAnnounceReceive_keeps h
  | .syncReceiptTimeout .. => execSyncReceiptTimeout_keeps h
  | .announceTimeout .. => execAnnounceTimeout_keeps h
  | .ethFrameQueue .. => execEthFrameQueue_keeps h
  | .ethFrameTransmit .. => execEthFrameTransmit_keeps h
  | .halManualStep .. => execHalManualStep_keeps h
  | .halModeWrite .. => execHalModeWrite_keeps h
  | .halIncrWrite .. => execHalIncrWrite_keeps h
  | .halSnapRead .. => execHalSnapRead_keeps h
  | .copyCheck .. => execCopyCheck_keeps h
  | .bridgeTimeUpdate .. => execBridgeTimeUpdate_keeps h
  | .freeRunEntry => execFreeRunEntry_keeps h
  | .freeRunLimit => execFreeRunLimit_keeps h
  | .trimSampleInstant => execTrimSampleInstant_keeps h
  | .trimSampleStart => execTrimSampleStart_keeps h
  | .trimWaitExpiry => execTrimWaitExpiry_keeps h
  | .trimSampleEnd => execTrimSampleEnd_keeps h
  | .trimDeadlineExpiry => execTrimDeadlineExpiry_keeps h
  | .maquetteStepInstant => execMaquetteStepInstant_keeps h
  | .maquetteStepEnd => execMaquetteStepEnd_keeps h
  | .maquetteDeadline => execMaquetteDeadline_keeps h
  | .maquetteKat => execMaquetteKat_keeps h
  | .ss1Stop => execSs1Stop_keeps h
  | .lockstepMismatch => execLockstepMismatch_keeps h
  | .plnSramError .. => execPlnSramError_keeps h
  | .plnSupplyFault => execPlnSupplyFault_keeps h
  | .plnClockFault => execPlnClockFault_keeps h
  | .safeOutputMismatch .. => execSafeOutputMismatch_keeps h
  | .testPulse .. => execTestPulse_keeps h
  | .plnRestartEdge => execPlnRestartEdge_keeps h
  | .restartWindowExpiry => execRestartWindowExpiry_keeps h
  | .plnReset => execPlnReset_keeps h
  | .plinthBoot .. => execPlinthBoot_keeps h
  | .plinthBootTimeout => execPlinthBootTimeout_keeps h
  | .heartbeatTokenReceive .. => execHeartbeatTokenReceive_keeps h
  | .stateBlockReceive .. => execStateBlockReceive_keeps h
  | .twinAliveEdge => execTwinAliveEdge_keeps h
  | .heartbeatCheck => execHeartbeatCheck_keeps h
  | .evcClaimRead .. => execEvcClaimRead_keeps h
  | .evcEoiWrite .. => execEvcEoiWrite_keeps h
  | .evcSetWrite .. => execEvcSetWrite_keeps h
  | .evcPendWrite .. => execEvcPendWrite_keeps h
  | .evcBrgLatchWrite .. => execEvcBrgLatchWrite_keeps h
  | .evcDisableWrite .. => execEvcDisableWrite_keeps h
  | .holdoffExpiry .. => execHoldoffExpiry_keeps h
  | .schCounterRead .. => execSchCounterRead_keeps h
  | .powerOnReset => execPowerOnReset_keeps h
  | .coreResetRelease .. => execCoreResetRelease_keeps h
  | .bootTryTimeout => execBootTryTimeout_keeps h
  | .coreRailFault => execCoreRailFault_keeps h
  | .coreRailGood => execCoreRailGood_keeps h
  | .watchdogExpiry => execWatchdogExpiry_keeps h
  | .cpwWdogWrite .. => execCpwWdogWrite_keeps h
  | .wake => execWake_keeps h
  | .reef4Entry => execReef4Entry_keeps h
  | .powerManagerUpdate .. => execPowerManagerUpdate_keeps h
  | .thermalLevelTimer .. => execThermalLevelTimer_keeps h
  | .thermalShutdown .. => execThermalShutdown_keeps h
  | .alignEpoch .. => execAlignEpoch_keeps h
  | .pllLockLoss .. => execPllLockLoss_keeps h
  | .storeWriteComplete .. => execStoreWriteComplete_keeps h
  | .secLockWrite .. => execSecLockWrite_keeps h
  | .svpHello .. => execSvpHello_keeps h
  | .svpManifest .. => execSvpManifest_keeps h
  | .svpOpen .. => execSvpOpen_keeps h
  | .svpData .. => execSvpData_keeps h
  | .svpVerify .. => execSvpVerify_keeps h
  | .svpActivate .. => execSvpActivate_keeps h
  | .svpAbort .. => execSvpAbort_keeps h
  | .svpLc .. => execSvpLc_keeps h
  | .svpProvision .. => execSvpProvision_keeps h
  | .svpSessionTimeout => execSvpSessionTimeout_keeps h
  | .ss0GraceExpiry => execSs0GraceExpiry_keeps h
  | .thermalWarnCrossing .. => execThermalWarnCrossing_keeps h
  | .ethLinkChange .. => execEthLinkChange_keeps h
  | .pcieLinkUp .. => execPcieLinkUp_keeps h
  | .csiPhyLock .. => execCsiPhyLock_keeps h
  | .updVerifyComplete => execUpdVerifyComplete_keeps h
  | .updStagingComplete => execUpdStagingComplete_keeps h
  | .trimTraceReadComplete => execTrimTraceReadComplete_keeps h
  | .configObjectVerified => execConfigObjectVerified_keeps h
  | .meshLoadComplete .. => execMeshLoadComplete_keeps h
  | .debugMasterAccess .. => execDebugMasterAccess_keeps h

/-- What a step leads to meets the invariant. -/
theorem step_keeps {s : State} (h : Inv s) : Keeps (step s) := by
  unfold step
  split
  · exact .next h.pass
  · exact exec_keeps h.of_eq _

/-- Settles O3: no memory, INIT twice, the nominal increment, and no change that waits. -/
theorem resetMeetsInvariant : Obligations.ResetMeetsInvariant := Inv.reset

/-- Settles O4: a tick of HCLK keeps the invariant, and so does each command. -/
theorem stepKeepsInvariant : Obligations.StepKeepsInvariant := fun _ t h ht => step_keeps h t ht

end Sys2Proof.Machine
end

section
/-! PROOFS. Commands of a list: when one has its effect, and the four that synchronise. -/

set_option Elab.async false

namespace Sys2Proof.Machine

section
variable {op i : Nat} {e : Fin 8} {q : Fin 5} {env : Env} {body : Cx → State → Res} {x : Cx} {s t u : State}

/-! ### What the row of a command comes to -/

/-- A command's effect is made: it is at no point of a restart, and the scheduler looks again. -/
def State.settled (x : Cx) (u : State) : State := (u.upJob x.e x.q fun j => { j with prog := Tab.erase j.prog x.i }).schedule

/-- It is what a body without a fault settles to. -/
theorem settle_ok : State.settle x (.ok u) = u.settled x := rfl

/-- A choice of a body. -/
theorem settle_ite {c : Prop} [Decidable c] {a b : Res} :
    State.settle x (if c then a else b) = if c then State.settle x a else State.settle x b := apply_ite ..

/-- A command whose operands are readable comes to what its body settles to. -/
theorem runCommand_comes (h : Runs op e q i env x t s) (hu : State.settle x (body x t) = u) :
    runCommand op e q i env body s = .next u := by
  rw [runCommand_runs h, hu]

/-- The same for a body that ends without a fault. -/
theorem runCommand_ok (h : Runs op e q i env x t s) (hu : body x t = .ok u) :
    runCommand op e q i env body s = .next (u.settled x) := by
  rw [runCommand_runs h, hu, settle_ok]

/-! ### Rows that issue (R69, R90, R93, R175) -/

/-- The rows of the commands with operands, each with its opcode. -/
def operandRows (e : Fin 8) (q : Fin 5) (i : Nat) (env : Env) : List (Nat × Instr) :=
  [(opLoad, .load e q i env), (opStore, .store e q i env), (opFill, .fill e q i env), (opMat, .matmul e q i env),
   (opConv, .conv e q i env), (opAttn, .attention e q i env), (opKv, .kvAppend e q i env), (opVec, .vector e q i env),
   (opXf, .transform e q i env), (opChis, .chisel e q i env)]

/-- Those of the commands that synchronise. -/
def syncRows (e : Fin 8) (q : Fin 5) (i : Nat) : List (Nat × Instr) :=
  [(opNop, .cmdNop e q i), (opFSig, .cmdFenceSignal e q i), (opFWait, .cmdFenceWait e q i), (opLWait, .launchWait e q i)]

/-- A row of a command with operands runs its body under its opcode. -/
theorem exec_operandRow : ∀ r ∈ operandRows e q i env, ∃ body, exec r.2 s = runCommand r.1 e q i env body s := by
  simp only [operandRows, List.forall_mem_cons]
  exact ⟨⟨loadBody, rfl⟩, ⟨storeBody, rfl⟩, ⟨fillBody, rfl⟩, ⟨matBody, rfl⟩, ⟨convBody, rfl⟩, ⟨attnBody, rfl⟩, ⟨kvBody, rfl⟩,
    ⟨vecBody, rfl⟩, ⟨xfBody, rfl⟩, ⟨chiselBody, rfl⟩, by simp⟩

/-- So does one that synchronises, which meets nothing. -/
theorem exec_syncRow : ∀ r ∈ syncRows e q i, ∃ body, exec r.2 s = runCommand r.1 e q i {} body s := by
  simp only [syncRows, List.forall_mem_cons]
  exact ⟨⟨fun _ s => .ok s, rfl⟩, ⟨fenceSignalBody, rfl⟩, ⟨fun x s => .ok (s.wake 200 x.c), rfl⟩, ⟨launchWaitBody, rfl⟩, by simp⟩

end

/-- Settles O42: every row runs a body under its opcode, and `runCommand` asks first whether the command issues and then what
its operands meet. -/
theorem commandsIssueInTheirTurn : Obligations.CommandsIssueInTheirTurn := by
  unfold Obligations.CommandsIssueInTheirTurn
  intro s e q i env rows sync
  refine ⟨fun r hr hidle => ?_, fun r hr t n hissue hbegun => ?_⟩
  · rcases List.mem_append.1 hr with hr | hr
    · obtain ⟨body, hrow⟩ := exec_operandRow (s := s) r hr
      rw [hrow, runCommand_idle hidle]
    · obtain ⟨body, hrow⟩ := exec_syncRow (s := s) r hr
      rw [hrow, runCommand_idle hidle]
  · obtain ⟨body, hrow⟩ := exec_operandRow (s := s) r hr
    rw [hrow, runCommand_uncorr hissue hbegun]
    rfl

/-! ### The four that synchronise, and completion (R77, R78, R92) -/

section
variable {x : Cx} {s : State}

/-- A LAUNCH_WAIT whose instant has passed is counted for its engine and its job. -/
def State.lwLate (s : State) (x : Cx) : State :=
  (s.upEngine x.e fun y => { y with cntLwLate := y.cntLwLate + 1 }).upJob x.e x.q fun j =>
    { j with stats := { j.stats with lwLate := j.stats.lwLate + 1 } }

/-- A LAUNCH_WAIT completes where its instant has passed or is now, and else waits in flight. -/
theorem launchWaitBody_ok : launchWaitBody x s = .ok (
    if launchInstant x.cmd x.job < s.now then (s.lwLate x).complete x.e x.q x.i
    else if launchInstant x.cmd x.job = s.now then s.complete x.e x.q x.i else s) := by
  unfold launchWaitBody
  split
  · rfl
  · split <;> rfl

variable {e q i : Nat}

/-- LAUNCH_WAIT_EXPIRY, by the running job's command: a queue without a job has nothing in flight. -/
theorem launchReached_eq : s.launchReached e q i =
    if cOp (s.cmdAt e q i) = opLWait ∧ (s.head e q).flight.contains i = true ∧ s.qOpen e q = true ∧ s.launches = true then
      if launchInstant (s.cmdAt e q i) (s.head e q) ≤ (s.passTo (launchInstant (s.cmdAt e q i) (s.head e q))).now then
        (s.passTo (launchInstant (s.cmdAt e q i) (s.head e q))).complete e q i
      else s.passTo (launchInstant (s.cmdAt e q i) (s.head e q))
    else s := by
  unfold State.launchReached State.cmdAt State.head
  cases s.queue e q with
  | nil => exact (if_neg fun h => Bool.false_ne_true h.2.1).symm
  | cons j l => rfl

/-- COMMAND_COMPLETE, in the same way. -/
theorem completed_eq : s.completed e q i =
    if ¬ (q < 4 ∧ ((s.engine e).slice = 2 ∨ ((s.engine e).slot q).saving = true)) ∧ (s.head e q).flight.contains i = true ∧
        ¬ (s.head e q).stalled i = true ∧ cOp (s.cmdAt e q i) ≠ opFWait ∧ cOp (s.cmdAt e q i) ≠ opLWait ∧
        ¬ (s.engine e).remotes.any (fun r => r.ctx == (s.head e q).ctx && r.idx == i) = true then s.complete e q i
    else s := by
  unfold State.completed State.cmdAt State.head
  cases s.queue e q with
  | nil => exact (if_neg fun h => Bool.false_ne_true h.2.1).symm
  | cons j l => exact if_congr (by simp) rfl rfl

end

/-- Settles O43: the four commands by their bodies, the two events by `launchReached_eq` and `completed_eq`. -/
theorem synchronisationCommandsRun : Obligations.SynchronisationCommandsRun := by
  unfold Obligations.SynchronisationCommandsRun
  intro s t e q i x settled sig at' late cmd j halted
  refine ⟨fun h => runCommand_ok h rfl, fun h => runCommand_ok h rfl, fun h => runCommand_ok h rfl,
    fun h => runCommand_ok h launchWaitBody_ok, fun hop hflight hopen hl _ => ?_, fun hidle => ?_,
    fun _ hrun hflight hst hf hw hr => ?_, fun hidle => ?_⟩
  · -- the instant of a LAUNCH_WAIT in flight
    exact congrArg Host.Outcome.next (launchReached_eq.trans (if_pos ⟨hop, hflight, hopen, hl⟩))
  · -- no such command, or none that may go on
    refine congrArg Host.Outcome.next (launchReached_eq.trans (if_neg ?_))
    rintro ⟨hop, hflight, hopen, hl⟩
    rcases hidle with h | h | h | h
    · exact h hop
    · exact Bool.false_ne_true (h.symm.trans hflight)
    · exact Bool.false_ne_true (h.symm.trans hopen)
    · exact Bool.false_ne_true (h.symm.trans hl)
  · -- a command in flight that completes
    exact congrArg Host.Outcome.next (completed_eq.trans (if_pos
      ⟨hrun, hflight, Bool.eq_false_iff.1 hst, hf, hw, Bool.eq_false_iff.1 hr⟩))
  · -- one that does not
    refine congrArg Host.Outcome.next (completed_eq.trans (if_neg ?_))
    rintro ⟨hrun, hflight, hst, hf, hw, hr⟩
    rcases hidle with h | h | h | h | h | h
    · exact hrun h
    · exact Bool.false_ne_true (h.symm.trans hflight)
    · exact hst h
    · exact hf h
    · exact hw h
    · exact hr h

end Sys2Proof.Machine
end

section
/-! PROOFS. LOAD, STORE and FILL: the pieces they move. -/

set_option Elab.async false

namespace Sys2Proof.Machine

section
variable {x : Cx} {p : MovePiece} {l : List MovePiece} {t u : State} {peer tag a n : Nat}

/-! ### One piece of a LOAD or STORE (R79, R80, R175, R398) -/

/-- A piece before the point of a restart has been loaded. -/
theorem loadRun_before (h : p.at' < x.from') : loadRun x (p :: l) t = loadRun x l t := by
  rw [loadRun, if_pos h]

/-- Or stored. -/
theorem storeRun_before (h : p.at' < x.from') : storeRun x (p :: l) t = storeRun x l t := by
  rw [storeRun, if_pos h]

/-- A piece of the peer's window waits while no tag is free. -/
theorem loadRun_noTag (h : ¬ p.at' < x.from') (hp : t.remoteFor x.c p.va = some peer) (hf : (t.engine x.e).freeTag = none) :
    loadRun x (p :: l) t = .part t p.at' := by
  rw [loadRun, if_neg h, hp]
  dsimp only
  rw [hf]

/-- Else it asks the peer under a free tag. -/
theorem loadRun_asks (h : ¬ p.at' < x.from') (hp : t.remoteFor x.c p.va = some peer) (hf : (t.engine x.e).freeTag = some tag) :
    loadRun x (p :: l) t = loadRun x l (((t.upEngine x.e fun y =>
      { y with remotes := y.remotes ++ [{ tag := tag, ctx := x.c, h := tH x.cmd 1, off := p.off, len := p.n, idx := x.i }] }).remoteAsk
        peer p.va p.n tag).loadTail x p) := by
  rw [loadRun, if_neg h, hp]
  dsimp only
  rw [hf]

/-- A piece for the peer's window is posted. -/
theorem storeRun_posts (h : ¬ p.at' < x.from') (hp : t.remoteFor x.c p.va = some peer) :
    storeRun x (p :: l) t = storeRun x l (t.remotePost peer p.va (t.clRd x.e (tH x.cmd 1) p.off p.n)) := by
  rw [storeRun, if_neg h]
  dsimp only
  rw [hp]

/-- A translated piece is read through the error check. -/
theorem loadRun_reads (h : ¬ p.at' < x.from') (hp : t.remoteFor x.c p.va = none)
    (ha : t.xlate (some (mEngine x.e)) x.c p.va p.n false = .pa a) :
    loadRun x (p :: l) t = match t.eccRead (mEngine x.e) x.c x.env.errs a p.n with
      | (u, some b) => .uncorr u b
      | (u, none) => loadRun x l ((u.clWr x.e (tH x.cmd 1) p.off (u.rd a p.n)).loadTail x p) := by
  rw [loadRun, if_neg h, hp]
  dsimp only
  rw [ha] <;> rfl

/-- A translated piece is stored, unless it covers part of an uncorrectable burst. -/
theorem storeRun_writes (h : ¬ p.at' < x.from') (hp : t.remoteFor x.c p.va = none)
    (ha : t.xlate (some (mEngine x.e)) x.c p.va p.n true = .pa a) :
    storeRun x (p :: l) t = match t.eccPartial a p.n with
      | some b => .uncorr t b
      | none => storeRun x l (t.put a (t.clRd x.e (tH x.cmd 1) p.off p.n)) := by
  rw [storeRun, if_neg h]
  dsimp only
  rw [hp]
  dsimp only
  rw [ha] <;> rfl

end

/-- Settles O44: the three commands by their bodies, then what one piece does. -/
theorem moveCommandsMoveRows : Obligations.MoveCommandsMoveRows := by
  unfold Obligations.MoveCommandsMoveRows
  intro s t e q i env x settled c
  refine ⟨fun h => runCommand_ok h rfl, fun h => runCommand_comes h rfl, fun h => runCommand_comes h rfl, fun _ => rfl, ⟨rfl, rfl⟩,
    fun p l h => ⟨loadRun_before h, storeRun_before h⟩,
    fun p l peer h hp => ⟨storeRun_posts h hp, loadRun_noTag h hp, fun tag => loadRun_asks h hp⟩,
    fun p l a h hp => ⟨fun ha u => ⟨fun hu => ?_, fun n hu => ?_⟩, fun ha => storeRun_writes h hp ha⟩⟩
  · rw [loadRun_reads h hp ha, hu]
  · rw [loadRun_reads h hp ha, hu]
    rfl

end Sys2Proof.Machine
end

section
/-! PROOFS. The tensor commands: what each one's body comes to. -/

set_option Elab.async false

namespace Sys2Proof.Machine

section
variable {x : Cx} {s t : State} {sa sb : List Nat} {recs : List (List HoldRec)}

/-! ### MATMUL (R82, R83, R112, R114) -/

/-- The exact sums of a MATMUL without scales of A, streams, seed or chain, by rows. -/
def State.plainSums (s : State) (x : Cx) : List (List HoldRec) :=
  let c := x.cmd
  let n := cf c 4 31 16
  let k := cf c 5 19 0
  let cols := (List.range n).map (s.matCol x)
  let ts := (List.range n).map fun j => termsOf (tF c 2) (cols.getD j ([], [])).1 (cols.getD j ([], [])).2 ([].getD j [])
  (List.range (cf c 4 15 0)).map fun i =>
    let acts := (codesOf (tF c 1) k (s.clRd x.e (tH c 1) (64 * (tO c 1 + i * cf c 6 17 0)) (rowBytes (tF c 1) k))).map (facOf (tF c 1))
    (List.range n).map fun j =>
      dotRec (acts[·]?) (ts.getD j []) ((([] : List HoldRec).getD (i * n + j) {}).plus (([] : List HoldRec).getD (i * n + j) {}))

/-- Without scales of A and without a stream, the sums follow at once. -/
theorem matBody_unscaled (hA : fmtScaled (tF x.cmd 1) = false) (hs : cb x.cmd 5 27 = false) : matBody x s = s.matSums x [] [] [] := by
  unfold matBody
  simp [hA, hs]

/-- A scale of A that is not allowed stops the command, and the rows of these scales stay. -/
theorem matBody_badScale (hA : fmtScaled (tF x.cmd 1) = true)
    (hbad : (List.range (s.scalesAt x 9 (cf x.cmd 4 15 0)).length).filter
      (fun i => !scaleOk ((s.scalesAt x 9 (cf x.cmd 4 15 0)).getD i 0)) ≠ []) :
    matBody x s = .fault s fltOperand (keepRows x.cmd ((List.range (s.scalesAt x 9 (cf x.cmd 4 15 0)).length).filter
      fun i => !scaleOk ((s.scalesAt x 9 (cf x.cmd 4 15 0)).getD i 0))) := by
  unfold matBody
  simp only [if_pos hA]
  exact if_pos (by simpa using hbad)

/-- Without escapes, seed and chain the sums are those of the command alone. -/
theorem matSums_plain (hB : tF x.cmd 2 ≠ 3) (hseed : cb x.cmd 0 19 = false) (hch : cf x.cmd 0 21 20 = 0) :
    s.matSums x [] [] [] = s.matFinish x [] [] (s.plainSums x) := by
  unfold State.matSums
  simp only [hB, hseed, hch, false_and, if_false, Bool.false_eq_true, show ¬ 2 ≤ 0 by decide]
  rfl

/-- Sums within their limit and without a residue go out where no chain holds them. -/
theorem matFinish_out (hch : cf x.cmd 0 21 20 = 0) (hmax : recs.any (fun l => l.any fun r => decide (maxTerms < r.terms)) = false)
    (hres : (List.range recs.length).filter (fun i => x.env.residue.contains i) = []) :
    s.matFinish x sa sb recs = s.matOut x sa sb recs := by
  unfold State.matFinish
  dsimp only
  rw [if_neg (Bool.eq_false_iff.1 hmax), hres, if_neg (by simp), if_neg (by simp [hch])]

/-- The codes of a row of C. -/
def State.matCodes (s : State) (x : Cx) (sa sb : List Nat) (recs : List (List HoldRec)) (i : Nat) : List Nat :=
  let c := x.cmd
  let n := cf c 4 31 16
  let bias := if cb c 0 17 then s.wordsAt x 10 n else []
  ((List.range n).map fun j => matValue c sa sb bias i j ((recs.getD i []).getD j {})).map (finish (cf c 5 23 20) (cf c 5 31 28) (tF c 3))

/-- OUT to C, in another format than raw records: each row's codes, and its statistics where the command asks for them. -/
theorem matOut_codes (hraw : tF x.cmd 3 ≠ 15) (hC : cf x.cmd 14 1 0 = 0) :
    s.matOut x sa sb recs = .ok ((List.range recs.length).foldl (fun u i =>
      let v := u.clWr x.e (tH x.cmd 3) (64 * (tO x.cmd 3 + i * cf x.cmd 8 17 0)) (packCodes (tF x.cmd 3) (s.matCodes x sa sb recs i))
      if cb x.cmd 0 18 then
        v.clWr x.e (tH x.cmd 11) (64 * tO x.cmd 11 + 4 * i) (wordBytes (rowAbsMax (tF x.cmd 3) (s.matCodes x sa sb recs i)))
      else v) (s.upQs x.e x.q fun k => { k with hold := {} })) := by
  unfold State.matOut
  dsimp only
  rw [if_neg hraw, if_pos hC]
  rfl

/-- A plain MATMUL: its sums, rounded once, row by row. -/
theorem matBody_plain (hA : fmtScaled (tF x.cmd 1) = false) (hs : cb x.cmd 5 27 = false) (hseed : cb x.cmd 0 19 = false)
    (hch : cf x.cmd 0 21 20 = 0) (hB : tF x.cmd 2 ≠ 3) (hraw : tF x.cmd 3 ≠ 15) (hC : cf x.cmd 14 1 0 = 0)
    (hmax : (s.plainSums x).any (fun l => l.any fun r => decide (maxTerms < r.terms)) = false)
    (hres : (List.range (s.plainSums x).length).filter (fun i => x.env.residue.contains i) = []) :
    matBody x s = .ok ((List.range (s.plainSums x).length).foldl (fun u i =>
      let v := u.clWr x.e (tH x.cmd 3) (64 * (tO x.cmd 3 + i * cf x.cmd 8 17 0)) (packCodes (tF x.cmd 3) (s.matCodes x [] [] (s.plainSums x) i))
      if cb x.cmd 0 18 then
        v.clWr x.e (tH x.cmd 11) (64 * tO x.cmd 11 + 4 * i) (wordBytes (rowAbsMax (tF x.cmd 3) (s.matCodes x [] [] (s.plainSums x) i)))
      else v) (s.upQs x.e x.q fun k => { k with hold := {} })) := by
  rw [matBody_unscaled hA hs, matSums_plain hB hseed hch, matFinish_out hch hmax hres, matOut_codes hraw hC]

/-! ### CONV, ATTENTION, KV_APPEND and VECTOR (R85 to R87) -/

/-- CONV stops on a bad scale, else goes by its kind. -/
theorem convBody_eq : convBody x s =
    if (s.convIn x).badRows ≠ [] then .fault s fltOperand (keepConv x.cmd (s.convIn x).badRows)
    else if 2 ≤ (s.convIn x).g.kind then s.convPool x (s.convIn x)
    else if takesFreq x.cmd = true then s.convFreq x (s.convIn x)
    else if cb x.cmd 9 9 = true then match s.spuPair x (cf x.cmd 9 8 6) (s.convIn x).g.co (tF x.cmd 2) with
      | .error r => r
      | .ok (p, u) => u.convDirect x (s.convIn x) p.scales p.sides
    else s.convDirect x (s.convIn x) [] [] :=
  if_congr (by simp) rfl rfl

/-- ATTENTION of a job in no running step is stale. -/
theorem attnBody_stale (h : s.stepOf x.job = none) : attnBody x s = .stale s := by
  unfold attnBody
  rw [h]

/-- No entry of a step is in a bucket: the numbers of those that are. -/
theorem bucket_empty {es : List StepEntry} {b : Nat} (h : (es.any fun n => n.bucket == b) = false) :
    ((List.range es.length).filter fun i => (es.getD i {}).bucket == b) = [] := by
  rw [List.filter_eq_nil_iff]
  intro i hi hb
  rw [List.mem_range] at hi
  rw [List.getD_eq_getElem _ _ hi] at hb
  exact Bool.eq_false_iff.1 h (List.any_eq_true.2 ⟨_, List.getElem_mem hi, hb⟩)

/-- ATTENTION of a bucket without entries reads and writes nothing. -/
theorem attnBody_noEntry {st : Step} (h : s.stepOf x.job = some st)
    (hb : (st.entries.any fun n => n.bucket == cf x.cmd 5 26 24) = false) : attnBody x s = .ok s := by
  unfold attnBody
  rw [h]
  dsimp only
  rw [bucket_empty hb]
  rfl

/-- KV_APPEND with COPY appends its rows now. -/
theorem kvBody_copy (h : cb x.cmd 0 16 = true) : kvBody x s =
    s.append x x.cmd { layer := cf x.cmd 3 7 0, which := cf x.cmd 0 19 18, mode := 0 } (s.copyValues x) := if_pos h

/-- Without it, it arms its queue in a running step. -/
theorem kvBody_arm (h : cb x.cmd 0 16 = false) : kvBody x s =
    if s.stepOf x.job = none then .stale s
    else .ok (s.upQs x.e x.q fun k => { k with armed := some x.cmd, servedK := false, servedV := false }) :=
  (if_neg (by simp [h])).trans (if_congr Option.isNone_iff_eq_none rfl rfl)

/-! ### TRANSFORM and CHISEL (R88, R89) -/

/-- TRANSFORM of another kind than 2 transforms a batch. -/
theorem xfBody_batch (h : cf x.cmd 0 17 16 ≠ 2) : xfBody x s =
    .ok ((List.range (cf x.cmd 5 15 0)).foldl (fun u i =>
      u.clWr x.e (tH x.cmd 3) (64 * (tO x.cmd 3 + i * cf x.cmd 7 17 0))
        (slice (bytesOf (fft2 (cf x.cmd 0 17 16 == 1) (cf x.cmd 4 12 0) (cf x.cmd 4 28 16) (s.xfAt x 1 (cf x.cmd 6 17 0) i))) 0
          (8 * cf x.cmd 4 12 0 * cf x.cmd 4 28 16))) s) := if_neg h

/-- An element of a sum of complex products over `n` channels: `xs` and `fs` hold their spectra. -/
def channelSum (n : Nat) (xs fs : List (List Word)) (i : Nat) : Word × Word :=
  (List.range n).foldl (fun y ci =>
    let z := cMul (cAt (xs.getD ci []) i) (cAt (fs.getD ci []) i)
    (fAdd 0 y.1 z.1, fAdd 0 y.2 z.2)) (0, 0)

/-- Kind 2 sums products over channels. -/
theorem xfBody_sum (h : cf x.cmd 0 17 16 = 2) : xfBody x s =
    .ok ((List.range (cf x.cmd 5 31 16)).foldl (fun u co =>
      u.clWr x.e (tH x.cmd 3) (64 * (tO x.cmd 3 + co * cf x.cmd 7 17 0))
        (bytesOf ((List.range (cf x.cmd 4 12 0 * cf x.cmd 4 28 16)).flatMap fun i =>
          let v := channelSum (cf x.cmd 5 15 0) ((List.range (cf x.cmd 5 15 0)).map (s.xfAt x 1 (cf x.cmd 6 17 0)))
            ((List.range (cf x.cmd 5 15 0)).map (s.xfFilter x co)) i
          [v.1, v.2]))) s) := if_pos h

/-- CHISEL of kind 0 writes the boxes it decodes. -/
theorem chiselBody_boxes (h : cf x.cmd 0 17 16 = 0) : chiselBody x s =
    .ok (s.clWr x.e (tH x.cmd 4) (64 * tO x.cmd 4) (bytesOf ((List.zipWith
      (decodeBox (cb x.cmd 0 19) (cf x.cmd 9 14 0) (cf x.cmd 9 30 16))
      (chunks 4 (cf x.cmd 5 19 0) (s.wordsAt x 2 (4 * cf x.cmd 5 19 0)))
      (chunks 4 (cf x.cmd 5 19 0) (s.wordsAt x 3 (4 * cf x.cmd 5 19 0)))).flatMap fun b => [b.1, b.2.1, b.2.2.1, b.2.2.2]))) := by
  unfold chiselBody
  simp only [h, if_true, if_neg Nat.zero_ne_one]

end

/-- Settles O45: each command by what its body comes to. -/
theorem tensorCommandsCompute : Obligations.TensorCommandsCompute := by
  unfold Obligations.TensorCommandsCompute
  intro s t e q i env x settled c m n k scales badScales acts terms sums bias codes img rows kind nx ny chans boxes
  refine ⟨fun h hA hs hseed hch hB hraw hC hmax hres => runCommand_ok h (matBody_plain hA hs hseed hch hB hraw hC hmax hres),
    fun h hA hbad => runCommand_comes h (congrArg _ (matBody_badScale hA hbad)),
    fun h => runCommand_comes h (congrArg _ convBody_eq), fun h hst => runCommand_comes h (congrArg _ (attnBody_stale hst)),
    fun st h hst hb => runCommand_ok h (attnBody_noEntry hst hb), fun h => runCommand_runs h,
    fun h hcopy => runCommand_comes h (congrArg _ (kvBody_copy hcopy)), fun h hcopy => runCommand_comes h ?_,
    fun h => runCommand_comes h ?_, fun h hk => runCommand_ok h (xfBody_batch hk), fun h hk => runCommand_ok h (xfBody_sum hk),
    fun h hk => runCommand_ok h (chiselBody_boxes hk), fun h => runCommand_runs h⟩
  · -- KV_APPEND without COPY
    rw [kvBody_arm hcopy, settle_ite]
    rfl
  · -- VECTOR by its function
    unfold vecBody
    simp only [settle_ite]
    rfl

end Sys2Proof.Machine
end

section
/-! PROOFS. Jobs and fences: the four packets. -/

set_option Elab.async false

namespace Sys2Proof.Machine

/-! ### JOB_SUBMIT (R73, R97, R98): what the packet asks for -/

section
variable (p : Packet) (s : State)

/-- The armature of the packet: none in basic form. -/
def submitArmature : Except Refuse (List (List Word)) :=
  if p.hdr.expert then s.armature p.hdr.ctx ((p.w 8).toNat + 2 ^ 32 * p.f 9 15 0) else .ok []

/-- The list of the packet, where its pages are mapped. -/
def submitList : Option (List (List Word)) := s.readList p.hdr.ctx ((p.w 4).toNat + 2 ^ 32 * p.f 5 15 0) (p.f 6 19 0)

/-- What the list is checked against, the armature's entries included. -/
def submitFor (es : List (List Word)) : ListFor :=
  { ctx := p.hdr.ctx, allRoutes := !p.hdr.expert, routes := armRoutes (s.ctx p.hdr.ctx).routes es
    scales := armScales (s.ctx p.hdr.ctx).scales es }

/-- The answer to a list that the check lets pass, for engine `e`. -/
def submitChecked (es cmds : List (List Word)) (e : Nat) : Ans :=
  let routes := armRoutes (s.ctx p.hdr.ctx).routes es
  let scales := armScales (s.ctx p.hdr.ctx).scales es
  match s.maskedFence p.hdr.ctx (listFences cmds) with
  | some st => .refuse stState (wd st)
  | none => refuseIf (decide (32 ≤ (s.jobsOf p.hdr.ctx e).length)) stNospace 0 <|
    .pend p.hdr.no 0 0 fun s =>
      (s.upCtx p.hdr.ctx fun x => { x with routes := routes, scales := scales }).queueJob p e cmds

/-- The answer of JOB_SUBMIT in a context that is open for jobs. -/
def submitAnswer : Ans :=
  match submitArmature p s with
  | .error r => .ofRefuse r
  | .ok es => match submitList p s with
    | none => .refuse stRange (det 4 0)
    | some cmds => match s.checkList (submitFor p s es) cmds with
      | .error r => .ofRefuse r
      | .ok e => submitChecked p s es cmds e

/-- JOB_SUBMIT waits, or gives that answer where its context's state allows it. -/
theorem jobSubmit_eq : jobSubmit p s =
    if s.waitsFor p p.hdr.ctx then .hold else ownThenState (s.ctxCode p.hdr.ctx) [0x20, 0x21, 0x22] (submitAnswer p s) := rfl

/-- What the armature, or else the check of the list, refuses the packet with. -/
def submitObjection : Option Refuse :=
  match submitArmature p s with
  | .error r => some r
  | .ok es => match submitList p s with
    | none => none
    | some cmds => match s.checkList (submitFor p s es) cmds with
      | .error r => some r
      | .ok _ => none

end

section
variable {p : Packet} {s : State} {es cmds : List (List Word)} {r : Refuse} {e : Nat}

/-- A list that the check lets pass is not refused with ST_AUTH. -/
theorem submitChecked_notAuth (st : Nat) (d0 d1 : Word) (h : submitChecked p s es cmds e = .refuse st d0 d1) : st ≠ stAuth := by
  unfold submitChecked refuseIf at h
  split at h
  · cases h
    decide
  · split at h
    · cases h
      decide
    · cases h

/-- Against a refusal of the context's state the answer keeps a refusal with ST_AUTH, of its armature or its list, alone. -/
theorem submitAnswer_over : (submitAnswer p s).over r = match submitObjection p s with
    | some u => if u.1 = stAuth then .ofRefuse u else .ofRefuse r
    | none => .ofRefuse r := by
  unfold submitAnswer submitObjection
  cases submitArmature p s with
  | error u => rfl
  | ok es => cases submitList p s with
    | none => rfl
    | some cmds =>
      dsimp only
      cases s.checkList (submitFor p s es) cmds with
      | error u => rfl
      | ok e => exact over_other submitChecked_notAuth

/-- An armature that is refused. -/
theorem submitAnswer_armature (h : submitArmature p s = .error r) : submitAnswer p s = .ofRefuse r := by
  unfold submitAnswer
  rw [h]

/-- A list of which a page is not mapped. -/
theorem submitAnswer_unmapped (h : submitArmature p s = .ok es) (hl : submitList p s = none) :
    submitAnswer p s = .refuse stRange (det 4 0) := by
  unfold submitAnswer
  rw [h]
  dsimp only
  rw [hl]

/-- A list that the check refuses. -/
theorem submitAnswer_refused (h : submitArmature p s = .ok es) (hl : submitList p s = some cmds)
    (hr : s.checkList (submitFor p s es) cmds = .error r) : submitAnswer p s = .ofRefuse r := by
  unfold submitAnswer
  rw [h]
  dsimp only
  rw [hl]
  dsimp only
  rw [hr]

/-- A list that it lets pass. -/
theorem submitAnswer_checked (h : submitArmature p s = .ok es) (hl : submitList p s = some cmds)
    (he : s.checkList (submitFor p s es) cmds = .ok e) : submitAnswer p s = submitChecked p s es cmds e := by
  unfold submitAnswer
  rw [h]
  dsimp only
  rw [hl]
  dsimp only
  rw [he]

end

section
variable {k : Nat} {p : Packet} {s : State} {r : Refuse} {a : Ans}

/-- JOB_SUBMIT that need not wait, in a context that takes no jobs. -/
theorem jobSubmit_closed (hw : (s.without k).waitsFor p p.hdr.ctx = false) (hc : [0x20, 0x21, 0x22].contains (s.ctxCode p.hdr.ctx) = false) :
    s.after k p (jobSubmit p (s.without k)) = match submitObjection p (s.without k) with
      | some r => if r.1 = stAuth then s.refusal k p r.1 r.2.1 r.2.2 else s.refusal k p stState (wd (s.ctxCode p.hdr.ctx)) 0
      | none => s.refusal k p stState (wd (s.ctxCode p.hdr.ctx)) 0 := by
  rw [jobSubmit_eq, hw, if_neg Bool.false_ne_true, after_own]
  refine (if_pos hc).trans ?_
  rw [submitAnswer_over]
  cases submitObjection p (s.without k) with
  | none => rfl
  | some r => exact after_ite ..

/-- In one that does. -/
theorem jobSubmit_open (hw : (s.without k).waitsFor p p.hdr.ctx = false) (hc : [0x20, 0x21, 0x22].contains (s.ctxCode p.hdr.ctx) = true)
    (ha : submitAnswer p (s.without k) = a) : s.after k p (jobSubmit p (s.without k)) = s.after k p a := by
  rw [jobSubmit_eq, hw, if_neg Bool.false_ne_true, after_own, ha]
  exact if_neg fun h => Bool.false_ne_true (h.symm.trans hc)

/-- A checked list is refused for a masked fence or a full queue (R69, R312); else its job joins the queue. -/
theorem submitChecked_after {es cmds : List (List Word)} {e : Nat} : s.after k p (submitChecked p (s.without k) es cmds e) =
    match s.maskedFence p.hdr.ctx (listFences cmds) with
    | some st => s.refusal k p stState (wd st) 0
    | none =>
      if 32 ≤ (s.jobsOf p.hdr.ctx e).length then s.refusal k p stNospace 0 0
      else ((s.accepted k p p.hdr.no 0 0).upCtx p.hdr.ctx fun x =>
        { x with routes := armRoutes (s.ctx p.hdr.ctx).routes es, scales := armScales (s.ctx p.hdr.ctx).scales es }).queueJob p e cmds := by
  change s.after k p (match s.maskedFence p.hdr.ctx (listFences cmds) with
    | some st => .refuse stState (wd st)
    | none => refuseIf _ stNospace 0 (.pend p.hdr.no 0 0 _)) = _
  cases s.maskedFence p.hdr.ctx (listFences cmds) with
  | some st => rfl
  | none => exact (after_refuseIf ..).trans (if_congr decide_eq_true_iff rfl rfl)

/-- JOB_CANCEL marks the oldest unfinished job with the tag, in every context that is not being scrubbed. -/
theorem jobCancel_after : s.after k p (jobCancel p (s.without k)) =
    if [0x20, 0x21, 0x22, 0x23].contains (s.ctxCode p.hdr.ctx) = false then s.refusal k p stState (wd (s.ctxCode p.hdr.ctx)) 0
    else match s.taggedJob p.hdr.ctx (p.w 4) with
      | none => s.refusal k p stRange (det 4 0) 0
      | some (e, j) => (((((s.without k).setJobs p.hdr.ctx e ((s.jobsOf p.hdr.ctx e).map fun i =>
          if i.hdr.no = j.hdr.no ∧ i.listNo = j.listNo then { i with cancel := true } else i)).sweep p.hdr.ctx e).afterJobs p.hdr.ctx e).final
            p.hdr stOk {}) := by
  unfold jobCancel
  rw [after_needNot]
  refine if_congr Iff.rfl rfl ?_
  change s.after k p (match s.taggedJob p.hdr.ctx (p.w 4) with
    | none => _
    | some (e, j) => _) = _
  cases s.taggedJob p.hdr.ctx (p.w 4) <;> rfl

/-! ### Fence packets (R91, R97, R312) -/

/-- A fence packet is refused where its context is being scrubbed or an active plan owns the fence. -/
theorem fence_after (f : Nat) (a : Ans) :
    s.after k p (needState (s.ctxCode p.hdr.ctx) [0x20, 0x21, 0x22, 0x23] (match s.maskedFence p.hdr.ctx [f] with
      | some st => .refuse stState (wd st)
      | none => a)) =
    if [0x20, 0x21, 0x22, 0x23].contains (s.ctxCode p.hdr.ctx) = false then s.refusal k p stState (wd (s.ctxCode p.hdr.ctx)) 0
    else match s.maskedFence p.hdr.ctx [f] with
      | some st => s.refusal k p stState (wd st) 0
      | none => s.after k p a := by
  rw [after_needNot]
  cases s.maskedFence p.hdr.ctx [f] <;> rfl

end

/-- Settles O40: JOB_SUBMIT waits, is refused for its context, its armature or its list, or is taken; JOB_CANCEL by
`jobCancel_after`. -/
theorem jobsAreSubmittedAndCancelled : Obligations.JobsAreSubmittedAndCancelled := by
  unfold Obligations.JobsAreSubmittedAndCancelled
  intro k p s u c routes scales armature list env a first isOpen
  exact ⟨fun h hw => runPacket_hold h (if_pos hw), fun h hw hc => runPacket_comes h (jobSubmit_closed hw hc),
    fun r h hw hc ha => runPacket_comes h (jobSubmit_open hw hc (submitAnswer_armature ha)),
    fun es h hw hc ha => ⟨fun hl => runPacket_comes h (jobSubmit_open hw hc (submitAnswer_unmapped ha hl)),
      fun cmds r hl hr => runPacket_comes h (jobSubmit_open hw hc (submitAnswer_refused ha hl hr)),
      fun cmds e hl he => runPacket_comes h ((jobSubmit_open hw hc (submitAnswer_checked ha hl he)).trans submitChecked_after)⟩,
    fun h => runPacket_comes h jobCancel_after⟩

/-- Settles O41: both packets by `fence_after`. -/
theorem fencesAreSignalledAndAwaited : Obligations.FencesAreSignalledAndAwaited := by
  unfold Obligations.FencesAreSignalledAndAwaited
  intro k p s u c f closed
  exact ⟨fun h => runPacket_comes h (fence_after f _), fun h => runPacket_comes h (fence_after f _)⟩

end Sys2Proof.Machine
end

section
/-! PROOFS. Launch points of sail plans: the rows by kind, the monitors and their mailboxes. -/

set_option Elab.async false

namespace Sys2Proof.Machine

section
variable {s : State} {slot i : Nat} {pt : List Word}

/-! ### A point that launches (R311) -/

/-- Point `i` of a plan is due: it is of the kind, in its period, in its turn and not yet launched, while launches are made. -/
def State.pointDue (s : State) (slot i kind : Nat) (pt : List Word) : Prop :=
  s.launches = true ∧ ((s.plan slot).state = 0x53 ∨ (s.plan slot).state = 0x54) ∧ ptKind pt = kind ∧
    ptIn pt (s.plan slot).count = true ∧ (s.plan slot).inOrder i = true ∧
    ¬ (s.plan slot).launched.contains (i, (s.plan slot).count) = true

/-- A row makes the effect of a point that is due, and changes nothing for any other, where it does so by what `launchPt`
finds. -/
theorem pointRow {kind : Nat} {c : Instr} {u r : State} (hc : exec c s = .next u)
    (hidle : s.launchPt slot i kind = none → u = s) (hlaunch : s.launchPt slot i kind = some pt → u = r) :
    ((s.plan slot).points[i]? = some pt → s.pointDue slot i kind pt → exec c s = .next r) ∧
      ((∀ x, (s.plan slot).points[i]? = some x → ¬ s.pointDue slot i kind x) → exec c s = .next s) :=
  ⟨fun hpt hdue => hc.trans (congrArg _ (hlaunch (launchPt_some hpt hdue))),
    fun hno => hc.trans (congrArg _ (hidle (launchPt_none hno)))⟩

/-- Where no point launches, the row of each kind changes nothing. -/
theorem launch_idle :
    (s.launchPt slot i 1 = none → s.launchList slot i = s) ∧ (s.launchPt slot i 2 = none → s.launchMover slot i = s) ∧
    (s.launchPt slot i 3 = none → s.launchSample slot i = s) ∧ (s.launchPt slot i 4 = none → s.launchTelltale slot i = s) ∧
    (s.launchPt slot i 5 = none → s.launchSelftest slot i = s) ∧ (s.launchPt slot i 6 = none → s.launchMonitor slot i = s) := by
  unfold State.launchList State.launchMover State.launchSample State.launchTelltale State.launchSelftest State.launchMonitor
  exact ⟨fun h => by rw [h], fun h => by rw [h], fun h => by rw [h], fun h => by rw [h], fun h => by rw [h], fun h => by rw [h]⟩

/-! ### What the launch of a point does -/

/-- LAUNCH_SAMPLE opens a set at the point's instant, where its stream takes samples and no set is near. -/
def State.sampleSet (t : State) (f at' : Nat) : State :=
  if (t.stream f).state ≠ 0x42 ∧ (t.stream f).state ≠ 0x43 then t
  else match setNear (t.setsOf (t.btOf f)) (t.stream f).cfg.tol (at' * 65536) with
    | some _ => t
    | none => t.putSets (t.btOf f) (insSet { t := at' * 65536, got := [] } (t.setsOf (t.btOf f)))

/-- The same, by whether a set is near. -/
theorem sampleSet_eq (t : State) (f at' : Nat) : t.sampleSet f at' =
    if (t.stream f).state ≠ 0x42 ∧ (t.stream f).state ≠ 0x43 then t
    else if (setNear (t.setsOf (t.btOf f)) (t.stream f).cfg.tol (at' * 65536)).isSome then t
    else t.putSets (t.btOf f) (insSet { t := at' * 65536, got := [] } (t.setsOf (t.btOf f))) := by
  unfold State.sampleSet
  refine if_congr Iff.rfl rfl ?_
  cases setNear (t.setsOf (t.btOf f)) (t.stream f).cfg.tol (at' * 65536) <;> rfl

/-- LAUNCH_TELLTALE holds the stages of its stream and passes the golden input through them, where it can be read. -/
def State.tellGolden (t : State) (slot i count at' c : Nat) (pt : List Word) : State :=
  let f := fld (wat pt 2) 4 0
  if (t.stream f).state = 0x40 then t
  else
    let held := t.upStream f fun y => { y with tele := some (slot, i, at' + (wat pt 3).toNat) }
    match held.vrd (some mFe) c (ptVa pt 4) (held.goldenLen f c (ptVa pt 4)) with
    | .ok g => held.golden f count (at' * 65536) g
    | .error (.denied a) => held.violation mFe 0 a false
    | .error _ => held

variable {t : State} {count at' c : Nat}

/-- A stream that is CLOSED holds nothing. -/
theorem tellGolden_closed (h : (t.stream (fld (wat pt 2) 4 0)).state = 0x40) : t.tellGolden slot i count at' c pt = t := if_pos h

/-- A golden input that can be read passes the stages. -/
theorem tellGolden_reads {bs : List Byte} (h : (t.stream (fld (wat pt 2) 4 0)).state ≠ 0x40) :
    let held := t.upStream (fld (wat pt 2) 4 0) fun y => { y with tele := some (slot, i, at' + (wat pt 3).toNat) }
    held.vrd (some mFe) c (ptVa pt 4) (held.goldenLen (fld (wat pt 2) 4 0) c (ptVa pt 4)) = .ok bs →
      t.tellGolden slot i count at' c pt = held.golden (fld (wat pt 2) 4 0) count (at' * 65536) bs := by
  intro held hbs
  refine (if_neg h).trans ?_
  change (match held.vrd (some mFe) c (ptVa pt 4) (held.goldenLen (fld (wat pt 2) 4 0) c (ptVa pt 4)) with
    | .ok g => _
    | .error (.denied a) => _
    | .error _ => _) = _
  rw [hbs]

/-- LAUNCH_TELLTALE by that operation. -/
theorem launchTelltale_eq (h : s.launchPt slot i 4 = some pt) : s.launchTelltale slot i =
    (s.launch slot i pt).tellGolden slot i (s.plan slot).count ((s.plan slot).periodNs + ptOfs pt) (s.plan slot).ctx pt := by
  unfold State.launchTelltale
  rw [h]
  rfl

end

/-! ### Events of a plan without a launch (R71, R317, R320) -/

section
variable {s : State}

/-- A TQ that has a list at its head begins it, unless it has begun. -/
theorem exec_tqPendingStart {e : Fin 8} {j : Job} {l : List Job} (h : (s.engine e).tq = j :: l) : exec (.tqPendingStart e) s =
    .next (if j.begun = true then s else s.upEngine e fun y => { y with tq := { j with begun := true } :: l }) := by
  change Host.Outcome.next (match (s.engine e).tq with
    | j :: l => _
    | [] => s) = _
  rw [h]

/-- A MOVER that waits on its list is tried. -/
theorem exec_moverDepStart (slot : Fin 8) (i : Nat) (s : State) : exec (.moverDepStart slot i) s =
    .next (match (s.plan slot).movers.find? fun w => w.point == i with
      | some w => s.moverTry slot i w.count ((s.plan slot).points.getD i [])
      | none => s) := rfl

/-- The end of a telltale's window, by the stream it holds. -/
theorem exec_telltaleWindowEnd (slot : Fin 8) (i : Nat) (s : State) : exec (.telltaleWindowEnd slot i) s =
    .next (match s.toldBy slot i with
      | none => s
      | some (n, w) => ((s.passTo w).upStream n fun y => { y with tele := none }).passSets 64 (s.btOf n)) := rfl

end

/-! ### Monitors and their mailboxes (R318, R319) -/

section
variable {s : State} {data : List Byte}

/-- A mailbox message whose first four words are wrong: its slot field, its length or its CRC. -/
def mailBad (data : List Byte) : Prop :=
  data.length < 16 ∨ fld (wordAt data 0) 31 3 ≠ 0 ∨ (wordAt data 8).toNat ≠ data.length ∨ wordAt data 12 ≠ crc32c (data.drop 16)

/-- It is dropped with FLT_MAILBOX. -/
theorem mailboxWrite_bad (h : mailBad data) : s.mailboxWrite data true = s.mailDrop.plnFault fltMailbox 0 0 := if_pos h

/-- The message of an armed monitor `a`: it is satisfied, and the action monitor's payload awaits its decision. -/
def State.mailFor (s : State) (data : List Byte) (a : Nat) : State :=
  let slot := fld (wordAt data 0) 2 0
  let count := (wordAt data 4).toNat
  let v := s.upMonitor a fun y => { y with satisfied := true, armed := false }
  if a ≠ v.actionMon then v.mailDrop
  else match v.trim.active with
    | none => v.newInstance slot count false none
    | some im => match payloadEls im (wordsOf (data.drop 16)) with
      | some els => v.newInstance slot count false (some els)
      | none => (v.upTrim fun y => { y with cntBadAct := y.cntBadAct + 1 }).newInstance slot count false none

/-- A good message goes to the armed monitor of its slot and count, or is dropped where none awaits it. -/
theorem mailboxWrite_good (h : ¬ mailBad data) : s.mailboxWrite data true =
    match s.actionFor (fld (wordAt data 0) 2 0) (wordAt data 4).toNat with
    | none => s.mailDrop
    | some a => s.mailFor data a := if_neg h

/-- TELLTALE_DIGEST, by the plan that holds a digest for the monitor. -/
theorem exec_telltaleDigest {m : Fin 64} {sl : Nat} {d : Nat × Nat × Nat × Word}
    (h : planNos.findSome? (fun j => ((s.plan j).digests.find? fun w => w.1 == m.val).map fun w => (j, w)) = some (sl, d)) :
    exec (.telltaleDigest m) s = .next (
      let digs := s.upPlan sl fun y => { y with digests := y.digests.erase d }
      let x := digs.monitor m
      if x.armed ∧ x.watch = 2 ∧ x.slot = sl ∧ x.count = d.2.1 ∧ x.wpoint = d.2.2.1 ∧ digs.pnow < x.expiry then
        let told := digs.setMonitor m { x with armed := false, satisfied := true }
        if d.2.2.2 = x.expect then told
        else (((told.plnFault fltTelltale 2 m).upPlan sl fun y => { y with cntTelltale := y.cntTelltale + 1 }).event (48 + sl)).periodMissed sl x.count
      else digs) := by
  change Host.Outcome.next (s.telltaleDigest m) = _
  unfold State.telltaleDigest
  rw [h]

end

/-- Settles O53: the rows of points by `pointRow` and what a launch does, the other events by their own branches. -/
theorem launchPointsLaunchInTheirPeriods : Obligations.LaunchPointsLaunchInTheirPeriods := by
  unfold Obligations.LaunchPointsLaunchInTheirPeriods
  intro s slot i pt e m data d sl p c acts due row at' t g n job put old skipped f b held watched every guarded sm guard x gone mw bad
    sat inst digs told
  obtain ⟨hlist, hmover, hsample, htell, htest, hmon⟩ := launch_idle (s := s) (slot := slot) (i := i)
  refine ⟨rfl, pointRow rfl hlist fun h => ?_, fun j l h => exec_tqPendingStart h, pointRow rfl hmover fun h => ?_,
    fun w hw => ?_, fun hw => ?_, pointRow rfl hsample fun h => ?_,
    fun hclosed => pointRow rfl htell fun h => (launchTelltale_eq h).trans (tellGolden_closed hclosed),
    fun bs hopen hbs => pointRow rfl htell fun h => (launchTelltale_eq h).trans (tellGolden_reads hopen hbs), fun h => ?_,
    fun n w h => ?_, pointRow rfl htest fun h => ?_, pointRow rfl hmon fun h => ?_, rfl, rfl,
    fun h => congrArg _ (mailboxWrite_bad h), fun h hno => ?_, fun a h ha => ?_, fun h => exec_telltaleDigest h⟩
  · -- LIST
    unfold State.launchList
    rw [h]
    rfl
  · -- MOVER
    unfold State.launchMover
    rw [h]
    rfl
  · rw [exec_moverDepStart, hw]
  · rw [exec_moverDepStart, hw]
  · -- SAMPLE
    unfold State.launchSample
    rw [h]
    exact sampleSet_eq t f at'
  · rw [exec_telltaleWindowEnd, h]
  · rw [exec_telltaleWindowEnd, h]
  · -- SELFTEST
    unfold State.launchSelftest
    rw [h]
    rfl
  · -- MONITOR
    unfold State.launchMonitor
    rw [h]
    rfl
  · refine congrArg _ ((mailboxWrite_good h).trans ?_)
    rw [hno]
  · refine congrArg _ ((mailboxWrite_good h).trans ?_)
    rw [ha]
    rfl

end Sys2Proof.Machine
end

section
/-! PROOFS. The debug master's accesses. -/

namespace Sys2Proof.Machine

section
variable {a : Nat} {data : Option Word} {w : Word} {s : State}

/-- An address at which the debug master finds no word, or an uncorrectable one. -/
def State.dbgBad (s : State) (a : Nat) : Prop :=
  s.devWord a = false ∨ s.psmc.uncorr.contains (burstOf a) = true ∨ s.psmc.spmUncorr.contains (burstOf a) = true

/-- The effect of an access that nothing stops: a word is put in place, or read. -/
def State.dbgEffect (s : State) (a : Nat) : Option Word → State
  | some w => (s.put a (wordBytes w)).busAns 0 []
  | none => s.busWord (s.rdW a)

/-- The access table lets the debug master do no more than the life-cycle state opens (R424, R426). -/
theorem dbgOpen_of_allowed {space addr len : Nat} {write : Bool} (h : s.allowed 47 space addr len write = true) :
    s.dbgOpen write = true := by
  simp only [State.allowed, Bool.or_eq_true, Bool.and_eq_true] at h
  obtain ⟨hboot, -⟩ | ⟨hopen, -⟩ := h
  · exact absurd hboot (by decide)
  · simpa using hopen

/-- One that is not both open and allowed is not allowed. -/
theorem not_allowed_of_shut {write : Bool} (h : ¬ (s.dbgOpen write = true ∧ s.allowed 47 0 a 4 write = true)) :
    s.allowed 47 0 a 4 write ≠ true :=
  fun ha => h ⟨dbgOpen_of_allowed ha, ha⟩

/-- The place of an access, as `dbgAccess` asks for it. -/
theorem dbgBad_iff : (¬ s.devWord a = true ∨ s.psmc.uncorr.contains (burstOf a) = true ∨
    s.psmc.spmUncorr.contains (burstOf a) = true) ↔ s.dbgBad a := by
  rw [Bool.not_eq_true]
  rfl

/-- What an access of the debug master comes to, check by check. -/
theorem exec_debugMasterAccess : exec (.debugMasterAccess a data) s = .next (
    if ¬ s.allowed 47 0 a 4 data.isSome = true then s.refusedAccess 47 0 a data.isSome
    else if ¬ s.devWord a = true ∨ s.psmc.uncorr.contains (burstOf a) = true ∨ s.psmc.spmUncorr.contains (burstOf a) = true then
      s.busAns 2 []
    else if s.inScrub a = true then s.refusedAccess 47 0 a data.isSome
    else s.dbgEffect a data) := by
  cases data <;> rfl

/-- An access that is not open, or of a region in SCRUB that no session holds, is refused. -/
theorem exec_debugMasterAccess_refused
    (h : ¬ (s.dbgOpen data.isSome = true ∧ s.allowed 47 0 a 4 data.isSome = true) ∨ (¬ s.dbgBad a ∧ s.inScrub a = true)) :
    exec (.debugMasterAccess a data) s = .next (s.refusedAccess 47 0 a data.isSome) := by
  rw [exec_debugMasterAccess]
  obtain hshut | ⟨hgood, hscrub⟩ := h
  · rw [if_pos (not_allowed_of_shut hshut)]
  · rw [if_neg (mt dbgBad_iff.mp hgood), if_pos hscrub, ite_self]

/-- One of a place that holds no word, or of uncorrectable data, completes with an error. -/
theorem exec_debugMasterAccess_bad (ha : s.allowed 47 0 a 4 data.isSome = true) (hbad : s.dbgBad a) :
    exec (.debugMasterAccess a data) s = .next (s.busAns 2 []) := by
  rw [exec_debugMasterAccess, if_neg (not_not_intro ha), if_pos (dbgBad_iff.mpr hbad)]

/-- Any other has its effect. -/
theorem exec_debugMasterAccess_good (ha : s.allowed 47 0 a 4 data.isSome = true) (hgood : ¬ s.dbgBad a)
    (hscrub : s.inScrub a = false) :
    exec (.debugMasterAccess a data) s = .next (s.dbgEffect a data) := by
  rw [exec_debugMasterAccess, if_neg (not_not_intro ha), if_neg (mt dbgBad_iff.mp hgood), if_neg (by simp [hscrub])]

end

/-- Settles O20: an access is refused, fails or has its effect, each of a read and of a write. -/
theorem debugMasterReadsAndWrites : Obligations.DebugMasterReadsAndWrites := by
  unfold Obligations.DebugMasterReadsAndWrites
  intro a w s bad may
  exact ⟨exec_debugMasterAccess_refused (data := none), exec_debugMasterAccess_refused (data := some w),
    fun h => exec_debugMasterAccess_bad (data := none) h.2, fun h => exec_debugMasterAccess_bad (data := some w) h.2,
    fun h => exec_debugMasterAccess_good (data := none) h.2, fun h => exec_debugMasterAccess_good (data := some w) h.2⟩

end Sys2Proof.Machine
end

section
/-! PROOFS. Cleats: their allocation, their release, their scrub and the end of a residue hold. -/

namespace Sys2Proof.Machine

section
variable {k i e c size : Nat} {p q : Packet} {s : State}

/-! ### A packet that has left the taken list sees the engines, contexts, partitions and plans as they were -/

@[simp] theorem without_engine : (s.without k).engine e = s.engine e := rfl
@[simp] theorem without_ctxCode : (s.without k).ctxCode c = s.ctxCode c := rfl
@[simp] theorem without_part : (s.without k).part i = s.part i := rfl
@[simp] theorem without_lastEngine : (s.without k).lastEngine c = s.lastEngine c := rfl
@[simp] theorem without_firstPlace : (s.without k).firstPlace c = s.firstPlace c := rfl
@[simp] theorem without_planNamesCleat {h : Nat} : (s.without k).planNamesCleat c e h = s.planNamesCleat c e h := rfl

/-! ### Allocation (R153 to R155, R376) -/

/-- A basic CLEAT_ALLOC that finds no region or no entry on an engine waits where the scrubs under way will make room (R154). -/
def State.noRoom (s : State) (k : Nat) (p : Packet) (e size : Nat) : State :=
  if (fitRegion ((s.engine e).occupied true) size).isSome = true ∧ ((s.engine e).freeEntry true).isSome = true ∧
      (s.engine e).scrubs.isEmpty = false then
    { s with taken := s.taken.set k { p with waiting := true, eng := e, scrubs := (s.engine e).scrubs } }
  else s.refusal k p stNospace 0 0

/-- What the basic rule answers then. -/
theorem noRoom_after : s.after k p (if (fitRegion ((s.engine e).occupied true) size).isSome ∧ ((s.engine e).freeEntry true).isSome ∧
    !(s.engine e).scrubs.isEmpty then .wait e (s.engine e).scrubs else .refuse stNospace) = s.noRoom k p e size := by
  rw [after_ite]
  exact if_congr (by rw [Bool.not_eq_true']) rfl rfl

/-- What the basic rule of R154 answers. -/
theorem basicCleat_after : s.after k p ((s.without k).basicCleat c e size) =
    match fitRegion ((s.engine e).occupied false) size, (s.engine e).freeEntry false with
    | some (b, r), some h => ((s.without k).takeCleat c e h size b r).final p.hdr stOk (cleatReply e h b r)
    | _, _ => s.noRoom k p e size := by
  unfold State.basicCleat
  dsimp only [without_engine]
  cases fitRegion ((s.engine e).occupied false) size with
  | none => exact noRoom_after
  | some x =>
    cases (s.engine e).freeEntry false with
    | none => exact noRoom_after
    | some h => rfl

/-- What an expert CLEAT_ALLOC answers in an open context (R153, R155). -/
theorem cleatAlloc_expert (h : Applies 0x210 k p s) (he : p.hdr.expert = true) :
    let eng := p.f 5 2 0
    let banks := BitVec.ofNat 16 (p.f 5 31 16)
    let n := rowsOf (p.f 4 19 0) (groupsOf banks).length
    let base := p.f 6 17 0
    exec (.cleatAlloc k) s = .next (
      if ctxOpen.contains (s.ctxCode p.hdr.ctx) = false then s.refusal k p stState (wd (s.ctxCode p.hdr.ctx)) 0
      else if (s.without k).waitsOn p eng = true then s
      else if (s.part (s.ctx p.hdr.ctx).part).mask.getLsbD eng = false then s.refusal k p stRange (det 5 0) 0
      else if spmWords < base + 256 * n then s.refusal k p stRange (det 6 0) 0
      else match (s.engine eng).freeEntry false with
        | none => s.refusal k p stNospace 0 0
        | some h =>
          if rowsFree ((s.engine eng).occupied false) banks (base / 256) n = true then
            ((s.without k).takeCleat p.hdr.ctx eng h (p.f 4 19 0) banks (base / 256)).final p.hdr stOk
              (cleatReply eng h banks (base / 256))
          else s.refusal k p stNospace 0 0) := by
  intro eng banks n base
  refine runPacket_open h rfl ?_
  rw [if_pos he]
  dsimp only
  rw [after_ite, after_refuseIf, after_refuseIf]
  refine if_congr Iff.rfl rfl (if_congr (by rw [Bool.not_eq_true']; rfl) rfl (if_congr (by rw [decide_eq_true_iff]) rfl ?_))
  rw [without_engine]
  cases (s.engine eng).freeEntry false with
  | none => rfl
  | some h => exact after_ite ..

/-- What a basic one answers in an open context: it stands on the engine of the context's latest cleat, or on the best by
affinity (R154, R376). -/
theorem cleatAlloc_basic {t : Nat → State} (h : Applies 0x210 k p s) (he : p.hdr.expert = false)
    (ht : ∀ e, s.after k p ((s.without k).basicCleat p.hdr.ctx e (p.f 4 19 0)) = t e) :
    exec (.cleatAlloc k) s = .next (
      if ctxOpen.contains (s.ctxCode p.hdr.ctx) = false then s.refusal k p stState (wd (s.ctxCode p.hdr.ctx)) 0
      else match (s.lastEngine p.hdr.ctx).orElse fun _ => s.firstPlace p.hdr.ctx with
        | none => s.refusal k p stNospace 0 0
        | some e => if (s.without k).waitsOn p e = true then s else t e) := by
  refine runPacket_open h rfl ?_
  rw [if_neg (by simp [he]), without_lastEngine, without_firstPlace]
  cases (s.lastEngine p.hdr.ctx).orElse fun _ => s.firstPlace p.hdr.ctx with
  | none => rfl
  | some e =>
    dsimp only
    rw [after_ite, after_hold, ht]

/-- No CLEAT_ALLOC of the engine waits. -/
theorem cleatRetry_none (h : s.taken.findIdx? (fun q => q.waiting && q.eng == e) = none) : s.cleatRetry e = s := by
  unfold State.cleatRetry
  rw [h]

/-- The first that waits is applied again once the scrubs it waits for have ended (R154). -/
theorem cleatRetry_some (h : s.taken.findIdx? (fun q => q.waiting && q.eng == e) = some i) (hq : s.taken[i]? = some q) :
    s.cleatRetry e =
      if q.scrubs.any (s.engine e).scrubs.contains = true then s
      else match ((s.without i).objection q).orElse fun _ => (s.without i).bar q with
        | some r => s.refusal i q r.1 r.2.1 r.2.2
        | none => match needState (s.ctxCode q.hdr.ctx) ctxOpen ((s.without i).basicCleat q.hdr.ctx e (q.f 4 19 0)) with
          | .wait _ l => { s with taken := s.taken.set i { q with scrubs := l } }
          | a => (s.without i).answer q a := by
  unfold State.cleatRetry
  rw [h]
  dsimp only
  rw [hq]
  rfl

/-! ### Release and scrub (R156 to R159) -/

/-- What CLEAT_RELEASE answers: the cleat is the context's, the context is open and no plan names the cleat, or it is
refused (R156). -/
theorem cleatRelease_after :
    let rh := p.f 4 6 0
    let re := p.f 4 10 8
    s.after k p (cleatRelease p (s.without k)) =
      if (s.without k).waitsOn p re = true then s
      else if s.owns p.hdr.ctx re rh = false then s.refusal k p stAuth 0 0
      else if ctxOpen.contains (s.ctxCode p.hdr.ctx) = false then s.refusal k p stState (wd (s.ctxCode p.hdr.ctx)) 0
      else match s.planNamesCleat p.hdr.ctx re rh with
        | some st => s.refusal k p stState (wd st) 0
        | none =>
          let a := s.accepted k p (128 * re + rh) 0 0
          (a.setCleat re rh { a.cleat re rh with released := true }).settleCleats re := by
  intro rh re
  unfold cleatRelease
  dsimp only
  rw [after_ite, after_hold, after_refuseIf, after_needNot]
  refine if_congr Iff.rfl rfl (if_congr (by rw [Bool.not_eq_true']; rfl) rfl (if_congr Iff.rfl rfl ?_))
  rw [without_planNamesCleat]
  cases s.planNamesCleat p.hdr.ctx re rh <;> rfl

/-- The scrub that ends is the first of the queue that is not held (R158, R159). -/
theorem head?_scrubs (x : Engine) : x.scrubs.head? = x.scrubQ.find? fun h => !(x.inScrub h).hold := List.head?_filter

/-- Item `h` of the scrubber's queue of engine `e` has been scrubbed: it leaves the queue, and who waits for it, and its
release is answered. -/
def State.scrubEnds (s : State) (e h : Nat) : State :=
  let z := s.scrubRegion e ((s.engine e).inScrub h)
  let z := if h < 128 then z.setCleat e h {} else z
  ((z.leaveScrub e h).event (64 + 8 * e + 5)).closeOp 0x211 (128 * e + h) stOk {}

/-- CLEAT_SCRUB_COMPLETE ends that scrub. -/
theorem scrubbed_eq : s.scrubbed e = match (s.engine e).scrubQ.find? fun h => !((s.engine e).inScrub h).hold with
    | none => s
    | some h => s.scrubEnds e h := by
  unfold State.scrubbed
  rw [head?_scrubs]
  rfl

end

/-- Settles O36: CLEAT_ALLOC in its two forms, its retry, the release, and the two ends by time. -/
theorem cleatsAreAllocatedAndReleased : Obligations.CleatsAreAllocatedAndReleased := by
  unfold Obligations.CleatsAreAllocatedAndReleased
  intro k p s e u c size eng banks n base closed basic rh re
  exact ⟨cleatAlloc_expert, fun h he => cleatAlloc_basic h he fun _ => basicCleat_after,
    fun h => congrArg Host.Outcome.next (cleatRetry_none h), fun i q h hq => congrArg Host.Outcome.next (cleatRetry_some h hq),
    fun h => runPacket_comes h cleatRelease_after, congrArg Host.Outcome.next scrubbed_eq, rfl⟩

end Sys2Proof.Machine
end

section
/-! PROOFS. The split of the Commons, and its prefetch profiles. -/

namespace Sys2Proof.Machine

section
variable {k : Nat} {p : Packet} {s : State}

/-- What COMMONS_SPLIT answers (R163). -/
theorem commonsSplit_after : s.after k p (commonsSplit p (s.without k)) =
    if s.commons.changing = true then s.refusal k p stBusy 0 0
    else if s.commons.used.any (fun u => decide (commonsBase + p.f 4 6 0 * 2 ^ 20 < u.1 + u.2.1)) = true then
      s.refusal k p stBusy 0 0
    else (s.accepted k p 0 0 0).upCommons fun y => { y with changing := true, newX := p.f 4 6 0 } := by
  unfold commonsSplit
  simp only [after_ite, after_refuse, after_pend]
  rfl

/-- The split that is being applied, set: what joins the explicit part is zeroed. -/
def State.splitSet (s : State) : State :=
  (if s.commons.x < s.commons.newX then
    s.scrub (commonsBase + s.commons.x * 2 ^ 20) ((s.commons.newX - s.commons.x) * 2 ^ 20) else s).upCommons fun y =>
      { y with x := s.commons.newX, changing := false }

/-- The end of a split that is being applied. -/
theorem splitDone_changing (h : s.commons.changing = true) : s.splitDone = match s.splitSet.openOf 0x230 0 with
    | none => s.splitSet
    | some o =>
      (if o.hdr.expert = true then
        [0, 1, 2, 3].foldl (fun s i => s.upPart i fun q => { q with quota := fld (wat o.params (1 + i)) 6 0 }) s.splitSet
      else s.splitSet).close o stOk {} := if_pos h

/-- Without one, nothing changes. -/
theorem splitDone_idle (h : s.commons.changing = false) : s.splitDone = s := if_neg (by simp [h])

end

/-- Settles O37: the packet by its refusals, its completion by whether a split is being applied, PREFETCH_CFG by `runPacket_open`. -/
theorem theCommonsIsSplit : Obligations.TheCommonsIsSplit := by
  unfold Obligations.TheCommonsIsSplit
  intro k p s x a old new z t profile
  exact ⟨fun h => runPacket_comes h commonsSplit_after, fun h => congrArg Host.Outcome.next (splitDone_idle h),
    fun h => congrArg Host.Outcome.next (splitDone_changing h), fun h => runPacket_open h rfl rfl⟩

end Sys2Proof.Machine
end

section
/-! PROOFS. The service port's frames, life cycle, debug sessions, attestation and the lock of the tables. -/

namespace Sys2Proof.Machine

/-! ### Tool frames (R439, R440) -/

section
variable {s : State} {f : SvpFrame}

/-- A tool frame is valid and answered in the present state, and its port is not looped (R426, R431, R458). -/
def State.frameIn (s : State) (f : SvpFrame) (typ : Nat) : Prop :=
  f.ok = true ∧ s.svpOpen typ = true ∧ s.looped 4 0 = false

/-- The state at a valid frame: it is the last one. -/
def State.framed (s : State) : State := s.upSvp fun x => { x with frameAt := s.hal.nowNs }

/-- A row of a tool frame: its effect on a valid one, and nothing else. -/
theorem svpFrame_row {b : Instr} {typ : Nat} {g : State → State} {r : State} (hb : exec b s = .next (s.svpFrame typ f g))
    (hr : g s.framed = r) : (s.frameIn f typ → exec b s = .next r) ∧ (¬ s.frameIn f typ → exec b s = .next s) := by
  have hin : (f.ok = true ∧ s.svpOpen typ = true ∧ ¬ s.looped 4 0 = true) ↔ s.frameIn f typ := by
    rw [Bool.not_eq_true]
    rfl
  rw [hb, ← hr]
  exact ⟨fun h => congrArg _ (if_pos (hin.mpr h)), fun h => congrArg _ (if_neg (mt hin.mp h))⟩

/-- What the checks of a chunk come to, where `r` is the effect of one that passes them all. -/
def State.chunkChecked (s : State) (f : SvpFrame) (r : State) : State :=
  let w := wordAt f.payload 0
  let i := fld w 15 0
  if s.svp.opened = false ∨ s.upd.state ≠ 0x61 then s.svpAnswer f.seq stState
  else if f.payload.length < 4 ∨ 4100 < f.payload.length ∨ fld w 31 20 ≠ 0 then s.svpAnswer f.seq stFormat
  else if mfBlocks s.sessManifest ≤ i then s.svpAnswer f.seq stRange
  else if (s.slotOf s.sessIdx).progress.contains i = true then s.svpAnswer f.seq stOk
  else if s.upd.busy.isSome = true then s.svpAnswer f.seq stBusy
  else r

/-- A chunk put with the others. -/
def State.chunkPut (s : State) (f : SvpFrame) : State :=
  let w := wordAt f.payload 0
  s.upSvp fun x => { x with chunks := Tab.set x.chunks (16 * fld w 15 0 + fld w 19 16) (f.payload.drop 4) }

/-- Block `i`, whole with its last chunk, is checked: it is programmed, or refused. -/
def State.wholeBlock (s : State) (f : SvpFrame) (i : Nat) (data : List Byte) : State :=
  let s := s.upSvp fun x => { x with chunks := x.chunks.filter fun c => c.1 / 16 ≠ i }
  let st := s.blockStatus i data
  if st = stOk then
    (s.upUpd fun x => { x with busy := some (i, data) }).upSvp fun x => { x with pendSeq := x.pendSeq ++ [(4, f.seq)] }
  else (if st = stAuth then s.event 321 else s).svpAnswer f.seq st

/-- SVP_DATA: the checks, then the chunk, and the block if it is whole. -/
theorem exec_svpData : exec (.svpData f) s = .next (s.svpFrame 4 f fun s =>
    s.chunkChecked f (match (s.chunkPut f).svpBlock (fld (wordAt f.payload 0) 15 0) with
      | none => (s.chunkPut f).svpAnswer f.seq stOk
      | some data => (s.chunkPut f).wholeBlock f (fld (wordAt f.payload 0) 15 0) data)) := by
  unfold State.chunkChecked
  simp only [← Bool.not_eq_true]
  rfl

/-- A session frame that starts work: refused, or answered at the work's end. -/
theorem svpWork_eq {typ code : Nat} {g : State → State} : s.svpWork f typ code g =
    if s.svp.opened = false ∨ s.upd.state ≠ code ∨ s.updWorks = true then s.svpAnswer f.seq stState
    else (g s).upSvp fun x => { x with pendSeq := x.pendSeq ++ [(typ, f.seq)] } := by
  unfold State.svpWork
  exact if_congr (by rw [Bool.not_eq_true]) rfl rfl

/-- SVP_ABORT outside a session of the tool, during its work, and otherwise. -/
theorem exec_svpAbort : exec (.svpAbort f) s = .next (s.svpFrame 7 f fun s =>
    if s.svp.opened = false ∨ s.upd.state < 0x61 ∨ 0x64 < s.upd.state then s.svpAnswer f.seq stState
    else if s.updWorks = true then s.upSvp fun x => { x with pendSeq := x.pendSeq ++ [(7, f.seq)] }
    else s.updAbort.svpAnswer f.seq stOk) := by
  simp only [← Bool.not_eq_true]
  rfl

/-- A transition that the tool asks for and whose signature, if it needs one, is good. -/
def State.toolLc (s : State) (f : SvpFrame) (dest : Nat) (c : Option (Nat × Nat)) : State :=
  if lcListed s.sec.code dest true = false then s.svpAnswer f.seq stState
  else (((s.ownerCount c).lcEffect dest).svpAnswer f.seq stOk).resetSoon

/-- SVP_LC: its form, its signature, then the transition. -/
theorem exec_svpLc : exec (.svpLc f) s = .next (s.svpFrame 8 f fun s =>
    let w := wordAt f.payload 0
    let dest := fld w 2 0
    if f.payload.length ≠ 84 ∨ fld w 31 3 ≠ 0 ∨ dest = 7 then s.svpAnswer f.seq stFormat
    else match s.lcAuth dest (wordsOf (f.payload.drop 4)) with
      | none => s.svpAnswer f.seq stAuth
      | some c => s.toolLc f dest c) := by
  unfold State.toolLc
  simp only [← Bool.not_eq_true]
  rfl

end

/-! ### Packets of SEC (R426, R427, R429) -/

section
variable {k : Nat} {p : Packet} {s : State}

/-- Neither of a packet's two moves, out of the taken list and into the open requests, alters SEC. -/
@[simp] theorem without_sec : (s.without k).sec = s.sec := rfl
@[simp] theorem accepted_sec (a b c : Nat) : (s.accepted k p a b c).sec = s.sec := by
  simp [State.accepted]

/-- The die is reset after a transition, unless it is to or from FIELD_DEBUG. -/
theorem lcResets_iff (dest : Nat) : s.lcResets dest = true ↔ ¬ (dest = 4 ∨ (s.sec.debug = true ∧ dest = 3)) := by
  simp [State.lcResets, imp_iff_not_or]

/-- LC_TRANSITION, signed: listed, it has its effect, and the reset that goes with it. -/
theorem lcTransition_signed {c : Option (Nat × Nat)} (h : Applies 0x910 k p s)
    (hs : s.lcAuth (p.f 4 2 0) ((p.params.drop 1).take 20) = some c) :
    let dest := p.f 4 2 0
    let changed := (((s.accepted k p 0 0 0).ownerCount c).lcEffect dest).closeOp 0x910 0 stOk {}
    exec (.lcTransition k) s = .next (
      if lcListed s.sec.code dest false = false then s.refusal k p stState (wd s.sec.code) 0
      else if dest = 4 ∨ (s.sec.debug = true ∧ dest = 3) then changed else changed.resetSoon) := by
  intro dest changed
  refine runPacket_comes h ?_
  dsimp only
  rw [show (s.without k).lcAuth _ _ = _ from hs]
  dsimp only
  rw [after_ite]
  refine if_congr (by rw [Bool.not_eq_true, without_sec]) rfl ?_
  rw [after_pend]
  simp only [lcResets_iff, accepted_sec, ite_not]
  rfl

/-- One that is not is refused. -/
theorem lcTransition_unsigned (h : Applies 0x910 k p s) (hn : s.lcAuth (p.f 4 2 0) ((p.params.drop 1).take 20) = none) :
    exec (.lcTransition k) s = .next (s.refusal k p stAuth 0 0) := by
  refine runPacket_comes h ?_
  dsimp only
  rw [show (s.without k).lcAuth _ _ = _ from hn]
  rfl

/-- The effect of a request of the debug session. -/
def State.dbgDone (s : State) (op e : Nat) : State :=
  if op = 0 then (if s.sec.session = true then s else (s.upSec fun x => { x with session := true }).event 322)
  else if op = 1 then s.dbgEnd
  else if op = 2 then s.upEngine e fun x => { x with resHold := true, resSince := s.hal.nowNs }
  else s.holdRelease e

/-- DBG_SESSION, signed: refused outside FIELD_DEBUG, and a hold with no session or beside one of another engine (log 164). -/
theorem dbgSession_signed {c : Nat × Nat} (h : Applies 0x911 k p s)
    (hs : s.ownerSig 6 ((p.params.drop 1).take 20) (wordBytes (p.w 4)) = some c) :
    let op := p.f 4 1 0
    let e := p.f 4 6 4
    let counted := (s.without k).ownerCount (some c)
    exec (.dbgSession k) s = .next (
      if s.sec.debug = false then s.refusal k p stState (wd s.sec.code) 0
      else if op = 2 ∧ counted.sec.session = false then s.refusal k p stState (wd counted.sec.code) 0
      else if op = 2 ∧ (engNos.any fun d => d != e && (counted.engine d).resHold) = true then s.refusal k p stBusy 0 0
      else (counted.dbgDone op e).final p.hdr stOk {}) := by
  intro op e counted
  refine runPacket_comes h ?_
  dsimp only
  rw [show (s.without k).ownerSig _ _ _ = _ from hs]
  simp only [after_ite, after_refuse, after_refuseIf, after_done, Bool.not_eq_true, Bool.and_eq_true, beq_iff_eq,
    Bool.not_eq_true']
  rfl

/-- One that is not is refused. -/
theorem dbgSession_unsigned (h : Applies 0x911 k p s)
    (hn : s.ownerSig 6 ((p.params.drop 1).take 20) (wordBytes (p.w 4)) = none) :
    exec (.dbgSession k) s = .next (s.refusal k p stAuth 0 0) := by
  refine runPacket_comes h ?_
  dsimp only
  rw [show (s.without k).ownerSig _ _ _ = _ from hn]
  rfl

end

/-- Settles O60: each frame by `svpFrame_row`, each packet by its signature, the lock by what the access table says. -/
theorem theServicePortAndSecServe : Obligations.TheServicePortAndSecServe := by
  unfold Obligations.TheServicePortAndSecServe
  intro k p s f m v c sig data u a now frame ans work off mf ready w i put whole early ill lc illLc cls slot key old secret dest op e
    changed counted dbg auth
  refine ⟨svpFrame_row rfl rfl, svpFrame_row rfl rfl, svpFrame_row rfl rfl, fun hb => svpFrame_row exec_svpData ?_,
    fun hb => svpFrame_row exec_svpData ?_, svpFrame_row rfl svpWork_eq, svpFrame_row rfl ?_, svpFrame_row exec_svpAbort rfl,
    fun hl => svpFrame_row exec_svpLc ?_, fun hl => svpFrame_row exec_svpLc ?_, svpFrame_row rfl rfl, rfl,
    fun h => runPacket_comes h (after_ite ..), lcTransition_unsigned, lcTransition_signed, dbgSession_unsigned, dbgSession_signed,
    fun h => congrArg _ (checked_granted h), fun h => congrArg _ (checked_denied h)⟩
  · rw [show (s.framed.chunkPut f).svpBlock _ = none from hb]
    rfl
  · rw [show (s.framed.chunkPut f).svpBlock _ = some data from hb]
    rfl
  · exact if_congr Iff.rfl rfl svpWork_eq
  · dsimp only
    rw [show s.framed.lcAuth _ _ = none from hl]
    rfl
  · dsimp only
    rw [show s.framed.lcAuth _ _ = some c from hl]
    rfl

end Sys2Proof.Machine
end

section
/-! PROOFS. PSM's patrol, and the replays of its channels. -/

namespace Sys2Proof.Machine

section
variable {addr q : Nat} {errs : List MemErr} {ok : Bool} {reads : List (Nat × Nat × Nat)} {s : State}

/-! ### The patrol (R175, R177, R191) -/

/-- The errors that a patrol read of burst `b` meets: those that lie in it, before them the burst itself where it stands
uncorrectable and no new error says so. -/
def State.patrolMet (s : State) (b : Nat) (errs : List MemErr) : List MemErr :=
  let hit := errs.filter fun x => burstIn b 64 x.addr
  if s.psmc.uncorr.contains b = true ∧ hit.any (fun x => x.kind == .uncorr) = false then { addr := b, kind := .uncorr } :: hit else hit

/-- The patrol, being on, counts and logs them in order. -/
theorem patrolRead_eq : s.patrolRead addr errs =
    if s.psmc.hours = 0 ∨ psmSize ≤ addr then s
    else (s.patrolMet (burstOf addr) errs).foldl (fun t x => t.eccOne 63 63 true x)
      (s.upPsmc fun p => { p with patrol := decide (burstOf addr + 64 < psmSize) }) := by
  refine if_congr Iff.rfl rfl (congrArg (List.foldl _ _) ?_)
  exact if_congr (and_congr_right' (Bool.not_eq_true _).to_iff) rfl rfl

/-! ### A frame that fails its CRC (R176) -/

/-- The replays of channel `q` within the last 1 ms. -/
def State.nearReplays (s : State) (q : Nat) : List Nat :=
  (Tab.get [] s.psmc.replayAt q).filter fun t => decide (s.hal.nowNs < t + 1000000)

/-- The replay is counted: for its stack, in the channel's run of replays without success, and with its instant. -/
def State.replayed (s : State) (q : Nat) (ok : Bool) : State :=
  s.upPsmc fun p =>
    { p with cntReplay := bump p.cntReplay (q % 6), replays := Tab.set p.replays q (if ok then 0 else Tab.get 0 p.replays q + 1)
             replayAt := Tab.set p.replayAt q (s.hal.nowNs :: s.nearReplays q) }

/-- The 64th within 1 ms is a warning besides. -/
def State.replayWarned (s : State) (q : Nat) (ok : Bool) : State :=
  if (s.nearReplays q).length = 63 then ((s.replayed q ok).fault fltLink 0 255 q (wd q)).event 257 else s.replayed q ok

/-- The command that waits for a read of the channel, if it is in flight, stops. -/
def State.stopRead (s : State) (r : Nat × Nat × Nat) : State :=
  match s.queue r.1 r.2.1 with
  | j :: _ => if j.flight.contains r.2.2 then s.stopJob r.1 r.2.1 r.2.2 fltMemUncorr {} (.rows []) else s
  | [] => s

/-- The stack of channel `q` goes out of service, and the device is FAULTED. -/
def State.stackLost (s : State) (q : Nat) (reads : List (Nat × Nat × Nat)) : State :=
  let t := s.draw.2.upPsmc fun p =>
    { p with stackUp := setBit p.stackUp (q % 6) false, failChan := if p.trainFail then p.failChan else q, trainFail := true }
  (reads.foldl State.stopRead (t.psmLog 3 (s.draw.1.toNat % psmSize) 63 63)).enterDev devFaulted

/-- PSM_LINK_CRC_FAIL by the count it leaves: the sixteenth replay in succession without success loses the stack. -/
theorem linkCrc_eq : s.linkCrc q ok reads =
    if Tab.get 0 (s.replayWarned q ok).psmc.replays q = 16 then (s.replayWarned q ok).stackLost q reads
    else s.replayWarned q ok := rfl

/-- The warning leaves the memory controller as the count left it. -/
theorem replayWarned_psmc : (s.replayWarned q ok).psmc = (s.replayed q ok).psmc := by
  unfold State.replayWarned
  split
  · obtain ⟨_, _, _, hw⟩ := State.event_says ((s.replayed q ok).fault fltLink 0 255 q (wd q)) 257
    rw [hw]
    rfl
  · rfl

/-- The count that it leaves. -/
theorem replayWarned_replays :
    Tab.get 0 (s.replayWarned q ok).psmc.replays q = if ok then 0 else Tab.get 0 s.psmc.replays q + 1 := by
  rw [replayWarned_psmc]
  exact Tab.get_set _ _ _ _

end

/-- Settles O35: the patrol by the errors it meets, the replay by the count it leaves. -/
theorem psmReportsErrorsAndLinks : Obligations.PsmReportsErrorsAndLinks := by
  unfold Obligations.PsmReportsErrorsAndLinks
  intro s addr errs chan ok reads b hit met near n a w lost stopped
  refine ⟨congrArg Host.Outcome.next patrolRead_eq, congrArg Host.Outcome.next (linkCrc_eq.trans ?_)⟩
  rw [replayWarned_replays]
  rfl

end Sys2Proof.Machine
end

section
/-! PROOFS. The answers to a translation fault. -/

namespace Sys2Proof.Machine

section
variable {k : Nat} {p : Packet} {s : State} {f : XltFault}

/-- A packet that has left the taken list sees the entries it may install as they were. -/
@[simp] theorem without_entryOk {c : Nat} {lo hi : Word} : (s.without k).entryOk c lo hi = s.entryOk c lo hi := rfl

/-- The mapping of a fault's page to a frame. -/
def XltFault.mapping (f : XltFault) (pa : Nat) (host : Bool) : Mapping :=
  { va := f.page, len := 4096, host := host, runs := [{ va := f.page, pa := pa, len := 4096 }] }

/-- The entry that an INSTALL gives for fault `f` goes in, and what waited goes on (R188). -/
def State.installFor (s : State) (p : Packet) (f : XltFault) : State :=
  let c := p.hdr.ctx
  let r := entryRun f.va (p.w 5) (p.w 6)
  (((s.forget c r.va (r.va + r.len)).upCtx c fun x => { x with installs := r :: x.installs }).answered c f).schedule

/-- The page of fault `f` gets a frame, and what waited goes on (R188). -/
def State.mapFor (s : State) (c : Nat) (f : XltFault) (pa : Nat) (host : Bool) : State :=
  ((s.addMap c (f.mapping pa host)).answered c f).schedule

/-- An INSTALL goes in where its entry is right. -/
def installAnswer (p : Packet) (f : XltFault) (s : State) : Ans :=
  refuseIf (!s.entryOk p.hdr.ctx (p.w 5) (p.w 6)) stAuth 0 (.done (s.installFor p f) {})

/-- A map or an allocation answers no protection fault; an allocation needs a page of PSM. -/
def placeAnswer (p : Packet) (f : XltFault) (s : State) : Ans :=
  refuseIf f.prot stState (wd 0x22) <|
    if p.f 4 9 8 = 1 then .done (s.mapFor p.hdr.ctx f (hostBase + p.a 5) true) {}
    else match s.takePsm false 63 1 1 (p.hdr.ctx + 1) with
      | some ((g, _) :: _, t) => .done ((t.scrub (4096 * g) 4096).mapFor p.hdr.ctx f (4096 * g) false) {}
      | _ => .refuse stNospace

/-- The answer to an outstanding fault, by its action. -/
def faultAnswer (p : Packet) (f : XltFault) (s : State) : Ans :=
  if p.f 4 9 8 = 2 then .done (s.abortFault p.hdr.ctx f) {}
  else if p.f 4 9 8 = 3 then installAnswer p f s
  else placeAnswer p f s

/-- XLT_FAULT_REPLY gives that answer where the fault is outstanding and the context is FAULTED. -/
theorem xltFaultReply_eq : xltFaultReply p s =
    ownThenState (s.ctxCode p.hdr.ctx) [0x22] (match (s.ctx p.hdr.ctx).faults.find? fun f => f.id == p.f 4 7 0 with
      | none => .refuse stRange (det 4 0)
      | some f => faultAnswer p f s) := rfl

/-- A map or an allocation is not refused with ST_AUTH. -/
theorem placeAnswer_notAuth (st : Nat) (d0 d1 : Word) (h : placeAnswer p f s = .refuse st d0 d1) : st ≠ stAuth := by
  unfold placeAnswer refuseIf at h
  split at h
  · cases h
    decide
  · split at h
    · cases h
    · split at h <;> cases h
      decide

/-- Against a refusal of the context's state the answer keeps the refusal of a wrong entry alone (R43). -/
theorem faultAnswer_over {r : Refuse} : (faultAnswer p f s).over r =
    if p.f 4 9 8 = 3 ∧ s.entryOk p.hdr.ctx (p.w 5) (p.w 6) = false then .refuse stAuth 0 0 else .ofRefuse r := by
  unfold faultAnswer
  by_cases h2 : p.f 4 9 8 = 2
  · rw [if_pos h2, if_neg fun h => absurd (h2.symm.trans h.1) (by decide)]
    rfl
  by_cases h3 : p.f 4 9 8 = 3
  · rw [if_neg h2, if_pos h3]
    unfold installAnswer
    cases s.entryOk p.hdr.ctx (p.w 5) (p.w 6) with
    | false => exact (if_pos ⟨h3, rfl⟩).symm
    | true => exact (if_neg (by simp)).symm
  · rw [if_neg h2, if_neg h3, if_neg fun h => h3 h.1]
    exact over_other placeAnswer_notAuth

/-- In another state of the context, a wrong entry for an outstanding fault is refused as such, all else for the state. -/
theorem xltFaultReply_closed (h : Applies 0x220 k p s) (hc : s.ctxCode p.hdr.ctx ≠ 0x22) :
    exec (.xltFaultReply k) s = .next (
      if p.f 4 9 8 = 3 ∧ ((s.ctx p.hdr.ctx).faults.find? fun f => f.id == p.f 4 7 0).isSome = true ∧
          s.entryOk p.hdr.ctx (p.w 5) (p.w 6) = false then s.refusal k p stAuth 0 0
      else s.refusal k p stState (wd (s.ctxCode p.hdr.ctx)) 0) := by
  refine runPacket_comes h ?_
  rw [xltFaultReply_eq, after_own, if_pos (by simpa using hc), without_ctx]
  cases (s.ctx p.hdr.ctx).faults.find? fun f => f.id == p.f 4 7 0 with
  | none => exact (if_neg (by simp)).symm
  | some f =>
    dsimp only
    rw [faultAnswer_over, after_ite]
    exact if_congr (by simp) rfl rfl

/-- In a context that is FAULTED it comes to what the fault, or that there is none, answers. -/
theorem xltFaultReply_faulted (h : Applies 0x220 k p s) (hc : s.ctxCode p.hdr.ctx = 0x22) :
    exec (.xltFaultReply k) s = .next (match (s.ctx p.hdr.ctx).faults.find? fun f => f.id == p.f 4 7 0 with
      | none => s.refusal k p stRange (det 4 0) 0
      | some f => s.after k p (faultAnswer p f (s.without k))) := by
  refine runPacket_comes h ?_
  rw [xltFaultReply_eq, after_own, if_neg (by simp [hc]), without_ctx]
  cases (s.ctx p.hdr.ctx).faults.find? fun f => f.id == p.f 4 7 0 <;> rfl

/-- What an INSTALL comes to. -/
theorem installAnswer_after : s.after k p (installAnswer p f (s.without k)) =
    if s.entryOk p.hdr.ctx (p.w 5) (p.w 6) = false then s.refusal k p stAuth 0 0
    else ((s.without k).installFor p f).final p.hdr stOk {} := by
  unfold installAnswer
  rw [after_refuseIf]
  exact if_congr (by rw [Bool.not_eq_true', without_entryOk]) rfl rfl

/-- What a map or an allocation comes to. -/
theorem placeAnswer_after : s.after k p (placeAnswer p f (s.without k)) =
    if f.prot = true then s.refusal k p stState (wd 0x22) 0
    else if p.f 4 9 8 = 1 then ((s.without k).mapFor p.hdr.ctx f (hostBase + p.a 5) true).final p.hdr stOk {}
    else match (s.without k).takePsm false 63 1 1 (p.hdr.ctx + 1) with
      | some ((g, _) :: _, t) => ((t.scrub (4096 * g) 4096).mapFor p.hdr.ctx f (4096 * g) false).final p.hdr stOk {}
      | _ => s.refusal k p stNospace 0 0 := by
  unfold placeAnswer
  rw [after_refuseIf, after_ite]
  refine if_congr Iff.rfl rfl (if_congr Iff.rfl rfl ?_)
  split <;> rfl

end

/-- Settles O38: the packet by its context's state, the answer to an outstanding fault by its action. -/
theorem translationFaultsAreAnswered : Obligations.TranslationFaultsAreAnswered := by
  unfold Obligations.TranslationFaultsAreAnswered
  intro k p s u c act fits page
  refine ⟨xltFaultReply_closed, fun h hc hf => ?_, fun f h hc hf => ?_⟩
  · rw [xltFaultReply_faulted h hc, show List.find? _ (s.ctx p.hdr.ctx).faults = none from hf]
  · rw [xltFaultReply_faulted h hc, show List.find? _ (s.ctx p.hdr.ctx).faults = some f from hf]
    unfold faultAnswer
    dsimp only
    rw [after_ite, after_ite, installAnswer_after, placeAnswer_after]
    rfl

end Sys2Proof.Machine
end

section
/-! PROOFS. Sequences: opening, sharing, closing, bucket bounds and swapping. -/

namespace Sys2Proof.Machine

@[simp] theorem without_seq (s : State) (k n : Nat) : (s.without k).seq n = s.seq n := rfl
@[simp] theorem without_swappedPages (s : State) (k : Nat) (q : Seq) : (s.without k).swappedPages q = s.swappedPages q := rfl

/-! ### Answers that do not refuse with ST_AUTH -/

/-- An answer is no refusal with ST_AUTH: against a refusal of the context's state it gives way (`over_other`). -/
def Ans.NotAuth (a : Ans) : Prop := ∀ st d0 d1, a = .refuse st d0 d1 → st ≠ stAuth

section
variable {a b : Ans}

theorem Ans.NotAuth.refuse {st : Nat} {d0 d1 : Word} (h : st ≠ stAuth) : (Ans.refuse st d0 d1).NotAuth := by
  rintro _ _ _ ⟨⟩
  exact h

theorem Ans.NotAuth.done {t : State} {f : RF} {st : Nat} : (Ans.done t f st).NotAuth := nofun

theorem Ans.NotAuth.pend {key val val2 : Nat} {g : State → State} : (Ans.pend key val val2 g).NotAuth := nofun

theorem Ans.NotAuth.ite {c : Prop} [Decidable c] (ha : a.NotAuth) (hb : b.NotAuth) : (if c then a else b).NotAuth := by
  split
  · exact ha
  · exact hb

theorem Ans.NotAuth.needState {code : Nat} {l : List Nat} (ha : a.NotAuth) : (needState code l a).NotAuth :=
  .ite ha (.refuse (by decide))

/-- Opening lacks a number, a reference count or room, or is done. -/
theorem openSeq_notAuth {s : State} {geo : Seq} {c : Nat} {src : Option (Nat × Nat)} : (s.openSeq geo c src).NotAuth := by
  unfold State.openSeq
  cases s.freeSeq with
  | none => exact .refuse (by decide)
  | some n =>
    cases src with
    | none => exact .done
    | some m =>
      refine .ite (.refuse (by decide)) ?_
      cases s.sharePages _ _ _ _ with
      | none => exact .refuse (by decide)
      | some _ => exact .done

end

/-! ### Packets for a sequence of the context (R43) -/

/-- A packet for sequence `x`, which its word `w` names: the sequence is to be there and the context's own, then `a`. -/
def seqOwned (x : Seq) (c w : Nat) (a : Ans) : Ans :=
  if ¬ x.present then .refuse stRange (det w 0) else if x.ctx ≠ c then .refuse stAuth else a

/-- What it comes to: in a context that is not open the owner, then the state refuse it; in an open one `v`, if the sequence is
there and the context's own. -/
def State.ownedSeqRow (s : State) (k : Nat) (p : Packet) (x : Seq) (w : Nat) (v : State) : State :=
  if ctxOpen.contains (s.ctxCode p.hdr.ctx) = false then
    if x.present = true ∧ x.ctx ≠ p.hdr.ctx then s.refusal k p stAuth 0 0 else s.refusal k p stState (wd (s.ctxCode p.hdr.ctx)) 0
  else if ¬ x.present = true then s.refusal k p stRange (det w 0) 0
  else if x.ctx ≠ p.hdr.ctx then s.refusal k p stAuth 0 0
  else v

section
variable {k w : Nat} {p : Packet} {s : State} {x : Seq} {a : Ans}

/-- A packet for a sequence, where `a` is no refusal with ST_AUTH. -/
theorem seqOwned_after {v : State} (ha : a.NotAuth) (hv : s.after k p a = v) :
    s.after k p (ownThenState (s.ctxCode p.hdr.ctx) ctxOpen (seqOwned x p.hdr.ctx w a)) = s.ownedSeqRow k p x w v := by
  rw [after_own]
  refine if_congr Iff.rfl ?_ ?_
  · unfold seqOwned
    rw [over_owned ha, after_ite]
    rfl
  · unfold seqOwned
    rw [after_ite, after_ite, hv]
    rfl

/-- The checks of a source whose pages are shared: it is the context's own, and OPEN. -/
theorem sourceOk_eq (c m : Nat) (f : Seq → Ans) :
    s.sourceOk c m w f = seqOwned (s.seq m) c w (needState (s.seq m).state [0x30] (f (s.seq m))) := rfl

/-- SEQ_OPEN that shares no pages. -/
theorem openSeq_after (geo : Seq) :
    s.after k p (ownThenState (s.ctxCode p.hdr.ctx) ctxOpen ((s.without k).openSeq geo p.hdr.ctx none)) =
      if ctxOpen.contains (s.ctxCode p.hdr.ctx) = false then s.refusal k p stState (wd (s.ctxCode p.hdr.ctx)) 0
      else s.after k p ((s.without k).openSeq geo p.hdr.ctx none) := by
  rw [after_own, over_other openSeq_notAuth]
  rfl

/-! ### SEQ_PREEMPT and SEQ_RESTORE -/

/-- The bytes that the image of a sequence takes. -/
def State.imageLen (s : State) (q : Seq) : Nat := (s.swapPages q).length * q.page

/-- Where SEQ_PREEMPT puts the image: at the packet's own address, or at a place that firmware finds. -/
def State.preemptAt (s : State) (p : Packet) (q : Seq) : Option Nat :=
  if p.hdr.expert then some (p.a 5) else s.imagePlace p.hdr.ctx (s.imageLen q)

/-- The sequence is marked for its swap-out, which starts at once where no step runs. -/
def State.preempted (s : State) (n : Nat) (q : Seq) (va : Nat) : State :=
  let b := s.setSeq n { s.seq n with image := va, imagePages := (s.swapPages q).length, preempt := true }
  if q.state = 0x30 then b.startSwapOut n else b

/-- The answer of SEQ_PREEMPT for a sequence of the context (R244). -/
def preemptAnswer (p : Packet) (s : State) : Ans :=
  let n := p.f 4 11 0
  let q := s.seq n
  if q.state = 0x31 ∧ q.preempt then .refuse stState (wd q.state)
  else needState q.state [0x30, 0x31] <| match s.preemptAt p q with
    | none => .refuse stNospace
    | some va =>
      if s.ctxTT p.hdr.ctx ∨ ¬ s.inHostMap p.hdr.ctx va (s.imageLen q) then .refuse stNospace
      else if 0xFFFFFFFE < q.epoch + (if q.state = 0x31 then 3 else 2) then .refuse stRange (det 4 0)
      else .pend n 0 0 fun s => s.preempted n q va

/-- The sequence takes frames for its pages and begins to come back. -/
def State.restoring (s : State) (n : Nat) (q : Seq) : State :=
  let b := (s.takeFrames q.page (1000 + n) (s.swappedPages q).length).getD s
  b.setSeq n { q with state := 0x34, movers := b.swapMovers }

/-- The answer of SEQ_RESTORE for a sequence of the context (R246). -/
def restoreAnswer (p : Packet) (s : State) : Ans :=
  let n := p.f 4 11 0
  let q := s.seq n
  needState q.state [0x33] <| match s.takeFrames q.page (1000 + n) (s.swappedPages q).length with
    | none => .refuse stNospace
    | some _ => .pend n 0 0 fun s => s.restoring n q

theorem seqPreempt_eq : seqPreempt p s =
    ownThenState (s.ctxCode p.hdr.ctx) ctxOpen (seqOwned (s.seq (p.f 4 11 0)) p.hdr.ctx 4 (preemptAnswer p s)) := rfl

theorem seqRestore_eq : seqRestore p s =
    ownThenState (s.ctxCode p.hdr.ctx) ctxOpen (seqOwned (s.seq (p.f 4 11 0)) p.hdr.ctx 4 (restoreAnswer p s)) := rfl

theorem preemptAnswer_notAuth : (preemptAnswer p s).NotAuth := by
  refine .ite (.refuse (by decide)) (.needState ?_)
  cases s.preemptAt p (s.seq (p.f 4 11 0)) with
  | none => exact .refuse (by decide)
  | some va => exact .ite (.refuse (by decide)) (.ite (.refuse (by decide)) .pend)

theorem restoreAnswer_notAuth : (restoreAnswer p s).NotAuth := by
  refine .needState ?_
  cases s.takeFrames _ _ _ with
  | none => exact .refuse (by decide)
  | some _ => exact .pend

/-- What SEQ_PREEMPT comes to for a sequence of the context. -/
theorem preemptAnswer_after :
    let n := p.f 4 11 0
    let q := s.seq n
    s.after k p (preemptAnswer p (s.without k)) =
      if q.state = 0x31 ∧ q.preempt = true then s.refusal k p stState (wd q.state) 0
      else if [0x30, 0x31].contains q.state = false then s.refusal k p stState (wd q.state) 0
      else match s.preemptAt p q with
        | none => s.refusal k p stNospace 0 0
        | some va =>
          if s.ctxTT p.hdr.ctx = true ∨ ¬ s.inHostMap p.hdr.ctx va (s.imageLen q) = true then s.refusal k p stNospace 0 0
          else if 0xFFFFFFFE < q.epoch + (if q.state = 0x31 then 3 else 2) then s.refusal k p stRange (det 4 0) 0
          else (s.accepted k p n 0 0).preempted n q va := by
  intro n q
  unfold preemptAnswer
  rw [after_ite, after_needNot]
  refine if_congr Iff.rfl rfl (if_congr Iff.rfl rfl ?_)
  change s.after k p (match s.preemptAt p q with | none => _ | some va => _) = _
  cases s.preemptAt p q with
  | none => rfl
  | some va =>
    dsimp only
    rw [after_ite, after_ite]
    rfl

/-- What SEQ_RESTORE comes to for a sequence of the context. -/
theorem restoreAnswer_after :
    let n := p.f 4 11 0
    let q := s.seq n
    s.after k p (restoreAnswer p (s.without k)) =
      if q.state ≠ 0x33 then s.refusal k p stState (wd q.state) 0
      else match (s.without k).takeFrames q.page (1000 + n) (s.swappedPages q).length with
        | none => s.refusal k p stNospace 0 0
        | some _ => (s.accepted k p n 0 0).restoring n q := by
  intro n q
  unfold restoreAnswer
  rw [after_needOne]
  refine if_congr Iff.rfl rfl ?_
  rw [without_seq, without_swappedPages]
  cases (s.without k).takeFrames _ _ _ <;> rfl

end

/-- Settles O46: each packet for a sequence through `seqOwned_after`; the swaps and the scrub of a page are their own equations. -/
theorem sequencesOpenCloseAndSwap : Obligations.SequencesOpenCloseAndSwap := by
  unfold Obligations.SequencesOpenCloseAndSwap
  intro k p s u c closed shut geo src n q owned len image a shutFor swap
  refine ⟨fun h => runPacket_comes h ?_, fun h => runPacket_comes h ?_, fun h => runPacket_comes h ?_,
    fun h => runPacket_open h rfl rfl, fun h => runPacket_comes h ?_, fun h => runPacket_comes h ?_,
    fun m errs t => ⟨rfl, rfl⟩, fun i t => ⟨fun h => ?_, fun h => ?_⟩⟩
  · -- SEQ_OPEN
    unfold seqOpen
    by_cases hx : p.hdr.expert = true ∧ p.f 7 17 0 ≠ 0
    · dsimp only
      rw [if_pos hx, if_pos hx, if_pos hx, sourceOk_eq]
      refine seqOwned_after (.needState (.ite (.refuse (by decide)) (.ite (.refuse (by decide)) openSeq_notAuth))) ?_
      rw [after_needOne, after_ite, after_ite]
      rfl
    · dsimp only
      rw [if_neg hx, if_neg hx, if_neg hx]
      exact openSeq_after geo
  · -- SEQ_FORK
    exact seqOwned_after (.needState openSeq_notAuth) (after_needOne ..)
  · -- SEQ_CLOSE
    exact seqOwned_after (.needState .pend) (after_needNot ..)
  · -- SEQ_PREEMPT
    rw [seqPreempt_eq]
    exact seqOwned_after preemptAnswer_notAuth preemptAnswer_after
  · -- SEQ_RESTORE
    rw [seqRestore_eq]
    exact seqOwned_after restoreAnswer_notAuth restoreAnswer_after
  · -- KV_PAGE_SCRUB_COMPLETE of an entry that is not being scrubbed, and of one that is
    exact congrArg Host.Outcome.next (if_pos h)
  · exact congrArg Host.Outcome.next (if_neg (not_not_intro h))

end Sys2Proof.Machine
end

section
/-! PROOFS. SEQ_STEP and the end of a step. -/

namespace Sys2Proof.Machine

/-! ### SEQ_STEP (R228 to R233) -/

/-- The answer of SEQ_STEP in an open context: what its checks refuse it with, or the step begins. -/
def stepAnswer (p : Packet) (s : State) : Ans :=
  match s.stepCheck p with
  | .error r => .ofRefuse r
  | .ok (tab, ls) => .pend p.hdr.no 0 0 fun s => (s.stepBegin p tab ls).schedule

section
variable {k : Nat} {p : Packet} {s : State} {r : Refuse}

theorem seqStep_eq : seqStep p s =
    if s.waitsFor p p.hdr.ctx then .hold else ownThenState (s.ctxCode p.hdr.ctx) ctxOpen (stepAnswer p s) := rfl

/-- Against a refusal of the context's state the checks keep a refusal with ST_AUTH alone. -/
theorem stepAnswer_over : (stepAnswer p s).over r = match s.stepCheck p with
    | .error u => if u.1 = stAuth then .ofRefuse u else .ofRefuse r
    | .ok _ => .ofRefuse r := by
  unfold stepAnswer
  cases s.stepCheck p <;> rfl

theorem stepAnswer_after : s.after k p (stepAnswer p (s.without k)) = match (s.without k).stepCheck p with
    | .error r => s.refusal k p r.1 r.2.1 r.2.2
    | .ok (tab, ls) => ((s.accepted k p p.hdr.no 0 0).stepBegin p tab ls).schedule := by
  unfold stepAnswer
  cases (s.without k).stepCheck p <;> rfl

/-- SEQ_STEP waits behind a CLEAT_ALLOC of its context, is refused in a context that is not open, or comes to its checks. -/
theorem seqStep_after {v : State} (hv : s.after k p (stepAnswer p (s.without k)) = v) : s.after k p (seqStep p (s.without k)) =
    if (s.without k).waitsFor p p.hdr.ctx = true then s
    else if ctxOpen.contains (s.ctxCode p.hdr.ctx) = false then
      match (s.without k).stepCheck p with
      | .error r => if r.1 = stAuth then s.refusal k p r.1 r.2.1 r.2.2 else s.refusal k p stState (wd (s.ctxCode p.hdr.ctx)) 0
      | .ok _ => s.refusal k p stState (wd (s.ctxCode p.hdr.ctx)) 0
    else v := by
  rw [seqStep_eq, after_ite, after_own, stepAnswer_over, hv]
  refine if_congr Iff.rfl rfl (if_congr Iff.rfl ?_ rfl)
  cases (s.without k).stepCheck p with
  | error r => exact after_ite ..
  | ok _ => rfl

end

/-! ### The end of a step (R240 to R243) -/

/-- An entry at which its sequence's rows end has no bonus token: the verdicts give 0xFFFFFFFF for it. -/
def Step.spoilt (x : Step) (vs : List Word) : Bool :=
  (x.entries.filter fun e => x.kind != 1 || e.last).any fun e => (x.verdict vs e).bonus == 0xFFFFFFFF

/-- Nothing of a step is committed, and it is answered with a fault. -/
def State.stepFaulted (s : State) (n : Nat) (f : RF) : State := ((s.rewindStep n).closeOp 0x402 n stFault f).schedule

/-- The entries of a step are committed in order, the step is gone, and it is answered with its tokens. -/
def State.stepCommitted (s : State) (n : Nat) : State :=
  let x := s.step n
  let vs := s.verdicts x
  let t := x.entries.foldl (fun s e => s.commitEntry x vs e) s
  (({ t with steps := Tab.erase t.steps n } : State).closeOp 0x402 n stOk
    { lo := wd (sumN (x.entries.map (x.posted vs))), hi := wd x.entries.length }).schedule

section
variable {n : Nat} {t : State}

theorem exec_stepEnd : exec (.stepEnd n) t = .next (t.stepEnd n) := rfl

/-- A step that is not there, or of which a list is not done, does not end. -/
theorem stepEnd_waits (h : (t.step n).present = false ∨ (t.step n).left ≠ []) : t.stepEnd n = t :=
  if_pos (by simpa using h)

/-- One of which every list is done ends. -/
theorem stepEnd_ends (hp : (t.step n).present = true) (hl : (t.step n).left = []) :
    let x := t.step n
    t.stepEnd n =
      if x.failed = true then t.stepFaulted n { d1 := x.detail, fault := x.fault, canc := x.cancelled }
      else if x.spoilt (t.verdicts x) = true then
        (t.fault fltOperand 1 x.ctx (x.engines.getD x.winner (0, 0)).1 0).stepFaulted n { fault := fltOperand }
      else t.stepCommitted n :=
  if_neg (by simp [hp, hl])

end

/-- Settles O47: SEQ_STEP by `seqStep_after`, the end of a step by `stepEnd_ends` and the branch it takes. -/
theorem stepsBeginAndEnd : Obligations.StepsBeginAndEnd := by
  unfold Obligations.StepsBeginAndEnd
  intro k p s n t u code x vs ends spoilt committed
  refine ⟨fun h => runPacket_comes h (seqStep_after stepAnswer_after), fun h => congrArg _ (stepEnd_waits h),
    fun hp hl hf => ?_, fun hp hl hf hs => ?_, fun hp hl hf hs => ?_⟩
  · rw [exec_stepEnd, stepEnd_ends hp hl]
    exact congrArg _ (if_pos hf)
  · rw [exec_stepEnd, stepEnd_ends hp hl]
    exact congrArg _ ((if_neg (ne_true_of_eq_false hf)).trans (if_pos hs))
  · rw [exec_stepEnd, stepEnd_ends hp hl]
    exact congrArg _ ((if_neg (ne_true_of_eq_false hf)).trans (if_neg (ne_true_of_eq_false hs)))

end Sys2Proof.Machine
end

section
/-! PROOFS. Camera packets and ratline frames. -/

namespace Sys2Proof.Machine

/-! ### Camera packets by their header (R249, R250, R458) -/

section
variable {s : State} {port n : Nat}

/-- The frames in progress of a port become corrupt input with one cause. -/
def State.corruptPort (s : State) (port cause : Nat) : State :=
  (streamNos.filter fun i => (s.stream i).source == 0 && (s.stream i).port == port &&
    ((s.stream i).state == 0x42 || (s.stream i).state == 0x43) && (s.stream i).frame).foldl (fun t i => t.corrupt i cause) s

/-- A looped port takes nothing; else a whole header leaves the packet to act, a corrected one is counted first, and one beyond
correction corrupts the frames in progress of the port. -/
theorem csiPacket_eq (ecc : Nat) (act : State → State) : s.csiPacket port ecc act =
    if s.looped 0 port = true then s else if ecc = 0 then act s
    else if ecc = 1 then act (s.upCsi port fun p => { p with ecc := p.ecc + 1 }) else s.corruptPort port 1 := by
  unfold State.csiPacket State.csiHeader
  refine if_congr Iff.rfl rfl ?_
  match ecc with
  | 0 | 1 | _ + 2 => rfl

/-! ### Lines and the end of a frame (R249, R250) -/

/-- A line of a frame in progress is taken, or corrupts the frame for its CRC or its length. -/
theorem lineIn_eq (data : List Byte) (crcOk : Bool) : s.lineIn n data crcOk =
    if crcOk = false then s.corrupt n 2
    else if data.length ≠ (s.stream n).lineBytes then s.corrupt n 3
    else if (s.stream n).open? = true then
      s.setStream n ((s.stream n).upLast fun sm => { sm with data := sm.data ++ data, lines := sm.lines + 1 })
    else s :=
  if_congr (by simp) rfl rfl

/-- A Frame End without a frame in progress does nothing; else it ends the frame, corrupt for a wrong line count. -/
theorem frameEnd_eq : s.frameEnd n =
    if (s.stream n).frame = false then s
    else if (s.stream n).open? = false then s.setStream n { s.stream n with frame := false }
    else if ((s.stream n).inq.getLast?.map (·.lines)) ≠ some (s.stream n).height then s.corrupt n 4
    else s.setStream n { (s.stream n).upLast (fun sm => { sm with done := true }) with frame := false } :=
  if_congr (by simp) rfl (if_congr (by simp) rfl rfl)

end

/-! ### Ratline frames (R14, R259, R458) -/

section
variable {port : Fin 4} {phase : Fin 8} {data : List Byte} {fcsOk : Bool} {s : State}

/-- A looped link, a bad FCS or a frame of another kind: neither path takes anything. -/
theorem exec_ratlineFrameReceive_discarded (h : s.looped 1 port = true ∨ fcsOk = false ∨ isRatline data 1 = false) :
    exec (.ratlineFrameReceive port data ⟨fcsOk, phase⟩) s = .next s :=
  congrArg _ (if_pos (by simpa using h))

/-- A good frame reaches Plinth, and the ring of its stream while the core island runs. -/
theorem exec_ratlineFrameReceive_taken (hloop : s.looped 1 port = false) (hfcs : fcsOk = true)
    (hkind : isRatline data 1 = true) :
    exec (.ratlineFrameReceive port data ⟨fcsOk, phase⟩) s = .next (
      let pay := data.drop (ethPayload data).1
      let rx := s.rxStamp port phase
      let t := s.ratPlinth port pay rx
      if t.halRuns = true then t.ratIn pay rx else t) :=
  congrArg _ (if_neg (by simp [hloop, hfcs, hkind]))

end

/-- Settles O49: camera packets by their header, then by what each does at its streams; ratline frames by whether they are
taken; every other row by its own branches. -/
theorem cameraPacketsFillTheRings : Obligations.CameraPacketsFillTheRings := by
  unfold Obligations.CameraPacketsFillTheRings
  intro s port vc dtype ecc data crcOk up n errs group i eport ph stamp grid
    unbound heard sameType others packet x b pay
  have hpacket (act) : s.csiPacket port ecc act = packet act := csiPacket_eq ecc act
  clear_value packet
  refine ⟨congrArg _ (hpacket _), fun m => rfl, congrArg _ ((hpacket _).trans (congrArg _ (funext fun c => ?_))),
    congrArg _ (hpacket _), fun m => frameEnd_eq, congrArg _ (hpacket _), congrArg _ (if_congr ?_ rfl rfl), rfl, rfl,
    exec_ratlineFrameReceive_discarded, exec_ratlineFrameReceive_taken, rfl, rfl, rfl, ?_⟩
  · -- a long packet, at the stream of its type
    simp only [State.csiLong, lineIn_eq] <;> rfl
  · -- the silence of a port, not yet noticed
    simp [x]
  · -- a depth grid, by its check
    cases crcOk <;> rfl

end Sys2Proof.Machine
end

section
/-! PROOFS. Halyard time: the step of an empty queue. -/

namespace Sys2Proof.Machine

section
variable {s : State} {h : Hal} {n : Nat}

/-- Plinth's counter runs at the increment, whether the core island runs or not. -/
theorem pass_plinth : (s.pass n).plinth = { s.plinth with time := s.plinth.time + n * s.hal.inc } := by
  unfold State.pass
  split <;> rfl

/-- Halyard stands still without the core island. -/
theorem pass_hal_stopped (hrun : s.halRuns = false) : (s.pass n).hal = s.hal := by
  unfold State.pass
  rw [if_neg (by simp [hrun])]

/-- Halyard runs with it. -/
theorem pass_hal_runs (hrun : s.halRuns = true) : (s.pass n).hal = s.hal.run n := by
  unfold State.pass
  rw [if_pos hrun]

/-- Time that passes changes the two counters' records alone. -/
theorem pass_frame : ({ s.pass n with hal := s.hal, plinth := s.plinth } : State) = s := by
  unfold State.pass
  split <;> rfl

/-- The number of edges seen is no part of the time that the counter shows. -/
theorem Hal.total_hclk (m : Nat) : ({ h with hclk := m } : Hal).total = h.total := rfl

/-- What the counter gains in `n` edges without a decision. -/
theorem Hal.plain_total : (h.plain n).total = h.total + n * h.inc :=
  (Hal.total_hclk _).trans (Hal.total_setTotal ..)

/-- Edges with no decision waiting are plain ones. -/
theorem Hal.run_idle (hp : h.pend = []) : h.run n = { h.plain n with pend := [] } := by
  unfold Hal.run
  rw [hp, Hal.runWith]

/-- The decisions that wait are no part of the time that the counter shows. -/
theorem Hal.total_pend (l : List HalWrite) : ({ h with pend := l } : Hal).total = h.total := rfl

/-- Nor of its increment. -/
theorem Hal.inc_pend (l : List HalWrite) : ({ h with pend := l } : Hal).inc = h.inc := rfl

end

/-- Settles O2: a step of an empty queue is one edge, and what an edge does stands in `pass`'s lemmas. -/
theorem emptyQueueTicks : Obligations.EmptyQueueTicks := by
  unfold Obligations.EmptyQueueTicks
  intro s hq
  have hstep : step s = .next (s.pass 1) := by
    unfold step
    rw [hq]
  refine ⟨hstep, ?_, pass_hal_stopped, fun hrun hp => ?_, pass_frame⟩
  · rw [pass_plinth, Nat.one_mul]
  · rw [pass_hal_runs hrun, Hal.run_idle hp, Hal.total_pend, Hal.plain_total, Nat.one_mul]
    exact ⟨rfl, (Hal.inc_pend _).trans (Hal.plain_inc ..), rfl⟩

end Sys2Proof.Machine
end

section
/-! PROOFS. Registers of Halyard and of the event controller, and Plinth's time. -/

namespace Sys2Proof.Machine

/-! ### A register's row (R421, R424) -/

section
variable {c : Instr} {m off : Nat} {write : Bool} {g : State → State} {s r host : State}

/-- A row that is a checked access: granted it has the register's effect, denied it is a violation. -/
theorem register_row (hc : exec c s = .next (s.checked m off write g)) (hr : g s = r) :
    (Granted m off write s → exec c s = .next r) ∧ (Denied m off write s → exec c s = .next (s.refusedAccess m 1 off write)) :=
  ⟨fun h => hc.trans (congrArg _ ((checked_granted h).trans hr)), fun h => hc.trans (congrArg _ (checked_denied h))⟩

/-- One of a register that a host may not reach: a host's access comes to an outcome of its own. -/
theorem evcRegister_row (hc : exec c s = .next (if m < 16 then host else s.checked m off write g)) (hr : g s = r) :
    (m < 16 → exec c s = .next host) ∧ (16 ≤ m → (Granted m off write s → exec c s = .next r) ∧
      (Denied m off write s → exec c s = .next (s.refusedAccess m 1 off write))) :=
  ⟨fun h => hc.trans (congrArg _ (if_pos h)), fun h => register_row (hc.trans (congrArg _ (if_neg (Nat.not_lt.mpr h)))) hr⟩

end

/-! ### Steps of the counter (R286) -/

section
variable (h : Hal)

/-- What the counter reads after it was set to a time of whole seconds, nanoseconds and a fraction. -/
theorem Hal.setTotal_time {sec ns f : Nat} (hns : ns < 1000000000) (hf : f < 2 ^ 32) :
    let x := h.setTotal ((sec * 1000000000 + ns) * 2 ^ 32 + f)
    x.sec = sec ∧ x.ns = ns ∧ x.f = f := by
  have hdiv : ((sec * 1000000000 + ns) * 2 ^ 32 + f) / 2 ^ 32 = sec * 1000000000 + ns := by omega
  intro x
  have hsec : x.sec = ((sec * 1000000000 + ns) * 2 ^ 32 + f) / 2 ^ 32 / 1000000000 := by unfold x Hal.setTotal; rfl
  have hnano : x.ns = ((sec * 1000000000 + ns) * 2 ^ 32 + f) / 2 ^ 32 % 1000000000 := by unfold x Hal.setTotal; rfl
  have hfrac : x.f = ((sec * 1000000000 + ns) * 2 ^ 32 + f) % 2 ^ 32 := by unfold x Hal.setTotal; rfl
  rw [hdiv] at hsec hnano
  exact ⟨by omega, by omega, by omega⟩

/-- What a step leaves of the counter, and what it counts. -/
theorem Hal.stepped'_fields (x : Hal) :
    (h.stepped' x).sec = x.sec ∧ (h.stepped' x).ns = x.ns ∧ (h.stepped' x).f = x.f ∧ (h.stepped' x).inc = x.inc ∧
      (h.stepped' x).mode = x.mode ∧ (h.stepped' x).cntStep = h.cntStep + 1 ∧ (h.stepped' x).stepped = true :=
  ⟨rfl, rfl, rfl, rfl, rfl, rfl, rfl⟩

/-- The fraction that HAL_SET_* holds stays below one nanosecond. -/
theorem Hal.setFraction_lt : 2 ^ 16 * fld h.setHi 31 16 < 2 ^ 32 := by
  unfold fld
  omega

/-- A time that is set leaves the mode. -/
theorem Hal.setTotal_mode (t : Nat) : (h.setTotal t).mode = h.mode := rfl

/-- A step takes the value of HAL_SET_* and nothing of the rate. -/
theorem Hal.take_set (due : Nat) (hns : h.setNs.toNat ≤ 999999999) :
    let x := h.take { due := due, set := some h.target }
    x.sec = h.setLo.toNat + 2 ^ 32 * fld h.setHi 15 0 ∧ x.ns = h.setNs.toNat ∧ x.f = 2 ^ 16 * fld h.setHi 31 16 ∧
      x.cntStep = h.cntStep + 1 ∧ x.stepped = true ∧ x.inc = h.inc ∧ x.mode = h.mode := by
  intro x
  have hx : x = h.stepped' (h.setTotal h.target) := rfl
  obtain ⟨hsec, hnano, hfrac, hinc, hmode, hcnt, hdone⟩ := h.stepped'_fields (h.setTotal h.target)
  obtain ⟨tsec, tnano, tfrac⟩ := h.setTotal_time (sec := h.setLo.toNat + 2 ^ 32 * fld h.setHi 15 0)
    (Nat.lt_of_le_of_lt hns (by decide)) h.setFraction_lt
  rw [hx]
  exact ⟨hsec.trans tsec, hnano.trans tnano, hfrac.trans tfrac, hcnt, hdone, hinc.trans (h.setTotal_inc _), hmode.trans (h.setTotal_mode _)⟩

end

/-! ### Plinth's time (R342 to R344) -/

section
variable {s : State} {t : Nat} {step : Bool}

/-- How far an update lies from Plinth's counter, in ns. -/
def State.updateGap (s : State) (t : Nat) : Nat := if t < s.pnow then s.pnow - t else t - s.pnow

/-- Plinth's counter takes the time of an update. -/
def State.adoptTime (s : State) (t : Nat) : State := s.upPlinth fun x => { x with time := t * 2 ^ 32, updAt := t }

/-- An update whose check fails is counted. -/
theorem bridgeTime_discarded : s.bridgeTime t step false = s.upPlinth fun x => { x with cntBridge := x.cntBridge + 1 } := rfl

/-- Outside a free run one within 100 ns sets the counter. -/
theorem bridgeTime_near (hfree : s.plinth.freeRun = false) (hnear : s.updateGap t ≤ 100) :
    s.bridgeTime t step true = s.adoptTime t :=
  (if_neg (ne_true_of_eq_false hfree)).trans (if_pos hnear)

/-- One beyond that, without the step mark, is a fault. -/
theorem bridgeTime_far (hfree : s.plinth.freeRun = false) (hfar : 100 < s.updateGap t) :
    s.bridgeTime t false true = (s.upPlinth fun x => { x with updAt := s.pnow }).plnFault fltTime 3 0 :=
  (if_neg (ne_true_of_eq_false hfree)).trans ((if_neg (Nat.not_le.mpr hfar)).trans (if_neg Bool.false_ne_true))

/-- One with it steps Plinth, whose Maquette goes on at the next instant of its own period. -/
theorem bridgeTime_step (hfree : s.plinth.freeRun = false) (hfar : 100 < s.updateGap t) :
    (s.bridgeTime t true true).plinth =
      { (s.adoptTime t).plinth with maqNext := instantFrom 1000000 (s.plinth.par 6).toNat t } := by
  refine (congrArg State.plinth ((if_neg (ne_true_of_eq_false hfree)).trans
    ((if_neg (Nat.not_le.mpr hfar)).trans (if_pos rfl)))).trans ?_
  split <;> rfl

/-- A free run goes on past its limit where it has been reported, where there is none, and where no free run is. -/
theorem freeRunLimit_idle (h : s.plinth.freeRun = false ∨ s.plinth.freeSince = none ∨ s.plinth.params = none) :
    s.freeRunLimit = s := by
  unfold State.freeRunLimit
  split
  · rfl
  next since hsince =>
    refine if_neg ?_
    rcases h with h | h | h
    · simp [h]
    · simp [h] at hsince
    · simp [h]

/-- One that lasts free_max is a fault, and is reported once. -/
theorem freeRunLimit_reached {since : Nat} (hfree : s.plinth.freeRun = true) (hsince : s.plinth.freeSince = some since)
    (hpar : s.plinth.params.isSome = true) : s.freeRunLimit =
      ((s.passPln (since + fld (s.plinth.par 5) 15 0 * 1000000000)).upPlinth fun x => { x with freeSince := none }).plnFault
        fltTime 3 0 := by
  unfold State.freeRunLimit
  rw [hsince]
  exact if_pos ⟨hfree, hpar⟩

end

/-! ### Claims and copies (R287, R413) -/

section
variable {s : State}

/-- Copies that agree, or that do not run, change nothing. -/
theorem exec_copyCheck_agrees {agree : Bool} (h : agree = true ∨ s.halRuns = false) : exec (.copyCheck agree) s = .next s :=
  congrArg _ (if_pos (h.imp_right (by simp [·])))

/-- A copy that disagrees faults the die. -/
theorem exec_copyCheck_disagrees (h : s.halRuns = true) : exec (.copyCheck false) s =
    .next (((s.upHal fun h => { h with copyFail := true }).event 37).fault fltHalCopy 5 255 0 0) :=
  congrArg _ (if_neg (by simp [h]))

end

/-- Settles O51: the register rows by what the access table says, each update of Plinth's time by its distance, every other row
by its own branches. -/
theorem registersOfTimeAndEvents : Obligations.RegistersOfTimeAndEvents := by
  unfold Obligations.RegistersOfTimeAndEvents
  intro s m v fine agree step crcOk t k g reg evcReg mode ctrl stepped ctrlAns now far adopted late unw ur src claimed
  refine ⟨register_row rfl rfl, register_row rfl rfl, fun h due hns => h.take_set due hns, register_row rfl rfl,
    register_row rfl rfl, exec_copyCheck_agrees, fun ha hr => ?_, fun hc => ?_, fun hc hf hn => ?_, fun hc hf hn hs => ?_,
    fun hc hf hn hs => ?_, rfl, fun h => congrArg _ (freeRunLimit_idle h),
    fun since hf hs hp => congrArg _ (freeRunLimit_reached hf hs hp), evcRegister_row rfl ?_, evcRegister_row rfl rfl,
    evcRegister_row rfl rfl, register_row rfl rfl, evcRegister_row rfl rfl, rfl⟩
  · subst ha
    exact exec_copyCheck_disagrees hr
  · subst hc
    exact congrArg Host.Outcome.next bridgeTime_discarded
  · subst hc
    exact congrArg _ (bridgeTime_near hf hn)
  · subst hc hs
    exact congrArg _ (bridgeTime_far hf hn)
  · subst hc hs
    exact ⟨_, rfl, bridgeTime_step hf hn⟩
  · -- the claim, by whether a source can be delivered
    unfold State.evcClaim
    cases s.evc.choice k <;> rfl

end Sys2Proof.Machine
end

section
/-! PROOFS. Sail plans: loading, activation, retirement and unloading. -/

namespace Sys2Proof.Machine

/-! ### PLAN_LOAD (R305) -/

section
variable {k : Nat} {p : Packet} {s : State}

/-- An object in a state that the packet wants. -/
theorem needState_yes {code : Nat} {l : List Nat} {a : Ans} (h : l.contains code = true) : needState code l a = a := if_pos h

/-- One in another. -/
theorem needState_no {code : Nat} {l : List Nat} {a : Ans} (h : l.contains code = false) :
    needState code l a = .refuse stState (wd code) := if_neg (ne_true_of_eq_false h)

/-- The slot that a plan packet names. -/
abbrev Packet.planSlot (p : Packet) : Nat := p.f 4 3 0

/-- The context that the image of a PLAN_LOAD names. -/
def State.loadCtx (s : State) (p : Packet) : Nat := fld (s.rdW (p.va 5 + 12)) 7 0

/-- PLAN_LOAD stands behind a CLEAT_ALLOC of that context. -/
def State.loadWaits (s : State) (p : Packet) : Prop :=
  s.imageAt (p.va 5) 64 = true ∧ s.loadCtx p < 64 ∧ s.waitsFor p (s.loadCtx p) = true

/-- The plan that was built takes its slot of state `a`, with what the building made of memory and the command store. -/
def State.planLoaded (a : State) (p : Packet) (stored : Nat) (x : Plan) (t : State) (gap mw : Nat) : State :=
  (({ a with plans := Tab.set a.plans p.planSlot x, psmUse := t.psmUse, ctxs := t.ctxs, mem := t.mem, psmc := t.psmc
             store := t.store, cmdUse := t.cmdUse, free := a.draw.2.free } : State).freeCmds stored).closeNo p.hdr.no stOk
    { lo := sat32 gap, hi := wd mw }

/-- The answer to a PLAN_LOAD that stands behind none, by the checks of its image. -/
def State.loadAnswer (s : State) (p : Packet) : Ans :=
  match s.planBuild p (s.loadCtx p) with
  | .error r => .done s.draw.2 { d0 := r.2.1, d1 := r.2.2 } r.1
  | .ok (x, t, gap, mw) => .pend p.planSlot 0 0 fun a => a.planLoaded p (s.plan p.planSlot).stored x t gap mw

/-- A slot in use is refused with its state. -/
theorem planLoad_closed (ho : [0x50, 0x51].contains (s.plan p.planSlot).state = false) :
    planLoad p s = .refuse stState (wd (s.plan p.planSlot).state) := needState_no ho

section
variable (ho : [0x50, 0x51].contains (s.plan p.planSlot).state = true)
include ho

/-- A packet behind a CLEAT_ALLOC stays where it is. -/
theorem planLoad_waits (hw : s.loadWaits p) : planLoad p s = .hold := (needState_yes ho).trans (if_pos hw)

/-- Any other is answered by the checks of its image. -/
theorem planLoad_checks (hw : ¬ s.loadWaits p) : planLoad p s = s.loadAnswer p := (needState_yes ho).trans (if_neg hw)

end

/-- An image that fails its checks is refused as they say. -/
theorem loadAnswer_refused {r : Refuse} (hb : s.planBuild p (s.loadCtx p) = .error r) :
    s.loadAnswer p = .done s.draw.2 { d0 := r.2.1, d1 := r.2.2 } r.1 := by
  unfold State.loadAnswer
  rw [hb]

/-- One that passes them is accepted, and its plan loaded. -/
theorem loadAnswer_admitted {x : Plan} {t : State} {gap mw : Nat} (hb : s.planBuild p (s.loadCtx p) = .ok (x, t, gap, mw)) :
    s.loadAnswer p = .pend p.planSlot 0 0 fun a => a.planLoaded p (s.plan p.planSlot).stored x t gap mw := by
  unfold State.loadAnswer
  rw [hb]

/-! ### PLAN_ACTIVATE (R310) -/

/-- The start that PLAN_ACTIVATE asks for: its own in expert form, else the first period instant 1 ms ahead. -/
def State.planStartAt (s : State) (p : Packet) : Nat :=
  if p.hdr.expert then timeNs p.params 5 else (s.plan p.planSlot).firstAt (s.now + 1000000)

/-- An expert start that is no period instant 100 us ahead, or bits set beyond it. -/
def State.startAway (s : State) (p : Packet) : Bool :=
  p.hdr.expert && (decide (s.planStartAt p < s.now + 100000 ∨
    s.planStartAt p % max 1 (s.plan p.planSlot).period ≠ (s.plan p.planSlot).phase) || p.f 7 31 16 != 0)

/-- The plan ARMED for that start. -/
def State.planArmed (s : State) (p : Packet) : Plan :=
  { s.plan p.planSlot with
    state := 0x52, start := s.planStartAt p, count := 0, periodNs := s.planStartAt p, slackMin := 0xFFFFFFFF, movers := []
    ends := [], digests := [], launched := [] }

/-- The plan's context has been destroyed, or is being scrubbed. -/
def State.planGone (s : State) (p : Packet) : Bool :=
  !(s.ctx (s.plan p.planSlot).ctx).present || (s.ctx (s.plan p.planSlot).ctx).scrubbing

/-- The plans that run. -/
def State.runningPlans (s : State) : Nat := (planNos.filter fun i => (s.plan i).runs).length

/-- The answer to a PLAN_ACTIVATE by admission, which is asked again. -/
def State.armAnswer (s : State) (p : Packet) : Ans :=
  match s.admission p.planSlot (s.planArmed p) none with
  | .error r => .done s.draw.2 { d0 := r.2.1, d1 := r.2.2 } r.1
  | .ok _ => .pend p.planSlot 0 0 fun a => a.setPlan p.planSlot (s.planArmed p)

/-- PLAN_ACTIVATE, check by check (log 112 for a context that is gone). -/
theorem planActivate_eq : planActivate p s =
    needState (s.plan p.planSlot).state [0x51] (
      refuseIf (s.planGone p) stState (wd (s.plan p.planSlot).state) <|
      refuseIf (s.startAway p) stRange (det 5 0) <|
      if 4 ≤ s.runningPlans then .refuse stNospace 0 8 else s.armAnswer p) := rfl

/-- A plan that is not ADMITTED, or has lost its context, is refused with its state. -/
theorem planActivate_closed (h : (s.plan p.planSlot).state ≠ 0x51 ∨ s.planGone p = true) :
    planActivate p s = .refuse stState (wd (s.plan p.planSlot).state) := by
  rw [planActivate_eq]
  by_cases hq : (s.plan p.planSlot).state = 0x51
  · rw [needState_yes (by simp [hq]), refuse_yes (h.resolve_left (not_not.mpr hq))]
  · exact needState_no (by simpa using hq)

section
variable (hq : (s.plan p.planSlot).state = 0x51) (hgone : s.planGone p = false)
include hq hgone

/-- An ADMITTED plan with its context there: the start and the number of running plans are next. -/
theorem planActivate_open : planActivate p s = refuseIf (s.startAway p) stRange (det 5 0)
    (if 4 ≤ s.runningPlans then .refuse stNospace 0 8 else s.armAnswer p) := by
  rw [planActivate_eq, needState_yes (by simp [hq]), refuse_no hgone]

/-- A start that is no period instant ahead. -/
theorem planActivate_away (haway : s.startAway p = true) : planActivate p s = .refuse stRange (det 5 0) :=
  (planActivate_open hq hgone).trans (refuse_yes haway)

variable (haway : s.startAway p = false)
include haway

/-- A fifth plan. -/
theorem planActivate_fifth (hn : 4 ≤ s.runningPlans) : planActivate p s = .refuse stNospace 0 8 := by
  rw [planActivate_open hq hgone, refuse_no haway, if_pos hn]

/-- Up to four are answered by admission. -/
theorem planActivate_admits (hn : s.runningPlans < 4) : planActivate p s = s.armAnswer p := by
  rw [planActivate_open hq hgone, refuse_no haway, if_neg (Nat.not_le.mpr hn)]

end

/-- A plan that admission refuses now. -/
theorem armAnswer_refused {r : Refuse} (ha : s.admission p.planSlot (s.planArmed p) none = .error r) :
    s.armAnswer p = .done s.draw.2 { d0 := r.2.1, d1 := r.2.2 } r.1 := by
  unfold State.armAnswer
  rw [ha]

/-- One that it lets pass is ARMED. -/
theorem armAnswer_admitted {r : Nat × Nat} (ha : s.admission p.planSlot (s.planArmed p) none = .ok r) :
    s.armAnswer p = .pend p.planSlot 0 0 fun a => a.setPlan p.planSlot (s.planArmed p) := by
  unfold State.armAnswer
  rw [ha]

/-! ### PLAN_DEACTIVATE and PLAN_UNLOAD (R313, R314) -/

/-- PLAN_DEACTIVATE, by the plan's state: an ARMED plan is ADMITTED again and its PLAN_ACTIVATE ends as cancelled
(log 116), an ACTIVE one retires. -/
theorem planDeactivate_after :
    let slot := p.planSlot
    let q := s.plan slot
    let a := s.accepted k p slot 0 0
    s.after k p (planDeactivate p (s.without k)) =
      if q.state = 0x52 then
        ((a.setPlan slot { q with state := 0x51 }).closeOp 0x611 slot stFault { canc := true }).closeNo p.hdr.no stOk {}
      else if q.state = 0x53 then a.setPlan slot { q with state := 0x54 }
      else s.refusal k p stState (wd q.state) 0 := by
  intro slot q a
  have hstates : [0x52, 0x53].contains q.state = true ↔ q.state = 0x52 ∨ q.state = 0x53 := by simp
  change s.after k p (needState q.state [0x52, 0x53] (if q.state = 0x52 then .pend slot 0 0 _ else .pend slot 0 0 _)) = _
  rw [after_needState, after_ite]
  by_cases harm : q.state = 0x52
  · rw [if_pos harm, if_pos harm]
    exact if_pos (hstates.mpr (.inl harm))
  · rw [if_neg harm, if_neg harm]
    exact if_congr (hstates.trans (or_iff_right harm)) rfl rfl

end

/-- Settles O52: the load and the activation check by check, the others by the state of the plan. -/
theorem plansAreLoadedActivatedAndRetired : Obligations.PlansAreLoadedActivatedAndRetired := by
  unfold Obligations.PlansAreLoadedActivatedAndRetired
  intro k p s slot' u slot q c waits start away gone armed opened a refused
  refine ⟨fun h ho => runPacket_refuse h (planLoad_closed ho), fun h ho hw => runPacket_hold h (planLoad_waits ho hw),
    fun r h ho hw hb => ?_, fun x t gap mw h ho hw hb => ?_, fun h hq => runPacket_refuse h (planActivate_closed hq),
    fun h hq hg ha => runPacket_refuse h (planActivate_away hq hg ha),
    fun h hq hg ha hn => runPacket_refuse h (planActivate_fifth hq hg ha hn), fun r h hq hg ha hn hr => ?_,
    fun r h hq hg ha hn hr => ?_, rfl, fun h => runPacket_comes h planDeactivate_after, fun h => runPacket_comes h ?_⟩
  · exact runPacket_done h ((planLoad_checks (s := u) ho hw).trans (loadAnswer_refused hb))
  · exact runPacket_comes h (congrArg (s.after k p) ((planLoad_checks (s := u) ho hw).trans (loadAnswer_admitted hb)))
  · exact runPacket_done h ((planActivate_admits (s := u) hq hg ha hn).trans (armAnswer_refused hr))
  · exact runPacket_comes h (congrArg (s.after k p) ((planActivate_admits (s := u) hq hg ha hn).trans (armAnswer_admitted hr)))
  · -- PLAN_UNLOAD, the ADMITTED plan first
    exact (after_needOne ..).trans (ite_not ..)

end Sys2Proof.Machine
end

section
/-! PROOFS. The time-triggered test: online slices, test runs and the shut-down test, loop-backs and rotation. -/

namespace Sys2Proof.Machine

/-! ### Online slices (R321, R322, R453 to R457) -/

section
variable {s : State} {e : Nat}

/-- The interval of a rotated DP engine that is neither fenced nor under a slice ends: its slice is due. -/
theorem dpSliceDue_eq : s.dpSliceDue e =
    if s.tst.dpMask.getLsbD e = false ∨ s.tst.engines.getLsbD e = true ∨ (s.engine e).slice ≠ 0 then s
    else
      let v := s.passTo ((s.engine e).lastSlice + s.tst.interval * 1000000)
      v.upEngine e fun y => { y with slice := 1, sliceDp := true, sliceGuard := (v.guardFrom e v.now).getD 0 } :=
  if_congr (or_congr_left (Bool.not_eq_true _).to_iff) rfl rfl

/-- A slice on offer starts or is deferred: its engine is at rest, and no other engine runs one. -/
def State.sliceStarts (s : State) (e : Nat) : Prop :=
  (s.engine e).slice = 1 ∧ s.sliceReady e = true ∧ s.engines.any (fun q => q.1 != e && q.2.slice == 2) = false

/-- The guard instant of a slice that would start now: the earlier of the one held since it was offered and the next. -/
def State.sliceBound (s : State) (e : Nat) : Option Nat :=
  optMin (if (s.engine e).sliceGuard = 0 then none else some (s.engine e).sliceGuard) (s.guardFrom e s.now)

/-- A slice that started now could not end before its guard instant. -/
def State.sliceLate (s : State) (e : Nat) : Bool :=
  match s.sliceBound e with
  | some t => decide (t < s.now + sliceNs)
  | none => false

/-- The slice of the engine runs, to be aborted at its guard instant. -/
def State.sliceRunning (s : State) (e : Nat) : State :=
  (s.upEngine e fun y => { y with slice := 2, test := true, sliceGuard := (s.sliceBound e).getD 0 }).upTst fun y =>
    { y with slice := true, engine := e }

/-- No slice is on offer, the engine is not at rest, or another engine runs one. -/
theorem not_sliceStarts : ¬ s.sliceStarts e ↔
    (s.engine e).slice ≠ 1 ∨ ¬ s.sliceReady e = true ∨ s.engines.any (fun q => q.1 != e && q.2.slice == 2) = true := by
  rw [State.sliceStarts, not_and_or, not_and_or, Bool.not_eq_false]

theorem sliceStart_idle (h : ¬ s.sliceStarts e) : s.sliceStart e = s := if_pos (not_sliceStarts.mp h)

/-- A slice that would be late, or whose 20 W do not fit at Reef 3, is deferred (R321). -/
theorem sliceStart_starts (h : s.sliceStarts e) :
    s.sliceStart e = if s.sliceLate e = true ∨ (s.cpw.reef = 3 ∧ 70000 < s.cpw.power) then s.sliceDefer e else s.sliceRunning e :=
  if_neg fun hn => not_sliceStarts.mpr hn h

/-- What a slice that ends in time leaves before its signature is looked at (R454). -/
def State.sliceEnded (s : State) (e : Nat) : State :=
  (((s.sliceOver e).upEngine e fun y => { y with lastSlice := (s.sliceOver e).now, starveFrom := (s.sliceOver e).now }).upTst fun y =>
    { y with cntSlice := y.cntSlice + 1, nextSlice := Tab.set y.nextSlice e ((Tab.get 0 y.nextSlice e + 1) % 64) }).event (64 + 8 * e + 4)

theorem sliceEnd_idle {ok : Bool} (h : (s.engine e).slice ≠ 2) : s.sliceEnd e ok = s := if_pos h

section
variable {ok : Bool} (h : (s.engine e).slice = 2)
include h

/-- Its signature agrees, or the engine is fenced (R457). -/
theorem sliceEnd_intime (hg : (s.engine e).sliceGuard = 0 ∨ s.now ≤ (s.engine e).sliceGuard) :
    s.sliceEnd e ok = (if ok = true then s.sliceEnded e else (s.sliceEnded e).sliceFence e).schedule := by
  have hin : ¬ ((s.engine e).sliceGuard ≠ 0 ∧ (s.engine e).sliceGuard < s.now) := by omega
  exact (if_neg (not_not_intro h)).trans (if_neg hin)

/-- A slice whose guard instant has passed was aborted there. -/
theorem sliceEnd_past (h0 : (s.engine e).sliceGuard ≠ 0) (hlt : (s.engine e).sliceGuard < s.now) : s.sliceEnd e ok =
    ((((s.passTo (s.engine e).sliceGuard).upPlan (s.engine e).slicePlan fun q => { q with cntAbort := q.cntAbort + 1 }).sliceOver e).schedule) :=
  calc s.sliceEnd e ok
    _ = s.sliceAbort e := (if_neg (not_not_intro h)).trans (if_pos ⟨h0, hlt⟩)
    _ = _ := if_pos ⟨h, h0⟩

end

theorem testStarved_idle (h : s.slicesDue e = false) : s.testStarved e = s := if_pos (ne_true_of_eq_false h)

/-- A plan with a LIST point of the engine counts that the engine starved. -/
def countStarved (e : Nat) (q : Nat × Plan) : Nat × Plan :=
  if q.2.points.any (fun pt => ptKind pt == 1 && ptEngine pt == e) = true then (q.1, { q.2 with cntStarved := q.2.cntStarved + 1 }) else q

/-- The starvation is a fault, and counts in the plans (R322). -/
theorem testStarved_due (h : s.slicesDue e = true) :
    let t := s.passTo ((s.engine e).starveFrom + 100000000)
    let u := ((t.upEngine e fun y => { y with starveFrom := t.now }).fault fltTestStarved 0 255 e 0).event 353
    s.testStarved e = { u with plans := u.plans.map (countStarved e) } := if_neg (not_not_intro h)

end

/-! ### DEV_SHUTDOWN and TEST_RUN (R445, R450, R452) -/

section
variable {k : Nat} {p : Packet} {s : State}

/-- The life-cycle state closes the test functions. -/
theorem testOpen_closed : (!s.testOpen) = true ↔ s.sec.code < 1 ∨ 5 < s.sec.code := by
  unfold State.testOpen
  rw [Bool.not_eq_true', decide_eq_false_iff_not]
  omega

/-- DEV_SHUTDOWN: not while Plinth leads by policy with a plan running; else the run is listed, and the plans retire. -/
theorem shutBegin_after :
    let a := s.accepted k p 0 0 0
    s.after k p (shutBegin p (s.without k)) =
      if s.sec.code < 1 ∨ 5 < s.sec.code then s.refusal k p stState (wd s.sec.code) 0
      else if s.plinth.mode = mPolicy ∧ s.planRuns = true then s.refusal k p stState (wd s.dev) 0
      else
        let v : State := { a with tst := { a.tst with runs := a.tst.runs ++ [{ no := p.hdr.no, shut := true, todo := testList p }], phase := 1 } }
        (v.enterDev devShutdown).retirePlans.shutGo := by
  unfold shutBegin
  simp only [after_refuseIf, after_pend, testOpen_closed, Bool.and_eq_true, beq_iff_eq]
  rfl

/-- TEST_RUN: each block it lists is free, and no run has it already. -/
theorem testRun_after :
    let a := s.accepted k p 0 0 0
    s.after k p (testRun p (s.without k)) =
      if s.sec.code < 1 ∨ 5 < s.sec.code then s.refusal k p stState (wd s.sec.code) 0
      else if (testList p).any (s.without k).testHeld = true then s.refusal k p stState (wd s.dev) 0
      else if (testList p).any (fun i => s.tst.runs.any fun q => q.todo.contains i || q.active.contains i) = true then s.refusal k p stBusy 0 0
      else ({ a with tst := { a.tst with runs := a.tst.runs ++ [{ no := p.hdr.no, todo := testList p }] } } : State).testGo := by
  unfold testRun
  simp only [after_refuseIf, after_pend, testOpen_closed]
  rfl

end

/-! ### The end of a block (R444, R446, R447) -/

section
variable {s : State} {b : Nat} {ok : Bool} {dur loc : Nat} {sig : Word}

/-- The result of a block, at the time of Halyard. -/
def State.blockResult (s : State) (ok : Bool) (dur loc : Nat) (sig : Word) : TestRes :=
  { result := if ok then 1 else 2, dur := wd dur, whereLo := if ok then 0 else wd loc, whereHi := if ok then 0 else wd (loc / 2 ^ 32)
    time := (s.hal.words.getD 0 0, s.hal.words.getD 1 0, s.hal.words.getD 2 0), sig := sig }

/-- A run with the result of one of its blocks counted. -/
def TestRun.counted (r : TestRun) (b : Nat) (ok : Bool) (res : TestRes) : TestRun :=
  { r with active := r.active.filter (· ≠ b), passed := r.passed + if ok then 1 else 0, failed := r.failed + if ok then 0 else 1
           results := Tab.set r.results b res }

/-- The block is re-initialised, and its result stands in its run and among the latest. -/
def State.blockEnded (s : State) (r : TestRun) (b : Nat) (ok : Bool) (res : TestRes) : State :=
  (s.reinit b).upTst fun x =>
    { x with runs := x.runs.map fun q => if q.no = r.no then r.counted b ok res else q, latest := Tab.set x.latest b res }

theorem blockDone_none (h : s.tst.runs.find? (fun q => q.active.contains b) = none) : s.blockDone b ok dur loc sig = s := by
  unfold State.blockDone
  rw [h]

/-- After a TEST_RUN a block that failed is fenced, and what its power makes room for starts. -/
theorem blockDone_some {r : TestRun} (h : s.tst.runs.find? (fun q => q.active.contains b) = some r) :
    let done := s.blockEnded r b ok (s.blockResult ok dur loc sig)
    s.blockDone b ok dur loc sig = (if ok = true ∨ r.shut = true then done else done.fenceBlock b loc).testGo := by
  unfold State.blockDone
  rw [h]
  rfl

end

/-! ### LOOPBACK_SET and TEST_ROTATE_CFG (R456, R458, R459) -/

section
variable {p : Packet} {s : State}

/-- The slot of the loop-back that the packet's interface has. -/
def State.loopSlot (s : State) (p : Packet) : Option Nat :=
  [0, 1, 2, 3].find? fun j => (Tab.get ({} : LoopBack) s.tst.loops j).depth != 0 &&
    (Tab.get ({} : LoopBack) s.tst.loops j).iface == p.f 4 2 0 && (Tab.get ({} : LoopBack) s.tst.loops j).index == p.f 4 10 4

/-- The slot that the packet's loop-back takes: its interface's own, else the first free one. -/
def State.loopRoom (s : State) (p : Packet) : Option Nat :=
  (s.loopSlot p).or ([0, 1, 2, 3].find? fun j => (Tab.get ({} : LoopBack) s.tst.loops j).depth == 0)

/-- The loop-back that the packet asks for. -/
def Packet.loopBack (p : Packet) : LoopBack :=
  { iface := p.f 4 2 0, index := p.f 4 10 4, depth := p.f 4 14 12, pattern := p.f 4 17 16 }

/-- Test functions that the life-cycle state closes (R452). -/
theorem loopbackSet_closed (h : s.sec.code < 1 ∨ 5 < s.sec.code) : loopbackSet p s = .refuse stState (wd s.sec.code) :=
  refuse_yes (testOpen_closed.mpr h)

section
variable (ho : ¬ (s.sec.code < 1 ∨ 5 < s.sec.code))
include ho

/-- An end, of the interface's loop-back if there is one. -/
theorem loopbackSet_end (hd : p.f 4 14 12 = 0) : loopbackSet p s = match s.loopSlot p with
    | none => .refuse stState (wd s.dev)
    | some n => .done (s.draw.2.draw.2.upTst fun x => { x with loops := Tab.erase x.loops n }) { lo := s.draw.1, hi := s.draw.2.draw.1 } :=
  (refuse_no (eq_false_of_ne_true (mt testOpen_closed.mp ho))).trans (if_pos hd)

/-- A start, where the interface allows it and a slot is left. -/
theorem loopbackSet_start (hd : p.f 4 14 12 ≠ 0) : loopbackSet p s =
    refuseIf (!s.loopOpen (p.f 4 2 0) (p.f 4 10 4)) stState (wd s.dev) (match s.loopRoom p with
      | none => .refuse stNospace
      | some n => .done (s.upTst fun x => { x with loops := Tab.set x.loops n p.loopBack }) { lo := wd n }) :=
  (refuse_no (eq_false_of_ne_true (mt testOpen_closed.mp ho))).trans (if_neg hd)

theorem loopbackSet_endsNone (hd : p.f 4 14 12 = 0) (hu : s.loopSlot p = none) : loopbackSet p s = .refuse stState (wd s.dev) := by
  rw [loopbackSet_end ho hd, hu]

/-- What the loop-back has counted is free (R459): two words are drawn. -/
theorem loopbackSet_ends {n : Nat} (hd : p.f 4 14 12 = 0) (hu : s.loopSlot p = some n) : ∃ lo hi f, loopbackSet p s =
    .done { s with tst := { s.tst with loops := Tab.erase s.tst.loops n }, free := f } { lo := lo, hi := hi } := by
  refine ⟨s.draw.1, s.draw.2.draw.1, s.draw.2.draw.2.free, ?_⟩
  rw [loopbackSet_end ho hd, hu]
  rfl

/-- The interface is in use. -/
theorem loopbackSet_inUse (hd : p.f 4 14 12 ≠ 0) (hi : s.loopOpen (p.f 4 2 0) (p.f 4 10 4) = false) :
    loopbackSet p s = .refuse stState (wd s.dev) := by
  rw [loopbackSet_start ho hd, hi]
  rfl

/-- All four slots are taken. -/
theorem loopbackSet_full (hd : p.f 4 14 12 ≠ 0) (hi : s.loopOpen (p.f 4 2 0) (p.f 4 10 4) = true) (hr : s.loopRoom p = none) :
    loopbackSet p s = .refuse stNospace := by
  rw [loopbackSet_start ho hd, hi, hr]
  rfl

theorem loopbackSet_takes {n : Nat} (hd : p.f 4 14 12 ≠ 0) (hi : s.loopOpen (p.f 4 2 0) (p.f 4 10 4) = true) (hr : s.loopRoom p = some n) :
    loopbackSet p s = .done (s.upTst fun x => { x with loops := Tab.set x.loops n p.loopBack }) { lo := wd n } := by
  rw [loopbackSet_start ho hd, hi, hr]
  rfl

end

/-- The engine belongs to a DP partition. -/
def State.inDp (s : State) (i : Nat) : Bool :=
  match s.partOf i with
  | some q => !(s.part q).tt
  | none => false

/-- TEST_ROTATE_CFG: the mask names engines of DP partitions. -/
theorem testRotateCfg_after {k : Nat} :
    let u := s.without k
    s.after k p (testRotateCfg p u) =
      if (bitsOf 8 (p.f 4 7 0)).all s.inDp = false then s.refusal k p stState (wd s.dev) 0
      else ({ u with tst := { s.tst with dpMask := BitVec.ofNat 8 (p.f 4 7 0), interval := p.f 4 23 8 } } : State).final p.hdr stOk {} := by
  unfold testRotateCfg
  simp only [after_refuseIf, after_done, Bool.not_eq_true']
  rfl

end

/-- Settles O54: the slices by what starts and ends them, the runs and loop-backs by the refusals in their order. -/
theorem blocksAndEnginesAreTested : Obligations.BlocksAndEnginesAreTested := by
  unfold Obligations.BlocksAndEnginesAreTested
  intro k p s e ok b dur loc sig r n l u a x guard late starts deferred running aborted rest ended t starved bump blocks offered code closed
    down w res run again done used slot dp
  refine ⟨congrArg Host.Outcome.next dpSliceDue_eq,
    fun h => congrArg Host.Outcome.next (sliceStart_idle h),
    fun h => congrArg Host.Outcome.next (sliceStart_starts h),
    rfl,
    fun h => congrArg Host.Outcome.next (sliceEnd_idle h),
    fun h hg => congrArg Host.Outcome.next (sliceEnd_intime h hg),
    fun h h0 hlt => congrArg Host.Outcome.next (sliceEnd_past h h0 hlt),
    fun h => congrArg Host.Outcome.next (testStarved_idle h),
    fun h => congrArg Host.Outcome.next (testStarved_due h),
    fun h => runPacket_comes h shutBegin_after,
    fun h => runPacket_comes h testRun_after,
    fun h => congrArg Host.Outcome.next (blockDone_none h),
    fun h => congrArg Host.Outcome.next (blockDone_some h),
    fun h hc => runPacket_refuse h (loopbackSet_closed hc),
    fun h ho hd hu => runPacket_refuse h (loopbackSet_endsNone ho hd hu),
    fun h ho hd hu => ?_,
    fun h ho hd hi => runPacket_refuse h (loopbackSet_inUse ho hd hi),
    fun h ho hd hi hr => runPacket_refuse h (loopbackSet_full ho hd hi hr),
    fun h ho hd hi hr hl => ?_,
    fun h => runPacket_comes h testRotateCfg_after⟩
  · -- the end of a loop-back, with its free counts
    obtain ⟨lo, hi, f, hends⟩ := loopbackSet_ends (s := u) ho hd hu
    exact ⟨lo, hi, f, runPacket_done h hends⟩
  · -- the slot that a loop-back takes
    subst hl
    exact runPacket_done h (loopbackSet_takes (s := u) ho hd hi hr)

end Sys2Proof.Machine
end

section
/-! PROOFS. Plinth: its configuration objects, the requests of its mode, and its trace. -/

namespace Sys2Proof.Machine

/-- Plinth's check of a signature block does not look at the taken list. -/
@[simp] theorem without_plnSig {s : State} {k what : Nat} {blk : List Word} {body : List Byte} :
    (s.without k).plnSig blk what body = s.plnSig blk what body := rfl

/-! ### PLN_CONFIG (R43, R347) -/

/-- PLN_CONFIG is refused before the boot and while an object streams; else the object streams and the packet waits. -/
theorem plnConfig_after {s : State} {k : Nat} {p : Packet} (h : Applies 0x710 k p s) : execPlnConfig k s = .next (
    if s.plinth.booted = false then s.refusal k p stState (wd s.plinth.mode) 0
    else if s.plinth.staging.isSome then s.refusal k p stBusy 0 0
    else (s.held k p (p.f 4 2 0) 0 0).upPlinth fun x => { x with staging := some (p.f 4 2 0, p.params) }) := by
  refine runPacket_comes h ?_
  simp only [after_ite, after_refuse, after_late, Bool.not_eq_true]
  rfl

/-! ### The verification of an object in staging (R347, R348) -/

section
variable {s : State} {ob slot ctr : Nat} {ps : List Word}

/-- The staging area is free again. -/
def State.unstaged (s : State) : State := s.upPlinth fun x => { x with staging := none }

/-- The object that a packet's words name. -/
def State.objectBytes (s : State) (ps : List Word) : List Byte := s.rd (w64 (wat ps 1) (wat ps 2)) (wat ps 3).toNat

/-- An object without its signature block. -/
def objectBody (bs : List Byte) : List Byte := bs.take (bs.length - 80)

/-- The signature block at the end of an object. -/
def objectBlock (bs : List Byte) : List Word := wordsOf (bs.drop (bs.length - 80))

theorem configVerified_idle (h : s.plinth.staging = none) : s.configVerified = s := by
  unfold State.configVerified
  rw [h]

section
variable (h : s.plinth.staging = some (ob, ps))
include h

/-- An object that has no room for a signature block. -/
theorem configVerified_short (hl : (s.objectBytes ps).length < 80) : s.configVerified = s.unstaged.closeOp 0x710 ob stRange {} := by
  unfold State.configVerified
  rw [h]
  exact if_pos hl

/-- A longer one goes to the check of its signature and counter, then to the check of its mode and content. -/
theorem configVerified_long (hl : 80 ≤ (s.objectBytes ps).length) : s.configVerified =
    let t := s.unstaged
    let body := objectBody (s.objectBytes ps)
    let blk := objectBlock (s.objectBytes ps)
    match t.plnSig blk ob body with
    | none => t.closeOp 0x710 ob stAuth {}
    | some (slot, ctr) => match t.refuseObject ob body with
      | some r => t.closeOp 0x710 ob r.1 { d0 := r.2.1, d1 := r.2.2 }
      | none => ((t.accept 0x710 ob).plnCounter slot ctr).applyObject ob body blk := by
  unfold State.configVerified
  rw [h]
  exact if_neg (Nat.not_lt.mpr hl)

variable (hl : 80 ≤ (s.objectBytes ps).length)
include hl

theorem configVerified_unsigned (hs : s.unstaged.plnSig (objectBlock (s.objectBytes ps)) ob (objectBody (s.objectBytes ps)) = none) :
    s.configVerified = s.unstaged.closeOp 0x710 ob stAuth {} := by
  simp only [configVerified_long h hl, hs]

variable (hs : s.unstaged.plnSig (objectBlock (s.objectBytes ps)) ob (objectBody (s.objectBytes ps)) = some (slot, ctr))
include hs

/-- The counter of an object that is refused is not recorded. -/
theorem configVerified_refused {r : Refuse} (hr : s.unstaged.refuseObject ob (objectBody (s.objectBytes ps)) = some r) :
    s.configVerified = s.unstaged.closeOp 0x710 ob r.1 { d0 := r.2.1, d1 := r.2.2 } := by
  simp only [configVerified_long h hl, hs, hr]

theorem configVerified_applies (hr : s.unstaged.refuseObject ob (objectBody (s.objectBytes ps)) = none) :
    s.configVerified = ((s.unstaged.accept 0x710 ob).plnCounter slot ctr).applyObject ob (objectBody (s.objectBytes ps))
      (objectBlock (s.objectBytes ps)) := by
  simp only [configVerified_long h hl, hs, hr]

end

end

/-! ### PLN_MODE_SET (R345, R346) -/

/-- The modes from which a request is legal. -/
abbrev State.modeLegal (s : State) (m : Nat) : Prop :=
  (m = 0 ∧ s.plinth.mode = mMaq) ∨ (m = 1 ∧ s.plinth.mode = mPolicy) ∨
    (m = 2 ∧ (s.plinth.mode = mInit ∨ s.plinth.mode = mStop)) ∨ (m = 3 ∧ (s.plinth.mode = mPolicy ∨ s.plinth.mode = mMaq))

/-- What keeps a signed request out: no boot, the mode, or a condition of the mode asked for. -/
abbrev State.modeBarred (s : State) (m : Nat) : Prop :=
  s.plinth.booted = false ∨ ¬ s.modeLegal m ∨
    (m = 0 ∧ (s.actionPlan = none ∨ s.plinth.shadow.take 10 ≠ List.replicate 10 true)) ∨
    (m = 2 ∧ (s.allVerified = false ∨ s.plinth.persist ≠ 0))

section
variable {s : State} {k slot ctr : Nat} {p : Packet} (h : Applies 0x711 k p s)
include h

theorem plnModeSet_unsigned (hs : s.plnSig ((p.params.drop 1).take 20) 0 (wordBytes (p.w 4)) = none) :
    execPlnModeSet k s = .next (s.refusal k p stAuth 0 0) :=
  runPacket_refuse h (by simp only [without_plnSig, hs])

variable (hs : s.plnSig ((p.params.drop 1).take 20) 0 (wordBytes (p.w 4)) = some (slot, ctr))
include hs

/-- A signed request by its refusals in order. -/
theorem plnModeSet_signed : execPlnModeSet k s = .next (
    let m := p.f 4 2 0
    if s.modeBarred m then s.refusal k p stState (wd s.plinth.mode) 0
    else if s.plinth.modeReq.isSome ∨ s.plinth.restart = true then s.refusal k p stBusy 0 0
    else
      let asked := (s.accepted k p 0 m 0).plnCounter slot ctr
      if m = 2 then asked.upPlinth fun x => { x with restart := true, restartAt := asked.pnow }
      else asked.upPlinth fun x => { x with modeReq := some m }) := by
  refine runPacket_comes h ?_
  simp only [without_plnSig, hs, after_ite, after_refuse, after_pend]
  rw [← ite_or, ← ite_or]
  refine if_congr ?_ rfl rfl
  simp only [Bool.not_eq_true, Option.isNone_iff_eq_none, or_assoc]
  rfl

theorem plnModeSet_barred (hb : s.modeBarred (p.f 4 2 0)) : execPlnModeSet k s = .next (s.refusal k p stState (wd s.plinth.mode) 0) :=
  (plnModeSet_signed h hs).trans (congrArg _ (if_pos hb))

theorem plnModeSet_open (hb : ¬ s.modeBarred (p.f 4 2 0)) : execPlnModeSet k s = .next (
    if s.plinth.modeReq.isSome ∨ s.plinth.restart = true then s.refusal k p stBusy 0 0
    else
      let asked := (s.accepted k p 0 (p.f 4 2 0) 0).plnCounter slot ctr
      if p.f 4 2 0 = 2 then asked.upPlinth fun x => { x with restart := true, restartAt := asked.pnow }
      else asked.upPlinth fun x => { x with modeReq := some (p.f 4 2 0) }) :=
  (plnModeSet_signed h hs).trans (congrArg _ (if_neg hb))

end

/-! ### The trace (R338, R339) -/

section
variable {s : State} {k slot ctr : Nat} {p : Packet}

/-- The words of a TRIM_TRACE_CFG that its signature covers. -/
def Packet.traceWords (p : Packet) : List Word := p.params.take (3 + p.f 4 6 0)

/-- The signature block that follows them. -/
def Packet.traceBlock (p : Packet) : List Word := (p.params.drop (3 + p.f 4 6 0)).take 20

/-- A new capture as the packet says. -/
def Trim.armed (x : Trim) (p : Packet) : Trim :=
  { x with trace := 1, traceRecs := [], traceSeen := 0, traceLeft := none, traceFault := false
           traceCfg := { nodes := (p.params.drop 3).take (p.f 4 6 0), mode := p.f 4 8 7, trigger := p.f 4 11 9
                         decim := p.f 4 19 12, samples := p.f 5 14 0, pre := p.f 5 30 16, arg := (p.w 6).toNat } }

theorem trimTraceCfg_unsigned (h : Applies 0x712 k p s) (hs : s.plnSig p.traceBlock 7 (bytesOf p.traceWords) = none) :
    execTrimTraceCfg k s = .next (s.refusal k p stAuth 0 0) := by
  unfold Packet.traceBlock Packet.traceWords at hs
  exact runPacket_refuse h (by simp only [without_plnSig, hs])

/-- A signed one waits for no read in progress. -/
theorem trimTraceCfg_signed (h : Applies 0x712 k p s) (hs : s.plnSig p.traceBlock 7 (bytesOf p.traceWords) = some (slot, ctr)) :
    execTrimTraceCfg k s = .next (
      if s.trim.trace = 3 then s.refusal k p stBusy 0 0
      else (((s.without k).plnCounter slot ctr).upTrim fun x => x.armed p).final p.hdr stOk {}) := by
  unfold Packet.traceBlock Packet.traceWords at hs
  refine runPacket_comes h ?_
  simp only [without_plnSig, hs, after_ite, after_refuse, after_done]
  rfl

/-- TRIM_TRACE_READ: no capture is armed, no read goes on, and as many records are held as it asks for. -/
theorem trimTraceRead_after (h : Applies 0x702 k p s) : execTrimTraceRead k s = .next (
    if s.trim.trace = 1 then s.refusal k p stState (wd s.plinth.mode) 0
    else if s.trim.trace = 3 then s.refusal k p stBusy 0 0
    else if s.trim.traceRecs.length < p.f 6 14 0 then s.refusal k p stRange (det 6 0) 0
    else (s.accepted k p 0 s.trim.trace (p.f 6 14 0)).upTrim fun x => { x with trace := 3 }) := by
  refine runPacket_comes h ?_
  simp only [after_ite, after_refuse, after_pend]
  rfl

theorem trimTraceReadComplete_idle (h : s.openOf 0x702 0 = none) : execTrimTraceReadComplete s = .next s := by
  unfold execTrimTraceReadComplete
  rw [h]

/-- The records that a read moves, oldest first. -/
def State.tracesRead (s : State) (o : OpenReq) : List (List Word) := s.trim.traceRecs.reverse.take o.val2

theorem trimTraceReadComplete_open {o : OpenReq} (h : s.openOf 0x702 0 = some o) : execTrimTraceReadComplete s = .next (
    let recs := s.tracesRead o
    ((s.wrHost (w64 (wat o.params 0) (wat o.params 1)) (bytesOf recs.flatten)).upTrim fun x => { x with trace := o.val }).close o stOk
      { lo := wd recs.length, hi := wat (recs.headD []) 0 }) := by
  unfold execTrimTraceReadComplete
  rw [h]
  rfl

end

/-- Settles O55: each packet by its refusals in their order, the object in staging by what its verification finds. -/
theorem plinthIsConfiguredAndItsModesAsked : Obligations.PlinthIsConfiguredAndItsModesAsked := by
  unfold Obligations.PlinthIsConfiguredAndItsModesAsked
  intro k p s slot ctr r ps ob o x u m sig legal bars asked n tsig t bs body blk recs moved
  exact ⟨plnConfig_after,
    fun h => congrArg Host.Outcome.next (configVerified_idle h),
    fun h hl => congrArg Host.Outcome.next (configVerified_short h hl),
    fun h hl hs => congrArg Host.Outcome.next (configVerified_unsigned h hl hs),
    fun h hl hs hr => congrArg Host.Outcome.next (configVerified_refused h hl hs hr),
    fun h hl hs hr => congrArg Host.Outcome.next (configVerified_applies h hl hs hr),
    plnModeSet_unsigned,
    plnModeSet_barred,
    plnModeSet_open,
    rfl,
    rfl,
    trimTraceCfg_unsigned,
    fun h hs ht => (trimTraceCfg_signed h hs).trans (congrArg _ (if_pos ht)),
    fun h hs ht => (trimTraceCfg_signed h hs).trans (congrArg _ (if_neg ht)),
    trimTraceRead_after,
    trimTraceReadComplete_idle,
    trimTraceReadComplete_open⟩

end Sys2Proof.Machine
end

section
/-! PROOFS. Trim samples (R324 to R329) and Maquette steps (R353 to R357). -/

namespace Sys2Proof.Machine

/-! ### The sample instant (R327, R337) -/

/-- Without an image nothing falls due. -/
theorem trimInstant_idle {s : State} (h : s.trim.active.or s.trim.pend = none) : s.trimInstant = s :=
  if_pos (Option.isNone_iff_eq_none.mpr h)

/-! ### The start, the end and the deadline of a sample (R326, R327, R328, R329) -/

section
variable {s : State} {im : TrimImage} {run : TrimRun}

/-- Every frame that the sample awaits is there. -/
def State.framesThere (s : State) (im : TrimImage) (run : TrimRun) : Bool :=
  im.nodes.all fun n => (s.trim.frameFor im run.t n).isSome

section
variable (ha : s.trim.active = some im) (hr : s.trim.run = some run)
include ha hr

theorem trimSampleStart_run : execTrimSampleStart s = .next (
    if ¬ run.started = true ∧ s.framesThere im run = true then s.trimStart im run (decide (run.t < s.pnow)) else s) := by
  unfold execTrimSampleStart
  rw [ha, hr]
  rfl

theorem trimSampleStart_starts (hs : run.started = false) (hf : s.framesThere im run = true) :
    execTrimSampleStart s = .next (s.trimStart im run (decide (run.t < s.pnow))) :=
  (trimSampleStart_run ha hr).trans (congrArg _ (if_pos ⟨ne_true_of_eq_false hs, hf⟩))

/-- A sample that has started, or that still awaits a frame. -/
theorem trimSampleStart_waits (h : run.started = true ∨ s.framesThere im run = false) : execTrimSampleStart s = .next s := by
  refine (trimSampleStart_run ha hr).trans (congrArg _ (if_neg ?_))
  rintro ⟨hs, hf⟩
  obtain h | h := h
  · exact hs h
  · exact Bool.false_ne_true (h.symm.trans hf)

/-- The end of the wait starts a sample with the frames it has. -/
theorem trimWaitExpiry_run : execTrimWaitExpiry s = .next (
    if run.started = true then s else (s.passPln (run.t + im.wait)).trimStart im run (decide (0 < im.wait))) := by
  unfold execTrimWaitExpiry
  rw [ha, hr]

theorem trimSampleEnd_run : execTrimSampleEnd s = .next (if run.started = true then s.trimEnd im run else s) := by
  unfold execTrimSampleEnd
  rw [ha, hr]

/-- A late sample is FLT_DEADLINE, of class S0 where it is the third of ten (R329, R365). -/
theorem trimDeadlineExpiry_run : execTrimDeadlineExpiry s = .next (
    if run.late = true ∨ run.bad = true then s
    else
      let due := s.passPln (run.t + im.wait + 27000)
      let hist := (true :: due.plinth.deadHist).take 10
      ((due.upTrim fun x => { x with run := some { run with late := true } }).upPlinth fun x => { x with deadHist := hist }).plnFault
        fltDeadline (if 3 ≤ (hist.filter id).length then 4 else 0) 0) := by
  unfold execTrimDeadlineExpiry
  rw [ha, hr]

end

/-- Without a sample there is none to start, to end or to be late. -/
theorem trimSample_none (h : s.trim.run = none) : execTrimSampleStart s = .next s ∧ execTrimWaitExpiry s = .next s ∧
    execTrimSampleEnd s = .next s ∧ execTrimDeadlineExpiry s = .next s := by
  unfold execTrimSampleStart execTrimWaitExpiry execTrimSampleEnd execTrimDeadlineExpiry
  rw [h]
  cases s.trim.active <;> exact ⟨rfl, rfl, rfl, rfl⟩

end

/-! ### Maquette steps (R353, R355, R357) -/

section
variable {s : State} {im : TrimImage} {m : List Byte} {ps : List Word}

/-- depth_age, in ns: an older grid counts as zeros (R357). -/
def Plinth.depthAgeLim (x : Plinth) : Nat := fld (x.par 4) 15 0 * 1000000

/-- depth_stop, in ns: a grid that is older still stops the Maquette (R357). -/
def Plinth.depthStopLim (x : Plinth) : Nat := fld (x.par 4) 31 16 * 1000000

/-- The age of the grid at the step that falls due. -/
def Plinth.stepAge (x : Plinth) : Nat := x.gridAge x.maqNext

/-- The step that falls due takes zeros for its grid. -/
def Plinth.gridStale (x : Plinth) : Bool := x.grid.isNone || decide (x.depthAgeLim < x.stepAge)

/-- The codes of the measurements, for buffer 0. -/
def State.maqCodes (s : State) (im : TrimImage) (m : List Byte) : List Int :=
  (List.range im.ny).map fun i => match s.trim.latestMeas (wat im.meas i) with
    | none => 0
    | some v => mqCode v (wordAt m ((mqH m 3).toNat + 4 * i))

/-- The cells of the grid, for buffer 1. -/
def Plinth.maqCells (x : Plinth) (m : List Byte) : List Int :=
  match x.grid with
  | some g => if x.gridStale = true then List.replicate 4000 0
      else g.map fun d => min ((d.toNat / 2 ^ fld (mqH m 1) 3 0 : Nat) : Int) 127
  | none => List.replicate 4000 0

/-- The step that falls due runs on its two inputs, and the next one is a millisecond later. -/
def State.maqStep (s : State) (im : TrimImage) (m : List Byte) : State :=
  s.upPlinth fun x =>
    { x with maqRun := some (s.plinth.maqNext, s.maqCodes im m, s.plinth.maqCells m), maqNext := s.plinth.maqNext + 1000000
             depthAge := if x.grid.isNone = true then 0xFFFFFFFF else sat32 (s.plinth.stepAge / 1000) }

/-- A step instant: the step begins, and an aged grid is FLT_DEPTH_STALE. The state at the instant is a variable: the
kernel, comparing the two sides, would else compute `passPln` out and run too deep. -/
theorem maqStart_takes {due : State} (hd : s.passPln s.plinth.maqNext = due) (hp : s.plinth.params = some ps)
    (hm : s.plinth.model = some m) (ha : s.trim.active = some im) : s.maqStart =
      let step := due.maqStep im m
      if step.plinth.grid.isSome = true ∧ due.plinth.depthStopLim < due.plinth.stepAge then step.plnFault fltDepthStale 3 0
      else if step.plinth.grid.isSome = true ∧ due.plinth.depthAgeLim < due.plinth.stepAge then step.plnFault fltDepthStale 0 0
      else step := by
  unfold State.maqStart
  split
  next ps' m' im' hp' hm' ha' =>
    obtain rfl : m = m' := Option.some.inj (hm.symm.trans hm')
    obtain rfl : im = im' := Option.some.inj (ha.symm.trans ha')
    rw [hd]
    rfl
  next hne => exact absurd ha (hne _ _ _ hp hm)

/-- Without a model there is neither a step nor a known-answer test. -/
theorem maquette_none (hm : s.plinth.model = none) : s.maqStart = s ∧ s.maqKat = s := by
  unfold State.maqStart State.maqKat
  rw [hm]
  cases s.plinth.params <;> exact ⟨rfl, rfl⟩

/-! ### The end and the deadline of a step (R353, R355) -/

section
variable {t0 : Nat} {b0 b1 : List Int}

/-- No step runs any more. -/
def State.maqOver (s : State) : State := s.upPlinth fun x => { x with maqRun := none }

section
variable (hr : s.plinth.maqRun = some (t0, b0, b1)) (hm : s.plinth.model = some m) (ha : s.trim.active = some im)
include hr hm ha

theorem maqStepEnd_valid {r : MaqResult} (h : s.maqOver.maqResult im t0 (mqOut m (mqRun m b0 b1)) = some r) :
    execMaquetteStepEnd s = .next (s.maqOver.upPlinth fun x => { x with maq := some r }) := by
  unfold State.maqOver at h
  simp only [execMaquetteStepEnd, hr, hm, ha, h]
  rfl

theorem maqStepEnd_invalid (h : s.maqOver.maqResult im t0 (mqOut m (mqRun m b0 b1)) = none) :
    execMaquetteStepEnd s = .next (s.maqOver.plnFault fltMaquette 0 0) := by
  unfold State.maqOver at h
  simp only [execMaquetteStepEnd, hr, hm, ha, h]
  rfl

end

theorem maqDeadline_run (hr : s.plinth.maqRun = some (t0, b0, b1)) :
    execMaquetteDeadline s = .next ((s.passPln (t0 + 500000)).maqOver.plnFault fltDeadline 0 1) := by
  unfold execMaquetteDeadline
  rw [hr]
  rfl

/-- Without a step there is none to end or to be late. -/
theorem maqStep_none (hr : s.plinth.maqRun = none) : execMaquetteStepEnd s = .next s ∧ execMaquetteDeadline s = .next s := by
  unfold execMaquetteStepEnd execMaquetteDeadline
  rw [hr]
  exact ⟨rfl, rfl⟩

end

/-! ### The known-answer test (R356) -/

/-- The sums of the model on its known-answer input. -/
def katSums (m : List Byte) (im : TrimImage) : List Int :=
  mqRun m ((slice m (mqH m 6).toNat im.ny).map sByte) ((slice m ((mqH m 6).toNat + im.ny) 4000).map sByte)

/-- The test is due 100 ms after the last, and is held back by a step under way. -/
theorem maqKat_model (hm : s.plinth.model = some m) (ha : s.trim.active = some im) : s.maqKat =
    if s.plinth.maqRun.isSome = true then s
    else
      let due := s.passPln (s.plinth.katAt + 100000000)
      let tried := due.upPlinth fun x => { x with katAt := due.pnow }
      if crc32c ((katSums m im).flatMap fun i => natBytes 5 (i % 2 ^ 40).toNat) = mqH m 7 then tried else tried.plnFault fltMaquette 3 0 := by
  unfold State.maqKat
  rw [hm, ha]
  rfl

end

/-- Settles O56: the sample by its instants and its frames, the Maquette by its step and its test. -/
theorem trimAndTheMaquetteRun : Obligations.TrimAndTheMaquetteRun := by
  unfold Obligations.TrimAndTheMaquetteRun
  intro s im m run ps t0 b0 b1 r
  refine ⟨fun h => congrArg Host.Outcome.next (trimInstant_idle h),
    fun h hn => congrArg Host.Outcome.next (trimInstant_none s h hn),
    fun h ha => congrArg Host.Outcome.next (trimInstant_some s im h ha),
    trimSampleStart_starts,
    trimSampleStart_waits,
    trimWaitExpiry_run,
    fun ha hr => (trimSampleEnd_run ha hr).trans (congrArg _ (if_congr Iff.rfl (trimEnd_is s im run) rfl)),
    trimDeadlineExpiry_run,
    trimSample_none,
    fun hp hm ha => ?_,
    fun hr hm ha h => maqStepEnd_valid hr hm ha h,
    fun hr hm ha h => maqStepEnd_invalid hr hm ha h,
    maqDeadline_run,
    maqStep_none,
    fun hm ha => congrArg Host.Outcome.next (maqKat_model hm ha),
    fun hm => (maquette_none hm).imp (congrArg Host.Outcome.next) (congrArg Host.Outcome.next)⟩
  -- a step instant, the state at it a variable
  obtain ⟨due, hd⟩ : ∃ due, s.passPln s.plinth.maqNext = due := ⟨_, rfl⟩
  rw [hd]
  exact congrArg Host.Outcome.next (maqStart_takes hd hp hm ha)

end Sys2Proof.Machine
end

section
/-! PROOFS. Plinth's hardware faults, its outputs, its reset and its boot. -/

namespace Sys2Proof.Machine

/-! ### Faults of class S0 and S1 (R345, R361, R364) -/

section
variable {s : State}

/-- As time passes for Plinth, its counter alone changes of it. -/
theorem passPln_plinth (t : Nat) : (s.passPln t).plinth = { s.plinth with time := (s.passPln t).plinth.time } := by
  unfold State.passPln
  split
  · rw [pass_plinth]
  · rfl

theorem passPln_log (t : Nat) : (s.passPln t).plinth.log = s.plinth.log := by rw [passPln_plinth]

/-- Entering a mode leaves the note of a free run. -/
theorem plnMode_freeSince (m : Nat) : (s.plnMode m).plinth.freeSince = s.plinth.freeSince := by
  unfold State.plnMode
  split
  · rfl
  · simp only [State.event_frame]
    rfl

/-- Plinth leads a policy's or the Maquette's motion. -/
abbrev Plinth.leads (x : Plinth) : Prop := x.mode = mPolicy ∨ x.mode = mMaq

/-- A stop of class S1 asks for a ramp in POLICY_LED and MAQUETTE_LED, and drops what was asked of Plinth. -/
theorem plnS1_leads (h : s.plinth.leads) :
    s.plnS1.plinth.mode = mRamp ∧ s.plnS1.plinth.rampPend = true ∧ s.plnS1.plinth.rampK = 0 ∧ s.plnS1.plinth.inst = none ∧
      s.plnS1.plinth.next = none ∧ s.plnS1.plinth.modeReq = none ∧ s.plnS1.plinth.ss0 = s.plinth.ss0 ∧
      s.plnS1.plinth.ss1 = s.plinth.ss1 ∧ s.plnS1.plinth.log = s.plinth.log ∧ s.plnS1.plinth.freeSince = s.plinth.freeSince := by
  have hs : s.plnS1 = (s.upPlinth fun x => { x with next := none, rampPend := true, rampK := 0, inst := none }).dropModeReq.plnMode mRamp :=
    if_pos h
  obtain ⟨h0, h1, -, hpend, hk, hreq, -, hinst, hnext, hlog⟩ :=
    plnMode_keeps (s.upPlinth fun x => { x with next := none, rampPend := true, rampK := 0, inst := none }).dropModeReq mRamp
  rw [dropModeReq_plinth] at h0 h1 hpend hk hreq hinst hnext hlog
  rw [hs]
  refine ⟨plnMode_mode .., hpend, hk, hinst, hnext, hreq, h0, h1, hlog, ?_⟩
  rw [plnMode_freeSince, dropModeReq_plinth]
  rfl

/-- In another mode nothing follows. -/
theorem plnS1_stays (h : ¬ s.plinth.leads) : s.plnS1 = s := if_neg h

/-- The record of a fault, with the reading of Plinth's counter. -/
def recordAt (time code cls unit : Nat) : FaultRec :=
  { code := code, cls := cls, ctx := 255, unit := unit, sec := time / 2 ^ 32 / 1000000000, ns := time / 2 ^ 32 % 1000000000
    frac := time % 2 ^ 32 / 2 ^ 16, arg0 := 0, arg1 := 0, arg2 := 0 }

/-- A fault of class S1: its record, and the ramp of the modes that lead. -/
theorem plnFault_S1 (code : Nat) : ∃ v : State, s.plnFault code 3 0 = v.plnS1 ∧
    v.plinth = { s.plinth with log := s.plinth.log.add (recordAt s.plinth.time code 3 0) } :=
  ⟨(s.plnRecord code 3 255 0 0 0 0).twinCause code, rfl, by rw [twinCause_plinth, plnRecord_plinth]; rfl⟩

/-- A fault of class S0, by the time and the log that it finds. -/
theorem plnFault_S0_at {time : Nat} {log : FaultLog} (htime : s.plinth.time = time) (hlog : s.plinth.log = log) (code unit : Nat) :
    let t := s.plnFault code 4 unit
    t.plinth.mode = 0x84 ∧ t.plinth.ss0 = true ∧ t.plinth.ss1 = true ∧ t.plinth.pins = 0 ∧ t.plinth.rampPend = false ∧
      t.plinth.modeReq = none ∧ t.plinth.restart = false ∧ t.plinth.inst = none ∧ t.plinth.next = none ∧
      t.plinth.log = log.add (recordAt time code 4 unit) := by
  subst htime hlog
  exact plnFault_S0 s code unit

end

section
variable {s lim : State} {since : Nat} (hd : s.passPln (since + fld (s.plinth.par 5) 15 0 * 1000000000) = lim)
include hd

/-- What Plinth is as its free run reaches the limit: the fault is recorded, the note is gone, and the ramp is still to come. -/
theorem freeRun_recorded {v : State}
    (hv : v.plinth = { (lim.upPlinth fun x => { x with freeSince := none }).plinth with
      log := lim.plinth.log.add (recordAt lim.plinth.time fltTime 3 0) }) :
    v.plinth.log = s.plinth.log.add (recordAt lim.plinth.time fltTime 3 0) ∧ v.plinth.freeSince = none ∧
      v.plinth.mode = s.plinth.mode ∧ v.plinth.rampPend = s.plinth.rampPend ∧ v.plinth.ss0 = s.plinth.ss0 ∧
      v.plinth.ss1 = s.plinth.ss1 ∧ v.plinth.modeReq = s.plinth.modeReq := by
  have hlim : lim.plinth = { s.plinth with time := lim.plinth.time } := hd ▸ passPln_plinth _
  generalize lim.plinth.time = time at hv hlim ⊢
  rw [State.upPlinth_plinth, hlim] at hv
  rw [hv]
  exact ⟨rfl, rfl, rfl, rfl, rfl, rfl, rfl⟩

/-- A free run that has lasted free_max is a fault of class S1. -/
theorem exec_freeRunLimit_reached (hfree : s.plinth.freeRun = true) (hsince : s.plinth.freeSince = some since)
    (hpar : s.plinth.params.isSome = true) : ∃ v : State, exec .freeRunLimit s = .next v.plnS1 ∧
      v.plinth.log = s.plinth.log.add (recordAt lim.plinth.time fltTime 3 0) ∧ v.plinth.freeSince = none ∧
      v.plinth.mode = s.plinth.mode ∧ v.plinth.rampPend = s.plinth.rampPend ∧ v.plinth.ss0 = s.plinth.ss0 ∧
      v.plinth.ss1 = s.plinth.ss1 ∧ v.plinth.modeReq = s.plinth.modeReq := by
  obtain ⟨v, hv, hvp⟩ := plnFault_S1 (s := lim.upPlinth fun x => { x with freeSince := none }) fltTime
  refine ⟨v, ?_, freeRun_recorded hd hvp⟩
  have hrun := freeRunLimit_reached hfree hsince hpar
  rw [hd] at hrun
  exact congrArg Host.Outcome.next (hrun.trans hv)

end

/-! ### The grace of a ramp (R362) -/

/-- A ramp whose grace ends without standstill stops. -/
theorem exec_ss0GraceExpiry {s : State} : exec .ss0GraceExpiry s = .next (
    if s.plinth.mode = mRamp ∧ s.plinth.rampPend = false ∧ s.plinth.ss0 = false then
      (s.passPln (s.plinth.rampT0 + (fld (s.plinth.par 1) 15 0 + fld (s.plinth.par 1) 31 16) * 1000000)).ss0Stop.plnFault fltLimit 3 0
    else s) :=
  congrArg Host.Outcome.next (if_congr (by simp) rfl rfl)

/-! ### Test pulses (R363) -/

section
variable {s : State} {pin : Fin 4}

/-- The output of the pulse differs from its command, and is found to persist so. -/
def State.outputWrong (s : State) : State := s.upPlinth fun x => { x with persist := x.persist ||| 4 }

/-- That leaves the counter and the log. -/
theorem outputWrong_keeps : s.outputWrong.plinth.time = s.plinth.time ∧ s.outputWrong.plinth.log = s.plinth.log := ⟨rfl, rfl⟩

/-- What leaves the device leaves Plinth as it is. -/
theorem out_plinth (kind dest : Nat) (data : List Byte) : (s.out kind dest data).plinth = s.plinth := rfl

section
variable {due : State} (hd : s.passPln (s.pulseAt pin) = due)
  (h : s.plinth.params.isSome = true ∧ bit (s.plinth.par 0) 14 = true ∧ s.plinth.pins.getLsbD pin = true)
include hd h

/-- A pulse goes out at its instant. -/
theorem exec_testPulse_seen : exec (.testPulse pin true) s = .next (due.out 2 (16 + pin) []) := by
  refine (show exec (.testPulse pin true) s = execTestPulse pin true s from rfl).trans ?_
  unfold execTestPulse
  rw [if_pos h, hd]
  rfl

/-- One that is not seen is a fault of class S0. -/
theorem exec_testPulse_unseen :
    exec (.testPulse pin false) s = .next ((due.out 2 (16 + pin) []).outputWrong.plnFault fltSafeOutput 4 pin) := by
  refine (show exec (.testPulse pin false) s = execTestPulse pin false s from rfl).trans ?_
  unfold execTestPulse
  rw [if_pos h, hd]
  simp only [Bool.false_eq_true, if_false]
  rfl

end

end

/-! ### Plinth's reset (R466, R484) -/

section
variable {s : State}

/-- Cancelling requests leaves Plinth, its monitors and Trim. -/
theorem cancelOpens_frame (p : OpenReq → Bool) : (s.cancelOpens p).plinth = s.plinth ∧ (s.cancelOpens p).trim = s.trim ∧
    (s.cancelOpens p).monitors = s.monitors := by
  unfold State.cancelOpens
  generalize s.opens.filter p = l
  induction l generalizing s with
  | nil => exact ⟨rfl, rfl, rfl⟩
  | cons o l ih =>
    obtain ⟨hp, ht, hm⟩ := ih (s := s.close o stFault { canc := true })
    simp only [State.close_frame] at hp ht hm
    exact ⟨hp, ht, hm⟩

/-- Plinth is as new, but for its replay counters and that it waits for an image. -/
theorem plnReset_says : s.plnReset.plinth = { counters := s.plinth.counters, awaiting := true } ∧ s.plnReset.trim = {} ∧
    s.plnReset.monitors = [] := by
  unfold State.plnReset
  dsimp only
  split
  · exact cancelOpens_frame _
  · simp only [State.event_frame]
    exact cancelOpens_frame _

end

/-! ### Plinth's boot (R432, R435, R441) -/

section
variable {s : State} {manifest image key : List Byte}

/-- Plinth's checks of an image and its manifest. -/
def State.bootAccepts (s : State) (manifest image key : List Byte) : Bool :=
  match s.fwKey (fld (wordAt manifest 0) 6 5) with
  | none => false
  | some k => sha512 key == sha512 k && manifestOk manifest key 1 s.sec.svnP &&
      image.length == (wordAt manifest 8).toNat && sha512 image == slice manifest 64 64

theorem bootAccepts_iff : s.bootAccepts manifest image key = true ↔ ∃ k, s.fwKey (fld (wordAt manifest 0) 6 5) = some k ∧
    sha512 key = sha512 k ∧ manifestOk manifest key 1 s.sec.svnP = true ∧ image.length = (wordAt manifest 8).toNat ∧
      sha512 image = slice manifest 64 64 := by
  unfold State.bootAccepts
  cases hk : s.fwKey (fld (wordAt manifest 0) 6 5) with
  | none => simp
  | some k => simp [and_assoc]

/-- No image boots unless one is awaited, and none in Reef 4. -/
theorem exec_plinthBoot_idle (h : s.plinth.awaiting = false ∨ s.cpw.reef = 4) :
    exec (.plinthBoot manifest image key) s = .next s :=
  congrArg Host.Outcome.next (if_pos (h.imp_left (by simp [·])))

section
variable (ha : s.plinth.awaiting = true) (hr : s.cpw.reef ≠ 4)
include ha hr

/-- Where one is awaited, the checks decide. -/
theorem exec_plinthBoot_awaited : exec (.plinthBoot manifest image key) s = .next (
    if s.bootAccepts manifest image key then
      ({ s with
        plinth := { s.plinth with awaiting := false, booted := true }
        sec := { s.sec with verP := wordAt manifest 16, svnP := max s.sec.svnP (fld (wordAt manifest 12) 7 0), imgP := sha512 image } } : State).plnConfirm
        (wordAt manifest 16)
    else { s with plinth := { s.plinth with awaiting := false } }) :=
  congrArg Host.Outcome.next (if_neg (by simp [ha, hr]))

end

/-- A change of the store's record is written where no write is under way, to the bank that the record is not in. -/
theorem storePut_idle (hw : s.store.writing = none) (g : StoreRec → StoreRec) : s.storePut g =
    { s with store := { s.store with
      cur := g s.store.cur
      writing := some { g s.store.cur with seq := (g s.store.cur).seq + 1 }, again := false
      bank0 := if s.store.bank then none else s.store.bank0, bank1 := if s.store.bank then s.store.bank1 else none } } := by
  unfold State.storePut State.storeSave
  rw [if_neg (by simp [hw])]
  rfl

/-- With the core reset released and no write under way, the store takes a version above the highest of its record. -/
theorem plnConfirm_above {v : Word} (hheld : s.cpw.coreHeld = false) (hw : s.store.writing = none)
    (hv : s.store.cur.hiP.toNat < v.toNat) : s.plnConfirm v =
      { s with store := { s.store with
        cur := { s.store.cur with runP := v, hiP := v }
        writing := some { s.store.cur with runP := v, hiP := v, seq := s.store.cur.seq + 1 }, again := false
        bank0 := if s.store.bank then none else s.store.bank0, bank1 := if s.store.bank then s.store.bank1 else none } } := by
  have hload : ¬ (s.cpw.coreHeld = true ∧ s.store.writing.isNone = true) := by simp [hheld]
  have hnew : ¬ (s.store.cur.runP = v ∧ v.toNat ≤ s.store.cur.hiP.toNat) := fun h => absurd h.2 (by omega)
  unfold State.plnConfirm
  rw [if_neg hload]
  refine (if_neg hnew).trans ((storePut_idle hw _).trans ?_)
  simp only [if_pos hv]

end

/-- Settles O57: the faults of class S0 by `plnFault_S0`, that of class S1 by `plnS1_leads`, the others by their branches. -/
theorem safetyFaultsStopThePlinth : Obligations.SafetyFaultsStopThePlinth := by
  unfold Obligations.SafetyFaultsStopThePlinth
  intro s pin manifest image key y rec' stops pulse leads pulsed brake grace slot svn good
  -- the state at a pulse, a variable
  have hdue : s.passPln (s.pulseAt pin) = pulse := rfl
  clear_value pulse
  have hlogs : pulse.plinth.log = y.log := by rw [← hdue, passPln_log]
  refine ⟨⟨_, rfl, plnFault_S0 ..⟩, ⟨_, rfl, plnFault_S0 ..⟩, ⟨_, rfl, plnFault_S0 ..⟩, ⟨_, rfl, plnFault_S0 ..⟩,
    ⟨_, rfl, plnFault_S0 ..⟩, fun h => ⟨_, exec_testPulse_unseen hdue h, ?_⟩, exec_testPulse_seen hdue,
    fun h _ => congrArg Host.Outcome.next (if_neg h), rfl, fun since hf hs hp => ?_, rfl, exec_ss0GraceExpiry,
    ⟨_, rfl, ?_⟩, fun ha hr hg => ?_, fun v => plnConfirm_above, fun ha hr hg => ?_, exec_plinthBoot_idle, rfl⟩
  · -- a pulse that is not seen
    obtain ⟨htime, hlog⟩ := outputWrong_keeps (s := pulse.out 2 (16 + pin) [])
    rw [out_plinth] at htime hlog
    exact plnFault_S0_at htime (hlog.trans hlogs) fltSafeOutput pin
  · -- a free run that has lasted its limit
    generalize hd : s.passPln (since + fld (y.par 5) 15 0 * 1000000000) = lim
    obtain ⟨v, hv, hlog, hgone, hmode, hramp, hss0, hss1, hask⟩ := exec_freeRunLimit_reached hd hf hs hp
    refine ⟨_, hv, ?_⟩
    have hled : v.plinth.leads ↔ leads := by
      rw [Plinth.leads, hmode]
      exact Iff.rfl
    by_cases hl : v.plinth.leads
    · obtain ⟨hm, hpend, hk, hinst, hnext, hreq, h0, h1, hlogs, hsince⟩ := plnS1_leads hl
      exact ⟨hlogs.trans hlog, hsince.trans hgone, fun _ => ⟨hm, hpend, hk, hinst, hnext, hreq, h0.trans hss0, h1.trans hss1⟩,
        fun h => absurd (hled.mp hl) h⟩
    · rw [plnS1_stays hl]
      exact ⟨hlog, hgone, fun h => absurd (hled.mpr h) hl, fun _ => ⟨hmode, hramp, hss0, hss1, hask⟩⟩
  · obtain ⟨hp, ht, hm⟩ := plnReset_says (s := s)
    rw [hp]
    exact ⟨rfl, rfl, rfl, rfl, rfl, ht, hm⟩
  · exact (exec_plinthBoot_awaited ha hr).trans (congrArg Host.Outcome.next (if_pos (bootAccepts_iff.mpr hg)))
  · exact (exec_plinthBoot_awaited ha hr).trans (congrArg Host.Outcome.next (if_neg fun h => hg (bootAccepts_iff.mp h)))

end Sys2Proof.Machine
end

section
/-! PROOFS. A step of a queue that is not empty, and the scheduler's counters. -/

namespace Sys2Proof.Machine

/-- Settles O1: the queue is matched with its front and its rest. -/
theorem stepTakesFront : Obligations.StepTakesFront := by
  unfold Obligations.StepTakesFront
  intro c rest s hq
  unfold step
  rw [hq]

/-! ### The counters of a client (R391) -/

section
variable (s : State) (c : Fin 16) (i : Fin 3)

/-- Where the low word of a counter stands in its client's block. -/
def counterOff (i : Fin 3) : Nat := if i.val = 0 then 0 else if i.val = 1 then 8 else 0x14

/-- A client's counters in the order of their words. -/
def Client.count (x : Client) (i : Fin 3) : Nat :=
  if i.val = 0 then x.waitNs else if i.val = 1 then x.runNs else x.preemptedNs

theorem counterOff_lt : counterOff i < 0x20 := by decide +revert

theorem counterOff_aligned : counterOff i % 4 = 0 := by decide +revert

/-- A counter is found at its low word. -/
theorem schCounter_low : s.schCounter (0x100 + 0x40 * c.val + counterOff i) = some ((s.client c.val).count i) := by
  rw [schCounter_at s c (counterOff i) c.isLt (by have := counterOff_lt i; omega)]
  match i with
  | 0 | 1 | 2 => rfl

/-- None is found at its high word. -/
theorem schCounter_high : s.schCounter (0x100 + 0x40 * c.val + counterOff i + 4) = none := by
  rw [Nat.add_assoc, schCounter_at s c (counterOff i + 4) c.isLt (by have := counterOff_lt i; omega)]
  match i with
  | 0 | 1 | 2 => rfl

/-- A read of the low word latches the high one for its master. -/
theorem schGet_low (m : Nat) : s.schGet m (0x100 + 0x40 * c.val + counterOff i) =
    ({ s with
        sch := { s.sch with
          latch := Tab.set s.sch.latch (4096 * m + (0x100 + 0x40 * c.val + counterOff i) + 4)
            (wd ((s.client c.val).count i / 2 ^ 32)) } } : State).busWord (wd ((s.client c.val).count i)) := by
  unfold State.schGet
  rw [schCounter_low]

/-- A read of the high word finds what is latched for its master, or the present one. -/
theorem schGet_high (m : Nat) : s.schGet m (0x100 + 0x40 * c.val + counterOff i + 4) =
    s.busWord (Tab.get (wd ((s.client c.val).count i / 2 ^ 32)) s.sch.latch (4096 * m + (0x100 + 0x40 * c.val + counterOff i + 4))) := by
  unfold State.schGet
  rw [schCounter_high]
  dsimp only
  rw [if_pos (by omega), Nat.add_sub_cancel, schCounter_low]

end

/-- Settles O17: a granted read of either word by what the scheduler's registers answer. -/
theorem schCountersLatch : Obligations.SchCountersLatch := by
  unfold Obligations.SchCountersLatch
  intro m c i s x n o key
  have hoff := counterOff_lt i
  have halign := counterOff_aligned i
  have hc := c.isLt
  have ho : o = 0x100 + 0x40 * c.val + counterOff i := rfl
  constructor
  · intro hg
    exact congrArg Host.Outcome.next ((registerRead_sch s m o 0 (by omega) (by omega) hg).trans (schGet_low s c i m))
  · intro hg
    exact congrArg Host.Outcome.next ((registerRead_sch s m (o + 4) 0 (by omega) (by omega) hg).trans (schGet_high s c i m))

end Sys2Proof.Machine
end

section
/-! PROOFS. Suspensions of contexts: the two packets, and the end of a drain. -/

namespace Sys2Proof.Machine

/-! ### CTX_SUSPEND and CTX_RESUME (R388, R390) -/

section
variable {k : Nat} {p : Packet} {s : State}

/-- A suspension goes on: the issue of the context stops, and each engine drains or saves. -/
def State.suspendAll (s : State) (c : Nat) : State :=
  ((engNos.foldl (fun s e => s.suspendOn c e) (s.upCtx c fun x => { x with suspended := true })).suspendDone c).schedule

/-- CTX_SUSPEND of a context that is not open is refused, and so is that of a SAFETY context that a running plan uses. -/
theorem ctxSuspend_after : s.after k p (ctxSuspend p (s.without k)) =
    if ctxOpen.contains (s.ctxCode p.hdr.ctx) = false then s.refusal k p stState (wd (s.ctxCode p.hdr.ctx)) 0
    else if (s.ctx p.hdr.ctx).cls = 0 ∧ planNos.any (fun i => (s.plan i).runs && (s.plan i).ctx == p.hdr.ctx) = true then
      s.refusal k p stState (wd (s.ctxCode p.hdr.ctx)) 0
    else (s.accepted k p p.hdr.ctx 0 0).suspendAll p.hdr.ctx := by
  unfold ctxSuspend
  simp only [after_needNot, after_refuseIf, after_pend, Bool.and_eq_true, beq_iff_eq]
  rfl

/-- CTX_RESUME wants a suspended context, waits for the suspension's end, and takes the slots of a pinned context again. -/
theorem ctxResume_after : s.after k p (ctxResume p (s.without k)) =
    if [0x23].contains (s.ctxCode p.hdr.ctx) = false then s.refusal k p stState (wd (s.ctxCode p.hdr.ctx)) 0
    else if (s.openOf 0x112 p.hdr.ctx).isSome = true then s
    else if s.ctxTT p.hdr.ctx = true ∨ ¬ (s.ctx p.hdr.ctx).pinned = true then
      ((s.without k).upCtx p.hdr.ctx fun y => { y with suspended := false }).schedule.final p.hdr stOk {}
    else if (engNos.filter fun e => (s.ctx p.hdr.ctx).mask.getLsbD e).all (fun e => s.pinRoom false e) = false then
      s.refusal k p stNospace 0 0
    else ((engNos.filter fun e => (s.ctx p.hdr.ctx).mask.getLsbD e).foldl (fun s e => s.retake p.hdr.ctx e)
      ((s.without k).upCtx p.hdr.ctx fun y => { y with suspended := false })).schedule.final p.hdr stOk {} := by
  unfold ctxResume
  simp only [after_needNot, after_ite, after_hold, after_done, after_refuseIf, Bool.not_eq_true']
  rfl

end

/-! ### The end of a drain (R379, R383, R386) -/

section
variable {s : State} {e k d : Nat}

/-- A slot that holds no context, or does not drain, has no drain to end. -/
theorem saveDrained_idle (h : ((s.engine e).slot k).ctx = none ∨ ((s.engine e).slot k).draining = false) :
    s.saveDrained e k = s ∧ s.drainTimeout e k = s := by
  unfold State.saveDrained State.drainTimeout
  dsimp only
  cases hc : ((s.engine e).slot k).ctx with
  | none => exact ⟨rfl, rfl⟩
  | some d =>
    have hd : ¬ ((s.engine e).slot k).draining = true := by simpa [hc] using h
    exact ⟨if_pos (.inl hd), if_pos (.inl hd)⟩

section
variable (hc : ((s.engine e).slot k).ctx = some d) (hd : ((s.engine e).slot k).draining = true)
include hc hd

/-- A drain ends once the queue is at rest and the remote reads have landed; the copy begins as a mover is free. -/
theorem saveDrained_draining : s.saveDrained e k =
    if s.mustFinish e k = true ∨ s.readsDue d e = true then s
    else if s.ctxTT d = true then ((s.upSlot e k fun y => { y with draining := false, susp := false }).suspendDone d).schedule
    else match s.switchMover with
      | none => s
      | some m => ((s.upSlot e k fun y => { y with draining := false, saving := true, mover := some m }).sweep d e).schedule := by
  unfold State.saveDrained
  dsimp only
  rw [hc]
  exact if_congr (by simp [hd]) rfl rfl

/-- Remote reads that have not landed by their time are redirected. -/
theorem drainTimeout_draining : s.drainTimeout e k =
    if s.readsDue d e = false then s
    else
      let t := ((s.passTo ((((s.ctx d).saved.find? fun z => z.engine == e).map (·.since)).getD 0 + 200000)).upEngine e fun y =>
          { y with remotes := y.remotes.map fun r => if r.ctx = d then { r with redirect := true } else r }).upCtx d
        fun y => { y with saved := y.saved.map fun z => if z.engine = e then { z with remote := true } else z }
      ({ t with sch := { t.sch with remotes := t.sch.remotes + 1 } } : State).event 290 := by
  unfold State.drainTimeout
  dsimp only
  rw [hc]
  exact if_congr (by simp [hd]) rfl rfl

end

end

/-- Settles O30: each packet by its refusals in their order, each end of a drain by its slot. -/
theorem suspensionsSaveAndResume : Obligations.SuspensionsSaveAndResume := by
  unfold Obligations.SuspensionsSaveAndResume
  intro k p s e sl u c x engs a r slot
  exact ⟨fun h => runPacket_comes h ctxSuspend_after, fun h => runPacket_comes h ctxResume_after,
    fun h => (saveDrained_idle h).imp (congrArg Host.Outcome.next) (congrArg Host.Outcome.next),
    fun d hc hd => ⟨congrArg Host.Outcome.next (saveDrained_draining hc hd), congrArg Host.Outcome.next (drainTimeout_draining hc hd)⟩⟩

end Sys2Proof.Machine
end

section
/-! PROOFS. The end of a save's copy, and that of a restore's. -/

namespace Sys2Proof.Machine

/-! ### CONTEXT_SAVE_COMPLETE (R380 to R382) -/

section
variable (s : State) (e k c : Nat) (errs : List MemErr)

/-- The mover of a slot's copy. -/
def State.copyMover : Nat := ((s.engine e).slot k).mover.getD 0

/-- The words of the cleats to be saved are read. -/
def State.saveReads : State × Option Nat :=
  s.eccReads (mMover (s.copyMover e k)) c errs ((s.liveGroup c e).flatMap fun p => p.2.pieces e 0 (64 * p.2.size))

/-- The cleat images, in ascending handle, as they are found after the reads. -/
def State.saveImages (v : State) : List (Nat × Nat × List Byte) :=
  (imageOffs secImages (s.liveGroup c e)).map fun p => (p.1, p.2.1, v.clRd e p.2.1 0 (64 * p.2.2.size))

/-- The pieces of the section that are still to be written: the rows of the hold set, then the images. -/
def State.savePieces (v : State) : List (Nat × List Byte) :=
  ((((s.engine e).qs' k).hold.rows ++ (s.saveImages e c v).map fun p => (p.1, p.2.2)).flatMap fun p =>
    pagePieces ((v.ctx c).section e + p.1) p.2).drop ((s.engine e).slot k).moved

/-- They are written, as far as that goes. -/
def State.savePuts (v : State) : State × Nat × Put :=
  (v.walks (mMover (s.copyMover e k)) c errs true ((s.savePieces e k c v).map fun p => (p.1, p.2.length))).putSection c
    (s.copyMover e k) ((s.engine e).slot k).moved (s.savePieces e k c v)

/-- The group is out: its words are zero, its cleats SPILLED, its images and its queue noted, its slot free. -/
def State.saveOver (v w : State) : State :=
  let spilled := (s.liveGroup c e).foldl (fun w p => (w.vacate e p.2).setCleat e p.1 { p.2 with state := 2 }) w
  let noted := spilled.upCtx c fun y => { y with
    saves := y.saves + 1
    saved := y.saved.map fun z => if z.engine = e then { z with
      present := true
      images := (s.saveImages e c v).map fun p => ({ handle := p.2.1, off := p.1, crc := crc32c p.2.2 } : SaveImage)
      q := (s.engine e).qs' k } else z }
  (((noted.upEngine e fun y => { y.setSlot k {} with qs := Tab.erase y.qs k }).sweep c e).suspendDone c).schedule

end

section
variable {s : State} {e k c : Nat} {errs : List MemErr} {residue : List Nat}

/-- The residue of a row of a hold set does not compare (R121). -/
abbrev HoldSet.wrong (h : HoldSet) (residue : List Nat) : Prop :=
  h.held = true ∧ (residue.any fun i => decide (i < h.m)) = true

/-- A slot that saves nothing. -/
theorem saveDone_idle (h : ((s.engine e).slot k).ctx = none ∨ ((s.engine e).slot k).saving = false) :
    s.saveDone e k errs residue = s := by
  unfold State.saveDone
  dsimp only
  cases hc : ((s.engine e).slot k).ctx with
  | none => rfl
  | some c =>
    have hs : ¬ ((s.engine e).slot k).saving = true := by simpa [hc] using h
    exact if_pos (.inl hs)

section
variable (hc : ((s.engine e).slot k).ctx = some c)
include hc

/-- A save that a translation fault holds. -/
theorem saveDone_held (hh : s.switchHeld c e k = true) : s.saveDone e k errs residue = s := by
  unfold State.saveDone
  dsimp only
  rw [hc]
  exact if_pos (.inr hh)

variable (hs : ((s.engine e).slot k).saving = true) (hh : s.switchHeld c e k = false)
include hs hh

theorem saveDone_wrong (hw : ((s.engine e).qs' k).hold.wrong residue) : s.saveDone e k errs residue = s.stopAway c e fltResidue := by
  unfold State.saveDone
  dsimp only
  rw [hc]
  exact (if_neg (by simp [hs, hh])).trans (if_pos hw)

/-- A save that runs unhindered reads the group and writes the section. -/
theorem saveDone_copies (hw : ¬ ((s.engine e).qs' k).hold.wrong residue) : s.saveDone e k errs residue =
    match s.saveReads e k c errs with
    | (v, some _) => (v.fault fltMemUncorr 1 c (s.copyMover e k) 0).destroyCtx c
    | (v, none) => match s.savePuts e k c errs v with
      | (w, n, .miss f) => (w.upSlot e k fun y => { y with moved := n }).switchFault c e k (s.copyMover e k) true f
      | (w, _, .unc) => (w.fault fltMemUncorr 1 c (s.copyMover e k) 0).destroyCtx c
      | (w, _, .fin) => s.saveOver e k c v w := by
  unfold State.saveDone
  dsimp only
  rw [hc]
  exact (if_neg (by simp [hs, hh])).trans ((if_neg hw).trans rfl)

section
variable (hw : ¬ ((s.engine e).qs' k).hold.wrong residue) {v w : State} {n : Nat}
include hw

theorem saveDone_unread (hr : s.saveReads e k c errs = (v, some n)) :
    s.saveDone e k errs residue = (v.fault fltMemUncorr 1 c (s.copyMover e k) 0).destroyCtx c := by
  rw [saveDone_copies hc hs hh hw, hr]

variable (hr : s.saveReads e k c errs = (v, none))
include hr

theorem saveDone_missed {f : Xl} (hp : s.savePuts e k c errs v = (w, n, .miss f)) :
    s.saveDone e k errs residue = (w.upSlot e k fun y => { y with moved := n }).switchFault c e k (s.copyMover e k) true f := by
  rw [saveDone_copies hc hs hh hw, hr]
  dsimp only
  rw [hp]

theorem saveDone_unwritten (hp : s.savePuts e k c errs v = (w, n, .unc)) :
    s.saveDone e k errs residue = (w.fault fltMemUncorr 1 c (s.copyMover e k) 0).destroyCtx c := by
  rw [saveDone_copies hc hs hh hw, hr]
  dsimp only
  rw [hp]

theorem saveDone_over (hp : s.savePuts e k c errs v = (w, n, .fin)) : s.saveDone e k errs residue = s.saveOver e k c v w := by
  rw [saveDone_copies hc hs hh hw, hr]
  dsimp only
  rw [hp]

end

end

end

/-! ### CONTEXT_RESTORE_COMPLETE (R375, R380, R382, R386) -/

section
variable (s : State) (c g m : Nat) (errs : List MemErr) (z : Saved)

/-- The ranges of the section that a restore reads: images, remote reads that have landed, rows of the hold set. -/
def State.restoreWants : List (Nat × Nat) :=
  (z.images.map fun im => (im.off, 64 * (s.cleat g im.handle).size)) ++ (z.landed.map fun l => (4096 * l.1, l.2.2.2)) ++
    z.q.hold.rows.map fun r => (r.1, r.2.length)

/-- Their pieces, none across a page. -/
def State.restorePages : List (Nat × Nat) :=
  (s.restoreWants g z).flatMap fun w => pagesOf ((s.ctx c).section g + w.1) w.2

/-- The translations of the pieces are walked. -/
def State.restoreWalked : State := s.walks (mMover m) c errs false (s.restorePages c g z)

/-- The images stand as their CRC-32C says. -/
def Saved.imagesGood (z : Saved) (bs : List (List Byte)) : Bool :=
  (List.range z.images.length).all fun i => crc32c (bs.getD i []) == (z.images.getD i {}).crc

/-- The group is in: its cleats where they were placed, images and landed reads in them, and the context has the slot. -/
def State.restoreOver (v : State) (e k : Nat) (placed : List (Nat × Cleat)) (bs : List (List Byte)) (recs : List HoldRec) : State :=
  let a := v.followGroup c g e placed
  let b := (List.range z.images.length).foldl (fun s i => s.clWr e (z.images.getD i {}).handle 0 (bs.getD i [])) a
  let d := (List.range z.landed.length).foldl (fun s i =>
    s.clWr e (z.landed.getD i (0, 0, 0, 0)).2.1 (z.landed.getD i (0, 0, 0, 0)).2.2.1 (bs.getD (z.images.length + i) [])) b
  (d.restored e k c z (if z.q.hold.held = true then { z.q with hold := { z.q.hold with recs := recs } } else z.q)).schedule

end

section
variable {s : State} {e k c : Nat} {errs : List MemErr}

theorem restoreDone_idle (h : ((s.engine e).slot k).restoring = none) : s.restoreDone e k errs = s := by
  unfold State.restoreDone
  dsimp only
  rw [h]

/-- A restore without a mover takes a free one. -/
theorem restoreDone_starts (hc : ((s.engine e).slot k).restoring = some c) (hm : ((s.engine e).slot k).mover = none) :
    s.restoreDone e k errs = s.upSlot e k fun y => { y with mover := s.switchMover } := by
  unfold State.restoreDone
  dsimp only
  rw [hc, hm]

/-- A restore whose section is translated and read. -/
theorem restoreDone_reads {m : Nat} {z : Saved} {placed : List (Nat × Cleat)} {l : List (Nat × Nat)} {bs : List (List Byte)} {v : State}
    (hc : ((s.engine e).slot k).restoring = some c) (hm : ((s.engine e).slot k).mover = some m)
    (hz : s.savedOn c ((s.engine e).slot k).group = some z) (hh : s.switchHeld c e k = false)
    (hp : placeGroup ((s.engine e).occupied false) (s.group' c ((s.engine e).slot k).group) = some placed)
    (hx : (s.restoreWalked c ((s.engine e).slot k).group m errs z).xlates (some (mMover m)) c false
      (s.restorePages c ((s.engine e).slot k).group z) = .ok l)
    (hb : (s.restoreWalked c ((s.engine e).slot k).group m errs z).getSection c ((s.ctx c).section ((s.engine e).slot k).group) m
      (s.restoreWants ((s.engine e).slot k).group z) = .ok bs)
    (hr : (s.restoreWalked c ((s.engine e).slot k).group m errs z).eccReads (mMover m) c errs l = (v, none)) :
    s.restoreDone e k errs = match z.q.hold.reload (bs.drop (z.images.length + z.landed.length)) with
      | none => v.restoreBad c m
      | some recs => if z.imagesGood bs = false then v.restoreBad c m
        else State.restoreOver c ((s.engine e).slot k).group z v e k placed bs recs := by
  unfold State.restoreWalked State.restorePages State.restoreWants at hx hb hr
  unfold State.restoreDone
  dsimp only
  rw [hc, hm]
  dsimp only
  rw [hz]
  refine (if_neg (by simp [hh])).trans ?_
  rw [hp]
  dsimp only
  rw [hx, hb]
  dsimp only
  rw [hr]
  dsimp only
  cases z.q.hold.reload (bs.drop (z.images.length + z.landed.length)) with
  | none => rfl
  | some recs => exact if_congr (Bool.not_eq_true _).to_iff rfl rfl

end

/-- Settles O31: the ends of a save by `saveDone_copies`, those of a restore by `restoreDone_reads`. -/
theorem groupsAreSavedAndRestored : Obligations.GroupsAreSavedAndRestored := by
  unfold Obligations.GroupsAreSavedAndRestored
  intro s e k errs residue x m save group read hold images pieces put wrong want pages walked
  exact ⟨fun h => congrArg Host.Outcome.next (saveDone_idle h), fun h => congrArg Host.Outcome.next (restoreDone_idle h),
    fun c hc _ hh => congrArg Host.Outcome.next (saveDone_held hc hh),
    fun c hc hs hh hw => congrArg Host.Outcome.next (saveDone_wrong hc hs hh hw),
    fun c v n hc hs hh hw hr => congrArg Host.Outcome.next (saveDone_unread hc hs hh hw hr),
    fun c v w n f hc hs hh hw hr hp => congrArg Host.Outcome.next (saveDone_missed hc hs hh hw hr hp),
    fun c v w n hc hs hh hw hr hp => congrArg Host.Outcome.next (saveDone_unwritten hc hs hh hw hr hp),
    fun c v w n hc hs hh hw hr hp => congrArg Host.Outcome.next (saveDone_over hc hs hh hw hr hp),
    fun c hc hm => congrArg Host.Outcome.next (restoreDone_starts hc hm),
    fun c m z placed hc hm hz hh hp l bs v hx hb hr => congrArg Host.Outcome.next (restoreDone_reads hc hm hz hh hp hx hb hr)⟩

end Sys2Proof.Machine
end

section
/-! PROOFS. What the peer of the twin sends, and the loss of the link. -/

namespace Sys2Proof.Machine

/-! ### Completions of remote reads (R386, R395, R398) -/

section
variable (s : State) (e tag : Nat) (r : Remote) (data : List Byte) (replays : Nat)

/-- The frames replayed for a read are counted. -/
def State.replaysHeard : State := s.upTwin fun x => { x with cntReplay := x.cntReplay + wd replays }

/-- And its tag is free again. -/
def State.readLanded : State :=
  (s.replaysHeard replays).upEngine e fun x => { x with remotes := x.remotes.filter fun q => q.tag ≠ tag }

/-- A redirected read is counted, with its event. -/
def State.redirectHeard : State := (s.upTwin fun x => { x with cntRedirect := x.cntRedirect + 1 }).event 418

/-- Where the landing slot of a read stands, in the section of the saved group. -/
def State.landingPages : List (Nat × Nat) := pagesOf ((s.ctx r.ctx).section e + 4096 * tag) r.len

/-- The data goes to that slot, as its translation says. -/
def State.readRedirected : Except Xl (List (Nat × Nat)) → State
  | .error _ => s
  | .ok l =>
    if (s.eccPartials l).isSome = true then s.stopRemote e r fltMemUncorr
    else ((s.putPieces l (slice data 0 r.len)).upCtx r.ctx fun y => { y with saved := y.saved.map fun z =>
      if z.engine = e then { z with landed := z.landed ++ [(tag, r.h, r.off, r.len)] } else z }).schedule

end

section
variable {s : State} {e tag : Nat} {r : Remote} {data : List Byte} {replays : Nat}

/-- A completion for no outstanding read is late. -/
theorem remoteRead_late (h : ((s.engine e).remotes.find? fun r => r.tag == tag) = none) :
    s.remoteRead e tag data replays = (s.replaysHeard replays).upTwin fun x => { x with cntLate := x.cntLate + 1 } := by
  have h' : (((s.replaysHeard replays).engine e).remotes.find? fun r => r.tag == tag) = none := h
  unfold State.replaysHeard at h' ⊢
  unfold State.remoteRead
  dsimp only
  rw [h']

section
variable (h : ((s.engine e).remotes.find? fun r => r.tag == tag) = some r)
include h

/-- One for an outstanding read without data is an uncorrectable read of its job. -/
theorem remoteRead_empty (hd : data.isEmpty = true) :
    s.remoteRead e tag data replays = (s.readLanded e tag replays).stopRemote e r fltMemUncorr := by
  have h' : (((s.replaysHeard replays).engine e).remotes.find? fun r => r.tag == tag) = some r := h
  unfold State.readLanded
  unfold State.replaysHeard at h' ⊢
  unfold State.remoteRead
  dsimp only
  rw [h']
  exact if_pos hd

variable (hd : data.isEmpty = false)
include hd

/-- Its data goes to the scratchpad. -/
theorem remoteRead_lands (hr : r.redirect = false) :
    s.remoteRead e tag data replays = ((s.readLanded e tag replays).clWr e r.h r.off (slice data 0 r.len)).schedule := by
  have h' : (((s.replaysHeard replays).engine e).remotes.find? fun r => r.tag == tag) = some r := h
  unfold State.readLanded
  unfold State.replaysHeard at h' ⊢
  unfold State.remoteRead
  dsimp only
  rw [h']
  exact (if_neg (by simp [hd])).trans (if_neg (by simp [hr]))

/-- Or, redirected, to its landing slot; the state that counts it and the translation are named. -/
theorem remoteRead_redirected {a : State} {o : Except Xl (List (Nat × Nat))} (ha : (s.readLanded e tag replays).redirectHeard = a)
    (ho : a.xlates none r.ctx true (a.landingPages e tag r) = o) (hr : r.redirect = true) :
    s.remoteRead e tag data replays = a.readRedirected e tag r data o := by
  have h' : (((s.replaysHeard replays).engine e).remotes.find? fun r => r.tag == tag) = some r := h
  unfold State.redirectHeard State.readLanded at ha
  unfold State.replaysHeard at h' ha
  unfold State.landingPages at ho
  unfold State.remoteRead
  dsimp only
  rw [h']
  refine (if_neg (by simp [hd])).trans ((if_pos hr).trans ?_)
  rw [ha, ho]
  cases o <;> rfl

end

end

/-! ### The peer's accesses and its signals (R398, R399) -/

section
variable {s : State} {c va len peer : Nat}

theorem remoteAccess_unpaired {wr : Option (List Byte)} (hp : s.peerOf c = none) : s.remoteAccess c va len wr = s := by
  unfold State.remoteAccess
  rw [hp]

section
variable (hp : s.peerOf c = some peer)
include hp

/-- An access waits while a fault of the peer's stands in its context. -/
theorem remoteAccess_held {wr : Option (List Byte)} (hf : ((s.ctx c).faults.any fun f => f.job == peerJob) = true) :
    s.remoteAccess c va len wr = s := by
  unfold State.remoteAccess
  rw [hp]
  exact if_pos hf

variable (hf : ((s.ctx c).faults.any fun f => f.job == peerJob) = false)
include hf

/-- A posted write, by its translation. -/
theorem remoteAccess_write (bs : List Byte) : s.remoteAccess c va len (some bs) =
    match s.xlates none c true (pagesOf va bs.length) with
    | .ok l => if (s.eccPartials l).isSome = true then s.out 5 peer [] else s.putPieces l bs
    | .error (.miss v pr) => s.notice c (s.ctx c).hdr { va := v, write := true, prot := pr, mover := true, job := peerJob }
    | .error _ => s := by
  unfold State.remoteAccess
  rw [hp]
  refine (if_neg (by simp [hf])).trans ?_
  dsimp only
  cases s.xlates none c true (pagesOf va bs.length) with
  | ok l => rfl
  | error x => cases x <;> rfl

/-- A read, by its translation and by what the memory's code says of it. -/
theorem remoteAccess_read : s.remoteAccess c va len none =
    match s.xlates none c false (pagesOf va len) with
    | .ok l =>
      match s.eccReads mFe c [] l with
      | (t, some _) => t.out 5 peer []
      | (t, none) => t.out 5 peer (l.flatMap fun p => t.rd p.1 p.2)
    | .error (.miss v pr) => s.notice c (s.ctx c).hdr { va := v, write := false, prot := pr, mover := true, job := peerJob }
    | .error _ => s := by
  unfold State.remoteAccess
  rw [hp]
  refine (if_neg (by simp [hf])).trans ?_
  dsimp only
  cases s.xlates none c false (pagesOf va len) with
  | ok l => rfl
  | error x => cases x <;> rfl

end

variable {ctx : Fin 64} {fence : Fin 16} {set : Bool} {v : Word}

theorem exec_mirroredFenceSignal_unpaired (hp : s.peerOf ctx = none) : exec (.mirroredFenceSignal ctx fence set v) s = .next s :=
  congrArg Host.Outcome.next (if_pos (.inl (by rw [hp]; rfl)))

/-- A fence of a pair follows the peer's signal from F8 on. -/
theorem exec_mirroredFenceSignal_paired (hp : s.peerOf ctx = some peer) :
    exec (.mirroredFenceSignal ctx fence set v) s = .next (if fence.val < 8 then s
      else ((s.putFence ctx fence (fenceNext (s.fence ctx fence) set v).1).wake 200 ctx).schedule) :=
  congrArg Host.Outcome.next (if_congr (by simp [hp]) rfl rfl)

end

/-! ### The loss of the link (R395) -/

section
variable {s : State}

theorem shroudDown_idle (hu : s.twin.up = false) : s.shroudDown = s := if_pos (by simp [hu])

/-- The twin is LOST, its reads are abandoned, and what waits on mirrored fences stops. -/
theorem shroudDown_up (hu : s.twin.up = true) : s.shroudDown =
    ((if s.twin.state = twSplit then s.twin.pairs else []).foldl (fun t p => t.stopMirrors p.1)
      (((s.upTwin fun x => { x with up := false, lanes := 0, state := twLost }).fault fltTwinLost 0 255 0 0).event 416).abandonReads).schedule :=
  if_neg (by simp [hu])

end

/-- Settles O32: a completion by `remoteRead_lands`, an access by its translation, the others by their branches. -/
theorem thePeersMessagesTakeEffect : Obligations.ThePeersMessagesTakeEffect := by
  unfold Obligations.ThePeersMessagesTakeEffect
  intro s e tag link ctx va len wr fence set v ws read data heard gone
  refine ⟨fun h => congrArg Host.Outcome.next (remoteRead_late h),
    fun r h hd => congrArg Host.Outcome.next (remoteRead_empty h hd),
    fun r h hd hr => congrArg Host.Outcome.next (remoteRead_lands h hd hr), fun r h hd hr => ?_,
    fun hp => ⟨congrArg Host.Outcome.next (remoteAccess_unpaired hp), exec_mirroredFenceSignal_unpaired hp⟩,
    fun peer hp => ⟨exec_mirroredFenceSignal_paired hp, fun hf => congrArg Host.Outcome.next (remoteAccess_held hp hf),
      fun hf => ⟨fun bs l hx => ?_, fun bs w pr hx => ?_, fun w pr hx => ?_, fun l t hx hr => ?_⟩⟩,
    fun hu => congrArg Host.Outcome.next (shroudDown_idle hu), fun hu => congrArg Host.Outcome.next (shroudDown_up hu), rfl, rfl⟩
  · -- a redirected read, the state that counts it and the translation variables
    generalize ha : (gone.upTwin fun x => { x with cntRedirect := x.cntRedirect + 1 }).event 418 = a
    dsimp only
    generalize ho : a.xlates none r.ctx true (pagesOf ((a.ctx r.ctx).section e + 4096 * tag) r.len) = o
    refine congrArg Host.Outcome.next ((remoteRead_redirected h hd ha ho hr).trans ?_)
    cases o <;> rfl
  · refine congrArg Host.Outcome.next ((remoteAccess_write hp hf bs).trans ?_)
    rw [hx]
  · refine congrArg Host.Outcome.next ((remoteAccess_write hp hf bs).trans ?_)
    rw [hx]
  · refine congrArg Host.Outcome.next ((remoteAccess_read hp hf).trans ?_)
    rw [hx]
  · refine congrArg Host.Outcome.next ((remoteAccess_read hp hf).trans ?_)
    rw [hx]
    dsimp only
    rw [hr]

end Sys2Proof.Machine
end

section
/-! PROOFS. The twin's link, its modes, its heartbeats and a takeover. -/

namespace Sys2Proof.Machine

/-! ### The link (R394, R444) -/

section
variable {k : Nat} {p : Packet} {s : State}

/-- The twin trains for a TWIN_LINK_UP. -/
def State.trains (s : State) (p : Packet) : State := s.upTwin fun x =>
  { x with state := twTraining, side := p.f 4 0 0 == 1, peerKey := bytesOf ((p.params.drop 1).take 8)
           preset := if p.hdr.expert = true then p.f 13 3 0 else 0, boost := if p.hdr.expert = true then p.f 13 7 4 else 0 }

/-- The link may train: from DOWN, or from LOST with the link down, and not after it failed its test. -/
theorem exec_twinLinkUp (h : Applies 0x800 k p s) : exec (.twinLinkUp k) s = .next (
    if s.tst.shrFail = false ∧ (s.twin.state = twDown ∨ (s.twin.state = twLost ∧ s.twin.up = false)) then (s.accepted k p 0 0 0).trains p
    else s.refusal k p stState (wd s.twin.state) 0) := by
  refine runPacket_comes h ?_
  dsimp only
  simp only [after_ite, after_pend, after_refuse, Bool.not_eq_true]
  rfl

/-- The link is DOWN again. -/
def State.twinDown (s : State) : State := s.upTwin fun x => { x with state := twDown }

/-- Training ends by the lanes, the side and the proof of the peer. -/
theorem trainingEnd_eq (peer : PeerAuth) : s.trainingEnd peer =
    if s.twin.state ≠ twTraining then s
    else if peer.lanes ≠ 16 ∧ peer.lanes ≠ 8 then s.twinDown.closeOp 0x800 0 stFault { fault := fltLink }
    else if peer.side = s.twin.side ∨ peer.refused = true ∨ edVerify s.twin.peerKey peer.sig peer.nonce = false then
      s.twinDown.closeOp 0x800 0 stAuth {}
    else (s.upTwin fun x => { x with state := twInd, lanes := peer.lanes, up := true }).closeOp 0x800 0 stOk { lo := wd peer.lanes } := by
  unfold State.trainingEnd
  simp only [Bool.not_eq_true]
  rfl

end

/-! ### Modes (R396, R397, R408) -/

section
variable {k : Nat} {p : Packet} {s : State}

/-- A mode that is not legal is refused, and so is a second request; the first one waits for the peer's. -/
theorem exec_twinModeSet (h : Applies 0x801 k p s) : exec (.twinModeSet k) s = .next (
    if s.twinLegal (p.f 4 1 0) = false then s.refusal k p stState (wd s.twin.state) 0
    else if (s.openOf 0x801 0).isSome = true then s.refusal k p stBusy 0 0
    else ((s.accepted k p 0 0 0).upTwin fun x => { x with reqAt := (s.accepted k p 0 0 0).hal.nowNs }).twinTry) := by
  refine runPacket_comes h ?_
  simp only [after_ite, after_pend, after_refuse, Bool.not_eq_true]
  rfl

/-- The peer's request has arrived. -/
def State.peerAsked (s : State) (facts : PeerFacts) : State :=
  s.upTwin fun x => { x with peerReq := some facts, peerAt := s.hal.nowNs }

/-- The contexts that a request pairs, each with the peer's. -/
def askedPairs (o : OpenReq) : List (Nat × Nat) :=
  (List.range (fld (wat o.params 0) 11 8)).map fun i => (fld (wat o.params (1 + i)) 5 0, fld (wat o.params (1 + i)) 13 8)

theorem twinPeerModeRequest_alone {facts : PeerFacts} (ho : s.openOf 0x801 0 = none) : (s.peerAsked facts).twinTry = s.peerAsked facts :=
  twinTry_none _ ho

section
variable {facts : PeerFacts} {o : OpenReq} (ho : s.openOf 0x801 0 = some o)
include ho

/-- A request of the peer's that does not match the own one. -/
theorem twinPeerModeRequest_other (hm : reqMatch (fld (wat o.params 0) 1 0) (bit (wat o.params 0) 2) (askedPairs o) facts = false) :
    (s.peerAsked facts).twinTry = s.peerAsked facts := by
  refine (twinTry_some (s.peerAsked facts) o facts ho rfl).trans (if_neg ?_)
  rintro ⟨h, -⟩
  exact absurd (hm.symm.trans h) Bool.false_ne_true

/-- One that matches: both are there within the second. -/
theorem twinPeerModeRequest_matches (hm : reqMatch (fld (wat o.params 0) 1 0) (bit (wat o.params 0) 2) (askedPairs o) facts = true) :
    (s.peerAsked facts).twinTry = (s.peerAsked facts).twinEnter o facts :=
  (twinTry_some (s.peerAsked facts) o facts ho rfl).trans (if_pos ⟨hm, Nat.le_add_right _ _⟩)

end

section
variable (s : State) (o : OpenReq) (facts : PeerFacts)

/-- The peer's request is answered. -/
def State.peerMet : State := s.upTwin fun x => { x with peerReq := none }

/-- The conditions of R397 on the mode that a request asks for. -/
def State.modeFits : Bool :=
  if fld (wat o.params 0) 1 0 = 1 then s.shadowFit facts
  else if fld (wat o.params 0) 1 0 = 2 then !facts.unfit && (askedPairs o).all (fun q => s.splitFit q.1) else true

/-- The pair is in that mode. -/
def State.paired : State := s.upTwin fun x =>
  { x with state := twOfMode (fld (wat o.params 0) 1 0), pairs := if fld (wat o.params 0) 1 0 = 2 then askedPairs o else []
           role := if fld (wat o.params 0) 1 0 = 1 then bit (wat o.params 0) 2 else true, eligible := false, adopted := 0
           adoptedNow := false, prefixes := [], peerPrefixes := []
           peerMode := if fld (wat o.params 0) 1 0 = 1 then facts.plnMode else x.peerMode }

/-- With both requests there the mode changes where it is legal and its conditions hold. -/
theorem twinEnter_eq : s.twinEnter o facts =
    if s.peerMet.twinLegal (fld (wat o.params 0) 1 0) = false ∨ s.peerMet.modeFits o facts = false then
      s.peerMet.close o stState { d0 := wd s.peerMet.twin.state }
    else (s.peerMet.paired o facts).close o stOk {} := by
  unfold State.twinEnter
  simp only [Bool.not_eq_true]
  rfl

end

/-- A handover wants SHADOW, the ACTIVE role, an eligible peer and none under way. -/
theorem exec_twinHandover {elig : Bool} (h : Applies 0x803 k p s) : exec (.twinHandover k elig) s = .next (
    if s.twin.state = twShadow ∧ s.twin.role = true ∧ elig = true ∧ s.twin.handover = 0 then
      (s.accepted k p 0 0 0).upTwin fun x => { x with handover := 1 }
    else s.refusal k p stState (wd s.twin.state) 0) := by
  refine runPacket_comes h ?_
  rw [after_ite]
  rfl

end

/-! ### Tokens and state blocks (R402 to R405) -/

section
variable {s : State} {ws : List Word}

/-- A sign of the peer that is not good is counted. -/
def State.badSign (s : State) : State := s.upTwin fun x => { x with cntBad := x.cntBad + 1 }

theorem exec_heartbeatTokenReceive_bad (h : wat ws 7 ≠ crcWords (ws.take 7)) : exec (.heartbeatTokenReceive ws) s = .next s.badSign :=
  congrArg Host.Outcome.next (if_neg h)

/-- A good token is noted. -/
def State.tokenTaken (s : State) (ws : List Word) : State := s.upTwin fun x =>
  { x with token := some ws, peerMode := fld (wat ws 0) 15 8, rej := fld (wat ws 3) 17 0 }

/-- It says that the peer has stopped, and Plinth follows. -/
def State.stopMirrored (s : State) (ws : List Word) : State :=
  if bit (wat ws 0) 6 = true then s.mirrorStop (fld (wat ws 0) 15 8) else s

section
variable (h : wat ws 7 = crcWords (ws.take 7))
include h

theorem exec_heartbeatTokenReceive_active (hr : s.twin.role = true) : exec (.heartbeatTokenReceive ws) s = .next (s.tokenTaken ws) :=
  congrArg Host.Outcome.next ((if_pos h).trans (if_pos hr))

theorem exec_heartbeatTokenReceive_standby (hr : s.twin.role = false) : exec (.heartbeatTokenReceive ws) s =
    .next (((s.tokenTaken ws).stopMirrored ws).upTwin fun x =>
      { x with eligible := ((s.tokenTaken ws).stopMirrored ws).twinEligible, handover := if bit (wat ws 0) 5 = true then 3 else x.handover }) :=
  congrArg Host.Outcome.next ((if_pos h).trans (if_neg (by simpa using hr)))

end

/-- A state block ends with the CRC of what is before. -/
abbrev blockWhole (ws : List Word) : Prop := ws.length ≠ 0 ∧ wat ws (ws.length - 1) = crcWords (ws.take (ws.length - 1))

theorem not_blockWhole : ¬ blockWhole ws ↔ ws.length = 0 ∨ wat ws (ws.length - 1) ≠ crcWords (ws.take (ws.length - 1)) := by
  rw [blockWhole, not_and_or, not_not]

theorem exec_stateBlockReceive_bad (h : ¬ blockWhole ws) : exec (.stateBlockReceive ws) s = .next s.badSign :=
  congrArg Host.Outcome.next (if_pos (not_blockWhole.mp h))

/-- A whole block is adopted by the STANDBY whose dimensions it has. -/
theorem exec_stateBlockReceive_whole {im : TrimImage} (h : blockWhole ws) (ha : s.trim.active = some im) :
    exec (.stateBlockReceive ws) s = .next (
      if s.twin.role = false ∧ fld (wat ws 0) 7 0 = im.nx ∧ fld (wat ws 0) 15 8 = im.nu ∧ fld (wat ws 0) 22 16 = im.outNodes.length ∧
        ws.length = 2 + im.nx + im.nu + im.outNodes.length then s.adopt im ws
      else s) := by
  refine congrArg Host.Outcome.next ((if_neg fun hn => not_blockWhole.mpr hn h).trans ?_)
  rw [ha]
  exact if_congr (by simp) rfl rfl

end

/-! ### The check of the two signs (R403, R406) -/

section
variable {s t : State}

/-- As Plinth's time passes the twin stays as it is. -/
theorem passPln_twin (n : Nat) : (s.passPln n).twin = s.twin := by
  unfold State.passPln
  split
  · exact (congrArg State.twin pass_frame :)
  · rfl

/-- The check that is due has come. -/
def State.checkCome (t : State) : State := t.upTwin fun x => { x with hbAt := none }

/-- Without a check due nothing happens. -/
theorem heartbeatCheck_none (h : s.twin.hbAt = none) : s.heartbeatCheck = s := by
  unfold State.heartbeatCheck
  rw [h]

/-- A check that is due looks for the signs at its time. -/
theorem heartbeatCheck_due (h : s.twin.hbAt ≠ none) (ht : s.passPln (s.twin.hbAt.getD 0) = t) : s.heartbeatCheck = t.checkCome.heartbeatLook := by
  obtain ⟨n, hn⟩ := Option.ne_none_iff_exists'.mp h
  rw [hn] at ht
  unfold State.heartbeatCheck
  rw [hn]
  subst ht
  rfl

/-- The ACTIVE part looks for none. -/
theorem heartbeatLook_active (hr : s.twin.role = true) : s.heartbeatLook = s := if_pos hr

/-- The signs are taken. -/
def State.signsTaken (s : State) : State := s.upTwin fun x => { x with token := none, edge := false }

/-- One sign alone is a miss. -/
def State.signMissed (s : State) : State :=
  (s.upTwin fun x => { x with cntHbMiss := x.cntHbMiss + 1 }).plnFault fltTwinLost 0 0

/-- A token's CRC of the frames is compared with the own one, and the held frames are dropped. -/
def State.framesCompared (s : State) (tok : List Word) : State :=
  (if wat tok 2 = s.twin.frameCrc then s else s.upTwin fun x => { x with cntDiverge := x.cntDiverge + 1 }).upPlinth fun y =>
    { y with txHold := [] }

section
variable (hr : s.twin.role = false)
include hr

theorem heartbeatLook_noToken (ht : s.twin.token = none) : s.heartbeatLook =
    if s.twin.edge = true then s.signsTaken.signMissed
    else if s.signsTaken.twin.eligible = true then s.signsTaken.takeover else s.signsTaken := by
  refine (if_neg (by simp [hr])).trans ?_
  dsimp only
  rw [ht]
  cases s.twin.edge <;> rfl

theorem heartbeatLook_token {tok : List Word} (ht : s.twin.token = some tok) : s.heartbeatLook =
    if s.twin.edge = true then s.signsTaken.framesCompared tok else (s.signsTaken.framesCompared tok).signMissed := by
  refine (if_neg (by simp [hr])).trans ?_
  dsimp only
  rw [ht]
  cases s.twin.edge <;> rfl

end

section
variable (h : s.twin.hbAt ≠ none) (hd : s.passPln (s.twin.hbAt.getD 0) = t)
include hd

/-- At the check the twin is as before, but for what was due. -/
theorem checkCome_twin : t.checkCome.twin = { s.twin with hbAt := none } := by
  rw [State.checkCome, State.upTwin_twin, ← hd, passPln_twin]

include h

theorem heartbeatCheck_active (hr : s.twin.role = true) : s.heartbeatCheck = t.checkCome :=
  (heartbeatCheck_due h hd).trans (heartbeatLook_active (by rw [checkCome_twin hd]; exact hr))

/-- The STANDBY without a token misses it where the other sign came, and else takes over where it is eligible. -/
theorem heartbeatCheck_noToken (hr : s.twin.role = false) (hn : s.twin.token = none) : s.heartbeatCheck =
    if s.twin.edge = true then t.checkCome.signsTaken.signMissed
    else if t.checkCome.signsTaken.twin.eligible = true then t.checkCome.signsTaken.takeover else t.checkCome.signsTaken := by
  rw [heartbeatCheck_due h hd, heartbeatLook_noToken (by rw [checkCome_twin hd]; exact hr) (by rw [checkCome_twin hd]; exact hn)]
  exact if_congr (by rw [checkCome_twin hd]) rfl rfl

/-- With one it compares the frames, and misses the other sign where that did not come. -/
theorem heartbeatCheck_token {tok : List Word} (hr : s.twin.role = false) (ht : s.twin.token = some tok) : s.heartbeatCheck =
    if s.twin.edge = true then t.checkCome.signsTaken.framesCompared tok else (t.checkCome.signsTaken.framesCompared tok).signMissed := by
  rw [heartbeatCheck_due h hd, heartbeatLook_token (by rw [checkCome_twin hd]; exact hr) (by rw [checkCome_twin hd]; exact ht)]
  exact if_congr (by rw [checkCome_twin hd]) rfl rfl

end

end

/-- Settles O58: each packet by its refusals in their order, what the peer sends by whether it is good, a check by its two signs. -/
theorem theTwinTrainsPairsAndTakesOver : Obligations.TheTwinTrainsPairsAndTakesOver := by
  unfold Obligations.TheTwinTrainsPairsAndTakesOver
  intro k p s peer facts elig ws tok im o x legal a down asked waited w prs both fits paired bad taken mirrored whole own at' seen
    checked cleared missed released took
  -- the state at the check, a variable
  obtain ⟨due, hdue⟩ : ∃ due, s.passPln (x.hbAt.getD 0) = due := ⟨_, rfl⟩
  have hat : at' = due.checkCome := by rw [← hdue]; rfl
  clear_value at'
  subst hat
  exact ⟨exec_twinLinkUp, congrArg Host.Outcome.next (trainingEnd_eq peer), exec_twinModeSet,
    fun ho => congrArg Host.Outcome.next (twinPeerModeRequest_alone ho),
    fun ho hm => congrArg Host.Outcome.next (twinPeerModeRequest_other ho hm),
    fun ho hm => congrArg Host.Outcome.next ((twinPeerModeRequest_matches ho hm).trans (twinEnter_eq ..)), rfl, exec_twinHandover,
    exec_heartbeatTokenReceive_bad, exec_heartbeatTokenReceive_active, exec_heartbeatTokenReceive_standby,
    exec_stateBlockReceive_bad, exec_stateBlockReceive_whole, rfl,
    fun h => congrArg Host.Outcome.next (heartbeatCheck_none h),
    fun h hr => congrArg Host.Outcome.next (heartbeatCheck_active h hdue hr),
    fun h hr hn => congrArg Host.Outcome.next (heartbeatCheck_noToken h hdue hr hn),
    fun h hr ht => congrArg Host.Outcome.next (heartbeatCheck_token h hdue hr ht)⟩

end Sys2Proof.Machine
end

section
/-! PROOFS. The release of the core reset, its tries, ALIGN and the PLLs. -/

namespace Sys2Proof.Machine

/-! ### Boot (R430, R466) -/

section
variable {b : BootFacts} {s : State}

/-- The core island is powered, held in reset, its rail good and its store at rest. -/
abbrev State.awaitsBoot (s : State) : Prop :=
  s.cpw.coreOn = true ∧ s.cpw.coreHeld = true ∧ s.cpw.railBad = false ∧ s.store.writing = none

theorem not_awaitsBoot : ¬ s.awaitsBoot ↔
    ¬ s.cpw.coreOn = true ∨ ¬ s.cpw.coreHeld = true ∨ s.cpw.railBad = true ∨ s.store.writing.isSome = true := by
  rw [State.awaitsBoot, not_and_or, not_and_or, not_and_or, Bool.not_eq_false, ← ne_eq s.store.writing, Option.ne_none_iff_isSome]

/-- The reset is released: two more resets stand high, and the store is loaded. -/
def State.released (s : State) : State :=
  ({ s with cpw := { s.cpw with coreHeld := false, flashRst := true, ethRst := true } } : State).storeLoad

/-- The image of a slot is taken: its version and digest are noted, and the access table is loaded and locked. -/
def State.imageTaken (s : State) (b : BootFacts) (slot : Nat) (fb : Bool) : State :=
  let i := slotIdx 0 slot
  let m := (s.slotOf i).manifest
  s.upSec fun x =>
    { x with bootSlot := slot, fallback := fb, locked := true
             verC := if m.isEmpty then b.fwver else wordAt m 16
             imgC := sha512 (if m.isEmpty then Config.factoryImage i else s.slotImage i)
             table := b.table.map fun e =>
               (e.1 % 128, { base := e.2.1, space := e.2.2.1, limit := e.2.2.2.1
                             rmask := BitVec.ofNat 64 e.2.2.2.2.1, wmask := BitVec.ofNat 64 e.2.2.2.2.2 }) }

/-- It locks the table of the boot, and changes protection alone. -/
theorem imageTaken_says (slot : Nat) (fb : Bool) : (s.imageTaken b slot fb).sec.locked = true ∧
    (s.imageTaken b slot fb).sec.bootSlot = slot ∧ (s.imageTaken b slot fb).sec.fallback = fb ∧
    (s.imageTaken b slot fb).sec.table.map (·.1) = b.table.map (·.1 % 128) ∧ { s.imageTaken b slot fb with sec := s.sec } = s := by
  refine ⟨rfl, rfl, rfl, ?_, rfl⟩
  unfold State.imageTaken
  dsimp only
  rw [State.upSec_sec]
  exact List.map_map

/-- The device after that: faulted by a channel that failed its training, or READY with PSM zero. -/
def State.trainedBy (s : State) (b : BootFacts) : State :=
  match b.trainFail with
  | some q => ((s.upPsmc fun x => { x with trainFail := true, failChan := q.val }).event 259).enterDev devFaulted
  | none => ({ s with mem := s.mem.filter fun c => hostBase ≤ c.1 } : State).bootReady

theorem boot_idle (h : ¬ s.awaitsBoot) : s.boot b = s := if_pos (not_awaitsBoot.mp h)

section
variable (h : s.awaitsBoot)
include h

/-- A part that is not provisioned, or scrapped, boots no image. -/
theorem boot_unprovisioned (hl : s.released.sec.lc = 0 ∨ s.released.sec.lc = 6) : s.boot b = s.released :=
  (if_neg fun hn => not_awaitsBoot.mpr hn h).trans (if_pos hl)

/-- Another boots the image that is chosen, if there is one. -/
theorem boot_chooses (h0 : s.released.sec.lc ≠ 0) (h6 : s.released.sec.lc ≠ 6) {choice : Option (Nat × Bool)}
    (hc : s.released.bootChoice b = choice) : s.boot b = match choice with
      | none => s.released.upSec fun x => { x with noImage := true }
      | some (slot, fb) => (s.released.imageTaken b slot fb).trainedBy b := by
  refine (if_neg fun hn => not_awaitsBoot.mpr hn h).trans ((if_neg (by rintro (hl | hl); exacts [h0 hl, h6 hl])).trans ?_)
  unfold State.released at hc
  dsimp only [State.upCpw]
  rw [hc]
  cases choice <;> rfl

end

end

/-! ### Tries (R431) -/

section
variable {s : State}

/-- The store as a try that runs out finds it. -/
def State.triedStore (s : State) : State := if s.cpw.coreHeld then s.storeLoad else s

/-- A try that is over, or none. -/
theorem bootTimeout_idle (h : s.triedStore.store.cur.tries = 0 ∨ s.triedStore.hif.ready = true ∨ s.triedStore.cpw.coreOn = false ∨
    s.triedStore.dev ≠ devInit) : s.bootTimeout = s.triedStore :=
  if_pos (h.imp_right (Or.imp_right (Or.imp_left Bool.eq_false_iff.mp)))

/-- A try that runs out is counted, and the third one marks the slot. -/
theorem bootTimeout_counts (ht : s.triedStore.store.cur.tries ≠ 0) (hr : s.triedStore.hif.ready = false)
    (hon : s.triedStore.cpw.coreOn = true) (hd : s.triedStore.dev = devInit) : s.bootTimeout =
      ({ s.triedStore with cpw := { s.triedStore.cpw with coreHeld := true } } : State).storePut fun r =>
        if r.tries < 3 then { r with tries := r.tries + 1 }
        else { r with tries := 0, failA := r.failA || r.slotC == 0, failB := r.failB || r.slotC == 1 } := by
  refine if_neg ?_
  rintro (h | h | h | h)
  · exact ht h
  · exact Bool.false_ne_true (hr.symm.trans h)
  · exact h hon
  · exact h hd

end

/-! ### ALIGN and the PLLs (R462, R463) -/

section
variable {s : State} {pll : Nat}

theorem pllLost_idle (h7 : pll < 7) (h : s.cpw.coreOn = false ∨ s.cpw.coreHeld = true) : s.pllLost pll = s :=
  (if_neg (Nat.not_le.mpr h7)).trans (if_pos (h.imp_left (by simp [·])))

section
variable (h7 : pll < 7) (hon : s.cpw.coreOn = true) (hh : s.cpw.coreHeld = false)
include h7 hon hh

/-- A PLL of the running die names its domain: one of four for the first, which is free (log 133). -/
theorem pllLost_die : s.pllLost pll =
    if pll = 0 then (s.draw.2.upCpw fun x => { x with pllOk := false }).alignLost (1 + s.draw.1.toNat % 4)
    else (s.upCpw fun x => { x with pllOk := false }).alignLost (5 + pll) :=
  (if_neg (Nat.not_le.mpr h7)).trans (if_neg (by simp [hon, hh]))

end

end

/-- Settles O27: a boot by what is chosen, a try by what it finds, the others by their branches. -/
theorem bootStartsTheDevice : Obligations.BootStartsTheDevice := by
  unfold Obligations.BootStartsTheDevice
  intro b m v ok dom pll s held s1 lost
  refine ⟨fun h => congrArg Host.Outcome.next (boot_idle h), fun h hl => congrArg Host.Outcome.next (boot_unprovisioned h hl),
    fun h h0 h6 hc => congrArg Host.Outcome.next (boot_chooses h h0 h6 hc), fun slot fb h h0 h6 hc => ?_,
    ⟨fun h => congrArg Host.Outcome.next (bootTimeout_idle h), fun ht hr hon hd => congrArg Host.Outcome.next (bootTimeout_counts ht hr hon hd)⟩,
    fun h => congrArg Host.Outcome.next (checked_granted h), fun h => congrArg Host.Outcome.next (checked_denied h), ?_,
    fun h7 h => congrArg Host.Outcome.next (pllLost_idle h7 h),
    fun h0 h7 hon hh => congrArg Host.Outcome.next ((pllLost_die h7 hon hh).trans (if_neg (by omega))),
    fun h0 hon hh => ⟨1 + s.draw.1.toNat % 4, by omega, by omega, ?_⟩⟩
  · -- the image that is chosen
    obtain ⟨hlock, hslot, hfb, htable, hrest⟩ := imageTaken_says (s := s1) (b := b) slot fb
    refine ⟨s1.imageTaken b slot fb, hlock, hslot, hfb, htable, hrest, congrArg Host.Outcome.next ((boot_chooses h h0 h6 hc).trans ?_)⟩
    dsimp only [State.trainedBy]
    cases b.trainFail <;> rfl
  · -- an epoch
    refine congrArg Host.Outcome.next ?_
    cases ok <;> cases s.cpw.align <;> rfl
  · exact congrArg Host.Outcome.next ((pllLost_die (by omega) hon hh).trans (if_pos h0))

end Sys2Proof.Machine
end

section
/-! PROOFS. The power manager, the thermal levels and WAKE. -/

namespace Sys2Proof.Machine

/-! ### As time passes -/

section
variable (s : State) (n : Nat)

/-- The two counters' records alone change. -/
theorem passTo_frame : ({ s.passTo n with hal := s.hal, plinth := s.plinth } : State) = s := by
  unfold State.passTo
  split
  · exact pass_frame
  · rfl

theorem passTo_cpw : (s.passTo n).cpw = s.cpw := (congrArg State.cpw (passTo_frame s n) :)

theorem passTo_free : (s.passTo n).free = s.free := (congrArg State.free (passTo_frame s n) :)

end

/-! ### Updates of the power manager (R469 to R471) -/

section
variable (s : State) (power : Nat)

/-- The power and its peak are noted. -/
def State.powerNoted : State := s.upCpw fun x => { x with power := power, peak := max x.peak power }

/-- The scale after an update, with a free value. -/
def State.rescaled : State := s.draw.2.upCpw fun x => powerCpw power s.draw.1.toNat x

/-- The state that an update outside a ramp leaves to the scheduler. -/
def State.powerUpdated : State := (s.powerNoted power).rescaled power

theorem powerUpdated_cpw : (s.powerUpdated power).cpw =
    powerCpw power (Config.freeWord s.free).toNat { s.cpw with power := power, peak := max s.cpw.peak power } := rfl

theorem powerUpdated_free : (s.powerUpdated power).free = s.free + 1 := rfl

/-- It leaves the rest. -/
theorem powerUpdated_frame : ({ s.powerUpdated power with cpw := s.cpw, free := s.free } : State) = s := powerUpdate_frame ..

/-- What an update says of CPW: the power and its peak, the step of the scale, an overrun at scale 0. -/
theorem powerCpw_says (free : Nat) (x : Cpw) (hk : x.k ≤ 64) :
    let y := powerCpw power free { x with power := power, peak := max x.peak power }
    y.power = power ∧ y.peak = max x.peak power ∧ y.k ≤ 64 ∧ (x.reef = 3 → y.k = 0) ∧
      (x.reef ≠ 3 → y.k ≤ x.k + 4 ∧ x.k ≤ y.k + 4 ∧ (x.cap < power → y.k < x.k ∨ y.k = 0) ∧
        (¬ x.cap < power → power * 10 ≤ x.cap * 9 → x.k < y.k ∨ y.k = 64)) ∧
      (x.cap < power → x.k = 0 → x.overUs = 9 → y.cntOver = x.cntOver + 1 ∧ y.overUs = 0) := by
  obtain ⟨hmax, hreef, hstep⟩ := nextScale_says x.k x.reef power x.cap free hk
  exact ⟨rfl, rfl, hmax, hreef, hstep, powerCpw_over power free { x with power := power, peak := max x.peak power }⟩

/-- A ramp goes on by one update, or reaches its level. -/
def State.reefRamped : State :=
  if s.cpw.ramping then
    let s := s.upCpw fun x => { x with rampPos := x.rampPos + 1 }
    if s.cpw.rampLen ≤ s.cpw.rampPos then s.reefReached else s
  else s

theorem powerUpdate_eq : s.powerUpdate power = ((s.powerNoted power).reefRamped.rescaled power).schedule := rfl

theorem reefRamped_goesOn (hr : s.cpw.ramping = true) (hl : s.cpw.rampPos + 1 < s.cpw.rampLen) :
    s.reefRamped = s.upCpw fun x => { x with rampPos := x.rampPos + 1 } :=
  (if_pos hr).trans (if_neg (Nat.not_le.mpr hl))

/-- An update within a ramp advances it. -/
theorem powerUpdate_ramps (hr : s.cpw.ramping = true) (hl : s.cpw.rampPos + 1 < s.cpw.rampLen) :
    ∃ t : State, s.powerUpdate power = t.schedule ∧ t.cpw.rampPos = s.cpw.rampPos + 1 ∧ t.cpw.ramping = true := by
  rw [powerUpdate_eq, reefRamped_goesOn (s.powerNoted power) hr hl]
  exact ⟨_, rfl, rfl, hr⟩

end

/-! ### Temperatures (R474, R475) -/

section
variable (s : State) (t : Int)

/-- A thermal command finds T, as the hotter of two sensors; the rest of CPW stays. -/
theorem felt_says : ∃ cd psm pln : BitVec 12, s.felt t = { s with
      free := s.free + 2
      cpw := { s.cpw with temp := t, tempCd := cd, tempPsm := psm, tempPln := pln
                          throttle := decide (tjmax - 8 * s.cpw.throttleCfg ≤ t) || decide (0 < s.cpw.thermal) } } ∧
    (-2048 ≤ t → t < 2048 → max cd.toInt psm.toInt = t) :=
  ⟨_, _, _, rfl, fun h1 h2 => felt_max _ _ _ h1 h2⟩

end

section
variable {s : State} {t : Int}

/-- T stands at the throttle point. -/
abbrev Cpw.throttles (x : Cpw) (t : Int) : Prop := tjmax - 8 * x.throttleCfg ≤ t

/-- T stands below the warning point. -/
abbrev Cpw.cold (x : Cpw) (t : Int) : Prop := t < tjmax - 8 * x.warn

/-- A level of the thermal controller, with what its change sets. -/
def State.hotter (d : State) (x : Cpw) : State := { d with cpw := { d.cpw with
  cool := 0, throttle := true, thermal := min 3 (x.thermal + 1)
  cntThrottle := if x.thermal < 3 then x.cntThrottle + 1 else x.cntThrottle } }

section
variable {x : Cpw} (hx : s.cpw = x)

section
variable (hh : x.throttles t)
include hx hh

/-- At the throttle point the level rises; without the core island nothing follows. -/
theorem thermalTick_hot_off (hon : x.coreOn = false) : s.thermalTick t = ((s.felt t).hotter x).schedule := by
  subst hx
  refine (if_pos (decide_eq_true hh)).trans (congrArg State.schedule (if_neg ?_))
  rintro ⟨h, -⟩
  exact Bool.false_ne_true (hon.symm.trans h)

/-- With the core island on its Reef level follows. -/
theorem thermalTick_hot_on (hon : x.coreOn = true) (h4 : x.reef ≠ 4) (hr : x.ramping = false) : s.thermalTick t =
    (((s.felt t).hotter x).reefTo (max x.target (min 3 (x.thermal + 1)))).schedule := by
  subst hx
  refine (if_pos (decide_eq_true hh)).trans (congrArg State.schedule ((if_pos ⟨hon, h4⟩).trans ?_))
  refine congrArg (fun l => ((s.felt t).hotter s.cpw).reefTo (max l (min 3 (s.cpw.thermal + 1)))) (if_neg ?_)
  exact fun h => Bool.false_ne_true (hr.symm.trans h)

end

section
variable (hh : ¬ x.throttles t)
include hx hh

theorem thermalTick_warm (hc : ¬ x.cold t) :
    s.thermalTick t = { s.felt t with cpw := { (s.felt t).cpw with cool := 0 } } := by
  subst hx
  exact (if_neg (by simpa [Cpw.hotAt] using hh)).trans (if_neg hc)

variable (hc : x.cold t)
include hc

/-- Ticks below the warning point are counted. -/
theorem thermalTick_cools (hn : x.cool + 1 ≠ 10) :
    s.thermalTick t = { s.felt t with cpw := { (s.felt t).cpw with cool := x.cool + 1 } } := by
  subst hx
  exact (if_neg (by simpa [Cpw.hotAt] using hh)).trans ((if_pos hc).trans (if_neg hn))

/-- The tenth lowers the level. -/
theorem thermalTick_lowers (hn : x.cool + 1 = 10) (hon : x.coreOn = false) : s.thermalTick t =
    ({ s.felt t with cpw := { (s.felt t).cpw with
      cool := 0, thermal := x.thermal - 1, throttle := decide (1 < x.thermal) } } : State).schedule := by
  subst hx
  refine (if_neg (by simpa [Cpw.hotAt] using hh)).trans ((if_pos hc).trans ((if_pos hn).trans (congrArg State.schedule (if_neg ?_))))
  rintro ⟨h, -⟩
  exact Bool.false_ne_true (hon.symm.trans h)

end

end

/-- From the warning point on an event and a fault are raised. -/
theorem thermalWarn_eq : s.thermalWarn t = if s.cpw.cold t then s.felt t else ((s.felt t).event 385).fault fltThermal 0 255 0 0 := by
  by_cases hc : s.cpw.cold t
  · exact (if_neg (Int.not_le.mpr hc)).trans (if_pos hc).symm
  · exact (if_pos (Int.not_lt.mp hc)).trans (if_neg hc).symm

/-- Ten degrees above Tjmax the core island is off, with the fatal fault recorded. -/
theorem thermalOff_eq : s.thermalOff t = if s.cpw.coreOn = false ∨ t < tjmax + 80 then s.felt t
    else (((s.felt t).event 386).fault fltThermal 5 255 0 0).coreOff.upCpw fun x => { x with cause := setBit x.cause 4 true } :=
  if_congr (or_congr_left (by rw [Bool.not_eq_true]; exact Iff.rfl)) rfl rfl

end

/-- Settles O28: an update by the step of its scale, a tick by the temperature it finds, the others by their branches. -/
theorem powerAndTemperatureAreHeld : Obligations.PowerAndTemperatureAreHeld := by
  unfold Obligations.PowerAndTemperatureAreHeld
  refine ⟨fun power s hk hr => ?_, fun power s hr hl => ?_, ?_⟩
  · -- an update outside a ramp, the state at its tick a variable
    have hcpw := passTo_cpw s (s.tickAt 100000)
    have hfree := passTo_free s (s.tickAt 100000)
    refine ⟨(s.passTo (s.tickAt 100000)).powerUpdated power, congrArg Host.Outcome.next (powerUpdate_plain _ power (hcpw ▸ hr)), ?_⟩
    have hframe := powerUpdated_frame (s.passTo (s.tickAt 100000)) power
    have hf := powerUpdated_free (s.passTo (s.tickAt 100000)) power
    have hc := powerUpdated_cpw (s.passTo (s.tickAt 100000)) power
    generalize (s.passTo (s.tickAt 100000)).powerUpdated power = u at hframe hf hc ⊢
    generalize s.passTo (s.tickAt 100000) = due at hcpw hfree hframe hf hc ⊢
    rw [hfree] at hf hframe
    rw [hcpw] at hc hframe
    obtain ⟨hpow, hpeak, hmax, hreef, hstep, hover⟩ := powerCpw_says power (Config.freeWord due.free).toNat s.cpw hk
    rw [hc]
    exact ⟨hpow, hpeak, hf, hmax, hreef, hstep, hover, hframe⟩
  · have hcpw := passTo_cpw s (s.tickAt 100000)
    obtain ⟨t, ht, hpos, hramp⟩ := powerUpdate_ramps (s.passTo (s.tickAt 100000)) power (hcpw ▸ hr) (hcpw ▸ hl)
    exact ⟨t, congrArg Host.Outcome.next ht, hcpw ▸ hpos, hramp⟩
  · intro temp s x hot cold u d y
    -- the state at a tick, a variable
    obtain ⟨due, hdue⟩ : ∃ due, s.passTo (s.tickAt 100000000) = due := ⟨_, rfl⟩
    have hd : d = due.felt temp := by rw [← hdue]
    have hx : due.cpw = x := by rw [← hdue, passTo_cpw]
    have htick : exec (.thermalLevelTimer temp) s = .next (due.thermalTick temp) := by rw [← hdue]; rfl
    clear_value d
    subst hd
    have tick {v : State} (h : due.thermalTick temp = v) : exec (.thermalLevelTimer temp) s = .next v := htick.trans (congrArg _ h)
    exact ⟨felt_says s temp, fun hh hc hn => tick (thermalTick_cools hx hh hc hn), fun hh hc => tick (thermalTick_warm hx hh hc),
      fun hh hon => tick (thermalTick_hot_off hx hh hon), fun hh hon h4 hr => tick (thermalTick_hot_on hx hh hon h4 hr),
      fun hh hc hn hon => tick (thermalTick_lowers hx hh hc hn hon), congrArg Host.Outcome.next thermalWarn_eq,
      congrArg Host.Outcome.next thermalOff_eq, rfl⟩

end Sys2Proof.Machine
end
